-- ==== Sys2Proof/Word.lean ====
section
/-! DEFINITION. The word types of the model.  Registers and descriptors are words of 32 bits, memory holds bytes;
counts, indices and addresses are plain natural numbers. -/
namespace Sys2Proof

/-- A 32-bit register or descriptor word (R5, R6). -/
abbrev Word := BitVec 32

/-- One byte of a memory. -/
abbrev Byte := BitVec 8

end Sys2Proof
end

