-- ==== Sys2Proof/Syntax.lean ====
section
/-! DEFINITION. The commands the block takes, and the operand types they carry. -/
namespace Sys2Proof

/-- Who makes a register access (R47, R353): a PCIe function, a control core, the safety island's cores, the
checker-rotation controller of the island, or the debug access port. -/
inductive Ini
  | fn (n : Nat)
  | core (c : Nat)
  | island
  | rotation
  | dap
deriving DecidableEq, Repr

/-- What a memory read found (R377, R392): nothing, a corrected error, an uncorrectable error, or, for external
memory, an uncorrectable first read whose re-read was clean or corrected. -/
inductive Ecc
  | ok
  | corr
  | uncorr
  | rereadOk
  | rereadCorr
deriving DecidableEq, Repr

/-- How a transaction came back to its initiator: with the finding of the target memory, not in time, or denied because the
firewall's two evaluators disagreed (R359). -/
inductive Resp
  | ok
  | corr
  | uncorr
  | rereadOk
  | rereadCorr
  | timeout
  | clash
deriving DecidableEq, Repr

/-- Which 64-byte transaction of a transfer met trouble, and how its first and its second attempt came back.  All
other transactions of the transfer are answered in time and clean. -/
structure Hit where
  idx : Nat
  r1 : Resp
  r2 : Resp
deriving DecidableEq, Repr

/-- How a read came back, and the trouble that the writes meet which its data causes. -/
structure Back where
  r : Resp
  w : Hit
deriving DecidableEq, Repr

/-- The one transaction of a command that met trouble, named by an address in its 64-byte line, and how it came back; all
others are answered in time and clean. -/
structure Spot where
  addr : Nat
  r : Resp
deriving DecidableEq, Repr

/-- A sum of products, coefficient and value for each term, that a faulty datapath formed as `sum` (R134). -/
structure SumErr where
  terms : List (Int × Int)
  sum : Int
deriving DecidableEq, Repr

/-- What befell a unit while it was computed: sums that came out wrong, and on an LVU a parity error of a ROM entry or a
disagreement of the duplicated converters (R252). -/
structure UnitErr where
  sums : List SumErr
  rom : Bool
deriving DecidableEq, Repr

/-- A sum of products of an ISP pipe that the datapath formed as `sum` (R110): in the test block or the image, its step,
the row of its matrix, and its pixel. -/
structure SumAt where
  block : Bool
  step : Nat
  row : Nat
  x : Nat
  y : Nat
  sum : Int
deriving DecidableEq, Repr

/-- What befell a pipe while it processed a frame: sums that came out wrong, and an access that met trouble. -/
structure IspFind where
  sums : List SumAt
  spot : Spot
deriving DecidableEq, Repr

/-- How a CSI-2 packet header arrived (R61): clean, with one corrected bit, or uncorrectable. -/
inductive Hdr
  | ok
  | one
  | bad
deriving DecidableEq, Repr

/-- What a control core does on its bus (R282): an instruction fetch, a load, a store, or WFI. -/
inductive CoreOp
  | fetch
  | load
  | store
  | wfi
deriving DecidableEq, Repr

/-- Operations of the fabric (R354, R370). -/
inductive FabOp
  | read
  | write
  | post
  | take
  | count
deriving DecidableEq, Repr

/-- Fields of a function's configuration space that the device acts on (R366, R403 to R407). -/
inductive CfgField
  | memEn
  | bme
  | msixEn
  | msixMask
  | atsEn
  | priEn
  | priAlloc
  | cplTo
  | cplDis
  | vfEn
deriving DecidableEq, Repr

/-- Bytes by address, where a command brings them from outside: what host memory returns, or what a fault produced. -/
abbrev Cells := List (Nat × Nat)

/-- The commands of the block: one constructor per row of the command table. -/
inductive Instr where
  /-- REGISTER_WRITE (R8): A write to a register field that has no row of its own sets the field under its access code, or is refused with PROG under R640. -/
  | registerWrite (ini : Ini) (page off value : Nat) (wide : Bool)
  /-- READ_LO_SNAPSHOT (R54): A read of the LO word of a 64-bit register captures all 64 bits, or the whole named group, into the initiator's snapshot. -/
  | readLoSnapshot (ini : Ini) (page off : Nat) (wide : Bool)
  /-- READ_HI (R54): A read of the HI word returns the snapshot's high half when the tag matches, and the live high half otherwise. -/
  | readHi (ini : Ini) (page off : Nat)
  /-- WRITE_LO_HOLD (R55): A write of the LO word of an RW or RWL 64-bit field replaces the initiator's write hold. -/
  | writeLoHold (ini : Ini) (page off value : Nat)
  /-- WRITE_HI_COMMIT (R55): A write of the HI word commits both halves when the hold names the same field, and is otherwise dropped with ACCESS. -/
  | writeHiCommit (ini : Ini) (page off value : Nat)
  /-- ACCESS_FAULT (R53): A narrow, misaligned, oversize or page-crossing BAR0 access is dropped or answered with zero or Completer Abort, and ACCESS sets. -/
  | accessFault (ini : Ini) (page off n : Nat) (write poison : Bool)
  /-- BAR2_ACCESS (R30): A host BAR2 access to Shared Vision Memory or the verdict table is served, or refused and logged when its region is not owned. -/
  | bar2Access (n : Nat) (write : Bool) (off len : Nat) (data : List Nat) (r : Resp) (poison : Bool)
  /-- ENABLE (R38): A write of ENABLE lets the block accept work, is ignored on a FENCED page, and is stored for later during a self-test. -/
  | enable (ini : Ini) (page : Nat) (on : Bool)
  /-- SOFT_RESET (R52): A write of SOFT_RESET moves the page to RESETTING, abandons its work and waits for outstanding reads. -/
  | softReset (ini : Ini) (page : Nat)
  /-- SOFT_RESET_DONE (R52): When no read of a resetting page remains, the page takes its soft-reset values and enters OFF or FENCED. -/
  | softResetDone (page : Nat)
  /-- LOCK (R50): A write of LOCK = 1 by the owner or the debug port freezes every RWL field of the page. -/
  | lock (ini : Ini) (page : Nat)
  /-- PERF_CLEAR (R45): A write of PERF_CLEAR sets the page's four counters to zero. -/
  | perfClear (ini : Ini) (page : Nat)
  /-- PAGE_ERR_CLEAR (R41): A W1C write to PAGE_ERR clears flags, and VALID of PAGE_ERR_FIRST clears when all flags are zero. -/
  | pageErrClear (ini : Ini) (page value : Nat)
  /-- INJECT_ARM (R42): A write of ARM or CONT to PAGE_INJ arms fault injection, and sets DEBUG_TOUCHED unless the checker rotation wrote it. -/
  | injectArm (ini : Ini) (page value : Nat)
  /-- SELFTEST_START (R43): A write of START to PAGE_SELFTEST starts the chosen self-test, including the CBG-128 known-answer test, or is refused with PROG. -/
  | selftestStart (ini : Ini) (page sel : Nat)
  /-- SELFTEST_DONE (R43): A self-test ends, sets DONE and PASS or SELFTEST_FAIL, and the page enters IDLE or OFF, or as UNFENCE lays down. -/
  | selftestDone (page us : Nat) (pass : Bool)
  /-- PAGE_OWNER (R44): A write of PAGE_OWNER by partition 0 changes the owner of an OFF page and soft-resets it; other writes set PROG. -/
  | pageOwner (ini : Ini) (page part : Nat)
  /-- NOTICE_HOLD_EXPIRY (R641): NOTICE_HOLD ms after the latest NOTICE event of a partition, NOTICE stops applying to that partition. -/
  | noticeHoldExpiry (part : Nat)
  /-- FRAME_START (R69): A Frame Start packet of a slot's virtual channel opens a frame, advances FRAME_CNT, and tests the raw ring for room. -/
  | frameStart (port vc fn issued : Nat) (hdr : Hdr)
  /-- FRAME_END (R78): A Frame End packet closes the frame, measures LAST_GAP and writes or skips the test block. -/
  | frameEnd (port vc : Nat) (hdr : Hdr)
  /-- TEST_BLOCK_WRITE_DONE (R79): The last of the 32 test-block writes completes and the header will carry TB_PRESENT. -/
  | testBlockWriteDone (stream : Nat)
  /-- LONG_PACKET (R62): A long packet is checked by header ECC and payload CRC and stored as an image or embedded line of its slot's frame. -/
  | longPacket (port vc dt : Nat) (hdr : Hdr) (crcBad ovf : Bool) (px : List Nat)
  /-- SOT_ERROR (R89): A start-of-transmission sync error on the link discards its burst and sets SOT. -/
  | sotError (port : Nat)
  /-- SLOT_PUBLISH (R67): Once a slot's data writes complete, the frame header is written and WR_IDX advances. -/
  | slotPublish (stream : Nat)
  /-- LOSS_TIMEOUT (R74): No frame written for LOSS_TIMEOUT moves the stream to LOST, logs it and reports doubt. -/
  | lossTimeout (stream : Nat)
  /-- IN_EN (R92): A write of IN_EN enables intake after checking the ring rules, or disables it at the end of the frame in progress. -/
  | inEn (ini : Ini) (stream : Nat) (on : Bool)
  /-- CAL (R83): A write of CAL starts calibration, in which computed signatures are written to the golden table. -/
  | cal (ini : Ini) (stream : Nat)
  /-- CONSUMER_INDEX_WRITE (R70): A write to a ring's consumer index (RD_IDX, OUT_RD_IDX, CQ_RD_IDX, CR_RD_IDX, LOG_RD_IDX) frees slots, or is refused with PROG. -/
  | consumerIndexWrite (ini : Ini) (page off value : Nat)
  /-- RING_COUNT_CHANGE (R70): An accepted write that changes a ring's slot count returns both indices to 0 with phase 0. -/
  | ringCountChange (ini : Ini) (page off value : Nat)
  /-- ISP_DISPATCH (R94): A free pipe takes the highest-priority ready context, latches committed shadows and starts its oldest frame. -/
  | ispDispatch (pipe : Nat)
  /-- ISP_FRAME_DONE (R113): A pipe finishes a frame and its test block and publishes the outputs, unless a residue miss calls for a second attempt. -/
  | ispFrameDone (pipe : Nat) (miss : IspFind) (noise : Cells)
  /-- SECOND_ATTEMPT_DONE (R111): The second processing of a slot ends, classifying the miss transient or lasting and fencing the pipe if lasting. -/
  | secondAttemptDone (pipe : Nat) (miss : IspFind) (noise : Cells)
  /-- COMMIT (R118): A write of COMMIT marks the context's shadow registers for latching at the next frame. -/
  | commit (ini : Ini) (stream : Nat)
  /-- TONE_WINDOW_WRITE (R119): A write to the tone window writes the bank selected by TONE_WR_BANK, or is dropped with PROG if that bank is in use. -/
  | toneWindowWrite (ini : Ini) (stream off value : Nat)
  /-- CTX_EN (R120): A write of CTX_EN enables a context after checking scaler and ring rules, or disables it after the frame in progress. -/
  | ctxEn (ini : Ini) (stream : Nat) (on : Bool)
  /-- START (R125): A write of START to an IDLE job slot queues the job at JOB_PTR; otherwise PROG sets. -/
  | start (ini : Ini) (page slot : Nat)
  /-- SLOT_CANCEL (R132): A write of CANCEL to a QUEUED or RUNNING slot moves it to CANCELLING, or lets the job end OK if its last write is issued. -/
  | slotCancel (ini : Ini) (page slot : Nat)
  /-- FAWN_SUBMIT (R124): The safety island submits a job to a reserved Fawn slot through its own path. -/
  | fawnSubmit (page ptr : Nat)
  /-- DESCRIPTOR_FETCH_DONE (R126): A job descriptor arrives and is checked; a bad descriptor ends the job with PROG before anything is written. -/
  | descriptorFetchDone (page slot : Nat) (hit : Hit) (host : Cells)
  /-- UNIT_DONE (R134): A unit of a job finishes, its residue checks are judged, and its held output is written or recomputed. -/
  | unitDone (page slot : Nat) (miss : UnitErr) (hit : Hit) (host : Cells)
  /-- UNIT_RECOMPUTE_DONE (R135): The recomputation of a unit after a residue miss ends, classifying the miss transient or lasting. -/
  | unitRecomputeDone (page slot : Nat) (miss : UnitErr) (hit : Hit) (host : Cells)
  /-- JOB_END (R127): A job ends after its last output write and writes its completion record, or waits in DONE_WAIT for room. -/
  | jobEnd (page slot cycles : Nat)
  /-- COMPLETION_RECORD_DONE (R127): The completion record write completes, the slot returns to IDLE and SEM is posted. -/
  | completionRecordDone (page slot : Nat) (hit : Hit)
  /-- JOB_BUDGET_EXPIRY (R131): A job's budget expires, its unit in progress is abandoned and it will end with TIMEOUT. -/
  | jobBudgetExpiry (page slot : Nat)
  /-- JOB_DRAIN_DONE (R131): The reads of an abandoned, cancelled or fenced job have all returned and the job ends with its status. -/
  | jobDrainDone (page slot cycles : Nat)
  /-- RESYNC_CLEAR (R176): RESYNC clears once AGREE_RUN, HOLD_COUNTS and HOLD_TIME are all satisfied. -/
  | resyncClear (page m : Nat)
  /-- STARVED (R177): A monitor that receives no non-empty sample for STARVE_TIME sets STARVED and DEGRADED applies to its line. -/
  | starved (page m : Nat)
  /-- MONITOR_ENABLE (R184): A write of EN of a speed monitor zeroes its runs when set, and freezes RESYNC and STARVED when cleared. -/
  | monitorEnable (ini : Ini) (page m : Nat) (on : Bool)
  /-- VECTOR_DONE (R193): An array finishes the tiles of a vector, applies early decision and the checksum test, and writes the block or starts a replay. -/
  | vectorDone (page slot wtile : Nat) (wecc : Ecc) (upset : Cells) (res : List SumErr) (hit : Hit) (host : Cells)
  /-- REPLAY_DONE (R198): The same-seed replay of a missing vector ends, classifying transient, lasting or going on to the fork. -/
  | replayDone (page slot wtile : Nat) (wecc : Ecc) (upset : Cells) (res : List SumErr) (hit : Hit) (host : Cells)
  /-- FORK_RUN_DONE (R198): The forked run of a vector ends, classifying a statistical outlier or a lasting fault. -/
  | forkRunDone (page slot wtile : Nat) (wecc : Ecc) (upset : Cells) (res : List SumErr) (hit : Hit) (host : Cells)
  /-- ARM (R204): A write of ARM with a PLANE_ID arms a plane slot to capture that plane, or is refused with PROG. -/
  | arm (ini : Ini) (page plane : Nat)
  /-- RETIRE (R204): A write of RETIRE makes a READY slot RETIRING, or EMPTY at once when REFCNT is 0. -/
  | retire (ini : Ini) (page plane : Nat)
  /-- PUSH_GO (R207): A write of GO to STA0's PUSH_CTRL queues a push order, or is dropped with PUSH_OVF. -/
  | pushGo (ini : Ini)
  /-- PUSH_ORDER_START (R207): STA0 starts the next queued push order and reads the plane onto the Antler chain. -/
  | pushOrderStart (hit : Hit) (host : Cells)
  /-- PLANE_ARRIVAL (R208): A plane's header reaches an array, which starts capturing it if a slot is armed for its PLANE_ID. -/
  | planeArrival (page : Nat)
  /-- PLANE_CAPTURE_END (R209): A plane's last beat reaches an array and each capturing slot becomes READY or BAD. -/
  | planeCaptureEnd (page : Nat) (poison : Bool)
  /-- PUSH_ORDER_END (R546): A plane's last beat leaves STA0 and the pushing partition's model digest is extended. -/
  | pushOrderEnd
  /-- LOAD (R258): A LOAD of an EMPTY graph entry starts reading and checking the graph. -/
  | load (ini : Ini)
  /-- LOAD_DONE (R258): A graph load ends and the entry becomes READY, or BAD with PROG and LOAD_BAD. -/
  | loadDone (g : Nat) (hit : Hit) (host : Cells)
  /-- UNLOAD (R259): An UNLOAD empties a graph entry that has no active instance and no pending start. -/
  | unload (ini : Ini)
  /-- START_DOORBELL (R260): A start request with REQ, through the doorbell or a core port, asks for graph instances to start. -/
  | startDoorbell (ini : Ini) (g req : Nat)
  /-- INSTANCE_START (R262): The sequencer starts an instance when a request is pending and fewer than INST_MAX are active. -/
  | instanceStart (g : Nat)
  /-- NODE_ADMIT (R264): A node whose links, trigger and target are all ready is admitted, takes its tokens and is dispatched. -/
  | nodeAdmit (g i n : Nat) (hit : Hit) (host : Cells)
  /-- NODE_END (R266): A node execution ends, its status entry is written, and its links are posted. -/
  | nodeEnd (g i n : Nat) (hit : Hit)
  /-- TRIG (R267): A trigger adds one credit to a node, or is ignored with PROG. -/
  | trig (ini : Ini) (g n : Nat)
  /-- CANCEL (R278): A CANCEL ends one graph instance with CANCELLED. -/
  | cancel (ini : Ini) (g : Nat)
  /-- CANCEL_ALL (R278): A CANCEL_ALL ends every active instance and drops pending starts. -/
  | cancelAll (ini : Ini) (g : Nat)
  /-- NODE_CANCEL (R278): A NODE_CANCEL written to a register cancels the oldest running execution of the node. -/
  | nodeCancel (ini : Ini) (g n : Nat)
  /-- INSTANCE_DEADLINE (R276): An instance's DEADLINE expires and it ends with TIMEOUT, cancelling or skipping its nodes. -/
  | instanceDeadline (g i : Nat)
  /-- INSTANCE_END (R279): Every node of an instance has ended; the instance record is written and DONE_SEM posted. -/
  | instanceEnd (g i : Nat) (hit : Hit)
  /-- HO_DEADLOCK (R273): Every unfinished member of a fused group has waited 1,024 cycles; the group is cancelled with PROG. -/
  | hoDeadlock (g i fuse : Nat)
  /-- POST (R263): A semaphore POST adds one to the count, or is rejected at saturation with SEM_SAT. -/
  | post (ini : Ini) (sem : Nat)
  /-- TRY_TAKE (R263): A semaphore TRY_TAKE subtracts one when the count is above zero. -/
  | tryTake (ini : Ini) (sem : Nat)
  /-- READ (R285): A semaphore READ returns the count into SEM_RES. -/
  | read (ini : Ini) (sem : Nat)
  /-- SET (R263): A semaphore SET writes the count while no active instance names the pair. -/
  | set (ini : Ini) (sem : Nat)
  /-- SEM_OWN (R286): A write of SEM_OWN assigns a semaphore pair to a partition. -/
  | semOwn (ini : Ini) (pair part : Nat)
  /-- MBX_PUSH (R283): A write of MBX_PUSH pushes MBX_IN into the core's inbox, or is dropped with MBX_OVF. -/
  | mbxPush (ini : Ini) (c : Nat)
  /-- MBX_POP (R285): A write of MBX_POP drops the head message of the inbox. -/
  | mbxPop (c : Nat)
  /-- NODE_DONE (R284): A write of NODE_DONE ends the matching CORE execution, or is counted in STALE_CNT. -/
  | nodeDone (c g n status : Nat)
  /-- RUN (R287): A write of RUN starts a control core from RESET_PC, or asks it to halt. -/
  | run (ini : Ini) (c : Nat) (on : Bool)
  /-- CORE_HALTED (R287): A core asked to halt reaches an instruction boundary with its accesses complete and becomes HALTED. -/
  | coreHalted (c : Nat)
  /-- TCM_DATA (R544): A write of TCM_DATA to a halted core's TCM writes the word and marks its image entry UNMEASURED. -/
  | tcmData (ini : Ini) (c value : Nat)
  /-- CORE_ACCESS (R282): A control core executes a load, store or fetch, which is served, refused or traps. -/
  | coreAccess (c : Nat) (op : CoreOp) (addr size value : Nat) (r : Resp) (host : Cells)
  /-- CORE_TRAP (R282): A core takes an access fault or other trap and records TRAP_CAUSE and TRAP_PC. -/
  | coreTrap (c cause pc : Nat)
  /-- CORE_TIMER (R285): Device time reaches TIMER_CMP and TIMER pends in the core port. -/
  | coreTimer (c : Nat)
  /-- START_DB (R302): A chain-mode start doorbell with STARTED + 1 starts the chain at CHAIN_PTR; other values set DB_BAD. -/
  | startDb (ini : Ini) (bar4 : Bool) (c value : Nat)
  /-- RING_DOORBELL (R308): A ring-mode start doorbell gives a new absolute tail, and retries a WAIT_OWN fetch. -/
  | ringDoorbell (ini : Ini) (bar4 : Bool) (c value : Nat)
  /-- EXTEND (R305): An EXTEND doorbell re-reads a parked tail, sets EXT_PEND while running, or is counted as ignored. -/
  | extend (ini : Ini) (bar4 : Bool) (c : Nat)
  /-- CHANNEL_CANCEL (R315): A write of CANCEL to a Stream Mover channel ends its chain or drains the descriptor in progress. -/
  | channelCancel (ini : Ini) (c : Nat)
  /-- CHANNEL_DISABLE (R317): A write of ENABLE = 0 moves a channel to DRAINING, losing owed records. -/
  | channelDisable (ini : Ini) (c : Nat)
  /-- SMV_DESC_FETCH (R292): A channel's descriptor fetch returns and the descriptor is checked, run, refused or found not owned. -/
  | smvDescFetch (c : Nat) (hit : Hit) (host : Cells)
  /-- SMV_READ_RESPONSE (R295): A channel's read data arrives, enters the buffer and is written on, with pacing applied. -/
  | smvReadResponse (c : Nat) (r : Resp) (writes : Nat) (w : Resp) (bufBad : Bool) (host : Cells)
  /-- SMV_TRANSFER_FAIL (R312): A failed read or write is issued again once, or ends the descriptor with BUS_ERR or TIMEOUT. -/
  | smvTransferFail (c : Nat) (r : Resp) (host : Cells)
  /-- SMV_COMPLETION_POINT (R296): All writes of a descriptor complete, raising HALF as reached, and the flush or write-back begins. -/
  | smvCompletionPoint (c : Nat) (w : Resp) (bufBad : Bool)
  /-- FLUSH_DONE (R298): The WAIT_ALL flush read completes and the write-back may proceed. -/
  | flushDone (c : Nat) (hit : Hit) (host : Cells)
  /-- WRITE_BACK_DONE (R299): The status-group write-back completes, returning ownership and advancing RING_HEAD. -/
  | writeBackDone (c : Nat) (hit : Hit)
  /-- SMV_RECORD_DONE (R300): A channel's completion record write completes, CR_WR_IDX advances and FULL is raised. -/
  | smvRecordDone (c : Nat) (hit : Hit)
  /-- TAIL_REREAD_DATA (R304): The tail re-read returns NEXT; the chain goes on, re-reads, parks or ends. -/
  | tailRereadData (c : Nat) (hit : Hit) (host : Cells)
  /-- SMV_BUDGET_EXPIRY (R313): A descriptor's budget expires and it is abandoned, ending with TIMEOUT. -/
  | smvBudgetExpiry (c : Nat)
  /-- CHANNEL_DRAIN_DONE (R315): A draining channel's outstanding reads return; the descriptor ends and the channel enters IDLE or OFF. -/
  | channelDrainDone (c : Nat)
  /-- EVT_CLEAR (R301): A W1C write to an EVT register clears event bits, sending a message if the event sets in the same cycle. -/
  | evtClear (ini : Ini) (page mask again : Nat)
  /-- QUEUE_START (R327): A prefetch-queue start doorbell with STARTED + 1 fetches the stream descriptor. -/
  | queueStart (ini : Ini) (bar4 : Bool) (q value : Nat)
  /-- QUEUE_RELEASE (R328): A release gives an absolute CONS_IDX and moves entries out of OCCUPIED. -/
  | queueRelease (ini : Ini) (bar4 : Bool) (q value : Nat)
  /-- STREAM_DESC_FETCH (R325): A stream descriptor arrives and is checked, ending with PROG on a fault. -/
  | streamDescFetch (q : Nat) (hit : Hit) (host : Cells)
  /-- PFQ_RESPONSE (R329): A queue's read response lands, and entries are published in ring order. -/
  | pfqResponse (q i : Nat) (back : Back) (host : Cells)
  /-- PFQ_TRANSFER_FAIL (R339): A failed queue request is issued again once, or ends the stream with BUS_ERR or TIMEOUT. -/
  | pfqTransferFail (q : Nat) (back : Back) (host : Cells)
  /-- CREDIT_RETURN (R330): A credit-return message reaches the fetch side and moves credits from RETURNING to FREE. -/
  | creditReturn (q : Nat)
  /-- QUEUE_CANCEL (R336): A write of CANCEL moves the queue to DRAINING and discards occupied entries. -/
  | queueCancel (ini : Ini) (q : Nat)
  /-- QUEUE_DRAIN_DONE (R336): DRAINING reaches 0; indices are set, the stream ends and the queue enters IDLE or OFF. -/
  | queueDrainDone (q : Nat)
  /-- SNAP (R333): A write of SNAP holds releases until RETURNING is 0 before an audit capture. -/
  | snap (ini : Ini) (q : Nat)
  /-- AUDIT_CAPTURE (R333): The credit books are captured, and BOOKS sets if they do not sum to CAP. -/
  | auditCapture (q : Nat)
  /-- PFQ_BUDGET_EXPIRY (R340): A stream's budget expires and it ends with TIMEOUT. -/
  | pfqBudgetExpiry (q : Nat)
  /-- QUEUE_DISABLE (R343): A write of ENABLE = 0 drains the queue, loses owed records, and enters OFF. -/
  | queueDisable (ini : Ini) (q : Nat)
  /-- TRANSLATION_RESPONSE (R344): An ATS translation arrives for a slot, or denies permission and halts the transfer. -/
  | translationResponse (unit page dest : Nat) (rd wr : Bool)
  /-- PAGE_RESPONSE (R346): A PRI response resumes a halted transfer, ends it with PRI_FAIL, or is counted stale. -/
  | pageResponse (fn prg code : Nat)
  /-- ATS_INVALIDATE (R347): An ATS invalidation removes a held translation in the cycle it arrives. -/
  | atsInvalidate (fn addr n tag : Nat)
  /-- INVALIDATION_COMPLETE (R347): Once the requests issued under an invalidated translation complete, the invalidation completion is sent. -/
  | invalidationComplete (fn tag : Nat)
  /-- TRANSACTION_ARRIVAL (R357): A fabric transaction reaches its target port and is judged by the firewall and served or denied. -/
  | transactionArrival (init tid sub : Nat) (op : FabOp) (addr len : Nat) (data : List Nat) (seq : Nat) (ecc : Ecc) (clash : Bool) (host : Cells)
  /-- FABRIC_TIMEOUT (R367): A transaction's timer expires; it is abandoned with TIMEOUT and its slot's epoch advances. -/
  | fabricTimeout (init tid : Nat)
  /-- RESPONSE_ARRIVAL (R367): A response reaches its initiator port and is delivered, or discarded as stale. -/
  | responseArrival (init tid epoch : Nat)
  /-- REG_PERM (R361): A write of a firewall region's permissions takes effect, or is ignored with PROG while EN = 1. -/
  | regPerm (ini : Ini) (value : Nat)
  /-- CREATE (R372): A write of CREATE to a FREE partition makes it ACTIVE. -/
  | create (ini : Ini)
  /-- TEARDOWN (R373): A write of TEARDOWN makes a partition TEARING, drops its doorbells, cancels its instances and soft-resets its pages. -/
  | teardown (ini : Ini)
  /-- TEARDOWN_DRAINED (R373): No transaction of the partition is outstanding and its pages are reset; ownership, masks and banks are cleared and the fill starts. -/
  | teardownDrained (part : Nat)
  /-- ZERO_FILL_DONE (R398): The scrubber completes a teardown zero-fill, and the partition enters FREE with TEARDOWN_DONE. -/
  | zeroFillDone
  /-- DRAM_REREAD (R392): The re-read of an uncorrectable external line ends, classifying transient or poisoning the line. -/
  | dramReread (line : Nat) (res : Ecc)
  /-- INIT (R395): A write of INIT to the LPC pages starts training of the external-memory controllers. -/
  | init (ini : Ini) (i : Nat)
  /-- TRAINING_DONE (R395): Controller training ends; the fill starts, or the controller enters FAILED. -/
  | trainingDone (i fail : Nat)
  /-- FILL_DONE (R395): The zero-fill of the usable range ends and all four controllers enter READY. -/
  | fillDone
  /-- PATROL_READ (R397): The scrubber reads the next line of its patrol at the programmed rate. -/
  | patrolRead (ecc : Ecc)
  /-- BANK_INH (R380): A W1C write to BANK_INH clears BANK_INHERITED flags of banks. -/
  | bankInh (ini : Ini) (mask : Nat)
  /-- CONFIG_WRITE (R407): The host writes a function's configuration space, changing Bus Master Enable, PRI Enable, the timeout range or MSI-X control. -/
  | configWrite (n : Nat) (field : CfgField) (value : Nat)
  /-- FLR (R408): A Function Level Reset deletes the function's queue pairs and resets its configuration space. -/
  | flr (n : Nat)
  /-- LINK_DOWN (R408): DL_Down, hot reset or PERST_N acts as an FLR on every function. -/
  | linkDown (hot : Bool)
  /-- RETRAIN (R428): A write of RETRAIN directs the PCIe LTSSM to Recovery once. -/
  | retrain (ini : Ini)
  /-- QUEUE_PAIR_CREATE (R410): A write of CREATE to an OFF queue pair makes it ACTIVE with empty rings and tag window. -/
  | queuePairCreate (ini : Ini) (n q : Nat)
  /-- DELETE (R426): A write of DELETE stops fetching and moves the pair to DELETING. -/
  | delete (ini : Ini) (n q : Nat)
  /-- DELETE_DONE (R426): The commands in flight of a deleting pair complete and the pair enters OFF. -/
  | deleteDone (n q : Nat)
  /-- SQ_TAIL_DOORBELL (R411): A write of the SQ tail doorbell hands commands to the device, or sets DB_BAD. -/
  | sqTailDoorbell (n q value : Nat)
  /-- CQ_HEAD_DOORBELL (R412): A write of the CQ head doorbell releases records and may resend the vector. -/
  | cqHeadDoorbell (n q value : Nat)
  /-- COMMAND_FETCH (R413): The queue engine fetches the next command when the CQ has room, and runs, drops or answers it as a duplicate. -/
  | commandFetch (n q : Nat) (hit : Hit) (host : Cells)
  /-- NOP (R416): The NOP command completes at once. -/
  | nop (n q : Nat)
  /-- GRAPH_LOAD (R416): The GRAPH_LOAD command loads a graph entry from ADDR. -/
  | graphLoad (n q : Nat)
  /-- GRAPH_UNLOAD (R416): The GRAPH_UNLOAD command unloads a graph entry. -/
  | graphUnload (n q : Nat)
  /-- GRAPH_START (R416): The GRAPH_START command makes a start request with REQ from ARG. -/
  | graphStart (n q : Nat)
  /-- GRAPH_CANCEL (R416): The GRAPH_CANCEL command cancels instance ARG and completes when it has ended. -/
  | graphCancel (n q : Nat)
  /-- GRAPH_CANCEL_ALL (R416): The GRAPH_CANCEL_ALL command cancels every instance and completes when all have ended. -/
  | graphCancelAll (n q : Nat)
  /-- NODE_TRIG (R416): The NODE_TRIG command adds a trigger credit to a node. -/
  | nodeTrig (n q : Nat)
  /-- NODE_CANCEL_COMMAND (R416): The NODE_CANCEL host command cancels the oldest running execution of a node. -/
  | nodeCancelCommand (n q : Nat)
  /-- SEM_OP (R416): The SEM_OP command performs a semaphore operation and returns the count. -/
  | semOp (n q : Nat)
  /-- ATTEST (R550): The ATTEST command captures the device state and queues a report for signing. -/
  | attest (n q : Nat)
  /-- ATTEST_SIGNED (R550): A report is signed and written, and the ATTEST command completes. -/
  | attestSigned (hit : Hit)
  /-- COMMAND_COMPLETE (R417): A command completes and its TYPE 0 record is written, with a vector if USED was 0. -/
  | commandComplete (n q i : Nat) (hit : Hit)
  /-- CONDITION_RECORD (R422): A change of a partition's condition, or the release of the last condition record, writes a condition record. -/
  | conditionRecord (n q : Nat) (hit : Hit)
  /-- VP_READ (R430): A Verdict Port read cycle returns the entry's word with its condition, or REFUSED or POISONED. -/
  | vpRead (id : Nat) (apOk : Bool) (ecc : Ecc)
  /-- ANNOUNCE (R440): An ANNOUNCE write makes an EMPTY entry ANNOUNCED and pairs it with the nearest photo-eye event. -/
  | announce (id pos : Nat) (ecc : Ecc)
  /-- ACK (R435): An ACK with the current SEQ returns the entry to EMPTY, or rewrites a poisoned entry. -/
  | ack (id seq : Nat) (ecc : Ecc)
  /-- BAD_WRITE (R434): A write cycle with a bad OP, reserved bit, foreign ID or parity error changes nothing and is counted. -/
  | badWrite (id word : Nat) (parityOk : Bool)
  /-- EYE_LEADING_EDGE (R438): A leading edge on a line's photo-eye records an event with encoder count and time, and pairs it. -/
  | eyeLeadingEdge (line : Nat)
  /-- EYE_TRAILING_EDGE (R438): The trailing edge of a photo-eye adds its count to the event. -/
  | eyeTrailingEdge (line : Nat)
  /-- UNPAIRED_EVT (R441): An event unpaired ANN_WAIT counts after its edge leaves the list and is logged. -/
  | unpairedEvt (line : Nat)
  /-- UNPAIRED_ANN (R441): An announcement unpaired ANN_WAIT counts after its POS gains UNPAIRED. -/
  | unpairedAnn (id : Nat)
  /-- MISSED (R20): An entry's parcel reaches the divert distance neither FINAL nor FALLBACK and is moved to FALLBACK with MISSED. -/
  | missed (id : Nat)
  /-- STAGING_REQUEST (R443): A fabric write to a verdict entry asks for PENDING, FINAL or FALLBACK and is accepted, held or refused. -/
  | stagingRequest (ini : Ini) (id word : Nat)
  /-- LINE_CFG (R437): A write to a line's block configures or enables the line, or is refused whole with PROG. -/
  | lineCfg (ini : Ini) (line off value : Nat)
  /-- PIN_CFG (R449): A write changing a pin's FUNC, UNIT, INV or OD starts a switch at the next SLOW_CLK edge. -/
  | pinCfg (ini : Ini) (p value : Nat)
  /-- PIN_SWITCH_END (R449): Five SLOW_CLK edges after e0 the pin switch ends and SWITCH_BUSY clears. -/
  | pinSwitchEnd (p sample : Nat)
  /-- INPUT_ACCEPT (R448): An input held FILT + 2 edges at a new level is accepted as an initial level or as an edge. -/
  | inputAccept (p level : Nat)
  /-- ENCODER_EDGE (R450): An accepted quadrature edge changes the encoder count, or counts as illegal. -/
  | encoderEdge (e a b : Nat)
  /-- TRIGGER (R451): A timing generator's cause falls due and fires a trigger, or waits for MIN_GAP. -/
  | trigger (t : Nat)
  /-- TRIGGER_LATE (R451): MIN_GAP passes and a waiting trigger fires, counted in TRIG_LATE. -/
  | triggerLate (t : Nat)
  /-- STROBE_START (R451): STROBE_DELAY after a trigger's start, the STROBE pulse begins. -/
  | strobeStart (t : Nat)
  /-- PULSE_END (R451): WIDTH or STROBE_WIDTH expires and the TRIG or STROBE pins return inactive. -/
  | pulseEnd (t : Nat) (strobe : Bool)
  /-- TG_CFG (R451): A write of MODE, ENC, PERIOD or PHASE re-anchors a timing generator. -/
  | tgCfg (ini : Ini) (t off value : Nat)
  /-- PWM_PERIOD_START (R452): A PWM period begins, taking pending PERIOD and HIGH and checking the pair. -/
  | pwmPeriodStart (k : Nat)
  /-- UART_TX (R458): A write of UART_TX pushes a byte, or sets TX_OVF when the FIFO is full. -/
  | uartTx (ini : Ini) (u value : Nat)
  /-- UART_RX (R458): A read of UART_RX pops one received byte with its error bits. -/
  | uartRx (ini : Ini) (u : Nat)
  /-- UART_BYTE_RECEIVED (R452): A character arrives and enters the RX FIFO, or sets FRAME, PARITY_E or OVERRUN. -/
  | uartByteReceived (u value : Nat) (perr ferr : Bool)
  /-- UART_BYTE_SENT (R452): A character finishes transmission and the next byte of the TX FIFO starts. -/
  | uartByteSent (u : Nat)
  /-- CMD (R459): A write of CMD pushes an I3C command with CMD_ARG, or is dropped with PROG when 16 are queued. -/
  | cmd (ini : Ini) (i value : Nat)
  /-- CMD_START (R459): An I3C command starts once its FIFO bytes, room and response space are available. -/
  | cmdStart (i : Nat)
  /-- CMD_DONE (R454): An I3C command ends and writes its response; a second NACK stops the queue. -/
  | cmdDone (i status : Nat) (data : List Nat)
  /-- TX_DATA (R459): A write of TX_DATA pushes one byte into the TX FIFO. -/
  | txData (ini : Ini) (i value : Nat)
  /-- TX_DATA4 (R459): A write of TX_DATA4 pushes four bytes into the TX FIFO. -/
  | txData4 (ini : Ini) (i value : Nat)
  /-- RX_DATA (R459): A read of RX_DATA pops one byte from the RX FIFO. -/
  | rxData (ini : Ini) (i : Nat)
  /-- RESP (R459): A read of RESP pops the oldest command response. -/
  | resp (ini : Ini) (i : Nat)
  /-- IBI_ARRIVAL (R453): An in-band interrupt is queued, or NACKed with IBI_OVF when 8 are queued. -/
  | ibiArrival (i addr : Nat) (data : List Nat)
  /-- IBI (R459): A read of IBI pops the oldest in-band interrupt. -/
  | ibi (ini : Ini) (i : Nat)
  /-- HALT_CLR (R454): A write of HALT_CLR restarts a stopped I3C queue. -/
  | haltClr (ini : Ini) (i : Nat)
  /-- PLANE_COMMIT (R462): A write of COMMIT makes a FREE display slot COMMITTED, or sets PROG. -/
  | planeCommit (ini : Ini) (plane slot : Nat)
  /-- RELEASE (R462): A write of RELEASE turns the SHOWN slot RELEASING. -/
  | release (ini : Ini) (plane : Nat)
  /-- LATCH_POINT (R464): At vertical blanking the compositor applies a pending timing commit and latches each plane's slots. -/
  | latchPoint
  /-- UNDERRUN (R466): A pixel not fetched in time, or a failed fetch, shows FILL to the line's end. -/
  | underrun (plane line : Nat) (late : Bool) (ecc : Ecc)
  /-- TCOMMIT (R469): A write of TCOMMIT marks the timing shadows for latching, or is refused with PROG. -/
  | tcommit (ini : Ini)
  /-- MON_RUN (R471): A write of RUN starts the timing generator, or stops it at the next latch point. -/
  | monRun (ini : Ini) (on : Bool)
  /-- PIXEL_PLL_LOCK (R470): The pixel PLL locks after a clock change and the new timing starts at its vertical blanking. -/
  | pixelPllLock
  /-- TRAIN (R474): A write of TRAIN runs DisplayPort link training at LINK_CFG. -/
  | train (ini : Ini)
  /-- TRAIN_DONE (R474): Link training ends in success or FAILED and raises TRAIN_DONE. -/
  | trainDone (ok : Bool) (failStep swing pre : Nat)
  /-- LINK_OFF (R479): A write of LINK_OFF idles the lanes and sets the link state OFF. -/
  | linkOff (ini : Ini)
  /-- IRQ_HPD (R475): An IRQ_HPD pulse makes the transmitter read link status and retrain once, or raise HPD_IRQ. -/
  | irqHpd (lost : Bool)
  /-- HPD_UNPLUG (R476): HPD low for more than 2 ms stops the main link and enters UNPLUGGED. -/
  | hpdUnplug
  /-- HPD_PLUG (R476): HPD high for 100 ms raises HPD_PLUG. -/
  | hpdPlug
  /-- AUX_GO (R477): A write of AUX_GO starts an AUX transaction, or sets PROG while one runs. -/
  | auxGo (ini : Ini)
  /-- AUX_REPLY (R477): An AUX reply ends the transaction, or a DEFER repeats it. -/
  | auxReply (kind : Nat) (data : List Nat)
  /-- AUX_TIMEOUT (R477): 400 µs without an AUX reply repeats the transaction once, then ends it with TIMEOUT. -/
  | auxTimeout
  /-- DOUBT_REPORT (R487): The island receives a doubt report and stages FALLBACK into every entry in its scope. -/
  | doubtReport
  /-- DOUBT_REEVALUATE (R487): Every 1 ms a continued FRAME scope is re-evaluated up to the current encoder count. -/
  | doubtReevaluate
  /-- DOUBT_REQ (R483): A partition's write of DOUBT_REQ reports a doubt scoped by its TAG. -/
  | doubtReq (ini : Ini) (tag line : Nat)
  /-- FINAL_CONFIRM (R489): A held FINAL request is confirmed by later passing blocks and stored, subject to plausibility and fallback. -/
  | finalConfirm (id : Nat)
  /-- WD_KICK (R497): A partition's write of WD_KICK restarts its watchdog. -/
  | wdKick (ini : Ini)
  /-- WD_EXPIRED (R529): 250 ms without a kick expires a partition watchdog, which raises line or device fallback. -/
  | wdExpired (p : Nat)
  /-- DEVICE_WD_EXPIRY (R481): 500 ms without the island firmware's kick expires the device watchdog and raises FAULT. -/
  | deviceWdExpiry
  /-- LOCKSTEP_MISMATCH (R481): The island cores' outputs differ and FAULT is raised. -/
  | lockstepMismatch
  /-- CLOCK_WINDOW_END (R482): A 10 µs monitoring window ends and a stopped or deviating clock raises FAULT. -/
  | clockWindowEnd (khz : List Nat)
  /-- FAWN_FRAME_PAIR (R499): The island takes a matched left and right depth frame and runs Fawn STE and HMP jobs. -/
  | fawnFramePair (line pair left right : Nat)
  /-- FAWN_EVALUATION (R500): The encoder reaches trailing edge plus F_EXIT and the island evaluates the parcel's Fawn grid. -/
  | fawnEvaluation (line : Nat) (bad : Bool)
  /-- FAWN_STAGING (R502): The island stages PENDING with the Fawn class and writes a results record. -/
  | fawnStaging (line : Nat)
  /-- RESUME (R495): A write of RESUME clears line or device fallback when its conditions hold. -/
  | resume (ini : Ini) (value : Nat)
  /-- CHECKER_INJECTION (R505): The rotation controller injects a fault into the next checker due in the rotation. -/
  | checkerInjection (page bit turn : Nat) (seen : Bool)
  /-- CHECKER_TIMEOUT (R506): An injection not confirmed within its time is a checker self-test failure and fences the page or raises FAULT. -/
  | checkerTimeout (page : Nat)
  /-- REDISPATCH (R524): An ENGINE job ended TIMEOUT is dispatched once more to the same slot. -/
  | redispatch (g i n : Nat)
  /-- UNFENCE (R531): A write of UNFENCE runs the full self-test of a FENCED page to return it to service. -/
  | unfence (ini : Ini) (page : Nat)
  /-- AUTO_RESET (R530): FAULT_HOLD ms after FAULT the island requests a warm reset, unless AUTO_LIMIT is reached. -/
  | autoReset
  /-- LOG_RECORD_WRITE (R532): The aggregator writes an error-log record into the ring, or drops it and later writes a LOST record. -/
  | logRecordWrite (hit : Hit)
  /-- LD_GO (R543): A write of LD_GO starts a measured load of a control-core image. -/
  | ldGo (ini : Ini)
  /-- IMAGE_LOAD_DONE (R543): An image load ends, writing TCM, RESET_PC and the image entry, or leaves them unchanged. -/
  | imageLoadDone (hit : Hit) (host : Cells)
  /-- UPD_MARK (R545): A write of a partition's UPD_MARK bit makes UPDATING apply or stop. -/
  | updMark (ini : Ini) (value : Nat)
  /-- RB_GO (R548): A write of RB_GO starts advancing the anti-rollback counter to RB_TARGET, or is refused. -/
  | rbGo (ini : Ini)
  /-- FUSE_BLOW_DONE (R548): The fuse blows of an advance complete with read-back and RB_COUNT updates. -/
  | fuseBlowDone
  /-- ROTPK_GO (R560): A write of ROTPK_GO programs the root public-key hash once. -/
  | rotpkGo (ini : Ini)
  /-- IDCODE (R554): The TAP instruction IDCODE selects the identification register. -/
  | idcode
  /-- BYPASS (R554): The TAP instruction BYPASS selects the bypass register. -/
  | bypass
  /-- SAMPLE_PRELOAD (R554): The TAP instruction SAMPLE/PRELOAD samples and preloads the boundary-scan chain. -/
  | samplePreload (cells : Nat)
  /-- EXTEST (R555): The TAP instruction EXTEST drives pins from the boundary scan and sets DEBUG_TOUCHED. -/
  | extest
  /-- CLAMP (R555): The TAP instruction CLAMP holds pins from the boundary scan and sets DEBUG_TOUCHED. -/
  | clamp
  /-- HIGHZ (R554): The TAP instruction HIGHZ places the outputs in high impedance. -/
  | highz
  /-- DAPACC (R554): The TAP instruction DAPACC gives access to the debug access port. -/
  | dapacc
  /-- TAP_RESET (R591): TRST_N low, or five TCK cycles with TMS high, reset the TAP. -/
  | tapReset
  /-- DEBUG_HALT (R555): The debug module halts a core and sets DEBUG_TOUCHED. -/
  | debugHalt (c pc : Nat)
  /-- DEBUG_STEP (R555): The debug module single-steps a halted core. -/
  | debugStep (c pc : Nat)
  /-- DEBUG_RESUME (R554): The debug module resumes a halted core. -/
  | debugResume (c : Nat)
  /-- DEBUG_REGISTER_WRITE (R555): The debug module writes a core register through abstract access. -/
  | debugRegisterWrite (c reg value : Nat)
  /-- DEBUG_TRIGGER_HIT (R555): A hardware trigger of a core fires and sets DEBUG_TOUCHED. -/
  | debugTriggerHit (c pc : Nat)
  /-- TRACE_SAMPLE (R557): Every SAMPLE_US µs a counter sample packet is taken for trace. -/
  | traceSample
  /-- HOLD_ENTRY (R569): After IDLE_HOLD ticks of idle compute pages the device enters HOLD. -/
  | holdEntry
  /-- NAP_ENTRY (R569): After IDLE_NAP further ticks in HOLD the device enters NAP. -/
  | napEntry
  /-- COMPUTE_REQUEST_WAKE (R569): A request needing a compute domain starts the return from HOLD or NAP to RUN. -/
  | computeRequestWake
  /-- SLEEP_GO (R571): A write of SLEEP with GO requests DOZE, REST or DORMANT, or is refused with REFUSE_CAUSE. -/
  | sleepGo (ini : Ini) (rung : Nat)
  /-- RUNG_ENTRY_DONE (R572): The entry sequence completes and RUNG shows the new rung. -/
  | rungEntryDone
  /-- WAKE (R573): An enabled wake source acts and starts the exit from the rung. -/
  | wake (src : Nat)
  /-- RUNG_EXIT_DONE (R575): The exit steps from a rung complete and the device is in RUN. -/
  | rungExitDone
  /-- TEMP_UPDATE (R584): Every 1 ms the sensors update, checks are made, and the throttle level and THERMAL change. -/
  | tempUpdate (temps : List (Option Int))
  /-- T_PEAK (R589): A read of T_PEAK returns the highest T_HOT and clears it. -/
  | tPeak (ini : Ini)
  /-- POR (R598): POR_N is released after a cold reset, device time starts and straps are latched. -/
  | por (mode : Nat)
  /-- POR_ASSERT (R595): POR_N falls and every output is released within 100 ns for a cold reset. -/
  | porAssert
  /-- RST_N (R591): RST_N held low for 1 µs requests a warm reset. -/
  | rstN
  /-- WARM (R594): A write of WARM with KEY 0xA5 starts a warm reset. -/
  | warm (ini : Ini) (key : Nat)
  /-- COLD (R591): A write of COLD with KEY 0xA5 starts a cold reset. -/
  | cold (ini : Ini) (key : Nat)
  /-- WARM_BUS_RELEASE (R594): 10 µs after a warm-reset request the port stops driving and LIO pins are parked. -/
  | warmBusRelease
  /-- WARM_RESET_ENTRY (R606): 20 µs after the request the device enters reset and open verdict entries become FALLBACK. -/
  | warmResetEntry
  /-- RESET_RELEASE (R594): The warm reset is left and the boot sequence resumes. -/
  | resetRelease
  /-- BOOT_ROM (R601): The boot ROM discovers flash, reads the directory and checks and loads the images. -/
  | bootRom (flash : Cells) (found quad : Bool)
  /-- ROM_DONE (R601): The boot ROM records the image entries, sets ROM_DONE and jumps to the island firmware. -/
  | romDone
  /-- RECOV_GO (R604): A write of RECOV_GO lets the ROM boot from host-supplied images in Shared Vision Memory. -/
  | recovGo (ini : Ini)
  /-- STARTING_END (R608): STARTING ends once ROM_DONE, a kick, a rotation and ready memory all hold. -/
  | startingEnd
  /-- ULPS (R59): A D-PHY clock or data lane enters or leaves ULPS, which changes the ULPS and STOP bits of PHY_STAT. -/
  | ulps (port lane : Nat) (enter : Bool)
  /-- SKEW_CALIBRATION (R59): An initial or periodic skew calibration sequence arrives on the link and sets DESKEW_DONE when it completes. -/
  | skewCalibration (port : Nat)
  /-- DL_UP (R408): The PCIe link trains and its data link comes up, which sets DL_UP, LINK_UP, WIDTH and RATE. -/
  | dlUp (width rate : Nat) (rev : Bool)
  /-- LINK_RECOVERY (R528): The PCIe link enters Recovery on errors and returns to L0; RECOVERY_CNT is counted, the event is logged at level 0, and its incident ID is attached to outstanding transactions. -/
  | linkRecovery (back : Bool) (us width rate : Nat)
  /-- LINK_REPLAY (R518): The data link layer replays TLPs after an error, which counts REPLAY_CNT and logs LINK_REPLAY. -/
  | linkReplay (n : Nat)
  /-- ASPM_L1 (R403): The PCIe link enters or leaves the ASPM L1 power state, which is reported in LTSSM. -/
  | aspmL1 (on : Bool)
  /-- PCIE_REFCLK_PRESENCE (R590): PCIE_REFCLK is lost or returns, which changes PCIE_REF_OK. -/
  | pcieRefclkPresence (on : Bool)
  /-- VP_CLK_STOP (R456): 10 µs pass without a VP_CLK edge and CLK_ACTIVE clears. -/
  | vpClkStop
  /-- PWM_HIGH_END (R452): HIGH ticks after the start of a PWM period, the PWM pins return inactive for the rest of the period. -/
  | pwmHighEnd (k : Nat)
  /-- MR4_READ (R387): Every 10 ms each LPDDR5X controller reads MR4 and updates the refresh rate and MR4_RATE. -/
  | mr4Read (i rate : Nat)
  /-- ISLAND_FIRMWARE_KICK (R481): The island firmware kicks the device watchdog, which restarts its 500 ms timer and satisfies condition 2 of R608. -/
  | islandFirmwareKick
  /-- ISLAND_TCM_ECC (R496): An uncorrectable error in the island's TCM raises FAULT with FAULT_CAUSE 7. -/
  | islandTcmEcc
deriving DecidableEq, Repr

end Sys2Proof
end

