-- ==== Sys2Proof/Config.lean ====
section
/-! DEFINITION. What an implementation fixes, and the values the spec leaves open.  Every `opaque` constant is a free
value: nothing can be proved of it, so a claim holds whatever it is. -/
namespace Sys2Proof.Config

/-- Silicon stepping, SYS_FAM0.STEP (R57, per part). -/
opaque step : BitVec 8

/-- Unique device ID word k, SYS_UIDk (R57, per part). -/
opaque uid : Nat → Word

/-- A value the spec leaves open, taken with a fresh counter each time (assumption log). -/
opaque freeWord : Nat → BitVec 64

/-- SHA-384 of a byte string (FIPS 180-4, outside the spec; R539, R551). -/
opaque sha384 : List Byte → BitVec 384

/-- ECDSA P-384 verification of a digest under a public key and a signature (R539). -/
opaque ecdsaVerify : List Byte → BitVec 384 → List Byte → Bool

/-- Deterministic ECDSA P-384 signature of a digest with the device's attestation key (R551). -/
opaque ecdsaSign : BitVec 384 → List Byte

/-- The attestation public key derived from the device secret (R538), 96 bytes. -/
opaque akPub : List Byte

end Sys2Proof.Config
end

