-- ==== Sys2Proof/Machine/RegTypes.lean ====
section
/-! DEFINITION. The shape of a register-field description: where a field lies in its page, its access code (R8), the
values it accepts (R640) and what guards a write of it. -/
namespace Sys2Proof.Machine

/-- Access codes of R8.  `ws` is a WO field whose written value the device keeps although it reads as zero. -/
inductive Acc | rw | ro | wo | w1c | w1s | rc | rwl | ws
deriving DecidableEq, Repr

/-- The values a field accepts (R640). -/
inductive Ok
  | any
  | range (lo hi : Nat)
  | codes (l : List Nat)
  | align (n : Nat)
deriving DecidableEq, Repr

/-- The condition a chapter sets on a write of a field, beyond its access code. -/
inductive Guard
  | free
  | bind
  | chIdleOff
  | chOff
  | ctxEn0
  | fawnEn
  | inEn0
  | ld
  | logRing
  | outFmt
  | pageOff
  | pairOff
  | perfSel
  | plFmt
  | planeId
  | qIdleOff
  | qOff
  | regionEn0
  | sclass
  | slotFree
  | slotIdle
  | sta0
deriving DecidableEq, Repr

/-- Fields whose value is a view of other state and not a cell of its own. -/
inductive Live
  | stored
  | akPub
  | attn
  | bme
  | busy
  | cover
  | fawn
  | fuseFault
  | gtActive
  | gtOwner
  | gtReq
  | gtStarted
  | gtState
  | i3cCmdLevel
  | i3cIbi
  | i3cResp
  | i3cRespLevel
  | i3cRx
  | i3cRxLevel
  | i3cTxLevel
  | inLvl
  | inst
  | lineCond
  | linkUp
  | locked
  | lvuFawn
  | monLine
  | npOut
  | outstanding
  | param0
  | param1
  | partEntry
  | pfqActive
  | qFree
  | rbCount
  | rbExhausted
  | rom
  | rotpk
  | rotpkSet
  | semRes
  | semResCount
  | smvActive
  | step
  | switchBusy
  | tcmData
  | time
  | toneB
  | toneG
  | toneR
  | type
  | uartRx
  | uartRxLevel
  | uartTxLevel
  | uid
  | vblank
deriving DecidableEq, Repr

/-- What follows a generic write of a field at once. -/
inductive Hook
  | none
  | msix
  | pwm
  | seed
  | gold
  | uartEn
  | wdEn
  | atMode
deriving DecidableEq, Repr

/-- The kinds of register page (R32). -/
inductive PageKind
  | sys | clk | pwr | rst | fus | sec | dbg | saf | chk | erl | csi | isp | ctx | pyr | wrp | hmp | ste | flw | fea
  | sta | lvu | fgs | cc | smv | pfq | fab | svm | lpc | scr | pci | vpt | lio | i3c | mon | dptx | ch | pq | hq
deriving DecidableEq, Repr

/-- One register field.  `off` is the byte offset of its (low) word in the page, `lo` its lowest bit, `w` its width.
Instance i lies `i * str` bits further on; with `inner ≠ 0` instances nest.  A windowed field (`win`) is addressed
through a select register, and its instances have their cells at `home`.  `q`: part of a 64-bit register (R54).
`own`: writes of it are a row of the command table of their own. -/
structure Fld where
  off : Nat
  lo : Nat
  w : Nat
  acc : Acc
  rst : Nat := 0
  rl : List Nat := []
  cnt : Nat := 1
  str : Nat := 0
  inner : Nat := 0
  ostr : Nat := 0
  win : Bool := false
  home : Nat := 0
  q : Bool := false
  ok : Ok := .any
  guard : Guard := .free
  live : Live := .stored
  hook : Hook := .none
  own : Bool := false
  p0 : Bool := false
  grp : Bool := false
deriving DecidableEq, Repr

end Sys2Proof.Machine
end

