-- ==== Sys2Proof/Machine/RegMap.lean ====
section
/-! DEFINITION. Every register field of the BAR0 pages, one definition each, and one table of fields per kind of page.
The docstring of a field gives the name the spec uses; the heading of its group gives the rule of the register table. -/
namespace Sys2Proof.Machine.R

/-! ### HDR (R34-R46 common page header) -/

/-- PAGE_ID.MINOR (R34). -/
def pageMinor : Fld := { off := 0x000, lo := 0, w := 8, acc := .ro }
/-- PAGE_ID.MAJOR (R35). -/
def pageMajor : Fld := { off := 0x000, lo := 8, w := 8, acc := .ro, rst := 1 }
/-- PAGE_ID.INST (R34). -/
def pageInst : Fld := { off := 0x000, lo := 16, w := 8, acc := .ro, live := .inst }
/-- PAGE_ID.TYPE (R32). -/
def pageType : Fld := { off := 0x000, lo := 24, w := 8, acc := .ro, live := .type }
/-- PAGE_PARAM0[23:0] block parameters (R36). -/
def pageParam0 : Fld := { off := 0x004, lo := 0, w := 24, acc := .ro, live := .param0 }
/-- PAGE_PARAM0[31:24] counter events (R36). -/
def pageEvents : Fld := { off := 0x004, lo := 24, w := 8, acc := .ro, rst := 12 }
/-- PAGE_PARAM1 block parameters (R36). -/
def pageParam1 : Fld := { off := 0x008, lo := 0, w := 32, acc := .ro, live := .param1 }
/-- PAGE_CTRL.ENABLE (R38). -/
def enable : Fld := { off := 0x00C, lo := 0, w := 1, acc := .rw, own := true }
/-- PAGE_CTRL.SOFT_RESET (R52). -/
def softReset : Fld := { off := 0x00C, lo := 1, w := 1, acc := .wo, own := true }
/-- PAGE_CTRL.LOCK (R50). -/
def lock : Fld := { off := 0x00C, lo := 2, w := 1, acc := .w1s, own := true }
/-- PAGE_CTRL.PERF_EN (R45). -/
def perfEn : Fld := { off := 0x00C, lo := 8, w := 1, acc := .rw }
/-- PAGE_CTRL.PERF_CLEAR (R45). -/
def perfClear : Fld := { off := 0x00C, lo := 9, w := 1, acc := .wo, own := true }
/-- PAGE_STAT.STATE (R37). -/
def pstate : Fld := { off := 0x010, lo := 0, w := 4, acc := .ro }
/-- PAGE_STAT.BUSY, a view of STATE (R37). -/
def busy : Fld := { off := 0x010, lo := 4, w := 1, acc := .ro, live := .busy }
/-- PAGE_STAT.ATTN, a view of PAGE_ERR and its mask (R40). -/
def attn : Fld := { off := 0x010, lo := 5, w := 1, acc := .ro, live := .attn }
/-- PAGE_STAT.LOCKED, copy of LOCK (R50). -/
def locked : Fld := { off := 0x010, lo := 6, w := 1, acc := .ro, live := .locked }
/-- PAGE_STAT.PERF_OVF (R45). -/
def perfOvf : Fld := { off := 0x010, lo := 8, w := 4, acc := .w1c }
/-- PAGE_ERR (R39). -/
def pageErr : Fld := { off := 0x014, lo := 0, w := 32, acc := .w1c, own := true }
/-- PAGE_ERR_MASK (R40). -/
def pageErrMask : Fld := { off := 0x018, lo := 0, w := 32, acc := .rw }
/-- PAGE_ERR_FIRST.BIT (R41). -/
def errFirstBit : Fld := { off := 0x01C, lo := 0, w := 5, acc := .ro }
/-- PAGE_ERR_FIRST.VALID (R41). -/
def errFirstValid : Fld := { off := 0x01C, lo := 31, w := 1, acc := .ro }
/-- PAGE_INJ.BIT (R42). -/
def injBit : Fld := { off := 0x020, lo := 0, w := 5, acc := .rw }
/-- PAGE_INJ.ARM (R42). -/
def injArm : Fld := { off := 0x020, lo := 5, w := 1, acc := .w1s, own := true }
/-- PAGE_INJ.CONT (R42). -/
def injCont : Fld := { off := 0x020, lo := 6, w := 1, acc := .rw, own := true }
/-- PAGE_SELFTEST.START (R43). -/
def stStart : Fld := { off := 0x024, lo := 0, w := 1, acc := .wo, own := true }
/-- PAGE_SELFTEST.DONE (R43). -/
def stDone : Fld := { off := 0x024, lo := 1, w := 1, acc := .ro }
/-- PAGE_SELFTEST.PASS (R43). -/
def stPass : Fld := { off := 0x024, lo := 2, w := 1, acc := .ro }
/-- PAGE_SELFTEST.SEL (R43). -/
def stSel : Fld := { off := 0x024, lo := 8, w := 8, acc := .rw }
/-- PAGE_SELFTEST.TIME in µs (R43). -/
def stTime : Fld := { off := 0x024, lo := 16, w := 16, acc := .ro }
/-- PAGE_OWNER.PART (R44). -/
def owner : Fld := { off := 0x028, lo := 0, w := 3, acc := .rwl, own := true }
/-- PAGE_PERF_SEL selector k (R45). -/
def perfSel : Fld := { off := 0x02C, lo := 0, w := 8, acc := .rw, cnt := 4, str := 8, guard := .perfSel }
/-- PAGE_PERFk counters (R45). -/
def perf : Fld := { off := 0x030, lo := 0, w := 64, acc := .ro, cnt := 4, str := 64, q := true }

/-! ### SYS (R57) -/

/-- SYS_FAM0.MEMBER. -/
def famMember : Fld := { off := 0x080, lo := 0, w := 8, acc := .ro, rst := 4 }
/-- SYS_FAM0.STEP silicon stepping, per part (Config). -/
def famStep : Fld := { off := 0x080, lo := 8, w := 8, acc := .ro, live := .step }
/-- SYS_FAM0 STA arrays. -/
def famSta : Fld := { off := 0x080, lo := 16, w := 4, acc := .ro, rst := 4 }
/-- SYS_FAM0 array rows. -/
def famRows : Fld := { off := 0x080, lo := 20, w := 12, acc := .ro, rst := 512 }
/-- SYS_FAM1 CSI-2 ports. -/
def famCsi : Fld := { off := 0x084, lo := 0, w := 4, acc := .ro, rst := 12 }
/-- SYS_FAM1 virtual channels. -/
def famVc : Fld := { off := 0x084, lo := 4, w := 4, acc := .ro, rst := 4 }
/-- SYS_FAM1 streams. -/
def famStreams : Fld := { off := 0x084, lo := 8, w := 8, acc := .ro, rst := 48 }
/-- SYS_FAM1 ISP pipes. -/
def famIsp : Fld := { off := 0x084, lo := 16, w := 4, acc := .ro, rst := 4 }
/-- SYS_FAM1 LVUs. -/
def famLvu : Fld := { off := 0x084, lo := 20, w := 4, acc := .ro, rst := 2 }
/-- SYS_FAM1 cores. -/
def famCores : Fld := { off := 0x084, lo := 24, w := 4, acc := .ro, rst := 8 }
/-- SYS_FAM1 partitions. -/
def famParts : Fld := { off := 0x084, lo := 28, w := 4, acc := .ro, rst := 8 }
/-- SYS_FAM2 PYR. -/
def famPyr : Fld := { off := 0x088, lo := 0, w := 4, acc := .ro, rst := 2 }
/-- SYS_FAM2 WRP. -/
def famWrp : Fld := { off := 0x088, lo := 4, w := 4, acc := .ro, rst := 4 }
/-- SYS_FAM2 HMP. -/
def famHmp : Fld := { off := 0x088, lo := 8, w := 4, acc := .ro, rst := 1 }
/-- SYS_FAM2 STE. -/
def famSte : Fld := { off := 0x088, lo := 12, w := 4, acc := .ro, rst := 2 }
/-- SYS_FAM2 FLW. -/
def famFlw : Fld := { off := 0x088, lo := 16, w := 4, acc := .ro, rst := 2 }
/-- SYS_FAM2 FEA. -/
def famFea : Fld := { off := 0x088, lo := 20, w := 4, acc := .ro, rst := 2 }
/-- SYS_FAM2 vision engines. -/
def famVision : Fld := { off := 0x088, lo := 24, w := 8, acc := .ro, rst := 13 }
/-- SYS_FAM3 log2 verdict entries. -/
def famVt : Fld := { off := 0x08C, lo := 0, w := 5, acc := .ro, rst := 16 }
/-- SYS_FAM3 SVM banks. -/
def famBanks : Fld := { off := 0x08C, lo := 8, w := 8, acc := .ro, rst := 48 }
/-- SYS_FAM3 bank MiB. -/
def famBankMib : Fld := { off := 0x08C, lo := 16, w := 8, acc := .ro, rst := 2 }
/-- SYS_FAM3 channels. -/
def famChannels : Fld := { off := 0x08C, lo := 24, w := 8, acc := .ro, rst := 64 }
/-- SYS_FAM4 prefetch queues. -/
def famQueues : Fld := { off := 0x090, lo := 0, w := 8, acc := .ro, rst := 64 }
/-- SYS_FAM4 LPDDR5X channels. -/
def famLpc : Fld := { off := 0x090, lo := 8, w := 8, acc := .ro, rst := 4 }
/-- SYS_FAM4 weight planes. -/
def famPlanes : Fld := { off := 0x090, lo := 16, w := 8, acc := .ro, rst := 32 }
/-- SYS_FAM4 queue pairs. -/
def famPairs : Fld := { off := 0x090, lo := 24, w := 8, acc := .ro, rst := 16 }
/-- SYS_UID0-3 unique device ID (Config). -/
def sysUid : Fld := { off := 0x0A0, lo := 0, w := 32, acc := .ro, cnt := 4, str := 32, live := .uid }
/-- SYS_TIME device time. -/
def sysTime : Fld := { off := 0x0B0, lo := 0, w := 64, acc := .ro, q := true, live := .time }

/-! ### CLK (R590) -/

/-- CLK_STAT.PLL_LOCK. -/
def pllLock : Fld := { off := 0x080, lo := 0, w := 1, acc := .ro }
/-- CLK_STAT.PCIE_REF_OK. -/
def pcieRefOk : Fld := { off := 0x080, lo := 1, w := 1, acc := .ro }
/-- CLK_STAT.SLOW_FROM_REF. -/
def slowFromRef : Fld := { off := 0x080, lo := 2, w := 1, acc := .ro, rst := 1 }
/-- FAB_KHZ ARR_KHZ VIS_KHZ CTL_KHZ SLOW_KHZ. -/
def clkKhz : Fld := { off := 0x084, lo := 0, w := 24, acc := .ro, cnt := 5, str := 32 }
/-- REF_KHZ. -/
def refKhz : Fld := { off := 0x098, lo := 0, w := 24, acc := .ro }

/-! ### PWR (R589) -/

/-- PWR_CTRL.AUTO_FLOOR. -/
def autoFloor : Fld := { off := 0x080, lo := 0, w := 2, acc := .rw, ok := .range 0 2 }
/-- PWR_CTRL.SLEEP (R571). -/
def sleepReq : Fld := { off := 0x080, lo := 4, w := 3, acc := .rw }
/-- PWR_CTRL.GO. -/
def sleepGo : Fld := { off := 0x080, lo := 8, w := 1, acc := .wo, own := true }
/-- PWR_STAT.RUNG (R568). -/
def rung : Fld := { off := 0x084, lo := 0, w := 3, acc := .ro }
/-- PWR_STAT.ENTERING. -/
def entering : Fld := { off := 0x084, lo := 3, w := 1, acc := .ro }
/-- PWR_STAT.EXITING. -/
def exiting : Fld := { off := 0x084, lo := 4, w := 1, acc := .ro }
/-- PWR_STAT.REFUSE_CAUSE (R571). -/
def refuseCause : Fld := { off := 0x084, lo := 8, w := 3, acc := .ro }
/-- PWR_STAT.WAKE_CAUSE (R573). -/
def wakeCause : Fld := { off := 0x084, lo := 16, w := 3, acc := .ro }
/-- PWR_STAT.PREQ CORE IO DRAM. -/
def preq : Fld := { off := 0x084, lo := 20, w := 3, acc := .ro, rst := 7 }
/-- IDLE_HOLD. -/
def idleHold : Fld := { off := 0x088, lo := 0, w := 32, acc := .rw, rst := 1000 }
/-- IDLE_NAP. -/
def idleNap : Fld := { off := 0x08C, lo := 0, w := 32, acc := .rw, rst := 100000 }
/-- WAKE_EN (R573). -/
def wakeEn : Fld := { off := 0x090, lo := 0, w := 6, acc := .rw, rst := 1 }
/-- WAKE_PINS. -/
def wakePins : Fld := { off := 0x094, lo := 0, w := 24, acc := .rw }
/-- WAKE_TIME. -/
def wakeTime : Fld := { off := 0x098, lo := 0, w := 64, acc := .rw, q := true }
/-- WAKE_ENC. -/
def wakeEnc : Fld := { off := 0x0A0, lo := 0, w := 2, acc := .rw }
/-- WAKE_COUNTS. -/
def wakeCounts : Fld := { off := 0x0A4, lo := 0, w := 32, acc := .rw }
/-- RAIL_WAIT µs. -/
def railWait : Fld := { off := 0x0A8, lo := 0, w := 10, acc := .rw, rst := 500, ok := .range 50 800 }
/-- TEMPk (R586). -/
def temp : Fld := { off := 0x0B0, lo := 0, w := 12, acc := .ro, cnt := 8, str := 32 }
/-- THERM_STAT.LEVEL (R584). -/
def thermLevel : Fld := { off := 0x0D0, lo := 0, w := 3, acc := .ro }
/-- THERM_STAT.HOT. -/
def thermHot : Fld := { off := 0x0D0, lo := 3, w := 1, acc := .ro }
/-- THERM_STAT.SENS_FAIL (R586). -/
def sensFail : Fld := { off := 0x0D0, lo := 8, w := 8, acc := .ro }
/-- T_PEAK. -/
def tPeak : Fld := { off := 0x0D4, lo := 0, w := 12, acc := .rc, own := true }
/-- THROTTLE_MS. -/
def throttleMs : Fld := { off := 0x0D8, lo := 0, w := 32, acc := .ro }
/-- HOLD_CNT. -/
def holdCnt : Fld := { off := 0x0DC, lo := 0, w := 32, acc := .ro }
/-- NAP_CNT. -/
def napCnt : Fld := { off := 0x0E0, lo := 0, w := 32, acc := .ro }
/-- WAKE_CNT. -/
def wakeCnt : Fld := { off := 0x0E4, lo := 0, w := 32, acc := .ro }

/-! ### RST (R610) -/

/-- RST_CTRL.WARM. -/
def rstWarm : Fld := { off := 0x080, lo := 0, w := 1, acc := .wo, own := true }
/-- RST_CTRL.COLD. -/
def rstCold : Fld := { off := 0x080, lo := 1, w := 1, acc := .wo, own := true }
/-- RST_CTRL.KEY. -/
def rstKey : Fld := { off := 0x080, lo := 8, w := 8, acc := .wo, own := true }
/-- RST_STAT.CAUSE. -/
def rstCause : Fld := { off := 0x084, lo := 0, w := 3, acc := .ro, rst := 1 }
/-- RST_STAT.BOOT_MODE strap (R597). -/
def bootMode : Fld := { off := 0x084, lo := 4, w := 2, acc := .ro }
/-- RST_STAT.STARTING (R608). -/
def starting : Fld := { off := 0x084, lo := 8, w := 1, acc := .ro, rst := 1 }
/-- RST_STAT.ROM_DONE. -/
def romDone : Fld := { off := 0x084, lo := 9, w := 1, acc := .ro }
/-- RST_STAT.BOOT_FAIL. -/
def bootFail : Fld := { off := 0x084, lo := 10, w := 1, acc := .ro }
/-- BOOT_STAT.STEP (R601). -/
def bootStep : Fld := { off := 0x088, lo := 0, w := 4, acc := .ro }
/-- BOOT_STAT.STATUS. -/
def bootStatus : Fld := { off := 0x088, lo := 4, w := 4, acc := .ro }
/-- BOOT_STAT.IMAGE. -/
def bootImage : Fld := { off := 0x088, lo := 8, w := 4, acc := .ro }
/-- BOOT_STAT.COPY_B. -/
def bootCopyB : Fld := { off := 0x088, lo := 12, w := 1, acc := .ro }
/-- BOOT_STAT.QUAD. -/
def bootQuad : Fld := { off := 0x088, lo := 13, w := 1, acc := .ro }
/-- ROM_TIME. -/
def romTime : Fld := { off := 0x08C, lo := 0, w := 64, acc := .ro, q := true }
/-- STARTED_TIME. -/
def startedTime : Fld := { off := 0x094, lo := 0, w := 64, acc := .ro, q := true }
/-- RECOV_GO (R604). -/
def recovGo : Fld := { off := 0x09C, lo := 0, w := 1, acc := .wo, own := true }
/-- CFG_REJECT (R603). -/
def cfgReject : Fld := { off := 0x0A0, lo := 0, w := 16, acc := .ro }
/-- WARM_CNT. -/
def warmCnt : Fld := { off := 0x0A4, lo := 0, w := 16, acc := .ro }

/-! ### FUS (R560) -/

/-- RB_COUNT (fuses, R547). -/
def rbCount : Fld := { off := 0x080, lo := 0, w := 7, acc := .ro, live := .rbCount }
/-- EXHAUSTED (fuses). -/
def rbExhausted : Fld := { off := 0x080, lo := 8, w := 1, acc := .ro, live := .rbExhausted }
/-- FUSE_FAULT (fuses). -/
def fuseFault : Fld := { off := 0x080, lo := 9, w := 1, acc := .ro, live := .fuseFault }
/-- ROTPK_SET (fuses). -/
def rotpkSet : Fld := { off := 0x080, lo := 10, w := 1, acc := .ro, live := .rotpkSet }
/-- RB_TARGET. -/
def rbTarget : Fld := { off := 0x084, lo := 0, w := 7, acc := .rw }
/-- RB_GO. -/
def rbGo : Fld := { off := 0x088, lo := 0, w := 1, acc := .wo, own := true }
/-- RB_STATE. -/
def rbState : Fld := { off := 0x08C, lo := 0, w := 2, acc := .ro }
/-- ROTPK_HASH (fuses). -/
def rotpkHash : Fld := { off := 0x090, lo := 0, w := 32, acc := .ro, cnt := 12, str := 32, live := .rotpk }
/-- ROTPK_PROG hash to program. -/
def rotpkProg : Fld := { off := 0x0C0, lo := 0, w := 32, acc := .ws, cnt := 12, str := 32, p0 := true }
/-- ROTPK_GO. -/
def rotpkGo : Fld := { off := 0x0F0, lo := 0, w := 1, acc := .wo, own := true }

/-! ### SEC (R561) -/

/-- AK_PUB (derived). -/
def akPub : Fld := { off := 0x080, lo := 0, w := 32, acc := .ro, cnt := 24, str := 32, live := .akPub }
/-- LD_SRC. -/
def ldSrc : Fld := { off := 0x0E0, lo := 0, w := 64, acc := .rw, q := true, ok := .align 64, guard := .ld }
/-- LD_CORE. -/
def ldCore : Fld := { off := 0x0E8, lo := 0, w := 3, acc := .rw, guard := .ld }
/-- LD_GO. -/
def ldGo : Fld := { off := 0x0EC, lo := 0, w := 1, acc := .wo, own := true }
/-- LD_STAT. -/
def ldStat : Fld := { off := 0x0F0, lo := 0, w := 4, acc := .ro }
/-- UPD_MARK (R545). -/
def updMark : Fld := { off := 0x0F4, lo := 0, w := 8, acc := .rw, own := true }
/-- REPORT_SEQ. -/
def reportSeq : Fld := { off := 0x0F8, lo := 0, w := 32, acc := .ro }
/-- image entry e, word w at index 16e+w (R551). -/
def imageEntry : Fld := { off := 0x100, lo := 0, w := 32, acc := .ro, cnt := 160, str := 32 }
/-- partition entry p, word w at index 16p+w (R551). -/
def partEntry : Fld := { off := 0x400, lo := 0, w := 32, acc := .ro, cnt := 128, str := 32, live := .partEntry }

/-! ### DBG (R562) -/

/-- DEBUG_FLAGS (R556). -/
def debugFlags : Fld := { off := 0x080, lo := 0, w := 4, acc := .ro }
/-- DEBUG_TIME. -/
def debugTime : Fld := { off := 0x088, lo := 0, w := 64, acc := .ro, q := true }
/-- TRACE_CFG.SRC_EN. -/
def traceSrcEn : Fld := { off := 0x090, lo := 0, w := 12, acc := .rw }
/-- TRACE_CFG.PORT_EN. -/
def tracePortEn : Fld := { off := 0x090, lo := 12, w := 1, acc := .rw }
/-- TRACE_CFG.HOST_EN. -/
def traceHostEn : Fld := { off := 0x090, lo := 13, w := 1, acc := .rw }
/-- TRACE_CFG.SAMPLE_US. -/
def sampleUs : Fld := { off := 0x090, lo := 16, w := 16, acc := .rw, rst := 1000 }
/-- TRACE_BASE host address. -/
def traceBase : Fld := { off := 0x098, lo := 0, w := 64, acc := .rw, q := true, ok := .align 64 }
/-- TRACE_SIZE. -/
def traceSize : Fld := { off := 0x0A0, lo := 0, w := 32, acc := .rw, ok := .align 64 }
/-- TRACE_WR. -/
def traceWr : Fld := { off := 0x0A4, lo := 0, w := 32, acc := .ro }
/-- TRACE_RD. -/
def traceRd : Fld := { off := 0x0A8, lo := 0, w := 32, acc := .rw }
/-- TRACE_DROP_CNT. -/
def traceDropCnt : Fld := { off := 0x0AC, lo := 0, w := 32, acc := .ro }

/-! ### SAF (R516) -/

/-- SAF_STAT.FAULT. -/
def fault : Fld := { off := 0x080, lo := 0, w := 1, acc := .ro }
/-- SAF_STAT.FALLBACK_ALL. -/
def fallbackAll : Fld := { off := 0x080, lo := 1, w := 1, acc := .ro }
/-- SAF_STAT.LINE_FB bit L. -/
def lineFb : Fld := { off := 0x080, lo := 4, w := 4, acc := .ro }
/-- SAF_STAT.DEV_OK (DEV_OK_N driven low). -/
def devOk : Fld := { off := 0x080, lo := 8, w := 1, acc := .ro }
/-- SAF_STAT.FAULT_CAUSE. -/
def faultCause : Fld := { off := 0x080, lo := 12, w := 4, acc := .ro }
/-- RESUME.LINES (R495). -/
def resumeLines : Fld := { off := 0x084, lo := 0, w := 4, acc := .wo, own := true }
/-- RESUME.ALL. -/
def resumeAll : Fld := { off := 0x084, lo := 4, w := 1, acc := .wo, own := true }
/-- DOUBT_REQ.TAG (R483). -/
def doubtTag : Fld := { off := 0x088, lo := 0, w := 16, acc := .wo, own := true }
/-- DOUBT_REQ.LINE. -/
def doubtLine : Fld := { off := 0x088, lo := 16, w := 2, acc := .wo, own := true }
/-- WD_KICK (R497). -/
def wdKick : Fld := { off := 0x08C, lo := 0, w := 32, acc := .wo, own := true }
/-- WD_EN bit p. -/
def wdEn : Fld := { off := 0x090, lo := 0, w := 8, acc := .rwl, hook := .wdEn }
/-- DOUBT_CNT. -/
def doubtCnt : Fld := { off := 0x094, lo := 0, w := 32, acc := .ro }
/-- LATE_DOUBT_CNT. -/
def lateDoubtCnt : Fld := { off := 0x098, lo := 0, w := 32, acc := .ro }
/-- HELD_CNT. -/
def heldCnt : Fld := { off := 0x09C, lo := 0, w := 32, acc := .ro }
/-- PLAUS_CNT. -/
def plausCnt : Fld := { off := 0x0A0, lo := 0, w := 32, acc := .ro }
/-- F_CFG.FAWN_EN (R501). -/
def fawnEn : Fld := { off := 0x100, lo := 0, w := 1, acc := .rwl, cnt := 4, str := 512, guard := .fawnEn }
/-- F_CFG.BIND (R485). -/
def bind : Fld := { off := 0x100, lo := 1, w := 1, acc := .rwl, cnt := 4, str := 512, guard := .bind }
/-- F_CFG.FAWN_PAIRS. -/
def fawnPairs : Fld := { off := 0x100, lo := 8, w := 8, acc := .rwl, cnt := 4, str := 512 }
/-- F_CFG.CLASS_SLACK. -/
def classSlack : Fld := { off := 0x100, lo := 16, w := 4, acc := .rwl, rst := 1, cnt := 4, str := 512 }
/-- F_EXIT. -/
def fExit : Fld := { off := 0x104, lo := 0, w := 32, acc := .rwl, cnt := 4, str := 512 }
/-- F_GUARD mm. -/
def fGuard : Fld := { off := 0x108, lo := 0, w := 16, acc := .rwl, rst := 50, cnt := 4, str := 512 }
/-- F_MB mm. -/
def fMb : Fld := { off := 0x108, lo := 16, w := 16, acc := .rwl, rst := 20, cnt := 4, str := 512 }
/-- F_HMIN. -/
def fHmin : Fld := { off := 0x10C, lo := 0, w := 16, acc := .rwl, rst := 240, cnt := 4, str := 512 }
/-- F_MH_REL. -/
def fMhRel : Fld := { off := 0x10C, lo := 16, w := 8, acc := .rwl, rst := 13, cnt := 4, str := 512 }
/-- F_MH_ABS. -/
def fMhAbs : Fld := { off := 0x10C, lo := 24, w := 8, acc := .rwl, rst := 10, cnt := 4, str := 512 }
/-- F_MINCNT. -/
def fMincnt : Fld := { off := 0x110, lo := 0, w := 8, acc := .rwl, rst := 2, cnt := 4, str := 512 }
/-- F_GAP. -/
def fGap : Fld := { off := 0x110, lo := 8, w := 24, acc := .rwl, rst := 400, cnt := 4, str := 512 }
/-- F_STE.DMIN. -/
def fDmin : Fld := { off := 0x114, lo := 0, w := 10, acc := .rwl, cnt := 4, str := 512 }
/-- F_STE.NDC. -/
def fNdc : Fld := { off := 0x114, lo := 10, w := 4, acc := .rwl, cnt := 4, str := 512 }
/-- F_STE.P1. -/
def fP1 : Fld := { off := 0x114, lo := 16, w := 8, acc := .rwl, rst := 8, cnt := 4, str := 512 }
/-- F_STE.P2. -/
def fP2 : Fld := { off := 0x114, lo := 24, w := 8, acc := .rwl, rst := 32, cnt := 4, str := 512 }
/-- LRCOV_MIN. -/
def fLrcovMin : Fld := { off := 0x118, lo := 0, w := 8, acc := .rwl, rst := 128, cnt := 4, str := 512 }
/-- F_WORK_BASE. -/
def fWorkBase : Fld := { off := 0x120, lo := 0, w := 64, acc := .rwl, cnt := 4, str := 512, q := true, ok := .align 64 }
/-- F_RES_BASE. -/
def fResBase : Fld := { off := 0x128, lo := 0, w := 64, acc := .rwl, cnt := 4, str := 512, q := true, ok := .align 64 }
/-- F_CAL_BASE. -/
def fCalBase : Fld := { off := 0x130, lo := 0, w := 64, acc := .rwl, cnt := 4, str := 512, q := true, ok := .align 64 }
/-- F_RES_IDX. -/
def fResIdx : Fld := { off := 0x138, lo := 0, w := 32, acc := .ro, cnt := 4, str := 512 }
/-- CAM_POS signed counts. -/
def camPos : Fld := { off := 0x400, lo := 0, w := 32, acc := .rwl, cnt := 48, str := 64 }
/-- CAM_HALF. -/
def camHalf : Fld := { off := 0x404, lo := 0, w := 16, acc := .rwl, cnt := 48, str := 64 }
/-- SAFE. -/
def camSafe : Fld := { off := 0x404, lo := 16, w := 1, acc := .rwl, cnt := 48, str := 64 }
/-- LINE. -/
def camLine : Fld := { off := 0x404, lo := 17, w := 2, acc := .rwl, cnt := 48, str := 64 }
/-- PAIR. -/
def camPair : Fld := { off := 0x404, lo := 20, w := 4, acc := .rwl, rst := 15, cnt := 48, str := 64 }
/-- RIGHT. -/
def camRight : Fld := { off := 0x404, lo := 24, w := 1, acc := .rwl, cnt := 48, str := 64 }
/-- LMAX of class c. -/
def clsLmax : Fld := { off := 0x600, lo := 0, w := 16, acc := .rwl, cnt := 15, str := 64 }
/-- WMAX of class c. -/
def clsWmax : Fld := { off := 0x600, lo := 16, w := 16, acc := .rwl, cnt := 15, str := 64 }
/-- HMAX of class c. -/
def clsHmax : Fld := { off := 0x604, lo := 0, w := 16, acc := .rwl, cnt := 15, str := 64 }

/-! ### CHK (R517) -/

/-- CHK_CTRL.ROT_EN (R508). -/
def rotEn : Fld := { off := 0x080, lo := 0, w := 1, acc := .rw, rst := 1, p0 := true }
/-- CHK_CTRL.ROT_PERIOD. -/
def rotPeriod : Fld := { off := 0x080, lo := 8, w := 8, acc := .rw, rst := 100, ok := .range 10 100, p0 := true }
/-- CHECKERS. -/
def checkers : Fld := { off := 0x084, lo := 0, w := 16, acc := .ro }
/-- LAST_ROT_MS. -/
def lastRotMs : Fld := { off := 0x084, lo := 16, w := 16, acc := .ro }
/-- LAST_ROT_END. -/
def lastRotEnd : Fld := { off := 0x088, lo := 0, w := 64, acc := .ro, q := true }
/-- CHK_FAIL.PAGE. -/
def chkFailPage : Fld := { off := 0x090, lo := 0, w := 14, acc := .ro }
/-- CHK_FAIL.BIT. -/
def chkFailBit : Fld := { off := 0x090, lo := 16, w := 5, acc := .ro }
/-- CHK_FAIL.VALID. -/
def chkFailValid : Fld := { off := 0x090, lo := 31, w := 1, acc := .w1c }
/-- ROT_CNT. -/
def rotCnt : Fld := { off := 0x094, lo := 0, w := 32, acc := .ro }
/-- FAIL_CNT. -/
def chkFailCnt : Fld := { off := 0x098, lo := 0, w := 32, acc := .ro }

/-! ### ERL (R535) -/

/-- LOG_BASE. -/
def logBase : Fld := { off := 0x080, lo := 0, w := 64, acc := .rwl, q := true, ok := .align 64, guard := .logRing }
/-- LOG_COUNT. -/
def logCount : Fld := { off := 0x088, lo := 0, w := 13, acc := .rwl, rst := 4, own := true }
/-- LOG_WR_IDX. -/
def logWrIdx : Fld := { off := 0x08C, lo := 0, w := 17, acc := .ro }
/-- LOG_RD_IDX. -/
def logRdIdx : Fld := { off := 0x090, lo := 0, w := 17, acc := .rw, own := true }
/-- LOG_CTRL.LOG_EN. -/
def logEn : Fld := { off := 0x094, lo := 0, w := 1, acc := .rw, guard := .logRing }
/-- LOG_CTRL.AUTO_RESET (R530). -/
def autoReset : Fld := { off := 0x094, lo := 1, w := 1, acc := .rwl }
/-- LOG_CTRL.LOG_FAIL. -/
def logFail : Fld := { off := 0x094, lo := 2, w := 1, acc := .w1c }
/-- LOG_CTRL.FAULT_HOLD ms. -/
def faultHold : Fld := { off := 0x094, lo := 4, w := 10, acc := .rwl, rst := 100, ok := .range 10 1000 }
/-- LOG_CTRL.AUTO_LIMIT. -/
def autoLimit : Fld := { off := 0x094, lo := 16, w := 4, acc := .rwl, rst := 3 }
/-- LOG_LOST. -/
def logLost : Fld := { off := 0x098, lo := 0, w := 32, acc := .ro }
/-- INCIDENT_NEXT (R528). -/
def incidentNext : Fld := { off := 0x09C, lo := 0, w := 32, acc := .ro, rst := 1 }
/-- UNFENCE. -/
def unfence : Fld := { off := 0x0A0, lo := 0, w := 14, acc := .wo, own := true }
/-- UNFENCE_STAT.STATE. -/
def unfenceState : Fld := { off := 0x0A4, lo := 0, w := 2, acc := .ro }
/-- UNFENCE_STAT.PAGE. -/
def unfencePage : Fld := { off := 0x0A4, lo := 16, w := 14, acc := .ro }
/-- AUTO_RESET_CNT. -/
def autoResetCnt : Fld := { off := 0x0A8, lo := 0, w := 4, acc := .ro }
/-- EVT REC LOST. -/
def erlEvt : Fld := { off := 0x0AC, lo := 0, w := 2, acc := .w1c, own := true }
/-- EVT_CFG.EVT_EN. -/
def erlEvtEn : Fld := { off := 0x0B0, lo := 0, w := 4, acc := .rw }
/-- EVT_CFG.IRQ_VEC. -/
def erlIrqVec : Fld := { off := 0x0B0, lo := 8, w := 6, acc := .rw }
/-- EVT_CFG.IRQ_EN. -/
def erlIrqEn : Fld := { off := 0x0B0, lo := 14, w := 1, acc := .rw }
/-- EVT_CFG.EVT_SEM. -/
def erlEvtSem : Fld := { off := 0x0B0, lo := 16, w := 10, acc := .rw }
/-- EVT_CFG.SEM_EN. -/
def erlSemEn : Fld := { off := 0x0B0, lo := 31, w := 1, acc := .rw }

/-! ### CSI (R89) -/

/-- PHY_CFG.LANES. -/
def csiLanes : Fld := { off := 0x080, lo := 0, w := 3, acc := .rwl, rst := 4, guard := .pageOff }
/-- PHY_CFG.LANE_MAP. -/
def csiLaneMap : Fld := { off := 0x080, lo := 8, w := 8, acc := .rwl, rst := 228, guard := .pageOff }
/-- PHY_CFG.POL. -/
def csiPol : Fld := { off := 0x080, lo := 16, w := 4, acc := .rwl, guard := .pageOff }
/-- PHY_CFG.CLK_POL. -/
def csiClkPol : Fld := { off := 0x080, lo := 20, w := 1, acc := .rwl, guard := .pageOff }
/-- RATE.MBPS. -/
def csiMbps : Fld := { off := 0x084, lo := 0, w := 13, acc := .rwl, rst := 1500, ok := .range 80 4500, guard := .pageOff }
/-- PHY_STAT.STOP. -/
def csiStop : Fld := { off := 0x088, lo := 0, w := 4, acc := .ro, rst := 15 }
/-- PHY_STAT.CLK_STOP. -/
def csiClkStop : Fld := { off := 0x088, lo := 4, w := 1, acc := .ro, rst := 1 }
/-- PHY_STAT.ULPS. -/
def csiUlps : Fld := { off := 0x088, lo := 5, w := 4, acc := .ro }
/-- PHY_STAT.CLK_ULPS. -/
def csiClkUlps : Fld := { off := 0x088, lo := 9, w := 1, acc := .ro }
/-- PHY_STAT.DESKEW_DONE. -/
def csiDeskew : Fld := { off := 0x088, lo := 10, w := 1, acc := .ro }
/-- PHY_STAT.HS_ACTIVE. -/
def csiHs : Fld := { off := 0x088, lo := 11, w := 1, acc := .ro }
/-- SLOTk_CFG.VC. -/
def csiVc : Fld := { off := 0x090, lo := 0, w := 4, acc := .rw, rl := [0, 1, 2, 3], cnt := 4, str := 32 }
/-- SLOTk_CFG.DT. -/
def csiDt : Fld := { off := 0x090, lo := 8, w := 6, acc := .rw, rst := 43, cnt := 4, str := 32, ok := .codes [0x2A, 0x2B, 0x2C, 0x2D, 0x2E] }
/-- SLOTk_CFG.EMB_EN. -/
def csiEmbEn : Fld := { off := 0x090, lo := 16, w := 1, acc := .rw, cnt := 4, str := 32 }
/-- CNT_ECC1. -/
def cntEcc1 : Fld := { off := 0x0A0, lo := 0, w := 32, acc := .ro }
/-- CNT_ECC2. -/
def cntEcc2 : Fld := { off := 0x0A4, lo := 0, w := 32, acc := .ro }
/-- CNT_CRC. -/
def cntCrc : Fld := { off := 0x0A8, lo := 0, w := 32, acc := .ro }
/-- CNT_UNMATCHED. -/
def cntUnmatched : Fld := { off := 0x0AC, lo := 0, w := 32, acc := .ro }
/-- CNT_SOT. -/
def cntSot : Fld := { off := 0x0B0, lo := 0, w := 32, acc := .ro }

/-! ### ISP (R121) -/

/-- PIPE_STAT.CTX. -/
def pipeCtx : Fld := { off := 0x080, lo := 0, w := 6, acc := .ro }
/-- PIPE_STAT.CTX_VALID. -/
def pipeCtxValid : Fld := { off := 0x080, lo := 6, w := 1, acc := .ro }
/-- FRAMES. -/
def pipeFrames : Fld := { off := 0x084, lo := 0, w := 32, acc := .ro }
/-- RES_MISS_CNT. -/
def pipeResMiss : Fld := { off := 0x088, lo := 0, w := 32, acc := .ro }
/-- RETRY_CNT. -/
def pipeRetry : Fld := { off := 0x08C, lo := 0, w := 32, acc := .ro }

/-! ### CTX (R91,R122) -/

/-- IN_CTRL.IN_EN. -/
def inEn : Fld := { off := 0x080, lo := 0, w := 1, acc := .rw, own := true }
/-- IN_CTRL.AUTO_RELEASE. -/
def autoRelease : Fld := { off := 0x080, lo := 1, w := 1, acc := .rwl, rst := 1, guard := .inEn0 }
/-- IN_CTRL.ENC_SEL. -/
def encSel : Fld := { off := 0x080, lo := 4, w := 2, acc := .rw }
/-- IN_CTRL.TEST_EN. -/
def testEn : Fld := { off := 0x080, lo := 8, w := 1, acc := .rw, rst := 1 }
/-- IN_CTRL.CAL. -/
def cal : Fld := { off := 0x080, lo := 9, w := 1, acc := .w1s, own := true }
/-- IN_STAT.STREAM (R73). -/
def stream : Fld := { off := 0x084, lo := 0, w := 2, acc := .ro }
/-- IN_STAT.COVERAGE_FULL (R87). -/
def coverageFull : Fld := { off := 0x084, lo := 2, w := 1, acc := .ro, live := .cover }
/-- IN_STAT.TEST_DOUBT. -/
def testDoubt : Fld := { off := 0x084, lo := 3, w := 1, acc := .ro }
/-- RING_BASE. -/
def ringBase : Fld := { off := 0x088, lo := 0, w := 64, acc := .rwl, q := true, guard := .inEn0 }
/-- SLOT_SIZE. -/
def slotSize : Fld := { off := 0x090, lo := 0, w := 32, acc := .rwl, guard := .inEn0 }
/-- SLOT_CFG.SLOT_COUNT. -/
def slotCount : Fld := { off := 0x094, lo := 0, w := 9, acc := .rwl, rst := 2, own := true }
/-- SLOT_CFG.EMB_LINES. -/
def embLines : Fld := { off := 0x094, lo := 16, w := 5, acc := .rwl, ok := .range 0 16, guard := .inEn0 }
/-- GEOM.WIDTH. -/
def width : Fld := { off := 0x098, lo := 0, w := 16, acc := .rwl, rst := 64, ok := .range 64 8192, guard := .inEn0 }
/-- GEOM.HEIGHT. -/
def height : Fld := { off := 0x098, lo := 16, w := 16, acc := .rwl, rst := 16, ok := .range 16 8192, guard := .inEn0 }
/-- STRIDE. -/
def stride : Fld := { off := 0x09C, lo := 0, w := 20, acc := .rwl, rst := 128, guard := .inEn0 }
/-- WR_IDX. -/
def wrIdx : Fld := { off := 0x0A0, lo := 0, w := 17, acc := .ro }
/-- RD_IDX. -/
def rdIdx : Fld := { off := 0x0A4, lo := 0, w := 17, acc := .rw, own := true }
/-- FRAME_CNT (R71). -/
def frameCnt : Fld := { off := 0x0A8, lo := 0, w := 32, acc := .ro }
/-- LOSS_TIMEOUT. -/
def lossTimeout : Fld := { off := 0x0AC, lo := 0, w := 16, acc := .rw }
/-- TEST_SEED. -/
def testSeed : Fld := { off := 0x0B0, lo := 0, w := 64, acc := .rw, q := true, hook := .seed }
/-- BLANK_MIN. -/
def blankMin : Fld := { off := 0x0B8, lo := 0, w := 16, acc := .rw, rst := 2000 }
/-- LAST_GAP. -/
def lastGap : Fld := { off := 0x0BC, lo := 0, w := 32, acc := .ro }
/-- GOLD_BASE. -/
def goldBase : Fld := { off := 0x0C0, lo := 0, w := 64, acc := .rw, q := true, ok := .align 64 }
/-- GOLD_VALID. -/
def goldValid : Fld := { off := 0x0C8, lo := 0, w := 16, acc := .rw, hook := .gold }
/-- DROP_CNT. -/
def dropCnt : Fld := { off := 0x0D0, lo := 0, w := 32, acc := .ro }
/-- SKIP_CNT. -/
def skipCnt : Fld := { off := 0x0D4, lo := 0, w := 32, acc := .ro }
/-- MISMATCH_CNT. -/
def mismatchCnt : Fld := { off := 0x0D8, lo := 0, w := 32, acc := .ro }
/-- LOSS_CNT. -/
def lossCnt : Fld := { off := 0x0DC, lo := 0, w := 32, acc := .ro }
/-- CTX_CTRL.CTX_EN. -/
def ctxEn : Fld := { off := 0x100, lo := 0, w := 1, acc := .rw, own := true }
/-- CTX_CTRL.COMMIT. -/
def ctxCommit : Fld := { off := 0x100, lo := 1, w := 1, acc := .w1s, own := true }
/-- CTX_CTRL.PIPE_MASK. -/
def pipeMask : Fld := { off := 0x100, lo := 8, w := 4, acc := .rw, rst := 15, guard := .ctxEn0 }
/-- CTX_CTRL.PRIO. -/
def ctxPrio : Fld := { off := 0x100, lo := 12, w := 2, acc := .rw }
/-- CTX_CTRL.OUT_EN. -/
def outEn : Fld := { off := 0x100, lo := 16, w := 4, acc := .rw }
/-- CTX_CTRL.DROP_IF_FULL. -/
def dropIfFull : Fld := { off := 0x100, lo := 20, w := 4, acc := .rw }
/-- CTX_CTRL.TAP_SEL. -/
def tapSel : Fld := { off := 0x100, lo := 24, w := 3, acc := .rw, ok := .range 0 4, guard := .ctxEn0 }
/-- CTX_CTRL.IR_EN. -/
def irEn : Fld := { off := 0x100, lo := 27, w := 1, acc := .rw, guard := .ctxEn0 }
/-- PARAM_GEN. -/
def paramGen : Fld := { off := 0x104, lo := 0, w := 16, acc := .ro }
/-- CFA_LO cells 0-7. -/
def cfaLo : Fld := { off := 0x108, lo := 0, w := 24, acc := .rw }
/-- CFA_HI cells 8-15. -/
def cfaHi : Fld := { off := 0x10C, lo := 0, w := 24, acc := .rw }
/-- OFF_X. -/
def offX : Fld := { off := 0x10C, lo := 24, w := 2, acc := .rw }
/-- OFF_Y. -/
def offY : Fld := { off := 0x10C, lo := 26, w := 2, acc := .rw }
/-- BLACK. -/
def black : Fld := { off := 0x110, lo := 0, w := 16, acc := .rw, cnt := 16, str := 16 }
/-- GAIN Q4.12. -/
def gain : Fld := { off := 0x130, lo := 0, w := 16, acc := .rw, rst := 4096, cnt := 16, str := 16 }
/-- DPC_THR. -/
def dpcThr : Fld := { off := 0x150, lo := 0, w := 16, acc := .rw, rst := 1024 }
/-- DPC_EN. -/
def dpcEn : Fld := { off := 0x150, lo := 16, w := 1, acc := .rw }
/-- IR matrix M00-M23 signed Q4.12. -/
def irM : Fld := { off := 0x160, lo := 0, w := 16, acc := .rw, rl := [4096, 0, 0, 0, 0, 4096, 0, 0, 0, 0, 4096, 0], cnt := 12, str := 16 }
/-- colour matrix C00-C22 signed. -/
def colC : Fld := { off := 0x180, lo := 0, w := 16, acc := .rw, rl := [4096, 0, 0, 0, 4096, 0, 0, 0, 4096], cnt := 9, str := 16 }
/-- COFF0-2 signed. -/
def cOff : Fld := { off := 0x194, lo := 0, w := 16, acc := .rw, cnt := 3, str := 16 }
/-- KR KG KB KC KI signed. -/
def kCoef : Fld := { off := 0x1A0, lo := 0, w := 16, acc := .rw, cnt := 5, str := 16 }
/-- Y/Cb/Cr matrix signed (R106). -/
def yccM : Fld := { off := 0x1B0, lo := 0, w := 16, acc := .rw, rl := [748, 2516, 254, 65124, 64149, 1799, 1799, 63902, 65371], cnt := 9, str := 16 }
/-- YOFF CBOFF CROFF (R106). -/
def yccOff : Fld := { off := 0x1C4, lo := 0, w := 16, acc := .rw, rl := [4096, 32768, 32768], cnt := 3, str := 16 }
/-- TONE_BANK. -/
def toneBank : Fld := { off := 0x1CC, lo := 0, w := 1, acc := .rw }
/-- TONE_WR_BANK (not shadowed). -/
def toneWrBank : Fld := { off := 0x1CC, lo := 1, w := 1, acc := .rw, rst := 1 }
/-- ALPHA. -/
def alpha : Fld := { off := 0x1D0, lo := 0, w := 8, acc := .rw, rst := 255 }
/-- OUT_FMT.FMT. -/
def outFmt : Fld := { off := 0x200, lo := 0, w := 4, acc := .rw, cnt := 4, str := 512, guard := .outFmt }
/-- OUT_W. -/
def outW : Fld := { off := 0x204, lo := 0, w := 16, acc := .rw, cnt := 4, str := 512, guard := .ctxEn0 }
/-- OUT_H. -/
def outH : Fld := { off := 0x204, lo := 16, w := 16, acc := .rw, cnt := 4, str := 512, guard := .ctxEn0 }
/-- OUT_BASE. -/
def outBase : Fld := { off := 0x208, lo := 0, w := 64, acc := .rw, cnt := 4, str := 512, q := true, guard := .ctxEn0 }
/-- OUT_SLOT_SIZE. -/
def outSlotSize : Fld := { off := 0x210, lo := 0, w := 32, acc := .rw, cnt := 4, str := 512, guard := .ctxEn0 }
/-- OUT_SLOT_COUNT. -/
def outSlotCount : Fld := { off := 0x214, lo := 0, w := 9, acc := .rw, rst := 2, cnt := 4, str := 512, own := true }
/-- STRIDE0. -/
def outStride0 : Fld := { off := 0x218, lo := 0, w := 20, acc := .rw, cnt := 4, str := 512, guard := .ctxEn0 }
/-- STRIDE1. -/
def outStride1 : Fld := { off := 0x21C, lo := 0, w := 20, acc := .rw, cnt := 4, str := 512, guard := .ctxEn0 }
/-- PLANE1_OFF. -/
def plane1Off : Fld := { off := 0x220, lo := 0, w := 32, acc := .rw, cnt := 4, str := 512, guard := .ctxEn0 }
/-- TEST_OFF. -/
def testOff : Fld := { off := 0x224, lo := 0, w := 32, acc := .rw, cnt := 4, str := 512, guard := .ctxEn0 }
/-- OUT_WR_IDX. -/
def outWrIdx : Fld := { off := 0x228, lo := 0, w := 17, acc := .ro, cnt := 4, str := 512 }
/-- OUT_RD_IDX. -/
def outRdIdx : Fld := { off := 0x22C, lo := 0, w := 17, acc := .rw, cnt := 4, str := 512, own := true }
/-- OUT_SKIP_CNT. -/
def outSkipCnt : Fld := { off := 0x230, lo := 0, w := 32, acc := .ro, cnt := 4, str := 512 }
/-- tone window table R. -/
def toneR : Fld := { off := 0x400, lo := 0, w := 16, acc := .rw, cnt := 257, str := 16, live := .toneR, own := true }
/-- tone window table G. -/
def toneG : Fld := { off := 0x610, lo := 0, w := 16, acc := .rw, cnt := 257, str := 16, live := .toneG, own := true }
/-- tone window table B. -/
def toneB : Fld := { off := 0x820, lo := 0, w := 16, acc := .rw, cnt := 257, str := 16, live := .toneB, own := true }

/-! ### ENG (R152,R182 (PYR WRP HMP STE FLW FEA)) -/

/-- SLOT_PART.  DESIGN CHOICE (log 147): a field of ENG_CFG, not of the slot; writes are taken in any state of the slot. -/
def slotPart : Fld := { off := 0x080, lo := 0, w := 3, acc := .rwl, cnt := 4, str := 4 }
/-- ENG_CFG.FAWN n. -/
def slotFawn : Fld := { off := 0x080, lo := 16, w := 1, acc := .ro, cnt := 4, str := 1, live := .fawn }
/-- SPLIT_CNT. -/
def splitCnt : Fld := { off := 0x084, lo := 0, w := 32, acc := .ro }
/-- MON_CFG.EN (R183, FLW). -/
def monEn : Fld := { off := 0x0C0, lo := 0, w := 1, acc := .rw, cnt := 2, str := 256, own := true }
/-- MON_CFG.ENC_SEL. -/
def monEncSel : Fld := { off := 0x0C0, lo := 2, w := 2, acc := .rwl, cnt := 2, str := 256 }
/-- MON_CFG.LINE. -/
def monLine : Fld := { off := 0x0C0, lo := 4, w := 2, acc := .rwl, cnt := 2, str := 256 }
/-- MON_CFG.N_RAISE. -/
def nRaise : Fld := { off := 0x0C0, lo := 8, w := 8, acc := .rwl, rst := 6, cnt := 2, str := 256, ok := .range 1 255 }
/-- MON_CFG.N_CLEAR. -/
def nClear : Fld := { off := 0x0C0, lo := 16, w := 8, acc := .rwl, rst := 30, cnt := 2, str := 256, ok := .range 1 255 }
/-- MON_CFG.TOL. -/
def monTol : Fld := { off := 0x0C0, lo := 24, w := 8, acc := .rwl, rst := 13, cnt := 2, str := 256 }
/-- HOLD_COUNTS. -/
def holdCounts : Fld := { off := 0x0C4, lo := 0, w := 32, acc := .rwl, cnt := 2, str := 256 }
/-- HOLD_TIME. -/
def holdTime : Fld := { off := 0x0C8, lo := 0, w := 32, acc := .rwl, cnt := 2, str := 256 }
/-- STARVE_TIME. -/
def starveTime : Fld := { off := 0x0CC, lo := 0, w := 32, acc := .rwl, cnt := 2, str := 256 }
/-- MON_STAT.RESYNC. -/
def monResync : Fld := { off := 0x0D0, lo := 0, w := 1, acc := .ro, cnt := 2, str := 256 }
/-- MON_STAT.STARVED. -/
def monStarved : Fld := { off := 0x0D0, lo := 1, w := 1, acc := .ro, cnt := 2, str := 256 }
/-- MON_STAT.MISS_RUN. -/
def missRun : Fld := { off := 0x0D0, lo := 8, w := 8, acc := .ro, cnt := 2, str := 256 }
/-- MON_STAT.AGREE_RUN. -/
def agreeRun : Fld := { off := 0x0D0, lo := 16, w := 8, acc := .ro, cnt := 2, str := 256 }
/-- LAST_MED16. -/
def lastMed16 : Fld := { off := 0x0D4, lo := 0, w := 16, acc := .ro, cnt := 2, str := 256 }
/-- LAST_EXP16. -/
def lastExp16 : Fld := { off := 0x0D4, lo := 16, w := 16, acc := .ro, cnt := 2, str := 256 }
/-- RESYNC_CNT. -/
def resyncCnt : Fld := { off := 0x0D8, lo := 0, w := 32, acc := .ro, cnt := 2, str := 256 }

/-! ### SLOT (R152 slot block, 4 slots at 0x100 (8 at 0x400 on STA and LVU)) -/

/-- JOB_PTR. -/
def jobPtr : Fld := { off := 0x100, lo := 0, w := 64, acc := .rw, cnt := 4, str := 512, q := true }
/-- SLOT_CTRL.START. -/
def slotStart : Fld := { off := 0x108, lo := 0, w := 1, acc := .wo, cnt := 4, str := 512, own := true }
/-- SLOT_CTRL.CANCEL. -/
def slotCancel : Fld := { off := 0x108, lo := 1, w := 1, acc := .wo, cnt := 4, str := 512, own := true }
/-- SLOT_STAT.STATE. -/
def slotState : Fld := { off := 0x10C, lo := 0, w := 3, acc := .ro, cnt := 4, str := 512 }
/-- CQ_BASE. -/
def cqBase : Fld := { off := 0x110, lo := 0, w := 64, acc := .rwl, cnt := 4, str := 512, q := true, ok := .align 64, guard := .slotIdle }
/-- CQ_COUNT. -/
def cqCount : Fld := { off := 0x118, lo := 0, w := 9, acc := .rwl, rst := 4, cnt := 4, str := 512, own := true }
/-- CQ_WR_IDX. -/
def cqWrIdx : Fld := { off := 0x11C, lo := 0, w := 17, acc := .ro, cnt := 4, str := 512 }
/-- CQ_RD_IDX. -/
def cqRdIdx : Fld := { off := 0x120, lo := 0, w := 17, acc := .rw, cnt := 4, str := 512, own := true }
/-- JOBS_DONE. -/
def jobsDone : Fld := { off := 0x124, lo := 0, w := 32, acc := .ro, cnt := 4, str := 512 }
/-- LAST counter at +0x28. -/
def last0 : Fld := { off := 0x128, lo := 0, w := 32, acc := .ro, cnt := 4, str := 512 }
/-- LAST counter at +0x2C. -/
def last1 : Fld := { off := 0x12C, lo := 0, w := 32, acc := .ro, cnt := 4, str := 512 }
/-- LAST counter at +0x30. -/
def last2 : Fld := { off := 0x130, lo := 0, w := 32, acc := .ro, cnt := 4, str := 512 }

/-! ### STA (R214) -/

/-- ARR_CFG.SLOT_PART n. -/
def staSlotPart : Fld := { off := 0x080, lo := 0, w := 3, acc := .rwl, cnt := 8, str := 4 }
/-- ARR_STAT.PUSH_Q. -/
def pushQ : Fld := { off := 0x084, lo := 0, w := 4, acc := .ro }
/-- ARR_STAT.CHAIN_BUSY. -/
def chainBusy : Fld := { off := 0x084, lo := 4, w := 1, acc := .ro }
/-- CS_MISS_CNT. -/
def csMissCnt : Fld := { off := 0x088, lo := 0, w := 32, acc := .ro }
/-- TRANSIENT_CNT. -/
def transientCnt : Fld := { off := 0x08C, lo := 0, w := 32, acc := .ro }
/-- OUTLIER_CNT. -/
def outlierCnt : Fld := { off := 0x090, lo := 0, w := 32, acc := .ro }
/-- LASTING_CNT. -/
def lastingCnt : Fld := { off := 0x094, lo := 0, w := 32, acc := .ro }
/-- PUSH_SRC (STA0). -/
def pushSrc : Fld := { off := 0x100, lo := 0, w := 64, acc := .rw, q := true, guard := .sta0 }
/-- PUSH_DIG (STA0). -/
def pushDig : Fld := { off := 0x108, lo := 0, w := 64, acc := .rw, q := true, guard := .sta0 }
/-- PUSH_CTRL.GO (STA0). -/
def pushGo : Fld := { off := 0x110, lo := 0, w := 1, acc := .wo, own := true }
/-- PUSH_DONE (STA0). -/
def pushDone : Fld := { off := 0x114, lo := 0, w := 32, acc := .ro, guard := .sta0 }
/-- PLANE_ID p. -/
def planeId : Fld := { off := 0x200, lo := 0, w := 32, acc := .rw, cnt := 32, str := 64, guard := .planeId }
/-- plane slot STATE. -/
def planeState : Fld := { off := 0x204, lo := 0, w := 3, acc := .ro, cnt := 32, str := 64 }
/-- REFCNT. -/
def planeRef : Fld := { off := 0x204, lo := 4, w := 8, acc := .ro, cnt := 32, str := 64 }
/-- ARM. -/
def planeArm : Fld := { off := 0x204, lo := 16, w := 1, acc := .wo, cnt := 32, str := 64, own := true }
/-- RETIRE. -/
def planeRetire : Fld := { off := 0x204, lo := 17, w := 1, acc := .wo, cnt := 32, str := 64, own := true }

/-! ### LVU (R253) -/

/-- ENG_CFG.SLOT_PART n. -/
def lvuSlotPart : Fld := { off := 0x080, lo := 0, w := 3, acc := .rwl, cnt := 8, str := 4 }
/-- FAWN. -/
def lvuFawn : Fld := { off := 0x084, lo := 0, w := 8, acc := .ro, live := .lvuFawn }
/-- SAT_CNT. -/
def satCnt : Fld := { off := 0x088, lo := 0, w := 32, acc := .ro }
/-- UNF_CNT. -/
def unfCnt : Fld := { off := 0x08C, lo := 0, w := 32, acc := .ro }
/-- DOUBT_CNT. -/
def lvuDoubtCnt : Fld := { off := 0x090, lo := 0, w := 32, acc := .ro }
/-- RES_MISS_CNT. -/
def lvuResMiss : Fld := { off := 0x094, lo := 0, w := 32, acc := .ro }
/-- ROM_IDX. -/
def romIdx : Fld := { off := 0x0A0, lo := 0, w := 10, acc := .rw }
/-- ROM_DATA. -/
def romData : Fld := { off := 0x0A4, lo := 0, w := 16, acc := .ro, live := .rom }
/-- context record n, word w at index 32n+w (R251). -/
def ctxRec : Fld := { off := 0x800, lo := 0, w := 32, acc := .ro, cnt := 256, str := 32 }

/-! ### FGS (R286) -/

/-- FGS_STAT.INFLIGHT. -/
def fgsInflight : Fld := { off := 0x080, lo := 0, w := 9, acc := .ro }
/-- FGS_STAT.STATE_USED. -/
def stateUsed : Fld := { off := 0x080, lo := 16, w := 14, acc := .ro }
/-- GT_SEL. -/
def gtSel : Fld := { off := 0x084, lo := 0, w := 8, acc := .rw }
/-- GT_BASE. -/
def gtBase : Fld := { off := 0x088, lo := 0, w := 64, acc := .rw, q := true }
/-- GT_CTRL.LOAD. -/
def gtLoad : Fld := { off := 0x090, lo := 0, w := 1, acc := .wo, own := true }
/-- GT_CTRL.UNLOAD. -/
def gtUnload : Fld := { off := 0x090, lo := 1, w := 1, acc := .wo, own := true }
/-- GT_CTRL.CANCEL. -/
def gtCancel : Fld := { off := 0x090, lo := 2, w := 1, acc := .wo, own := true }
/-- GT_CTRL.CANCEL_ALL. -/
def gtCancelAll : Fld := { off := 0x090, lo := 3, w := 1, acc := .wo, own := true }
/-- GT_STAT.STATE of entry GT_SEL. -/
def gtState : Fld := { off := 0x094, lo := 0, w := 2, acc := .ro, live := .gtState }
/-- GT_STAT.OWNER. -/
def gtOwner : Fld := { off := 0x094, lo := 2, w := 3, acc := .ro, live := .gtOwner }
/-- GT_STAT.ACTIVE. -/
def gtActive : Fld := { off := 0x094, lo := 5, w := 3, acc := .ro, live := .gtActive }
/-- GT_STAT.STARTED. -/
def gtStarted : Fld := { off := 0x094, lo := 16, w := 16, acc := .ro, live := .gtStarted }
/-- GT_REQ. -/
def gtReq : Fld := { off := 0x098, lo := 0, w := 16, acc := .ro, live := .gtReq }
/-- CANCEL_INST. -/
def cancelInst : Fld := { off := 0x09C, lo := 0, w := 32, acc := .rw }
/-- NODE_CANCEL.GRAPH. -/
def ncGraph : Fld := { off := 0x0A0, lo := 0, w := 8, acc := .wo, own := true }
/-- NODE_CANCEL.NODE. -/
def ncNode : Fld := { off := 0x0A0, lo := 16, w := 10, acc := .wo, own := true }
/-- TRIG.GRAPH. -/
def trGraph : Fld := { off := 0x0A4, lo := 0, w := 8, acc := .wo, own := true }
/-- TRIG.NODE. -/
def trNode : Fld := { off := 0x0A4, lo := 16, w := 10, acc := .wo, own := true }
/-- SEM_OP. -/
def semOpReg : Fld := { off := 0x0A8, lo := 0, w := 32, acc := .wo, own := true }
/-- SEM_VAL. -/
def semVal : Fld := { off := 0x0AC, lo := 0, w := 32, acc := .rw }
/-- SEM_RES, one per initiator. -/
def semRes : Fld := { off := 0x0B0, lo := 0, w := 32, acc := .ro, live := .semRes }
/-- SEM_RES_COUNT, one per initiator. -/
def semResCount : Fld := { off := 0x0B4, lo := 0, w := 32, acc := .ro, live := .semResCount }
/-- SEM_OWN.PAIR. -/
def semOwnPair : Fld := { off := 0x0B8, lo := 0, w := 9, acc := .wo, own := true }
/-- SEM_OWN.PART. -/
def semOwnPart : Fld := { off := 0x0B8, lo := 16, w := 3, acc := .wo, own := true }
/-- START_DROP_CNT. -/
def startDropCnt : Fld := { off := 0x0C0, lo := 0, w := 32, acc := .ro }
/-- STALE_CNT. -/
def fgsStaleCnt : Fld := { off := 0x0C4, lo := 0, w := 32, acc := .ro }
/-- DEADLINE_CNT. -/
def deadlineCnt : Fld := { off := 0x0C8, lo := 0, w := 32, acc := .ro }
/-- SEM_SAT_CNT. -/
def semSatCnt : Fld := { off := 0x0CC, lo := 0, w := 32, acc := .ro }
/-- LB_BUSY. -/
def lbBusy : Fld := { off := 0x0D0, lo := 0, w := 16, acc := .ro }

/-! ### CC (R287) -/

/-- RUN. -/
def ccRun : Fld := { off := 0x080, lo := 0, w := 1, acc := .rw, own := true }
/-- STATE. -/
def ccState : Fld := { off := 0x084, lo := 0, w := 2, acc := .ro }
/-- RESET_PC[17:1]. -/
def resetPc : Fld := { off := 0x088, lo := 1, w := 17, acc := .rwl }
/-- TCM_ADDR[17:2]. -/
def tcmAddr : Fld := { off := 0x090, lo := 2, w := 16, acc := .rw }
/-- TCM_DATA window. -/
def tcmData : Fld := { off := 0x094, lo := 0, w := 32, acc := .rw, live := .tcmData, own := true }
/-- TRAP_CAUSE. -/
def trapCause : Fld := { off := 0x098, lo := 0, w := 32, acc := .ro }
/-- TRAP_PC. -/
def trapPc : Fld := { off := 0x09C, lo := 0, w := 32, acc := .ro }
/-- MBX_IN0-7. -/
def mbxIn : Fld := { off := 0x0A0, lo := 0, w := 32, acc := .rw, cnt := 8, str := 32 }
/-- MBX_PUSH. -/
def mbxPush : Fld := { off := 0x0C0, lo := 0, w := 1, acc := .wo, own := true }

/-! ### SMV (R321) -/

/-- ACTIVE_MAP. -/
def smvActive : Fld := { off := 0x080, lo := 0, w := 64, acc := .ro, q := true, live := .smvActive }

/-! ### PFQ (R350) -/

/-- ACTIVE_MAP. -/
def pfqActive : Fld := { off := 0x080, lo := 0, w := 64, acc := .ro, q := true, live := .pfqActive }
/-- INV_CNT. -/
def invCnt : Fld := { off := 0x088, lo := 0, w := 32, acc := .ro }
/-- PRQ_CNT. -/
def prqCnt : Fld := { off := 0x08C, lo := 0, w := 32, acc := .ro }

/-! ### FAB (R375) -/

/-- FW_SEL.FW. -/
def fwSel : Fld := { off := 0x080, lo := 0, w := 2, acc := .rw }
/-- FW_SEL.REGION. -/
def regionSel : Fld := { off := 0x080, lo := 8, w := 5, acc := .rw }
/-- region BASE (window). -/
def regBase : Fld := { off := 0x084, lo := 12, w := 52, acc := .rwl, cnt := 128, str := 512, win := true, home := 0x1000, q := true, guard := .regionEn0 }
/-- region LIMIT (window). -/
def regLimit : Fld := { off := 0x08C, lo := 12, w := 52, acc := .rwl, cnt := 128, str := 512, win := true, home := 0x1010, q := true, guard := .regionEn0 }
/-- REG_PERM.RD (window). -/
def regRd : Fld := { off := 0x094, lo := 0, w := 8, acc := .rwl, cnt := 128, str := 512, win := true, home := 0x1020, own := true }
/-- REG_PERM.WR (window). -/
def regWr : Fld := { off := 0x094, lo := 8, w := 8, acc := .rwl, cnt := 128, str := 512, win := true, home := 0x1020, own := true }
/-- REG_PERM.SC3W (window). -/
def regSc3w : Fld := { off := 0x094, lo := 16, w := 1, acc := .rwl, cnt := 128, str := 512, win := true, home := 0x1020, own := true }
/-- REG_PERM.EN (window). -/
def regEn : Fld := { off := 0x094, lo := 31, w := 1, acc := .rwl, cnt := 128, str := 512, win := true, home := 0x1020, own := true }
/-- PART_SEL.PART. -/
def partSel : Fld := { off := 0x0A0, lo := 0, w := 3, acc := .rw }
/-- PART_CTRL.CREATE. -/
def partCreate : Fld := { off := 0x0A4, lo := 0, w := 1, acc := .wo, own := true }
/-- PART_CTRL.TEARDOWN. -/
def partTeardown : Fld := { off := 0x0A4, lo := 1, w := 1, acc := .wo, own := true }
/-- PART_STAT.STATE (window). -/
def partState : Fld := { off := 0x0A8, lo := 0, w := 2, acc := .ro, rl := [1, 0, 0, 0, 0, 0, 0, 0], cnt := 8, str := 32, win := true, home := 0x4000 }
/-- PART_STAT.TEARDOWN_DONE (window). -/
def teardownDone : Fld := { off := 0x0A8, lo := 2, w := 1, acc := .w1c, cnt := 8, str := 32, win := true, home := 0x4000 }
/-- PART_STAT.OUTSTANDING (window). -/
def partOutstanding : Fld := { off := 0x0A8, lo := 3, w := 1, acc := .ro, live := .outstanding }
/-- REMOTE_TO n µs. -/
def remoteTo : Fld := { off := 0x0B0, lo := 0, w := 32, acc := .ro, rst := 75000, cnt := 8, str := 32 }
/-- FW_EVT_CNT. -/
def fwEvtCnt : Fld := { off := 0x0D0, lo := 0, w := 32, acc := .ro }
/-- STALE_CNT. -/
def staleCnt : Fld := { off := 0x0D4, lo := 0, w := 32, acc := .ro }
/-- DUP_CNT. -/
def dupCnt : Fld := { off := 0x0D8, lo := 0, w := 32, acc := .ro }
/-- TIMEOUT_CNT. -/
def timeoutCnt : Fld := { off := 0x0DC, lo := 0, w := 32, acc := .ro }
/-- LOG_SUPPRESSED. -/
def logSuppressed : Fld := { off := 0x0E0, lo := 0, w := 32, acc := .ro }
/-- FW_LAST.INIT. -/
def fwLastInit : Fld := { off := 0x0E8, lo := 0, w := 8, acc := .ro }
/-- FW_LAST.PART. -/
def fwLastPart : Fld := { off := 0x0E8, lo := 8, w := 3, acc := .ro }
/-- FW_LAST.SCLASS. -/
def fwLastSc : Fld := { off := 0x0E8, lo := 11, w := 2, acc := .ro }
/-- FW_LAST.OP. -/
def fwLastOp : Fld := { off := 0x0E8, lo := 13, w := 3, acc := .ro }
/-- FW_LAST.FW. -/
def fwLastFw : Fld := { off := 0x0E8, lo := 16, w := 2, acc := .ro }
/-- FW_LAST.KIND. -/
def fwLastKind : Fld := { off := 0x0E8, lo := 18, w := 2, acc := .ro }
/-- FW_LAST.VALID. -/
def fwLastValid : Fld := { off := 0x0E8, lo := 31, w := 1, acc := .w1c }
/-- FW_LAST_ADDR. -/
def fwLastAddr : Fld := { off := 0x0F0, lo := 0, w := 64, acc := .ro, q := true }

/-! ### SVM (R400) -/

/-- BANK_INH. -/
def bankInh : Fld := { off := 0x080, lo := 0, w := 48, acc := .w1c, q := true, own := true }
/-- SVM_CORR_CNT. -/
def svmCorrCnt : Fld := { off := 0x088, lo := 0, w := 32, acc := .ro }
/-- SVM_UNCORR_CNT. -/
def svmUncorrCnt : Fld := { off := 0x08C, lo := 0, w := 32, acc := .ro }
/-- VT_CORR_CNT. -/
def vtCorrCnt : Fld := { off := 0x090, lo := 0, w := 32, acc := .ro }
/-- VT_UNCORR_CNT. -/
def vtUncorrCnt : Fld := { off := 0x094, lo := 0, w := 32, acc := .ro }
/-- LAST_ERR_ADDR. -/
def svmLastErr : Fld := { off := 0x098, lo := 0, w := 64, acc := .ro, q := true }
/-- LAST_ERR_INFO.SYNDROME. -/
def svmSyndrome : Fld := { off := 0x0A0, lo := 0, w := 8, acc := .ro }
/-- LAST_ERR_INFO.UNCORR. -/
def svmErrUncorr : Fld := { off := 0x0A0, lo := 8, w := 1, acc := .ro }
/-- LAST_ERR_INFO.INIT. -/
def svmErrInit : Fld := { off := 0x0A0, lo := 9, w := 8, acc := .ro }
/-- INIT_DONE. -/
def initDone : Fld := { off := 0x0A4, lo := 0, w := 1, acc := .ro }

/-! ### LPC (R401) -/

/-- LPC_CFG.RATE. -/
def lpcRate : Fld := { off := 0x080, lo := 0, w := 3, acc := .rwl, ok := .range 0 5 }
/-- LPC_CFG.CAP. -/
def lpcCap : Fld := { off := 0x080, lo := 4, w := 2, acc := .rwl, ok := .range 0 2 }
/-- LPC_CFG.RANKS. -/
def lpcRanks : Fld := { off := 0x080, lo := 8, w := 1, acc := .rwl }
/-- LPC_CFG.BYTE_SWAP_A. -/
def byteSwapA : Fld := { off := 0x080, lo := 12, w := 1, acc := .rwl }
/-- LPC_CFG.BYTE_SWAP_B. -/
def byteSwapB : Fld := { off := 0x080, lo := 13, w := 1, acc := .rwl }
/-- LPC_CTRL.INIT. -/
def lpcInit : Fld := { off := 0x084, lo := 0, w := 1, acc := .wo, own := true }
/-- LPC_STAT.STATE. -/
def lpcState : Fld := { off := 0x088, lo := 0, w := 3, acc := .ro }
/-- LPC_STAT.FAIL_STEP. -/
def failStep : Fld := { off := 0x088, lo := 4, w := 4, acc := .ro }
/-- LPC_STAT.MR4_RATE. -/
def mr4Rate : Fld := { off := 0x088, lo := 8, w := 3, acc := .ro }
/-- LPC_STAT.POISON_USED. -/
def poisonUsed : Fld := { off := 0x088, lo := 16, w := 5, acc := .ro }
/-- CORR_CNT. -/
def lpcCorrCnt : Fld := { off := 0x090, lo := 0, w := 32, acc := .ro }
/-- REREAD_OK_CNT. -/
def rereadOkCnt : Fld := { off := 0x094, lo := 0, w := 32, acc := .ro }
/-- UNCORR_CNT. -/
def lpcUncorrCnt : Fld := { off := 0x098, lo := 0, w := 32, acc := .ro }
/-- NOTREADY_CNT. -/
def notReadyCnt : Fld := { off := 0x09C, lo := 0, w := 32, acc := .ro }
/-- LAST_ERR_ADDR. -/
def lpcLastErr : Fld := { off := 0x0A0, lo := 0, w := 64, acc := .ro, q := true }

/-! ### SCR (R402) -/

/-- PATROL_CTRL.PATROL_EN. -/
def patrolEn : Fld := { off := 0x080, lo := 0, w := 1, acc := .rw }
/-- PATROL_CTRL.PATROL_HOURS. -/
def patrolHours : Fld := { off := 0x080, lo := 8, w := 8, acc := .rw, rst := 24, ok := .range 1 255 }
/-- PATROL_POS. -/
def patrolPos : Fld := { off := 0x084, lo := 0, w := 64, acc := .ro, q := true }
/-- PASS_CNT. -/
def passCnt : Fld := { off := 0x08C, lo := 0, w := 32, acc := .ro }
/-- ZF_STAT.ZF_ACTIVE. -/
def zfActive : Fld := { off := 0x090, lo := 0, w := 1, acc := .ro }
/-- ZF_STAT.ZF_PART. -/
def zfPart : Fld := { off := 0x090, lo := 4, w := 3, acc := .ro }
/-- ZF_LEFT. -/
def zfLeft : Fld := { off := 0x094, lo := 0, w := 64, acc := .ro, q := true }

/-! ### PCI (R428) -/

/-- LINK_STAT.WIDTH. -/
def linkWidth : Fld := { off := 0x080, lo := 0, w := 4, acc := .ro }
/-- LINK_STAT.RATE. -/
def linkRate : Fld := { off := 0x080, lo := 4, w := 3, acc := .ro }
/-- LINK_STAT.DL_UP. -/
def dlUp : Fld := { off := 0x080, lo := 7, w := 1, acc := .ro }
/-- LINK_STAT.LTSSM. -/
def ltssm : Fld := { off := 0x080, lo := 8, w := 6, acc := .ro }
/-- LINK_STAT.REVERSED. -/
def reversed : Fld := { off := 0x080, lo := 14, w := 1, acc := .ro }
/-- LINK_CTRL.RATE_CAP. -/
def rateCap : Fld := { off := 0x084, lo := 0, w := 3, acc := .rwl, rst := 5, ok := .range 1 5 }
/-- LINK_CTRL.RETRAIN. -/
def retrain : Fld := { off := 0x084, lo := 8, w := 1, acc := .wo, own := true }
/-- REPLAY_CNT. -/
def replayCnt : Fld := { off := 0x088, lo := 0, w := 32, acc := .ro }
/-- RECOVERY_CNT. -/
def recoveryCnt : Fld := { off := 0x08C, lo := 0, w := 32, acc := .ro }
/-- RX_ERR_CNT. -/
def rxErrCnt : Fld := { off := 0x090, lo := 0, w := 32, acc := .ro }
/-- BAD_TLP_CNT. -/
def badTlpCnt : Fld := { off := 0x094, lo := 0, w := 32, acc := .ro }
/-- BAD_DLLP_CNT. -/
def badDllpCnt : Fld := { off := 0x098, lo := 0, w := 32, acc := .ro }
/-- CPL_TO_CNT n. -/
def cplToCnt : Fld := { off := 0x0A0, lo := 0, w := 32, acc := .ro, cnt := 8, str := 32 }
/-- NP_OUTSTANDING. -/
def npOutstanding : Fld := { off := 0x0C0, lo := 0, w := 9, acc := .ro, live := .npOut }
/-- DL_DOWN_CNT. -/
def dlDownCnt : Fld := { off := 0x0C4, lo := 0, w := 16, acc := .ro }

/-! ### VPT (R456) -/

/-- VP_STAT.CLK_ACTIVE. -/
def clkActive : Fld := { off := 0x080, lo := 0, w := 1, acc := .ro }
/-- READ_CNT. -/
def vpReadCnt : Fld := { off := 0x084, lo := 0, w := 32, acc := .ro }
/-- WRITE_CNT. -/
def vpWriteCnt : Fld := { off := 0x088, lo := 0, w := 32, acc := .ro }
/-- PARITY_CNT. -/
def vpParityCnt : Fld := { off := 0x08C, lo := 0, w := 32, acc := .ro }
/-- BAD_OP_CNT. -/
def badOpCnt : Fld := { off := 0x090, lo := 0, w := 32, acc := .ro }
/-- STAGE_REFUSED_CNT. -/
def stageRefusedCnt : Fld := { off := 0x094, lo := 0, w := 32, acc := .ro }
/-- ACK_STALE_CNT. -/
def ackStaleCnt : Fld := { off := 0x098, lo := 0, w := 32, acc := .ro }
/-- NOTICE_HOLD ms. -/
def noticeHold : Fld := { off := 0x09C, lo := 0, w := 16, acc := .rw, rst := 1000 }
/-- LINE_CFG.EN. -/
def lineEn : Fld := { off := 0x100, lo := 0, w := 1, acc := .rwl, cnt := 4, str := 512, own := true }
/-- LINE_CFG.ENC. -/
def lineEnc : Fld := { off := 0x100, lo := 1, w := 2, acc := .rwl, cnt := 4, str := 512, own := true }
/-- LINE_CFG.EYE_PIN. -/
def eyePin : Fld := { off := 0x100, lo := 8, w := 5, acc := .rwl, cnt := 4, str := 512, own := true }
/-- LINE_CFG.PARTS. -/
def lineParts : Fld := { off := 0x100, lo := 16, w := 8, acc := .rwl, cnt := 4, str := 512, own := true }
/-- ID_LO. -/
def idLo : Fld := { off := 0x104, lo := 0, w := 16, acc := .rwl, cnt := 4, str := 512, own := true }
/-- ID_HI. -/
def idHi : Fld := { off := 0x104, lo := 16, w := 16, acc := .rwl, cnt := 4, str := 512, own := true }
/-- DIVERT_DIST. -/
def divertDist : Fld := { off := 0x108, lo := 0, w := 32, acc := .rwl, cnt := 4, str := 512, own := true }
/-- MATCH_TOL. -/
def matchTol : Fld := { off := 0x10C, lo := 0, w := 16, acc := .rwl, cnt := 4, str := 512, own := true }
/-- ANN_WAIT. -/
def annWait : Fld := { off := 0x110, lo := 0, w := 32, acc := .rwl, cnt := 4, str := 512, own := true }
/-- ENC_OFS. -/
def encOfs : Fld := { off := 0x114, lo := 0, w := 32, acc := .rwl, cnt := 4, str := 512, own := true }
/-- EVT_CNT. -/
def evtCnt : Fld := { off := 0x118, lo := 0, w := 32, acc := .ro, cnt := 4, str := 512 }
/-- UNPAIRED_EVT_CNT. -/
def unpairedEvtCnt : Fld := { off := 0x11C, lo := 0, w := 32, acc := .ro, cnt := 4, str := 512 }
/-- UNPAIRED_ANN_CNT. -/
def unpairedAnnCnt : Fld := { off := 0x120, lo := 0, w := 32, acc := .ro, cnt := 4, str := 512 }
/-- ANN_BUSY_CNT. -/
def annBusyCnt : Fld := { off := 0x124, lo := 0, w := 32, acc := .ro, cnt := 4, str := 512 }
/-- MISSED_CNT. -/
def missedCnt : Fld := { off := 0x128, lo := 0, w := 32, acc := .ro, cnt := 4, str := 512 }
/-- LINE_COND. -/
def lineCond : Fld := { off := 0x12C, lo := 0, w := 4, acc := .ro, rst := 13, cnt := 4, str := 512, live := .lineCond }
/-- EVT_OVF_CNT. -/
def evtOvfCnt : Fld := { off := 0x130, lo := 0, w := 32, acc := .ro, cnt := 4, str := 512 }

/-! ### LIO (R457,R458) -/

/-- IN_LVL bit p. -/
def inLvl : Fld := { off := 0x080, lo := 0, w := 1, acc := .ro, cnt := 24, str := 1, live := .inLvl }
/-- OUT_VAL bit p. -/
def outVal : Fld := { off := 0x084, lo := 0, w := 1, acc := .rw, cnt := 24, str := 1 }
/-- SWITCH_BUSY bit p. -/
def switchBusy : Fld := { off := 0x088, lo := 0, w := 1, acc := .ro, cnt := 24, str := 1, live := .switchBusy }
/-- PIN_CFG.FUNC. -/
def pinFunc : Fld := { off := 0x100, lo := 0, w := 4, acc := .rwl, cnt := 24, str := 32, own := true }
/-- PIN_CFG.UNIT. -/
def pinUnit : Fld := { off := 0x100, lo := 4, w := 3, acc := .rwl, cnt := 24, str := 32, own := true }
/-- PIN_CFG.INV. -/
def pinInv : Fld := { off := 0x100, lo := 7, w := 1, acc := .rwl, cnt := 24, str := 32, own := true }
/-- PIN_CFG.OD. -/
def pinOd : Fld := { off := 0x100, lo := 8, w := 1, acc := .rwl, cnt := 24, str := 32, own := true }
/-- PIN_CFG.FILT. -/
def pinFilt : Fld := { off := 0x100, lo := 16, w := 8, acc := .rw, rst := 2, cnt := 24, str := 32, own := true }
/-- ENC_CNT. -/
def encCnt : Fld := { off := 0x200, lo := 0, w := 32, acc := .ro, cnt := 4, str := 128 }
/-- encoder EN. -/
def encEn : Fld := { off := 0x204, lo := 0, w := 1, acc := .rwl, cnt := 4, str := 128 }
/-- encoder REV. -/
def encRev : Fld := { off := 0x204, lo := 1, w := 1, acc := .rwl, cnt := 4, str := 128 }
/-- ENC_ERR_CNT. -/
def encErrCnt : Fld := { off := 0x208, lo := 0, w := 32, acc := .ro, cnt := 4, str := 128 }
/-- TG_CFG.MODE. -/
def tgMode : Fld := { off := 0x280, lo := 0, w := 2, acc := .rw, cnt := 8, str := 256, ok := .range 0 2, own := true }
/-- TG_CFG.ENC. -/
def tgEnc : Fld := { off := 0x280, lo := 2, w := 2, acc := .rw, cnt := 8, str := 256, own := true }
/-- PERIOD. -/
def tgPeriod : Fld := { off := 0x284, lo := 0, w := 32, acc := .rw, cnt := 8, str := 256, own := true }
/-- PHASE. -/
def tgPhase : Fld := { off := 0x288, lo := 0, w := 32, acc := .rw, cnt := 8, str := 256, own := true }
/-- WIDTH. -/
def tgWidth : Fld := { off := 0x28C, lo := 0, w := 16, acc := .rw, cnt := 8, str := 256 }
/-- STROBE_DELAY. -/
def strobeDelay : Fld := { off := 0x28C, lo := 16, w := 16, acc := .rw, cnt := 8, str := 256 }
/-- STROBE_WIDTH. -/
def strobeWidth : Fld := { off := 0x290, lo := 0, w := 32, acc := .rw, cnt := 8, str := 256 }
/-- MIN_GAP. -/
def minGap : Fld := { off := 0x294, lo := 0, w := 32, acc := .rw, cnt := 8, str := 256 }
/-- TRIG_CNT. -/
def trigCnt : Fld := { off := 0x298, lo := 0, w := 32, acc := .ro, cnt := 8, str := 256 }
/-- TRIG_LATE. -/
def trigLate : Fld := { off := 0x29C, lo := 0, w := 16, acc := .ro, cnt := 8, str := 256 }
/-- TRIG_DROP. -/
def trigDrop : Fld := { off := 0x29C, lo := 16, w := 16, acc := .ro, cnt := 8, str := 256 }
/-- UART_CFG.DIV. -/
def uartDiv : Fld := { off := 0x380, lo := 0, w := 16, acc := .rw, rst := 868, cnt := 2, str := 256, ok := .range 8 65535 }
/-- UART_CFG.PARITY. -/
def uartParity : Fld := { off := 0x380, lo := 16, w := 2, acc := .rw, cnt := 2, str := 256, ok := .range 0 2 }
/-- UART_CFG.STOP2. -/
def uartStop2 : Fld := { off := 0x380, lo := 18, w := 1, acc := .rw, cnt := 2, str := 256 }
/-- UART_CFG.EN. -/
def uartEn : Fld := { off := 0x380, lo := 19, w := 1, acc := .rw, cnt := 2, str := 256, hook := .uartEn }
/-- UART_TX. -/
def uartTx : Fld := { off := 0x384, lo := 0, w := 8, acc := .wo, cnt := 2, str := 256, own := true }
/-- UART_RX. -/
def uartRxData : Fld := { off := 0x388, lo := 0, w := 16, acc := .rc, cnt := 2, str := 256, live := .uartRx, own := true }
/-- UART_STAT.TX_LEVEL. -/
def uartTxLevel : Fld := { off := 0x38C, lo := 0, w := 7, acc := .ro, cnt := 2, str := 256, live := .uartTxLevel }
/-- UART_STAT.RX_LEVEL. -/
def uartRxLevel : Fld := { off := 0x38C, lo := 8, w := 7, acc := .ro, cnt := 2, str := 256, live := .uartRxLevel }
/-- UART_STAT.FRAME. -/
def uartFrame : Fld := { off := 0x38C, lo := 16, w := 1, acc := .w1c, cnt := 2, str := 256 }
/-- UART_STAT.PARITY_E. -/
def uartParityE : Fld := { off := 0x38C, lo := 17, w := 1, acc := .w1c, cnt := 2, str := 256 }
/-- UART_STAT.OVERRUN. -/
def uartOverrun : Fld := { off := 0x38C, lo := 18, w := 1, acc := .w1c, cnt := 2, str := 256 }
/-- UART_STAT.TX_OVF. -/
def uartTxOvf : Fld := { off := 0x38C, lo := 19, w := 1, acc := .w1c, cnt := 2, str := 256 }
/-- PWM PERIOD. -/
def pwmPeriod : Fld := { off := 0x3C0, lo := 0, w := 32, acc := .rw, cnt := 4, str := 64, hook := .pwm }
/-- PWM HIGH. -/
def pwmHigh : Fld := { off := 0x3C4, lo := 0, w := 32, acc := .rw, cnt := 4, str := 64, hook := .pwm }

/-! ### I3C (R459) -/

/-- BUS_CFG.MODE. -/
def i3cMode : Fld := { off := 0x080, lo := 0, w := 2, acc := .rwl }
/-- BUS_CFG.SDR_DIV. -/
def sdrDiv : Fld := { off := 0x080, lo := 4, w := 8, acc := .rwl, rst := 8 }
/-- BUS_CFG.STRETCH_MAX. -/
def stretchMax : Fld := { off := 0x080, lo := 16, w := 16, acc := .rwl, rst := 1000 }
/-- CMD. -/
def i3cCmd : Fld := { off := 0x084, lo := 0, w := 32, acc := .wo, own := true }
/-- CMD_ARG.TID. -/
def cmdTid : Fld := { off := 0x088, lo := 0, w := 8, acc := .ws }
/-- CMD_ARG.DIRECT. -/
def cmdDirect : Fld := { off := 0x088, lo := 8, w := 1, acc := .ws }
/-- CMD_ARG.CCC_DATA. -/
def cmdCccData : Fld := { off := 0x088, lo := 9, w := 1, acc := .ws }
/-- CMD_ARG.CCC_RD. -/
def cmdCccRd : Fld := { off := 0x088, lo := 10, w := 1, acc := .ws }
/-- TX_DATA4. -/
def txData4 : Fld := { off := 0x08C, lo := 0, w := 32, acc := .wo, own := true }
/-- TX_DATA. -/
def txData : Fld := { off := 0x090, lo := 0, w := 8, acc := .wo, own := true }
/-- RX_DATA. -/
def rxData : Fld := { off := 0x094, lo := 0, w := 9, acc := .rc, live := .i3cRx, own := true }
/-- RESP. -/
def i3cResp : Fld := { off := 0x098, lo := 0, w := 32, acc := .rc, live := .i3cResp, own := true }
/-- FIFO_STAT.TX_LEVEL. -/
def i3cTxLevel : Fld := { off := 0x09C, lo := 0, w := 9, acc := .ro, live := .i3cTxLevel }
/-- FIFO_STAT.RX_LEVEL. -/
def i3cRxLevel : Fld := { off := 0x09C, lo := 9, w := 9, acc := .ro, live := .i3cRxLevel }
/-- FIFO_STAT.CMD_LEVEL. -/
def i3cCmdLevel : Fld := { off := 0x09C, lo := 18, w := 5, acc := .ro, live := .i3cCmdLevel }
/-- FIFO_STAT.RESP_LEVEL. -/
def i3cRespLevel : Fld := { off := 0x09C, lo := 23, w := 5, acc := .ro, live := .i3cRespLevel }
/-- FIFO_STAT.HALTED. -/
def i3cHalted : Fld := { off := 0x09C, lo := 28, w := 1, acc := .ro }
/-- IBI. -/
def i3cIbi : Fld := { off := 0x0A0, lo := 0, w := 24, acc := .rc, live := .i3cIbi, own := true }
/-- HALT_CLR. -/
def haltClr : Fld := { off := 0x0A4, lo := 0, w := 1, acc := .wo, own := true }
/-- IBI_DATA. -/
def ibiData : Fld := { off := 0x0A8, lo := 0, w := 24, acc := .ro }

/-! ### MON (R478) -/

/-- MON_CTRL.RUN. -/
def monRun : Fld := { off := 0x080, lo := 0, w := 1, acc := .rw, own := true }
/-- MON_CTRL.TCOMMIT. -/
def tcommit : Fld := { off := 0x080, lo := 1, w := 1, acc := .w1s, own := true }
/-- MON_STAT.VBLANK. -/
def vblank : Fld := { off := 0x084, lo := 0, w := 1, acc := .ro, live := .vblank }
/-- MON_STAT.LINE. -/
def monLineNo : Fld := { off := 0x084, lo := 16, w := 12, acc := .ro, live := .monLine }
/-- FRAME_CNT. -/
def monFrameCnt : Fld := { off := 0x088, lo := 0, w := 32, acc := .ro }
/-- TIMING_GEN. -/
def timingGen : Fld := { off := 0x08C, lo := 0, w := 16, acc := .ro }
/-- BG. -/
def monBg : Fld := { off := 0x090, lo := 0, w := 24, acc := .rw }
/-- H_ACTIVE shadow. -/
def hActive : Fld := { off := 0x094, lo := 0, w := 16, acc := .rw }
/-- H_FP shadow. -/
def hFp : Fld := { off := 0x094, lo := 16, w := 16, acc := .rw }
/-- H_SYNC shadow. -/
def hSync : Fld := { off := 0x098, lo := 0, w := 16, acc := .rw }
/-- H_BP shadow. -/
def hBp : Fld := { off := 0x098, lo := 16, w := 16, acc := .rw }
/-- V_ACTIVE shadow. -/
def vActive : Fld := { off := 0x09C, lo := 0, w := 16, acc := .rw }
/-- V_FP shadow. -/
def vFp : Fld := { off := 0x09C, lo := 16, w := 16, acc := .rw }
/-- V_SYNC shadow. -/
def vSync : Fld := { off := 0x0A0, lo := 0, w := 16, acc := .rw }
/-- V_BP shadow. -/
def vBp : Fld := { off := 0x0A0, lo := 16, w := 16, acc := .rw }
/-- HSYNC_POL shadow. -/
def hsyncPol : Fld := { off := 0x0A4, lo := 0, w := 1, acc := .rw }
/-- VSYNC_POL shadow. -/
def vsyncPol : Fld := { off := 0x0A4, lo := 1, w := 1, acc := .rw }
/-- PIX_N shadow. -/
def pixN : Fld := { off := 0x0A8, lo := 0, w := 12, acc := .rw, rst := 1200 }
/-- PIX_DIV shadow. -/
def pixDiv : Fld := { off := 0x0A8, lo := 16, w := 6, acc := .rw, rst := 48 }
/-- EVT VBLANK FLIP MISS UNDERRUN. -/
def monEvt : Fld := { off := 0x0B0, lo := 0, w := 16, acc := .w1c, own := true }
/-- EVT_CFG.EVT_EN. -/
def monEvtEn : Fld := { off := 0x0B4, lo := 0, w := 4, acc := .rw }
/-- EVT_CFG.IRQ_VEC. -/
def monIrqVec : Fld := { off := 0x0B4, lo := 8, w := 6, acc := .rw }
/-- EVT_CFG.IRQ_EN. -/
def monIrqEn : Fld := { off := 0x0B4, lo := 14, w := 1, acc := .rw }
/-- EVT_CFG.EVT_SEM. -/
def monEvtSem : Fld := { off := 0x0B4, lo := 16, w := 10, acc := .rw }
/-- EVT_CFG.SEM_EN. -/
def monSemEn : Fld := { off := 0x0B4, lo := 31, w := 1, acc := .rw }
/-- PL_CFG.EN. -/
def plEn : Fld := { off := 0x100, lo := 0, w := 1, acc := .rw, cnt := 4, str := 2048, guard := .plFmt }
/-- PL_CFG.FMT. -/
def plFmt : Fld := { off := 0x100, lo := 1, w := 3, acc := .rw, cnt := 4, str := 2048 }
/-- PL_CFG.SCALE. -/
def plScale : Fld := { off := 0x100, lo := 4, w := 2, acc := .rw, cnt := 4, str := 2048, ok := .range 0 2 }
/-- PL_CFG.GALPHA. -/
def plGalpha : Fld := { off := 0x100, lo := 8, w := 8, acc := .rw, rst := 255, cnt := 4, str := 2048 }
/-- X. -/
def plX : Fld := { off := 0x104, lo := 0, w := 16, acc := .rw, cnt := 4, str := 2048 }
/-- Y. -/
def plY : Fld := { off := 0x104, lo := 16, w := 16, acc := .rw, cnt := 4, str := 2048 }
/-- FILL. -/
def plFill : Fld := { off := 0x108, lo := 0, w := 24, acc := .rw, cnt := 4, str := 2048 }
/-- PAL_LO. -/
def palLo : Fld := { off := 0x10C, lo := 0, w := 16, acc := .rw, cnt := 4, str := 2048 }
/-- PAL_GAIN. -/
def palGain : Fld := { off := 0x10C, lo := 16, w := 16, acc := .rw, rst := 256, cnt := 4, str := 2048 }
/-- PL_CTRL.SLOT. -/
def plSlot : Fld := { off := 0x110, lo := 0, w := 2, acc := .wo, cnt := 4, str := 2048, own := true }
/-- PL_CTRL.COMMIT. -/
def plCommit : Fld := { off := 0x110, lo := 2, w := 1, acc := .wo, cnt := 4, str := 2048, own := true }
/-- PL_CTRL.RELEASE. -/
def plRelease : Fld := { off := 0x110, lo := 3, w := 1, acc := .wo, cnt := 4, str := 2048, own := true }
/-- PL_STAT.SLOT_STATE slot 0. -/
def plSlotState0 : Fld := { off := 0x114, lo := 0, w := 2, acc := .ro, cnt := 4, str := 2048 }
/-- PL_STAT.SLOT_STATE slot 1. -/
def plSlotState1 : Fld := { off := 0x114, lo := 2, w := 2, acc := .ro, cnt := 4, str := 2048 }
/-- PL_STAT.SLOT_STATE slot 2. -/
def plSlotState2 : Fld := { off := 0x114, lo := 4, w := 2, acc := .ro, cnt := 4, str := 2048 }
/-- PL_STAT.SLOT_STATE slot 3. -/
def plSlotState3 : Fld := { off := 0x114, lo := 6, w := 2, acc := .ro, cnt := 4, str := 2048 }
/-- PL_STAT.LAST_FREED. -/
def lastFreed : Fld := { off := 0x114, lo := 8, w := 4, acc := .ro, cnt := 4, str := 2048 }
/-- PLANE_MISS_CNT. -/
def planeMissCnt : Fld := { off := 0x118, lo := 0, w := 32, acc := .ro, cnt := 4, str := 2048 }
/-- REPEAT_CNT. -/
def repeatCnt : Fld := { off := 0x11C, lo := 0, w := 32, acc := .ro, cnt := 4, str := 2048 }
/-- SKIP_CNT. -/
def plSkipCnt : Fld := { off := 0x120, lo := 0, w := 32, acc := .ro, cnt := 4, str := 2048 }
/-- UNDERRUN_CNT. -/
def underrunCnt : Fld := { off := 0x124, lo := 0, w := 32, acc := .ro, cnt := 4, str := 2048 }
/-- FETCH_ERR_CNT. -/
def fetchErrCnt : Fld := { off := 0x128, lo := 0, w := 32, acc := .ro, cnt := 4, str := 2048 }
/-- slot BASE. -/
def slBase : Fld := { off := 0x180, lo := 0, w := 64, acc := .rw, cnt := 16, str := 256, inner := 4, ostr := 2048, q := true, guard := .slotFree }
/-- slot C_OFF. -/
def slCOff : Fld := { off := 0x188, lo := 0, w := 32, acc := .rw, cnt := 16, str := 256, inner := 4, ostr := 2048, guard := .slotFree }
/-- slot PITCH. -/
def slPitch : Fld := { off := 0x18C, lo := 0, w := 20, acc := .rw, cnt := 16, str := 256, inner := 4, ostr := 2048, guard := .slotFree }
/-- slot W. -/
def slW : Fld := { off := 0x190, lo := 0, w := 16, acc := .rw, cnt := 16, str := 256, inner := 4, ostr := 2048, guard := .slotFree }
/-- slot H. -/
def slH : Fld := { off := 0x190, lo := 16, w := 16, acc := .rw, cnt := 16, str := 256, inner := 4, ostr := 2048, guard := .slotFree }
/-- slot ID. -/
def slId : Fld := { off := 0x194, lo := 0, w := 16, acc := .rw, cnt := 16, str := 256, inner := 4, ostr := 2048, guard := .slotFree }
/-- PALETTE entry i. -/
def palette : Fld := { off := 0x800, lo := 0, w := 24, acc := .rw, cnt := 256, str := 32 }

/-! ### DPTX (R479) -/

/-- LINK_CFG.RATE shadow. -/
def dpRate : Fld := { off := 0x080, lo := 0, w := 2, acc := .rw }
/-- LINK_CFG.LANES shadow. -/
def dpLanes : Fld := { off := 0x080, lo := 2, w := 2, acc := .rw, rst := 2 }
/-- LINK_CFG.SSC shadow. -/
def dpSsc : Fld := { off := 0x080, lo := 4, w := 1, acc := .rw }
/-- LINK_CTRL.TRAIN. -/
def dpTrain : Fld := { off := 0x084, lo := 0, w := 1, acc := .wo, own := true }
/-- LINK_CTRL.LINK_OFF. -/
def dpLinkOff : Fld := { off := 0x084, lo := 1, w := 1, acc := .wo, own := true }
/-- LINK_STAT.STATE. -/
def dpState : Fld := { off := 0x088, lo := 0, w := 3, acc := .ro }
/-- LINK_STAT.HPD. -/
def hpd : Fld := { off := 0x088, lo := 3, w := 1, acc := .ro }
/-- LINK_STAT.FAIL_STEP. -/
def dpFailStep : Fld := { off := 0x088, lo := 4, w := 4, acc := .ro }
/-- LINK_STAT.RATE_TRAINED. -/
def rateTrained : Fld := { off := 0x088, lo := 8, w := 2, acc := .ro }
/-- LINK_STAT.LANES_TRAINED. -/
def lanesTrained : Fld := { off := 0x088, lo := 10, w := 2, acc := .ro }
/-- LINK_STAT.SWING. -/
def dpSwing : Fld := { off := 0x088, lo := 12, w := 2, acc := .ro }
/-- LINK_STAT.PREEMPH. -/
def dpPreemph : Fld := { off := 0x088, lo := 14, w := 2, acc := .ro }
/-- AUX_CMD.TYPE. -/
def auxType : Fld := { off := 0x08C, lo := 0, w := 2, acc := .rw }
/-- AUX_CMD.MOT. -/
def auxMot : Fld := { off := 0x08C, lo := 2, w := 1, acc := .rw }
/-- AUX_CMD.LEN-1. -/
def auxLen : Fld := { off := 0x08C, lo := 4, w := 4, acc := .rw }
/-- AUX_CMD.AUX_GO. -/
def auxGo : Fld := { off := 0x08C, lo := 31, w := 1, acc := .wo, own := true }
/-- AUX_ADDR. -/
def auxAddr : Fld := { off := 0x090, lo := 0, w := 20, acc := .rw }
/-- AUX_STAT.BUSY. -/
def auxBusy : Fld := { off := 0x094, lo := 0, w := 1, acc := .ro }
/-- AUX_STAT.RESULT. -/
def auxResult : Fld := { off := 0x094, lo := 1, w := 3, acc := .ro }
/-- AUX_STAT.BYTES. -/
def auxBytes : Fld := { off := 0x094, lo := 4, w := 5, acc := .ro }
/-- AUX_DATA. -/
def auxData : Fld := { off := 0x0A0, lo := 0, w := 8, acc := .rw, cnt := 16, str := 8 }
/-- EVT HPD_PLUG HPD_UNPLUG HPD_IRQ TRAIN_DONE LINK_LOST. -/
def dpEvt : Fld := { off := 0x0B0, lo := 0, w := 5, acc := .w1c, own := true }
/-- EVT_CFG.EVT_EN. -/
def dpEvtEn : Fld := { off := 0x0B4, lo := 0, w := 4, acc := .rw }
/-- EVT_CFG.IRQ_VEC. -/
def dpIrqVec : Fld := { off := 0x0B4, lo := 8, w := 6, acc := .rw }
/-- EVT_CFG.IRQ_EN. -/
def dpIrqEn : Fld := { off := 0x0B4, lo := 14, w := 1, acc := .rw }
/-- EVT_CFG.EVT_SEM. -/
def dpEvtSem : Fld := { off := 0x0B4, lo := 16, w := 10, acc := .rw }
/-- EVT_CFG.SEM_EN. -/
def dpSemEn : Fld := { off := 0x0B4, lo := 31, w := 1, acc := .rw }
/-- LINK_RETRY_CNT. -/
def linkRetryCnt : Fld := { off := 0x0B8, lo := 0, w := 32, acc := .ro }

/-! ### CH (R320,R349) -/

/-- CH_CFG.MODE. -/
def chMode : Fld := { off := 0x080, lo := 0, w := 1, acc := .rwl, guard := .chOff }
/-- CH_CFG.PARK. -/
def chPark : Fld := { off := 0x080, lo := 1, w := 1, acc := .rwl }
/-- CH_CFG.STOP_ON_ERR. -/
def stopOnErr : Fld := { off := 0x080, lo := 2, w := 1, acc := .rw }
/-- CH_CFG.PRIO. -/
def chPrio : Fld := { off := 0x080, lo := 4, w := 2, acc := .rw }
/-- CH_CFG.SCLASS. -/
def chSclass : Fld := { off := 0x080, lo := 6, w := 2, acc := .rwl, guard := .sclass }
/-- CH_CFG.OUT_MAX. -/
def chOutMax : Fld := { off := 0x080, lo := 8, w := 6, acc := .rw, rst := 8, ok := .range 1 32 }
/-- CH_CFG.AT_MODE (R349). -/
def chAtMode : Fld := { off := 0x080, lo := 16, w := 1, acc := .rwl, hook := .atMode }
/-- CH_CFG.PRI_EN (R349). -/
def chPriEn : Fld := { off := 0x080, lo := 17, w := 1, acc := .rwl }
/-- PACE_LO. -/
def paceLo : Fld := { off := 0x084, lo := 0, w := 6, acc := .rw, rst := 8 }
/-- PACE_HI. -/
def paceHi : Fld := { off := 0x084, lo := 8, w := 6, acc := .rw, rst := 24 }
/-- PACE_EN. -/
def paceEn : Fld := { off := 0x084, lo := 16, w := 1, acc := .rw }
/-- CH_STATE. -/
def chState : Fld := { off := 0x088, lo := 0, w := 4, acc := .ro }
/-- PAUSED. -/
def chPaused : Fld := { off := 0x088, lo := 4, w := 1, acc := .ro }
/-- EXT_PEND. -/
def extPend : Fld := { off := 0x088, lo := 5, w := 1, acc := .ro }
/-- FAULT_HALT. -/
def chFaultHalt : Fld := { off := 0x088, lo := 6, w := 1, acc := .ro }
/-- CHAIN_PTR. -/
def chainPtr : Fld := { off := 0x090, lo := 0, w := 64, acc := .rw, q := true, guard := .chIdleOff, ok := .align 64 }
/-- CUR_DESC. -/
def curDesc : Fld := { off := 0x098, lo := 0, w := 64, acc := .ro, q := true }
/-- RING_BASE. -/
def chRingBase : Fld := { off := 0x0A0, lo := 0, w := 64, acc := .rwl, q := true, ok := .align 64 }
/-- RING_COUNT. -/
def chRingCount : Fld := { off := 0x0A8, lo := 0, w := 16, acc := .rwl, rst := 2, own := true }
/-- RING_HEAD. -/
def chRingHead : Fld := { off := 0x0AC, lo := 0, w := 17, acc := .rw, guard := .chOff }
/-- RING_TAIL. -/
def chRingTail : Fld := { off := 0x0B0, lo := 0, w := 17, acc := .ro }
/-- STARTED. -/
def chStarted : Fld := { off := 0x0B4, lo := 0, w := 16, acc := .ro }
/-- CR_BASE. -/
def chCrBase : Fld := { off := 0x0B8, lo := 0, w := 64, acc := .rwl, q := true, ok := .align 64 }
/-- CR_COUNT. -/
def chCrCount : Fld := { off := 0x0C0, lo := 0, w := 13, acc := .rwl, rst := 4, own := true }
/-- CR_WR_IDX. -/
def chCrWrIdx : Fld := { off := 0x0C4, lo := 0, w := 17, acc := .ro }
/-- CR_RD_IDX. -/
def chCrRdIdx : Fld := { off := 0x0C8, lo := 0, w := 17, acc := .rw, own := true }
/-- EVT HALF FULL ERR PARK. -/
def chEvt : Fld := { off := 0x0CC, lo := 0, w := 4, acc := .w1c, own := true }
/-- EVT_CFG.EVT_EN. -/
def chEvtEn : Fld := { off := 0x0D0, lo := 0, w := 4, acc := .rw }
/-- EVT_CFG.IRQ_VEC. -/
def chIrqVec : Fld := { off := 0x0D0, lo := 8, w := 6, acc := .rw }
/-- EVT_CFG.IRQ_EN. -/
def chIrqEn : Fld := { off := 0x0D0, lo := 14, w := 1, acc := .rw }
/-- EVT_CFG.EVT_SEM. -/
def chEvtSem : Fld := { off := 0x0D0, lo := 16, w := 10, acc := .rw }
/-- EVT_CFG.SEM_EN. -/
def chSemEn : Fld := { off := 0x0D0, lo := 31, w := 1, acc := .rw }
/-- START_DB. -/
def chStartDb : Fld := { off := 0x0D8, lo := 0, w := 17, acc := .wo, own := true }
/-- EXTEND_DB. -/
def chExtendDb : Fld := { off := 0x0DC, lo := 0, w := 32, acc := .wo, own := true }
/-- CANCEL. -/
def chCancel : Fld := { off := 0x0E0, lo := 0, w := 1, acc := .wo, own := true }
/-- BYTES_RD (R294). -/
def bytesRd : Fld := { off := 0x0E8, lo := 0, w := 64, acc := .ro, q := true, grp := true }
/-- BYTES_WR. -/
def bytesWr : Fld := { off := 0x0F0, lo := 0, w := 64, acc := .ro, q := true, grp := true }
/-- BYTES_DISC. -/
def bytesDisc : Fld := { off := 0x0F8, lo := 0, w := 64, acc := .ro, q := true, grp := true }
/-- BYTES_BUF. -/
def bytesBuf : Fld := { off := 0x100, lo := 0, w := 12, acc := .ro, grp := true }
/-- DESC_DONE. -/
def descDone : Fld := { off := 0x104, lo := 0, w := 32, acc := .ro }
/-- DESC_ERR. -/
def descErr : Fld := { off := 0x108, lo := 0, w := 32, acc := .ro }
/-- RETRY_CNT. -/
def chRetryCnt : Fld := { off := 0x10C, lo := 0, w := 32, acc := .ro }
/-- OWN_MISS_CNT. -/
def ownMissCnt : Fld := { off := 0x110, lo := 0, w := 32, acc := .ro }
/-- EXT_IGNORED. -/
def extIgnored : Fld := { off := 0x114, lo := 0, w := 32, acc := .ro }
/-- FAULT_ADDR (R349). -/
def chFaultAddr : Fld := { off := 0x118, lo := 0, w := 64, acc := .ro, q := true }
/-- FAULT_INFO.FAULT_BEAT. -/
def chFaultBeat : Fld := { off := 0x120, lo := 0, w := 16, acc := .ro }
/-- FAULT_INFO.PRG_INDEX. -/
def chPrgIndex : Fld := { off := 0x120, lo := 16, w := 9, acc := .ro }
/-- FAULT_INFO direction. -/
def chFaultDir : Fld := { off := 0x120, lo := 31, w := 1, acc := .ro }

/-! ### PQ (R348) -/

/-- Q_CFG.OUT_MAX. -/
def qOutMax : Fld := { off := 0x080, lo := 0, w := 7, acc := .rw, rst := 8, ok := .range 1 64 }
/-- Q_CFG.REQ_MAX-1. -/
def reqMax : Fld := { off := 0x080, lo := 8, w := 3, acc := .rw, rst := 7 }
/-- Q_CFG.PRIO. -/
def qPrio : Fld := { off := 0x080, lo := 12, w := 2, acc := .rw }
/-- Q_CFG.SCLASS. -/
def qSclass : Fld := { off := 0x080, lo := 14, w := 2, acc := .rwl, guard := .sclass }
/-- Q_CFG.AT_MODE. -/
def qAtMode : Fld := { off := 0x080, lo := 16, w := 1, acc := .rwl, hook := .atMode }
/-- Q_CFG.PRI_EN. -/
def qPriEn : Fld := { off := 0x080, lo := 17, w := 1, acc := .rwl }
/-- Q_STAT.STATE. -/
def qState : Fld := { off := 0x084, lo := 0, w := 3, acc := .ro }
/-- STREAM_PTR. -/
def streamPtr : Fld := { off := 0x088, lo := 0, w := 64, acc := .rw, q := true, guard := .qIdleOff, ok := .align 64 }
/-- BUF_BASE. -/
def bufBase : Fld := { off := 0x090, lo := 0, w := 64, acc := .rwl, q := true }
/-- CAP. -/
def qCap : Fld := { off := 0x098, lo := 0, w := 11, acc := .rwl, rst := 1, own := true }
/-- ENTRY_L. -/
def entryL : Fld := { off := 0x098, lo := 16, w := 6, acc := .rwl, guard := .qOff }
/-- PROD_IDX. -/
def prodIdx : Fld := { off := 0x0A0, lo := 0, w := 17, acc := .ro }
/-- CONS_IDX. -/
def consIdx : Fld := { off := 0x0A4, lo := 0, w := 17, acc := .ro }
/-- STARTED. -/
def qStarted : Fld := { off := 0x0A8, lo := 0, w := 16, acc := .ro }
/-- NEXT_ELEM. -/
def nextElem : Fld := { off := 0x0AC, lo := 0, w := 24, acc := .ro }
/-- START_DB. -/
def qStartDb : Fld := { off := 0x0B0, lo := 0, w := 32, acc := .wo, own := true }
/-- REL_DB. -/
def qRelDb : Fld := { off := 0x0B4, lo := 0, w := 32, acc := .wo, own := true }
/-- CANCEL. -/
def qCancel : Fld := { off := 0x0B8, lo := 0, w := 1, acc := .wo, own := true }
/-- FREE. -/
def qFree : Fld := { off := 0x0C0, lo := 0, w := 11, acc := .ro, rst := 1, live := .qFree }
/-- RESERVED. -/
def qReserved : Fld := { off := 0x0C0, lo := 16, w := 11, acc := .ro }
/-- OCCUPIED. -/
def qOccupied : Fld := { off := 0x0C4, lo := 0, w := 11, acc := .ro }
/-- DRAINING. -/
def qDraining : Fld := { off := 0x0C4, lo := 16, w := 11, acc := .ro }
/-- RETURNING. -/
def qReturning : Fld := { off := 0x0C8, lo := 0, w := 11, acc := .ro }
/-- AUDIT_CTRL.SNAP. -/
def snap : Fld := { off := 0x0D0, lo := 0, w := 1, acc := .wo, own := true }
/-- AUDIT_CTRL.VALID. -/
def snapValid : Fld := { off := 0x0D0, lo := 1, w := 1, acc := .ro }
/-- A_FREE. -/
def aFree : Fld := { off := 0x0D4, lo := 0, w := 11, acc := .ro }
/-- A_RESERVED. -/
def aReserved : Fld := { off := 0x0D4, lo := 16, w := 11, acc := .ro }
/-- A_OCCUPIED. -/
def aOccupied : Fld := { off := 0x0D8, lo := 0, w := 11, acc := .ro }
/-- A_DRAINING. -/
def aDraining : Fld := { off := 0x0D8, lo := 16, w := 11, acc := .ro }
/-- AUDIT_TIME. -/
def auditTime : Fld := { off := 0x0DC, lo := 0, w := 64, acc := .ro, q := true }
/-- CR_BASE. -/
def qCrBase : Fld := { off := 0x0E8, lo := 0, w := 64, acc := .rwl, q := true, ok := .align 64 }
/-- CR_COUNT. -/
def qCrCount : Fld := { off := 0x0F0, lo := 0, w := 13, acc := .rwl, rst := 4, own := true }
/-- CR_WR_IDX. -/
def qCrWrIdx : Fld := { off := 0x0F4, lo := 0, w := 17, acc := .ro }
/-- CR_RD_IDX. -/
def qCrRdIdx : Fld := { off := 0x0F8, lo := 0, w := 17, acc := .rw, own := true }
/-- FAULT_ADDR. -/
def qFaultAddr : Fld := { off := 0x100, lo := 0, w := 64, acc := .ro, q := true }
/-- FAULT_ELEM. -/
def qFaultElem : Fld := { off := 0x108, lo := 0, w := 24, acc := .ro }
/-- FAULT_OFF. -/
def qFaultOff : Fld := { off := 0x10C, lo := 0, w := 12, acc := .ro }
/-- PRG_INDEX. -/
def qPrgIndex : Fld := { off := 0x10C, lo := 16, w := 9, acc := .ro }
/-- MERGED_CNT. -/
def mergedCnt : Fld := { off := 0x110, lo := 0, w := 32, acc := .ro }
/-- RETRY_CNT. -/
def qRetryCnt : Fld := { off := 0x114, lo := 0, w := 32, acc := .ro }
/-- FAULT_CNT. -/
def qFaultCnt : Fld := { off := 0x118, lo := 0, w := 32, acc := .ro }
/-- STALE_CNT. -/
def qStaleCnt : Fld := { off := 0x11C, lo := 0, w := 32, acc := .ro }
/-- EVT DONE ERR FAULT. -/
def qEvt : Fld := { off := 0x120, lo := 0, w := 3, acc := .w1c, own := true }
/-- EVT_CFG.EVT_EN. -/
def qEvtEn : Fld := { off := 0x124, lo := 0, w := 4, acc := .rw }
/-- EVT_CFG.IRQ_VEC. -/
def qIrqVec : Fld := { off := 0x124, lo := 8, w := 6, acc := .rw }
/-- EVT_CFG.IRQ_EN. -/
def qIrqEn : Fld := { off := 0x124, lo := 14, w := 1, acc := .rw }
/-- EVT_CFG.EVT_SEM. -/
def qEvtSem : Fld := { off := 0x124, lo := 16, w := 10, acc := .rw }
/-- EVT_CFG.SEM_EN. -/
def qSemEn : Fld := { off := 0x124, lo := 31, w := 1, acc := .rw }

/-! ### HQ (R427) -/

/-- HQ_STAT.BME. -/
def hqBme : Fld := { off := 0x080, lo := 0, w := 1, acc := .ro, live := .bme }
/-- HQ_STAT.LINK_UP. -/
def hqLinkUp : Fld := { off := 0x080, lo := 1, w := 1, acc := .ro, live := .linkUp }
/-- HQ_STAT.FLR_ACTIVE. -/
def flrActive : Fld := { off := 0x080, lo := 2, w := 1, acc := .ro }
/-- PRQ_FN_CNT. -/
def prqFnCnt : Fld := { off := 0x084, lo := 0, w := 32, acc := .ro }
/-- SQ_BASE. -/
def sqBase : Fld := { off := 0x100, lo := 0, w := 64, acc := .rw, cnt := 16, str := 512, q := true, guard := .pairOff }
/-- CQ_BASE. -/
def hqCqBase : Fld := { off := 0x108, lo := 0, w := 64, acc := .rw, cnt := 16, str := 512, q := true, guard := .pairOff }
/-- SQ_SIZE. -/
def sqSize : Fld := { off := 0x110, lo := 0, w := 13, acc := .rw, rst := 4, cnt := 16, str := 512, guard := .pairOff }
/-- CQ_SIZE. -/
def hqCqSize : Fld := { off := 0x110, lo := 16, w := 13, acc := .rw, rst := 4, cnt := 16, str := 512, guard := .pairOff }
/-- Q_CFG.VEC. -/
def hqVec : Fld := { off := 0x114, lo := 0, w := 6, acc := .rw, cnt := 16, str := 512, guard := .pairOff }
/-- Q_CFG.IRQ_EN. -/
def hqIrqEn : Fld := { off := 0x114, lo := 8, w := 1, acc := .rw, cnt := 16, str := 512, guard := .pairOff }
/-- Q_CFG.COND_EVT. -/
def condEvt : Fld := { off := 0x114, lo := 9, w := 1, acc := .rw, cnt := 16, str := 512, guard := .pairOff }
/-- Q_CTRL.CREATE. -/
def qpCreate : Fld := { off := 0x118, lo := 0, w := 1, acc := .wo, cnt := 16, str := 512, own := true }
/-- Q_CTRL.DELETE. -/
def qpDelete : Fld := { off := 0x118, lo := 1, w := 1, acc := .wo, cnt := 16, str := 512, own := true }
/-- Q_STAT.STATE. -/
def qpState : Fld := { off := 0x11C, lo := 0, w := 2, acc := .ro, cnt := 16, str := 512 }
/-- Q_STAT.ERR_CAUSE. -/
def errCause : Fld := { off := 0x11C, lo := 4, w := 2, acc := .ro, cnt := 16, str := 512 }
/-- Q_STAT.NOTICE_PEND. -/
def noticePend : Fld := { off := 0x11C, lo := 8, w := 1, acc := .ro, cnt := 16, str := 512 }
/-- Q_STAT.INFLIGHT. -/
def qpInflight : Fld := { off := 0x11C, lo := 16, w := 7, acc := .ro, cnt := 16, str := 512 }
/-- SQ_HEAD. -/
def sqHead : Fld := { off := 0x120, lo := 0, w := 17, acc := .ro, cnt := 16, str := 512 }
/-- SQ_TAIL. -/
def sqTail : Fld := { off := 0x124, lo := 0, w := 17, acc := .ro, cnt := 16, str := 512 }
/-- CQ_TAIL. -/
def cqTail : Fld := { off := 0x128, lo := 0, w := 17, acc := .ro, cnt := 16, str := 512 }
/-- CQ_HEAD. -/
def cqHead : Fld := { off := 0x12C, lo := 0, w := 17, acc := .ro, cnt := 16, str := 512 }
/-- CMD_CNT. -/
def cmdCnt : Fld := { off := 0x130, lo := 0, w := 32, acc := .ro, cnt := 16, str := 512 }
/-- DUP_CNT. -/
def hqDupCnt : Fld := { off := 0x134, lo := 0, w := 32, acc := .ro, cnt := 16, str := 512 }
/-- LOST_REC. -/
def lostRec : Fld := { off := 0x138, lo := 0, w := 32, acc := .ro, cnt := 16, str := 512 }
/-- MSI-X message address v. -/
def msixAddr : Fld := { off := 0x800, lo := 0, w := 64, acc := .rw, cnt := 64, str := 128, q := true }
/-- MSI-X message data v. -/
def msixData : Fld := { off := 0x808, lo := 0, w := 32, acc := .rw, cnt := 64, str := 128 }
/-- MSI-X vector control mask bit v. -/
def msixMask : Fld := { off := 0x80C, lo := 0, w := 1, acc := .rw, rst := 1, cnt := 64, str := 128, hook := .msix }
/-- Pending Bit Array. -/
def pba : Fld := { off := 0xC00, lo := 0, w := 64, acc := .ro, q := true }

/-- The fields of the HDR table. -/
def tblHdr : List Fld :=
  [pageMinor, pageMajor, pageInst, pageType, pageParam0, pageEvents, pageParam1, enable, softReset, lock, perfEn, perfClear, pstate, busy, attn, locked, perfOvf, pageErr, pageErrMask, errFirstBit] ++
  [errFirstValid, injBit, injArm, injCont, stStart, stDone, stPass, stSel, stTime, owner, perfSel, perf]
/-- The fields of the SYS table. -/
def tblSys : List Fld :=
  [famMember, famStep, famSta, famRows, famCsi, famVc, famStreams, famIsp, famLvu, famCores, famParts, famPyr, famWrp, famHmp, famSte, famFlw, famFea, famVision, famVt, famBanks] ++
  [famBankMib, famChannels, famQueues, famLpc, famPlanes, famPairs, sysUid, sysTime]
/-- The fields of the CLK table. -/
def tblClk : List Fld :=
  [pllLock, pcieRefOk, slowFromRef, clkKhz, refKhz]
/-- The fields of the PWR table. -/
def tblPwr : List Fld :=
  [autoFloor, sleepReq, sleepGo, rung, entering, exiting, refuseCause, wakeCause, preq, idleHold, idleNap, wakeEn, wakePins, wakeTime, wakeEnc, wakeCounts, railWait, temp, thermLevel, thermHot] ++
  [sensFail, tPeak, throttleMs, holdCnt, napCnt, wakeCnt]
/-- The fields of the RST table. -/
def tblRst : List Fld :=
  [rstWarm, rstCold, rstKey, rstCause, bootMode, starting, romDone, bootFail, bootStep, bootStatus, bootImage, bootCopyB, bootQuad, romTime, startedTime, recovGo, cfgReject, warmCnt]
/-- The fields of the FUS table. -/
def tblFus : List Fld :=
  [rbCount, rbExhausted, fuseFault, rotpkSet, rbTarget, rbGo, rbState, rotpkHash, rotpkProg, rotpkGo]
/-- The fields of the SEC table. -/
def tblSec : List Fld :=
  [akPub, ldSrc, ldCore, ldGo, ldStat, updMark, reportSeq, imageEntry, partEntry]
/-- The fields of the DBG table. -/
def tblDbg : List Fld :=
  [debugFlags, debugTime, traceSrcEn, tracePortEn, traceHostEn, sampleUs, traceBase, traceSize, traceWr, traceRd, traceDropCnt]
/-- The fields of the SAF table. -/
def tblSaf : List Fld :=
  [fault, fallbackAll, lineFb, devOk, faultCause, resumeLines, resumeAll, doubtTag, doubtLine, wdKick, wdEn, doubtCnt, lateDoubtCnt, heldCnt, plausCnt, fawnEn, bind, fawnPairs, classSlack, fExit] ++
  [fGuard, fMb, fHmin, fMhRel, fMhAbs, fMincnt, fGap, fDmin, fNdc, fP1, fP2, fLrcovMin, fWorkBase, fResBase, fCalBase, fResIdx, camPos, camHalf, camSafe, camLine] ++
  [camPair, camRight, clsLmax, clsWmax, clsHmax]
/-- The fields of the CHK table. -/
def tblChk : List Fld :=
  [rotEn, rotPeriod, checkers, lastRotMs, lastRotEnd, chkFailPage, chkFailBit, chkFailValid, rotCnt, chkFailCnt]
/-- The fields of the ERL table. -/
def tblErl : List Fld :=
  [logBase, logCount, logWrIdx, logRdIdx, logEn, autoReset, logFail, faultHold, autoLimit, logLost, incidentNext, unfence, unfenceState, unfencePage, autoResetCnt, erlEvt, erlEvtEn, erlIrqVec, erlIrqEn, erlEvtSem] ++
  [erlSemEn]
/-- The fields of the CSI table. -/
def tblCsi : List Fld :=
  [csiLanes, csiLaneMap, csiPol, csiClkPol, csiMbps, csiStop, csiClkStop, csiUlps, csiClkUlps, csiDeskew, csiHs, csiVc, csiDt, csiEmbEn, cntEcc1, cntEcc2, cntCrc, cntUnmatched, cntSot]
/-- The fields of the ISP table. -/
def tblIsp : List Fld :=
  [pipeCtx, pipeCtxValid, pipeFrames, pipeResMiss, pipeRetry]
/-- The fields of the CTX table. -/
def tblCtx : List Fld :=
  [inEn, autoRelease, encSel, testEn, cal, stream, coverageFull, testDoubt, ringBase, slotSize, slotCount, embLines, width, height, stride, wrIdx, rdIdx, frameCnt, lossTimeout, testSeed] ++
  [blankMin, lastGap, goldBase, goldValid, dropCnt, skipCnt, mismatchCnt, lossCnt, ctxEn, ctxCommit, pipeMask, ctxPrio, outEn, dropIfFull, tapSel, irEn, paramGen, cfaLo, cfaHi, offX] ++
  [offY, black, gain, dpcThr, dpcEn, irM, colC, cOff, kCoef, yccM, yccOff, toneBank, toneWrBank, alpha, outFmt, outW, outH, outBase, outSlotSize, outSlotCount] ++
  [outStride0, outStride1, plane1Off, testOff, outWrIdx, outRdIdx, outSkipCnt, toneR, toneG, toneB]
/-- The fields of the ENG table. -/
def tblEng : List Fld :=
  [slotPart, slotFawn, splitCnt]
/-- The fields of the SLOT table. -/
def tblSlot : List Fld :=
  [jobPtr, slotStart, slotCancel, slotState, cqBase, cqCount, cqWrIdx, cqRdIdx, jobsDone, last0, last1, last2]
/-- The fields of the STA table. -/
def tblSta : List Fld :=
  [staSlotPart, pushQ, chainBusy, csMissCnt, transientCnt, outlierCnt, lastingCnt, pushSrc, pushDig, pushGo, pushDone, planeId, planeState, planeRef, planeArm, planeRetire]
/-- The fields of the LVU table. -/
def tblLvu : List Fld :=
  [lvuSlotPart, lvuFawn, satCnt, unfCnt, lvuDoubtCnt, lvuResMiss, romIdx, romData, ctxRec]
/-- The fields of the FGS table. -/
def tblFgs : List Fld :=
  [fgsInflight, stateUsed, gtSel, gtBase, gtLoad, gtUnload, gtCancel, gtCancelAll, gtState, gtOwner, gtActive, gtStarted, gtReq, cancelInst, ncGraph, ncNode, trGraph, trNode, semOpReg, semVal] ++
  [semRes, semResCount, semOwnPair, semOwnPart, startDropCnt, fgsStaleCnt, deadlineCnt, semSatCnt, lbBusy]
/-- The fields of the CC table. -/
def tblCc : List Fld :=
  [ccRun, ccState, resetPc, tcmAddr, tcmData, trapCause, trapPc, mbxIn, mbxPush]
/-- The fields of the SMV table. -/
def tblSmv : List Fld :=
  [smvActive]
/-- The fields of the PFQ table. -/
def tblPfq : List Fld :=
  [pfqActive, invCnt, prqCnt]
/-- The fields of the FAB table. -/
def tblFab : List Fld :=
  [fwSel, regionSel, regBase, regLimit, regRd, regWr, regSc3w, regEn, partSel, partCreate, partTeardown, partState, teardownDone, partOutstanding, remoteTo, fwEvtCnt, staleCnt, dupCnt, timeoutCnt, logSuppressed] ++
  [fwLastInit, fwLastPart, fwLastSc, fwLastOp, fwLastFw, fwLastKind, fwLastValid, fwLastAddr]
/-- The fields of the SVM table. -/
def tblSvm : List Fld :=
  [bankInh, svmCorrCnt, svmUncorrCnt, vtCorrCnt, vtUncorrCnt, svmLastErr, svmSyndrome, svmErrUncorr, svmErrInit, initDone]
/-- The fields of the LPC table. -/
def tblLpc : List Fld :=
  [lpcRate, lpcCap, lpcRanks, byteSwapA, byteSwapB, lpcInit, lpcState, failStep, mr4Rate, poisonUsed, lpcCorrCnt, rereadOkCnt, lpcUncorrCnt, notReadyCnt, lpcLastErr]
/-- The fields of the SCR table. -/
def tblScr : List Fld :=
  [patrolEn, patrolHours, patrolPos, passCnt, zfActive, zfPart, zfLeft]
/-- The fields of the PCI table. -/
def tblPci : List Fld :=
  [linkWidth, linkRate, dlUp, ltssm, reversed, rateCap, retrain, replayCnt, recoveryCnt, rxErrCnt, badTlpCnt, badDllpCnt, cplToCnt, npOutstanding, dlDownCnt]
/-- The fields of the VPT table. -/
def tblVpt : List Fld :=
  [clkActive, vpReadCnt, vpWriteCnt, vpParityCnt, badOpCnt, stageRefusedCnt, ackStaleCnt, noticeHold, lineEn, lineEnc, eyePin, lineParts, idLo, idHi, divertDist, matchTol, annWait, encOfs, evtCnt, unpairedEvtCnt] ++
  [unpairedAnnCnt, annBusyCnt, missedCnt, lineCond, evtOvfCnt]
/-- The fields of the LIO table. -/
def tblLio : List Fld :=
  [inLvl, outVal, switchBusy, pinFunc, pinUnit, pinInv, pinOd, pinFilt, encCnt, encEn, encRev, encErrCnt, tgMode, tgEnc, tgPeriod, tgPhase, tgWidth, strobeDelay, strobeWidth, minGap] ++
  [trigCnt, trigLate, trigDrop, uartDiv, uartParity, uartStop2, uartEn, uartTx, uartRxData, uartTxLevel, uartRxLevel, uartFrame, uartParityE, uartOverrun, uartTxOvf, pwmPeriod, pwmHigh]
/-- The fields of the I3C table. -/
def tblI3c : List Fld :=
  [i3cMode, sdrDiv, stretchMax, i3cCmd, cmdTid, cmdDirect, cmdCccData, cmdCccRd, txData4, txData, rxData, i3cResp, i3cTxLevel, i3cRxLevel, i3cCmdLevel, i3cRespLevel, i3cHalted, i3cIbi, haltClr, ibiData]
/-- The fields of the MON table. -/
def tblMon : List Fld :=
  [monRun, tcommit, vblank, monLineNo, monFrameCnt, timingGen, monBg, hActive, hFp, hSync, hBp, vActive, vFp, vSync, vBp, hsyncPol, vsyncPol, pixN, pixDiv, monEvt] ++
  [monEvtEn, monIrqVec, monIrqEn, monEvtSem, monSemEn, plEn, plFmt, plScale, plGalpha, plX, plY, plFill, palLo, palGain, plSlot, plCommit, plRelease, plSlotState0, plSlotState1, plSlotState2] ++
  [plSlotState3, lastFreed, planeMissCnt, repeatCnt, plSkipCnt, underrunCnt, fetchErrCnt, slBase, slCOff, slPitch, slW, slH, slId, palette]
/-- The fields of the DPTX table. -/
def tblDptx : List Fld :=
  [dpRate, dpLanes, dpSsc, dpTrain, dpLinkOff, dpState, hpd, dpFailStep, rateTrained, lanesTrained, dpSwing, dpPreemph, auxType, auxMot, auxLen, auxGo, auxAddr, auxBusy, auxResult, auxBytes] ++
  [auxData, dpEvt, dpEvtEn, dpIrqVec, dpIrqEn, dpEvtSem, dpSemEn, linkRetryCnt]
/-- The fields of the CH table. -/
def tblCh : List Fld :=
  [chMode, chPark, stopOnErr, chPrio, chSclass, chOutMax, chAtMode, chPriEn, paceLo, paceHi, paceEn, chState, chPaused, extPend, chFaultHalt, chainPtr, curDesc, chRingBase, chRingCount, chRingHead] ++
  [chRingTail, chStarted, chCrBase, chCrCount, chCrWrIdx, chCrRdIdx, chEvt, chEvtEn, chIrqVec, chIrqEn, chEvtSem, chSemEn, chStartDb, chExtendDb, chCancel, bytesRd, bytesWr, bytesDisc, bytesBuf, descDone] ++
  [descErr, chRetryCnt, ownMissCnt, extIgnored, chFaultAddr, chFaultBeat, chPrgIndex, chFaultDir]
/-- The fields of the PQ table. -/
def tblPq : List Fld :=
  [qOutMax, reqMax, qPrio, qSclass, qAtMode, qPriEn, qState, streamPtr, bufBase, qCap, entryL, prodIdx, consIdx, qStarted, nextElem, qStartDb, qRelDb, qCancel, qFree, qReserved] ++
  [qOccupied, qDraining, qReturning, snap, snapValid, aFree, aReserved, aOccupied, aDraining, auditTime, qCrBase, qCrCount, qCrWrIdx, qCrRdIdx, qFaultAddr, qFaultElem, qFaultOff, qPrgIndex, mergedCnt, qRetryCnt] ++
  [qFaultCnt, qStaleCnt, qEvt, qEvtEn, qIrqVec, qIrqEn, qEvtSem, qSemEn]
/-- The fields of the HQ table. -/
def tblHq : List Fld :=
  [hqBme, hqLinkUp, flrActive, prqFnCnt, sqBase, hqCqBase, sqSize, hqCqSize, hqVec, hqIrqEn, condEvt, qpCreate, qpDelete, qpState, errCause, noticePend, qpInflight, sqHead, sqTail, cqTail] ++
  [cqHead, cmdCnt, hqDupCnt, lostRec, msixAddr, msixData, msixMask, pba]
/-- The speed-monitor fields a FLW page adds (R183). -/
def tblFlwMon : List Fld :=
  [monEn, monEncSel, monLine, nRaise, nClear, monTol, holdCounts, holdTime, starveTime, monResync, monStarved, missRun, agreeRun, lastMed16, lastExp16, resyncCnt]

end Sys2Proof.Machine.R
end

