-- ==== Sys2Proof/Machine/Store.lean ====
section
/-! DEFINITION. Sparse data by key: a list of key and value pairs with rising keys, and what reads as not listed. -/
namespace Sys2Proof.Machine

/-- The value listed under `k`. -/
def sfind {α : Type} : List (Nat × α) → Nat → Option α
  | [], _ => none
  | (a, v) :: t, k => if a = k then some v else sfind t k

/-- List `v` under `k`, in key order. -/
def sput {α : Type} : List (Nat × α) → Nat → α → List (Nat × α)
  | [], k, v => [(k, v)]
  | (a, w) :: t, k, v =>
    if k = a then (k, v) :: t else if k < a then (k, v) :: (a, w) :: t else (a, w) :: sput t k v

/-- Unlist `k`. -/
def serase {α : Type} : List (Nat × α) → Nat → List (Nat × α)
  | [], _ => []
  | (a, w) :: t, k => if a = k then serase t k else (a, w) :: serase t k

/-- Read with a default for what is not listed. -/
def sget {α : Type} (d : α) (l : List (Nat × α)) (k : Nat) : α := (sfind l k).getD d

/-- Write, keeping what equals the default unlisted. -/
def sset {α : Type} [DecidableEq α] (d : α) (l : List (Nat × α)) (k : Nat) (v : α) : List (Nat × α) :=
  if v = d then serase l k else sput l k v

/-- The keys rise strictly. -/
def srising {α : Type} : List (Nat × α) → Bool
  | [] => true
  | [_] => true
  | (a, _) :: (b, w) :: t => decide (a < b) && srising ((b, w) :: t)

end Sys2Proof.Machine
end

