-- ==== Sys2Proof/Machine/State.lean ====
section
/-! DEFINITION. The state of the block, as plain data: the registers (one cell per register field), the memories, and
the internal state of each unit that the registers do not show; with the state after a cold reset. -/
namespace Sys2Proof.Machine

/-- Reasons a command stops the machine.  None is raised: every command of the spec has an effect, a refusal it
reports itself, or no effect (safe). -/
inductive Fault
  /-- No command raises it: the type needs one constructor (safe: no run ends in it). -/
  | unreachable
deriving DecidableEq, Repr

/-- Reasons a command is not performed by the model. -/
inductive Refusal
  /-- A command that has no meaning in the model yet (safe); raised by `exec` alone. -/
  | notModelled (mnemonic : String)
deriving DecidableEq, Repr

/-- An error-log record waiting at the aggregator (R533), less its REC_SEQ and COND, which the write adds. -/
structure LogRec where
  event : Nat
  level : Nat := 6
  cls : Nat := 0
  inj : Bool := false
  part : Nat := 0
  first : Bool := false
  incident : Nat := 0
  time : Nat := 0
  init : Nat := 0xFF
  page : Nat := 0x3FFF
  tag : Nat := 0
  addr : Nat := 0
  count : Nat := 0
  d0 : Nat := 0
  d1 : Nat := 0
  d2 : Nat := 0
deriving DecidableEq, Repr

/-- The scope of a doubt report (R484). -/
inductive Scope
  | entry (id : Nat)
  | frame (stream e0 e1 : Nat)
  | line (l : Nat)
  | part (p : Nat)
  | resync (l : Nat)
  | device
deriving DecidableEq, Repr

/-- A report on its way to the safety island (R484 to R488). `page` and `bit` name the checker an injected report
confirms. -/
structure Doubt where
  scope : Scope
  injected : Bool := false
  cont : Bool := false
  page : Nat := 0
  bit : Nat := 0
  time : Nat := 0
  inc : Nat := 0
deriving DecidableEq, Repr

/-- A held FINAL request of an entry (R489): lane, class and the user flags (bits 7 and 8). -/
structure Held where
  lane : Nat
  dim : Nat
  user : Nat
deriving DecidableEq, Repr

/-- A verdict-table entry: the word's fields (R432) and what the device keeps of its parcel (R438 to R442, R489);
`epos` is the encoder position at the origin, or the one an unpaired announcement names, `since` when it was announced. -/
structure Entry where
  st : Nat := 0
  seq : Nat := 0
  lane : Nat := 0xFF
  dim : Nat := 0xF
  flags : Nat := 0
  pos : Option Nat := none
  origin : Option Nat := none
  trail : Option Nat := none
  fawn : Option Nat := none
  held : Option Held := none
  poisoned : Bool := false
  epos : Int := 0
  since : Nat := 0
deriving DecidableEq, Repr

/-- A Fawn grid coverage record of one camera pair for one parcel (R499, R500). -/
structure PairCov where
  pair : Nat
  last : Nat
  gapped : Bool
deriving DecidableEq, Repr

/-- A photo-eye event and the parcel it stands for (R438): origin count, time, trailing edge, whether it is still on
the line's unpaired list, the paired tracking ID, the doubt of R486, and the Fawn working state (R499, R500); `pos` and
`tpos` are the encoder positions at its edges, `grid` its grid in the working region, `begun` that a job has written it. -/
structure Parcel where
  line : Nat
  c : Nat
  time : Nat
  trail : Option Nat := none
  listed : Bool := true
  id : Option Nat := none
  doubtful : Bool := false
  frames : Nat := 0
  covs : List PairCov := []
  cls : Option Nat := none
  hf : Nat := 0
  lf : Nat := 0
  wf : Nat := 0
  covFail : Bool := false
  evalTime : Nat := 0
  done : Bool := false
  pos : Int := 0
  tpos : Int := 0
  grid : Option Nat := none
  begun : Bool := false
deriving DecidableEq, Repr

/-- What a PCIe function's configuration space holds that the device acts on (R403 to R407). -/
structure FnCfg where
  memEn : Bool := false
  bme : Bool := false
  msixEn : Bool := false
  msixMask : Bool := false
  atsEn : Bool := false
  priEn : Bool := false
  priAlloc : Nat := 0
  cplTo : Nat := 0
  cplDis : Bool := false
  vfEn : Bool := false
  aerCplTo : Bool := false
  aerPoison : Bool := false
deriving DecidableEq, Repr

/-- What leaves the device towards the host. -/
inductive Out
  | msix (fn vec addr data : Nat)
  | pageRequest (fn addr prg : Nat)
  | invalidateDone (fn tag : Nat)
  | trace (bytes : List Byte)
  | uart (u b : Nat)
deriving DecidableEq, Repr

/-- How the device answered the last access: a value and a completion status (0 success, 1 Completer Abort,
2 Unsupported Request, 3 dropped, 4 an uncorrectable-error response, 5 denied, 6 STALE, 7 TIMEOUT). -/
structure Reply where
  value : Nat := 0
  status : Nat := 0
deriving DecidableEq, Repr

/-- A 64-bit read snapshot (R54): the register offsets its tag names, with the captured values. -/
structure Snap where
  page : Nat
  ini : Ini
  vals : List (Nat × Nat)
deriving DecidableEq, Repr

/-- A write hold (R55): the field's offset and the low word written. -/
structure Hold where
  page : Nat
  ini : Ini
  off : Nat
  lo : Nat
deriving DecidableEq, Repr

/-- A transaction slot at an initiator port (R365 to R368): `old` the abandoned epochs whose response is outstanding,
`ready` that the target has answered, with the answer. -/
structure Txn where
  busy : Bool := false
  addr : Nat := 0
  part : Nat := 0
  remote : Bool := false
  issued : Nat := 0
  limit : Nat := 0
  epoch : Nat := 0
  old : List Nat := []
  inc : Nat := 0
  ready : Bool := false
  value : Nat := 0
  status : Nat := 0
deriving DecidableEq, Repr

/-- The de-duplication table of a target for one initiator ID (R371). -/
structure Dedup where
  newest : Nat := 0
  results : List (Nat × Nat) := []
deriving DecidableEq, Repr

/-- A poisoned external line (R393): when its last ECC_UNCORR record was written and how many were suppressed. -/
structure Poison where
  logged : Option Nat := none
  suppressed : Nat := 0
deriving DecidableEq, Repr

/-- An armed injection waiting on a page, and an outstanding rotation injection (R505, R506). -/
structure Injection where
  page : Nat
  bit : Nat
  turn : Nat := 0
  armed : Nat
  taken : Option Nat := none
  confirmed : Bool := false
deriving DecidableEq, Repr

/-- A run of a vector on an array (R187, R195, R197): the centred counts of columns 0 to 512, the stopped columns with
twice the checkpoint plus 1 for a stop above, the largest |D|, the tiles that missed, whether an injection disturbed it,
and its fork. -/
structure ArrRun where
  counts : List Int := []
  stops : List (Nat × Nat) := []
  dev : Nat := 0
  misses : Nat := 0
  upset : Bool := false
  fork : Nat := 0
deriving DecidableEq, Repr

/-- A job of an engine, array or LVU slot (R124 to R135): its descriptor, submitter and progress.  `ending` is the
status an abandoned job will end with, `done` the status of a job whose record is not yet written.  For an array, `run`
is the run being resolved, `phase` 1 while its replay and 2 while its fork is awaited (R198), `cls` its RES, `acts` its
activation codes and `planes` the plane slots it holds (R203); `skipped` is what
throttling had skipped of array time at its start (R587). -/
structure Job where
  ptr : Nat := 0
  part : Nat := 0
  sc : Nat := 1
  order : Nat := 0
  desc : List Byte := []
  aux : List Byte := []
  fetched : Bool := false
  start : Nat := 0
  units : Nat := 0
  wrote : Bool := false
  retried : Bool := false
  bit9 : Bool := false
  bit10 : Bool := false
  missed : Bool := false
  missInj : Bool := false
  ending : Option Nat := none
  done : Option Nat := none
  cycles : Nat := 0
  node : Option Nat := none
  inc : Nat := 0
  acc0 : Nat := 0
  acc1 : Nat := 0
  acc2 : Nat := 0
  acc3 : Nat := 0
  hist : List Nat := []
  run : Option ArrRun := none
  phase : Nat := 0
  cls : Nat := 0
  acts : List Byte := []
  ahead : List Byte := []
  planes : List Nat := []
  skipped : Nat := 0
deriving DecidableEq, Repr

/-- A line buffer claimed by a fused group (R272): the handed-over range, the consuming execution, the bytes it holds
by offset in the range, the highest line read, and the bytes of a line its producer writes, known once its job has been
fetched. -/
structure LineBuf where
  prod : Nat := 0
  cons : Nat := 0
  base : Nat := 0
  stride : Nat := 0
  lines : Nat := 0
  depth : Nat := 0
  back : Nat := 0
  mirror : Bool := false
  bytes : List Host.Cell := []
  newest : Option Nat := none
  len : Option Nat := none
deriving DecidableEq, Repr

/-- A frame at a receiver (R64 to R79): its slot, what its header will carry, and its test block (`tb`: 0 none, 1 being
written, 2 present, 3 skipped, 4 abandoned); `bad` that a write of it failed (R358), `held` that its slot still counts in the
ring, which a change of SLOT_COUNT empties (R70). -/
structure Frm where
  base : Nat := 0
  cnt : Nat := 0
  csiFn : Nat := 0
  drops : Nat := 0
  fsTime : Nat := 0
  feTime : Nat := 0
  encFs : Nat := 0
  vc : Nat := 0
  dt : Nat := 0
  seed : Nat := 0
  w : Nat := 0
  h : Nat := 0
  embMax : Nat := 0
  stride : Nat := 0
  lines : Nat := 0
  emb : Nat := 0
  flags : Nat := 0
  crcLines : Nat := 0
  lost : Nat := 0
  tb : Nat := 0
  bad : Bool := false
  dropped : Bool := false
  held : Bool := true
deriving DecidableEq, Repr

/-- The intake of a stream: the slot settings in effect (R90), the frame in progress, the frames awaiting publication,
and what R71 to R87 remember. `cov` holds frame count and whether its block was compared, for the 16 latest written
frames, newest first. `lastPass` and `afterPass` are FRAME_CNT of the frame with the last passed block and ENC_FS of the
first one written after it (R85). `miss` holds an unclassified mismatch: incident, DETAIL0 to DETAIL2 and whether it was
injected. -/
structure Intake where
  vc : Option Nat := none
  dt : Nat := 0x2B
  emb : Bool := false
  cur : Option Frm := none
  closed : List Frm := []
  pendOff : Bool := false
  prevFe : Option Nat := none
  drops : Nat := 0
  seedWr : Bool := false
  lastDt : Nat := 0x2B
  afterLoss : Bool := false
  cov : List (Nat × Bool) := []
  lastPass : Option Nat := none
  afterPass : Option Nat := none
  miss : Option (Nat × Nat × Nat × Nat × Bool) := none
  lastWr : Nat := 0
  lastCnt : Nat := 0
deriving DecidableEq, Repr

/-- A node of a loaded graph (R256). Links list pair numbers. -/
structure Node where
  kind : Nat := 0
  trig : Bool := false
  skip : Bool := false
  ring : Bool := false
  fused : Bool := false
  fuseId : Nat := 0
  tag : Nat := 0
  page : Nat := 0
  slot : Nat := 0
  desc : Nat := 0
  ins : List Nat := []
  outs : List Nat := []
  param : Nat := 0
  budget : Nat := 0
  aux : Nat := 0
  cfg : Nat := 0
  geom : Nat := 0
  hoBase : Nat := 0
deriving DecidableEq, Repr

/-- The execution of a node in an instance (R264 to R269): `st` 0 not admitted, 1 running, 2 ended, 3 finished and its
status entry not yet written; `force` is the status it will end with whatever its target reports, `budget` that of a
node that has one. -/
structure Exec where
  st : Nat := 0
  status : Nat := 0
  tainted : Bool := false
  cancelled : Bool := false
  start : Nat := 0
  tries : Nat := 0
  again : Bool := false
  force : Option Nat := none
  budget : Nat := 0
deriving DecidableEq, Repr

/-- An instance of a graph (R260 to R279). `ending` holds TIMEOUT or CANCELLED once it ends that way. -/
structure Inst where
  num : Nat
  k : Nat := 0
  frame : Nat := 0
  first : Option Nat := none
  ending : Option Nat := none
  execs : List (Nat × Exec) := []
  inc : Nat := 0
deriving DecidableEq, Repr

/-- A graph entry (R254 to R263): `st` 0 EMPTY, 1 LOADING, 2 READY, 3 BAD. -/
structure Graph where
  st : Nat := 0
  owner : Nat := 0
  base : Nat := 0
  instMax : Nat := 1
  stream : Option Nat := none
  ringN : Nat := 1
  deadline : Nat := 0
  tag : Nat := 0
  cqp : Nat := 0
  cqEn : Bool := false
  doneSem : Nat := 0
  doneEn : Bool := false
  statPtr : Nat := 0
  descStep : Nat := 0
  nodes : List Node := []
  started : Nat := 0
  req : Nat := 0
  nextInst : Nat := 0
  insts : List Inst := []
  credits : List (Nat × Nat) := []
  dlRun : Nat := 0
deriving DecidableEq, Repr

/-- What a control core holds beside its page (R281 to R285): address of its latest fetch and its length (0 after a new
program counter), inbox and core port. `halting` says a halt was asked for; `dbg` that the debug module halted it. -/
structure Core where
  pc : Nat := 0
  flen : Nat := 0
  halting : Bool := false
  dbg : Bool := false
  inbox : List (List Nat) := []
  mbxOvf : Bool := false
  gopArg : Nat := 0
  doneInst : Nat := 0
  semVal : Nat := 0
  semRes : Nat := 0
  semCount : Nat := 0
  timeSnap : Option Nat := none
  timerCmp : Nat := 0xFFFFFFFFFFFFFFFF
  cmpHold : Option Nat := none
  irqEn : Nat := 0
  pendTimer : Bool := false
  pendSemw : Bool := false
  semwSel : Nat := 0
  wins : List (Nat × Nat) := []
deriving DecidableEq, Repr

/-- The processing context of a stream (R93, R118, R120): its working set as register cells, the oldest slot not yet
processed, and whether a write of CTX_EN = 0 waits. -/
structure IspCtx where
  work : List (Nat × Nat) := []
  proc : Nat := 0
  pendOff : Bool := false
deriving DecidableEq, Repr

/-- A frame in progress in a pipe (R93, R111, R114): the stream, its slot index, the raw header, the outputs it writes,
whether another one was skipped, whether its slot still counts in the ring (R70), and whether an access of the run was
denied or failed (R358). -/
structure IspRun where
  stream : Nat
  slot : Nat
  base : Nat
  hdr : List Byte
  outs : List Nat
  skipped : Bool
  second : Bool := false
  inj : Bool := false
  inc : Nat := 0
  held : Bool := true
  damaged : Bool := false
deriving DecidableEq, Repr

/-- What a speed monitor remembers beside its registers (R173 to R177): WIN_START, the time and encoder count of the last
mismatching sample, and the time of the last non-empty sample or of its enabling. -/
structure MonSt where
  winStart : Nat := 0
  missTime : Nat := 0
  missEnc : Nat := 0
  lastSample : Nat := 0
deriving DecidableEq, Repr

/-- The plane a slot holds (R200 to R202): weight codes by row and column, checksum weights, and the partition whose push
order filled it (R559). -/
structure Plane where
  weights : List Byte := []
  chk : List Nat := []
  part : Nat := 0
deriving DecidableEq, Repr

/-- A push order (R207, R275): plane, digest address, partition charged, PUSH node, the captures it armed that have not
ended, and whether one of them ended BAD. -/
structure Push where
  src : Nat
  dig : Nat
  part : Nat
  node : Option Nat := none
  arms : List (Nat × Nat) := []
  bad : Bool := false
deriving DecidableEq, Repr

/-- A plane on the Antler chain (R207 to R209): its bytes, whether it is poisoned or its digest differs, how many arrays
its header and its last beat have reached, and whether its last beat has left STA0. -/
structure Transit where
  order : Push
  bytes : List Byte
  poisoned : Bool := false
  badDigest : Bool := false
  arrived : Nat := 0
  ended : Nat := 0
  sent : Bool := false
deriving DecidableEq, Repr

/-- A translation slot (R344): untranslated page, translated page, and the permissions granted. -/
structure Trans where
  page : Nat
  dest : Nat
  rd : Bool
  wr : Bool
deriving DecidableEq, Repr

/-- A halt on a translation fault (R345): direction, address, whether its page request has been sent and with which
index, and whether the request was granted and the translation is being asked for again. -/
structure Halt where
  write : Bool
  addr : Nat
  prg : Option Nat := none
  again : Bool := false
deriving DecidableEq, Repr

/-- A Stream Mover channel (R288 to R319): the descriptor in progress and the one fetched ahead; `st` 0 none, 1
transferring, 2 abandoned with reads outstanding, 3 flush due, 4 write-back due, 5 record due, 6 finished; `fetch` the
descriptor read in flight; beats whose reads were issued and have returned, and beats written; the buffered lines, and
the addresses that the reads of the unwritten beats were issued at, with whether a translation gave them; `fail` 0 read,
1 write, 2 buffer line awaiting its second attempt.  `aheadAt` and `aheadRe`: when the fetch ahead completed, and whether on
its second attempt (R312, R313); `invs`: beats whose reads an invalidation found in flight under it (R347); `stop`: the
status with which the channel halts once what the descriptor owes is done; `loose`: the descriptor no longer moves RING_HEAD
(R70); `lastPcie`: the last PCIe address written, for the flush (R298). -/
structure Chan where
  addr : Nat := 0
  desc : List Byte := []
  ahead : Option (Nat × List Byte) := none
  aheadAt : Nat := 0
  aheadRe : Bool := false
  st : Nat := 0
  fetch : Option Nat := none
  start : Nat := 0
  rdIss : Nat := 0
  rdDone : Nat := 0
  wrDone : Nat := 0
  buf : List (List Byte) := []
  froms : List (Nat × Bool) := []
  invs : List (Nat × List Nat) := []
  status : Nat := 0
  retried : Bool := false
  half : Bool := false
  disc : Nat := 0
  cancel : Bool := false
  tailDue : Bool := false
  quiet : Bool := false
  stop : Option Nat := none
  loose : Bool := false
  next : Option Nat := none
  lastPcie : Option Nat := none
  fail : Option Nat := none
  node : Option Nat := none
  nodeSt : Nat := 0
  trans : List Trans := []
  halt : Option Halt := none
  inc : Nat := 0
deriving DecidableEq, Repr

/-- A request of a prefetch queue in flight (R334): first element and byte offset in it, length, source address, the
address it was issued at, and whether it reads an index line (`elem` is then the line); whether a translation gave its
address and which invalidations found it in flight (R347), and whether it awaits its second attempt (R339). -/
structure PqReq where
  elem : Nat
  off : Nat
  len : Nat
  addr : Nat
  dest : Nat
  index : Bool := false
  under : Bool := false
  again : Bool := false
  invs : List Nat := []
deriving DecidableEq, Repr

/-- A prefetch queue (R322 to R343): the stream descriptor, the offset in NEXT_ELEM to request next, the index lines held and
the next one to read, requests in flight oldest first, bytes landed of each element not yet published, elements published,
the status of a stream that is ending, the record that is due, and whether an audit has captured the books, with the
releases it holds (R333). -/
structure Pq where
  desc : List Byte := []
  fetch : Bool := false
  start : Nat := 0
  off : Nat := 0
  lines : List (Nat × List Byte) := []
  reqs : List PqReq := []
  landed : List (Nat × Nat) := []
  lineNext : Nat := 0
  pub : Nat := 0
  ending : Option Nat := none
  retried : Bool := false
  faulted : Bool := false
  disc : Nat := 0
  due : Option (Nat × Nat) := none
  snap : Bool := false
  held : List Nat := []
  trans : List Trans := []
  halt : Option Halt := none
  inc : Nat := 0
deriving DecidableEq, Repr

/-- A page request outstanding at the host (R345, R346): function, PRG index and the unit that halted (channel c, or
64 + queue q). -/
structure Prg where
  fn : Nat
  idx : Nat
  unit : Nat
deriving DecidableEq, Repr

/-- An ATS invalidation whose completion is not yet sent (R347): function, tag, first page and page count. -/
structure Inval where
  fn : Nat
  tag : Nat
  page : Nat
  n : Nat
deriving DecidableEq, Repr

/-- The watchdog of a partition (R497, R529): whether it runs, its latest start or kick, and whether an expiry has not
been followed by a kick. -/
structure Wd where
  on : Bool := false
  last : Nat := 0
  expired : Bool := false
deriving DecidableEq, Repr

/-- A host command in flight (R413 to R417, R423): the fields of R415, whether its fetch was retried, and whether it is
the record of a duplicate; `st` 0 waits to be performed, 1 awaits the end of executions or instances, 2 has its record
due. -/
structure HCmd where
  tag : Nat
  op : Nat
  graph : Nat := 0
  node : Nat := 0
  semop : Nat := 0
  arg : Nat := 0
  addr : Nat := 0
  sem : Nat := 0
  bad : Bool := false
  fence : Bool := false
  retried : Bool := false
  dup : Bool := false
  st : Nat := 0
  status : Nat := 0
  result : Nat := 0
  insts : List Nat := []
  key : Option Nat := none
deriving DecidableEq, Repr

/-- A queue pair (R413, R422, R423): commands in flight oldest first, the tag window newest first, the condition last
recorded and where in the CQ that record lies until it is released. -/
structure HPair where
  cmds : List HCmd := []
  window : List (Nat × Option (Nat × Nat)) := []
  cond : Nat := 0
  condAt : Option Nat := none
deriving DecidableEq, Repr

/-- An external line whose first read was uncorrectable and whose re-read is in progress (R392): its bytes, the reader,
and the transaction that waits for it. -/
structure Reread where
  line : Nat
  bytes : List Byte
  init : Nat
  part : Nat
  key : Option Nat := none
deriving DecidableEq, Repr

/-- A teardown (R373, R379, R398): the partition, the ranges to fill, those shared with another partition, the banks it
covered, and whether it has reached step 6. -/
structure Tear where
  part : Nat
  fills : List (Nat × Nat) := []
  shared : List (Nat × Nat) := []
  banks : Nat := 0
  filling : Bool := false
deriving DecidableEq, Repr

/-- A LIO pin (R448, R449): the level it was last accepted at, after INV, and the device time of SLOW_CLK edge e0 + 5 of
a switch in progress. -/
structure Pin where
  level : Option Bool := none
  sw : Option Nat := none
deriving DecidableEq, Repr

/-- A timing generator (R451): highest encoder position already fired, next cause in time mode, start of the latest
trigger, start of a trigger that waits, end of the TRIG pulse, starts of STROBE pulses due, end of the STROBE pulse. -/
structure Tg where
  hi : Int := 0
  next : Nat := 0
  last : Option Nat := none
  wait : Option Nat := none
  trigEnd : Option Nat := none
  strobes : List Nat := []
  strobeEnd : Option Nat := none
deriving DecidableEq, Repr

/-- A PWM (R452): the tick at which its next period starts, and the tick at which its pins return inactive. -/
structure Pwm where
  next : Option Nat := none
  fall : Option Nat := none
deriving DecidableEq, Repr

/-- A UART (R452, R458): its FIFOs, oldest byte first, bit 8 of a received byte its parity error and bit 9 its framing
error, and the byte being sent. -/
structure Uart where
  tx : List Nat := []
  rx : List Nat := []
  sending : Option Nat := none
deriving DecidableEq, Repr

/-- An I3C controller (R454, R459): commands queued, oldest first, as CMD and CMD_ARG; whether the oldest is running;
whether its address was NACKed once; the FIFOs, the responses, and the in-band interrupts as address and payload. -/
structure I3c where
  cmds : List (Nat × Nat) := []
  run : Bool := false
  nacked : Bool := false
  tx : List Nat := []
  rx : List Nat := []
  resp : List Nat := []
  ibis : List (Nat × List Nat) := []
deriving DecidableEq, Repr

/-- A set of timing values (R469). -/
structure Timing where
  hActive : Nat := 0
  hFp : Nat := 0
  hSync : Nat := 0
  hBp : Nat := 0
  vActive : Nat := 0
  vFp : Nat := 0
  vSync : Nat := 0
  vBp : Nat := 0
  hPol : Nat := 0
  vPol : Nat := 0
  pixN : Nat := 0
  pixDiv : Nat := 0
  rate : Nat := 0
  lanes : Nat := 0
  ssc : Nat := 0
deriving DecidableEq, Repr

/-- The compositor (R460 to R471): the working timing set, whether the timing generator runs, the committed slots
of each plane in commit order, the time of the latest latch point, whether a new timing waits for the pixel PLL, whether
video resumes at the next latch point, and the underruns of the frame as plane, source line and first pixel missed. -/
structure Mon where
  work : Timing := {}
  gen : Bool := false
  commits : List (Nat × List Nat) := []
  latch : Nat := 0
  pll : Bool := false
  resume : Bool := false
  under : List (Nat × Nat × Nat) := []
deriving DecidableEq, Repr

/-- The DisplayPort transmitter (R472 to R477): whether the training in progress is a retry after a lost link, and for
AUX the DEFERs and timeouts met by the transaction in progress and when it was last sent. -/
structure Dp where
  retry : Bool := false
  defers : Nat := 0
  timeouts : Nat := 0
  sent : Nat := 0
deriving DecidableEq, Repr

/-- The safety island (R481, R495, R505, R608): the latest kick of the device watchdog, whether the watchdog runs, kicks
and rotations ended since ROM_DONE; the rotation in progress: its start, the checkers it has exercised as page, BIT and
turn, whether none has failed; when a rotation without failure last ended; whether one has ended since the exit from
DOZE; and the incident of a watchdog or fault. -/
structure Island where
  lastKick : Nat := 0
  wdOn : Bool := false
  halted : Bool := false
  kicked : Bool := false
  rotSince : Bool := false
  rotOn : Bool := false
  rotStart : Nat := 0
  rotDone : List (Nat × Nat × Nat) := []
  rotClean : Bool := true
  cleanEnd : Option Nat := none
  exitAt : Nat := 0
  pausedAt : Nat := 0
deriving DecidableEq, Repr

/-- A Fawn frame pair in progress (R499): line, pair, the headers' addresses and FRAME_CNTs, the encoder count of the
frame, its decimated size, whether its STE job ended OK without LOWCOV, `st` 0 while the STE job runs and 1 while HMP jobs run,
and the parcels still to be merged, each as line-wide origin count and time of its event. -/
structure FawnRun where
  line : Nat
  pair : Nat
  left : Nat
  right : Nat
  cntL : Nat
  cntR : Nat
  enc : Nat
  w : Nat
  h : Nat
  good : Bool := false
  st : Nat := 0
  todo : List (Nat × Nat) := []
deriving DecidableEq, Repr

/-- An attestation report waiting to be signed (R550): function, pair and tag of its command, where it goes, its nonce,
and the report captured once it has reached the front. -/
structure Attest where
  fn : Nat
  qp : Nat
  tag : Nat
  addr : Nat
  nonce : Nat
  report : Option (List Byte) := none
deriving DecidableEq, Repr

/-- A load of a control-core image in progress (R543): source address and core. -/
structure Load where
  src : Nat
  core : Nat
deriving DecidableEq, Repr

/-- The JTAG TAP (R554): the instruction in force (0 IDCODE, 1 BYPASS, 2 SAMPLE/PRELOAD, 3 EXTEST, 4 CLAMP, 5 HIGHZ,
6 DAPACC) and the boundary-scan cells. -/
structure Tap where
  ir : Nat := 0
  bsr : Nat := 0
deriving DecidableEq, Repr

/-- The trace unit (R557): packets in its FIFO, oldest first, the sequence byte, packets dropped and not yet reported,
and the counter sampled next. -/
structure Trace where
  fifo : List (List Byte) := []
  seq : Nat := 0
  lost : Nat := 0
  sent : Nat := 0
  next : Nat := 0
  last : Nat := 0
deriving DecidableEq, Repr

/-- Power (R569 to R587): ticks for which every compute page has been at rest, the step the entry or exit in progress
has reached, whether an entry is to turn back, the encoder count at entry, the milliseconds since each sensor last
delivered a reading, the last reading of each in 1/8 °C, one more than the time of the latest update, the eighths of ticks
that throttling has skipped, and when the exit in progress began. -/
structure Power where
  idle : Nat := 0
  target : Nat := 0
  back : Bool := false
  encAt : Nat := 0
  age : List Nat := [0, 0, 0, 0, 0, 0, 0, 0]
  last : List Int := [0, 0, 0, 0, 0, 0, 0, 0]
  upd : Nat := 0
  skipped : Nat := 0
  since : Nat := 0
deriving DecidableEq, Repr

/-- Resets (R591 to R609): `ph` 0 out of reset, 1 warm reset requested, 2 bus released, 3 in warm reset, 4 in cold
reset; when and why the warm reset was requested; the LPC controllers that were READY then; whether the boot ROM
waits for RECOV_GO, whether it has run, and the directory entries whose copy A failed and has no log record yet. -/
structure Rst where
  ph : Nat := 0
  reqAt : Nat := 0
  cause : Nat := 0
  ready : List Bool := []
  recov : Bool := false
  booted : Bool := false
  badCopy : List Nat := []
deriving DecidableEq, Repr

/-- The state of the machine. -/
structure State where
  /-- Commands waiting, first in first out. -/
  pending : List Instr
  /-- Device time in ticks of 10 ns (R11). -/
  time : Nat
  /-- Register fields that differ from their reset value, by cell. -/
  regs : List (Nat × Nat)
  /-- Byte memories at device addresses (Shared Vision Memory, external memory, host writes of the device). -/
  mem : List Host.Cell
  /-- Counter of the free values taken so far (the model's own). -/
  freeCtr : Nat
  snaps : List Snap
  holds : List Hold
  logQ : List LogRec
  logSeq : Nat
  lostRecs : Nat
  doubtQ : List Doubt
  /-- Continued FRAME scopes (R487): stream and first count. -/
  conts : List (Nat × Nat)
  /-- Partition to the time of its latest NOTICE event (R641). -/
  notice : List (Nat × Nat)
  /-- Denial log suppression (R360): initiator and source to last record time and suppressed count. -/
  denials : List (Nat × (Nat × Nat))
  /-- Latest error report of each page and bit to the aggregator (R40). -/
  reports : List (Nat × Nat)
  sems : List (Nat × Nat)
  semOwner : List (Nat × Nat)
  fns : List (Nat × FnCfg)
  outs : List Out
  reply : Reply
  vt : List (Nat × Entry)
  parcels : List Parcel
  txns : List (Nat × Txn)
  dedups : List (Nat × Dedup)
  /-- The SEQ that each initiator port gives its next non-idempotent operation, where it is not 1 (R370, R371). -/
  seqs : List (Nat × Nat)
  /-- Words of on-chip memory known to hold an uncorrectable error (R377). -/
  eccBad : List Nat
  poisoned : List (Nat × Poison)
  injections : List Injection
  /-- Device time at which FAULT was raised (R530). -/
  faultTime : Nat
  /-- Time of the latest cause of a line or device fallback (R495). -/
  fbCauseTime : Nat
  /-- FALLBACK_ALL applies because of a sleep rung (R577). -/
  fbSleep : Bool
  /-- FALLBACK_ALL applies because of a cause of R493. -/
  fbAllRaised : Bool
  /-- CONF_E of each SAFE stream (R489). -/
  confE : List (Nat × Nat)
  /-- FRAME_CNT and ENC_FS of the last 256 written frames of a stream, newest first (R485). -/
  encHist : List (Nat × List (Nat × Nat))
  /-- Jobs in the slots, keyed 8 × page + slot. -/
  jobs : List (Nat × Job)
  /-- Consecutive TIMEOUT ends of each slot (8 × page + slot), channel and queue (8 × page) (R525). -/
  toRuns : List (Nat × Nat)
  /-- Receiver state of each stream (R59 to R92). -/
  intakes : List (Nat × Intake)
  /-- The graph table (R254 to R259). -/
  graphs : List (Nat × Graph)
  /-- The control cores (R281 to R287). -/
  cores : List (Nat × Core)
  /-- Tightly coupled memory of the cores, byte a of core c at c × 262,144 + a (R281). -/
  tcm : List Host.Cell
  /-- Words of core memory known to hold an uncorrectable error (R282). -/
  tcmBad : List Nat
  /-- Processing context of each stream (R93, R118). -/
  ispCtxs : List (Nat × IspCtx)
  /-- Frame in progress in each pipe (R93). -/
  ispRuns : List (Nat × IspRun)
  /-- Tone tables: entry e of table c of bank b of stream k at ((2k + b) × 3 + c) × 257 + e (R105, R119). -/
  tones : List (Nat × Nat)
  /-- Number of the next job started, which orders jobs by their start (R129). -/
  jobSeq : Nat
  /-- Slot last served of each engine page (R129, R156). -/
  served : List (Nat × Nat)
  /-- Slot whose unit is in progress on each engine page (R129, R156). -/
  current : List (Nat × Nat)
  /-- Line buffers claimed (R272). -/
  lbs : List (Nat × LineBuf)
  /-- Keys of the node groups that wait eligible for admission, in the order they became so (R264). -/
  elig : List Nat
  /-- Speed monitors, monitor m of page p at 2p + m (R173). -/
  mons : List (Nat × MonSt)
  /-- Resident planes, slot p of array a at 32a + p (R202). -/
  planes : List (Nat × Plane)
  /-- Push orders queued at STA0, oldest first (R207). -/
  pushes : List Push
  /-- Planes on the Antler chain, oldest first (R208). -/
  transits : List Transit
  /-- Stream Mover channels (R288 to R319). -/
  chans : List (Nat × Chan)
  /-- The channel whose write was served last at each PRIO (R288). -/
  smvServed : List (Nat × Nat)
  /-- Prefetch queues (R322 to R343). -/
  pqs : List (Nat × Pq)
  /-- Page requests outstanding (R345). -/
  prgs : List Prg
  /-- Invalidations whose completion is owed (R347). -/
  invals : List Inval
  /-- SEM_RES and SEM_RES_COUNT of the FGS page, one pair per initiator (R286). -/
  semIfs : List (Nat × (Nat × Nat))
  /-- Partition watchdogs (R497, R529). -/
  wds : List (Nat × Wd)
  /-- Queue pairs, pair q of function n at 16n + q (R410 to R426). -/
  qps : List (Nat × HPair)
  /-- Re-reads of external lines in progress (R392). -/
  rereads : List Reread
  /-- Teardowns in progress, in the order in which they reached step 6 (R373, R398). -/
  tears : List Tear
  /-- Incident of the link event in progress, or 0 (R528). -/
  linkInc : Nat
  /-- LIO pins (R448). -/
  pins : List (Nat × Pin)
  /-- Unwrapped position of each encoder, of which ENC_CNT is the low 32 bits (R450). -/
  encPos : List (Nat × Int)
  /-- Timing generators (R451). -/
  tgs : List (Nat × Tg)
  /-- PWMs (R452). -/
  pwms : List (Nat × Pwm)
  /-- UARTs (R452). -/
  uarts : List (Nat × Uart)
  /-- I3C controllers (R453). -/
  i3cs : List (Nat × I3c)
  /-- Device time of the latest Verdict Port cycle (R456). -/
  vpLast : Nat
  /-- The compositor (R460 to R471). -/
  disp : Mon
  /-- The DisplayPort transmitter (R472 to R477). -/
  dp : Dp
  /-- Status of the latest job of each Fawn slot by page, plus 16 when its flag bit 9 is set (R128, R166). -/
  fawnEnds : List (Nat × Nat)
  /-- The safety island (R481, R505, R608). -/
  isl : Island
  /-- The Fawn frame pair in progress (R499). -/
  fawnRun : Option FawnRun
  /-- The page under the self-test of an UNFENCE (R531). -/
  unfence : Option Nat
  /-- Attestation reports, the one being signed first (R550). -/
  attests : List Attest
  /-- The image load in progress (R543). -/
  load : Option Load
  /-- Rollback fuses blown, bit i fuse i (R547). -/
  fuses : Nat
  /-- The fused root public-key hash, byte 0 lowest (R539). -/
  rotpk : Nat
  /-- RB_TARGET of the advance in progress (R548). -/
  blowTo : Nat
  /-- The JTAG TAP (R554). -/
  tap : Tap
  /-- The trace unit (R557). -/
  trace : Trace
  /-- Power and temperature (R569 to R587). -/
  pw : Power
  /-- Resets (R591 to R609). -/
  rst : Rst
  /-- Pages in RESETTING that will return to FENCED (R52). -/
  fencedReset : List Nat
  /-- Pages whose internal buffers a self-test filled, each with the SEL of its latest test (R43, R224). -/
  filled : List (Nat × Nat)
deriving DecidableEq, Repr

/-- The state right after a cold reset: every register at its reset value, every memory empty, device time 0. -/
def State.reset : State where
  pending := []
  time := 0
  regs := []
  mem := []
  freeCtr := 0
  snaps := []
  holds := []
  logQ := []
  logSeq := 0
  lostRecs := 0
  doubtQ := []
  conts := []
  notice := []
  denials := []
  reports := []
  sems := []
  semOwner := []
  fns := []
  outs := []
  reply := {}
  vt := []
  parcels := []
  txns := []
  dedups := []
  seqs := []
  eccBad := []
  poisoned := []
  injections := []
  faultTime := 0
  fbCauseTime := 0
  fbSleep := false
  fbAllRaised := false
  confE := []
  encHist := []
  jobs := []
  toRuns := []
  intakes := []
  graphs := []
  cores := []
  tcm := []
  tcmBad := []
  ispCtxs := []
  ispRuns := []
  tones := []
  jobSeq := 0
  served := []
  current := []
  lbs := []
  elig := []
  mons := []
  planes := []
  pushes := []
  transits := []
  chans := []
  smvServed := []
  pqs := []
  prgs := []
  invals := []
  semIfs := []
  wds := []
  qps := []
  rereads := []
  tears := []
  linkInc := 0
  pins := []
  encPos := []
  tgs := []
  pwms := []
  uarts := []
  i3cs := []
  vpLast := 0
  disp := {}
  dp := {}
  fawnEnds := []
  isl := {}
  fawnRun := none
  unfence := none
  attests := []
  load := none
  fuses := 0
  rotpk := 0
  blowTo := 0
  tap := {}
  trace := {}
  pw := {}
  rst := {}
  fencedReset := []
  filled := []

end Sys2Proof.Machine
end

