-- ==== Sys2Proof/Machine/Ops.lean ====
section
/-! DEFINITION. The named operations over registers, memory, rings, the error log, doubts, notices, events and
messages that every command's meaning is written with. -/
namespace Sys2Proof.Machine
open Sys2Proof

/-! ### Bits and bytes -/

/-- Bits hi to lo of a number. -/
def bitsOf (x hi lo : Nat) : Nat := x / 2 ^ lo % 2 ^ (hi + 1 - lo)

/-- Bit i of a number. -/
def bitOf (x i : Nat) : Bool := x / 2 ^ i % 2 == 1

/-- `x` with bit i set. -/
def setBit (x i : Nat) : Nat := if bitOf x i then x else x + 2 ^ i

/-- `x` with bit i clear. -/
def clrBit (x i : Nat) : Nat := if bitOf x i then x - 2 ^ i else x

/-- `x` with the bits of `m` cleared (a W1C write of m to a field of at most n bits). -/
def clrMask (n x m : Nat) : Nat := (List.range n).foldl (fun a i => if bitOf m i then clrBit a i else a) x

def b2n (b : Bool) : Nat := if b then 1 else 0

/-- The signed value of the low w bits. -/
def sgn (w x : Nat) : Int := if x % 2 ^ w < 2 ^ (w - 1) then (x % 2 ^ w : Nat) else (x % 2 ^ w : Nat) - (2 ^ w : Nat)

/-- The low w bits of an integer, as a two's complement field. -/
def unsgn (w : Nat) (x : Int) : Nat := (x % (2 ^ w : Nat)).toNat

/-- n bytes of x, least significant first (R6). -/
def leBytes : Nat → Nat → List Byte
  | 0, _ => []
  | n + 1, x => BitVec.ofNat 8 x :: leBytes n (x / 256)

/-- The number that bytes spell, least significant first. -/
def fromLe : List Byte → Nat
  | [] => 0
  | b :: t => b.toNat + 256 * fromLe t

/-- The 32-bit word at byte offset `off` of a byte string. -/
def wordAt (bs : List Byte) (off : Nat) : Nat := fromLe ((bs.drop off).take 4)

/-- The 64-bit value at byte offset `off`. -/
def quadAt (bs : List Byte) (off : Nat) : Nat := fromLe ((bs.drop off).take 8)

/-- `⌈a ÷ b⌉`. -/
def cdiv (a b : Nat) : Nat := (a + b - 1) / b

/-- Signed difference of two 32-bit counts (R486). -/
def diff32 (a b : Nat) : Int := sgn 32 ((a + 2 ^ 32 - b % 2 ^ 32) % 2 ^ 32)

/-- Ticks in n milliseconds (R11). -/
def msTicks (n : Nat) : Nat := n * 100000

/-- Ticks in n microseconds. -/
def usTicks (n : Nat) : Nat := n * 100

/-! ### Pages -/

/-- The kind of page p (R32); none for an absent page. -/
def pageKind (p : Nat) : Option PageKind :=
  if p < 0x10 then
    (if p = 0 then some .sys else if p = 1 then some .clk else if p = 2 then some .pwr else if p = 3 then some .rst
     else if p = 4 then some .fus else if p = 5 then some .sec else if p = 6 then some .dbg else none)
  else if p < 0x40 then
    (if p = 0x10 then some .saf else if p = 0x11 then some .chk else if p = 0x12 then some .erl
     else if 0x20 ≤ p ∧ p < 0x2C then some .csi else if 0x30 ≤ p ∧ p < 0x34 then some .isp else none)
  else if p < 0xA0 then
    (if p < 0x70 then some .ctx else if p = 0x80 ∨ p = 0x81 then some .pyr else if 0x84 ≤ p ∧ p < 0x88 then some .wrp
     else if p = 0x88 then some .hmp else if p = 0x8C ∨ p = 0x8D then some .ste
     else if p = 0x90 ∨ p = 0x91 then some .flw else if p = 0x94 ∨ p = 0x95 then some .fea else none)
  else if p < 0x100 then
    (if p < 0xA4 then some .sta else if p = 0xA8 ∨ p = 0xA9 then some .lvu else if p = 0xB0 then some .fgs
     else if 0xB8 ≤ p ∧ p < 0xC0 then some .cc else if p = 0xC0 then some .smv else if p = 0xC1 then some .pfq
     else if p = 0xC8 then some .fab else if p = 0xC9 then some .svm else if 0xCC ≤ p ∧ p < 0xD0 then some .lpc
     else if p = 0xD0 then some .scr else if p = 0xE0 then some .pci else if p = 0xE8 then some .vpt
     else if p = 0xE9 then some .lio else if 0xF0 ≤ p ∧ p < 0xFC then some .i3c else if p = 0xFC then some .mon
     else if p = 0xFD then some .dptx else none)
  else if p < 0x140 then some .ch
  else if p < 0x180 then some .pq
  else if p < 0x188 then some .hq
  else none

/-- The first page of a kind's range (R32, R33). -/
def firstPage : PageKind → Nat
  | .sys => 0 | .clk => 1 | .pwr => 2 | .rst => 3 | .fus => 4 | .sec => 5 | .dbg => 6
  | .saf => 0x10 | .chk => 0x11 | .erl => 0x12 | .csi => 0x20 | .isp => 0x30 | .ctx => 0x40
  | .pyr => 0x80 | .wrp => 0x84 | .hmp => 0x88 | .ste => 0x8C | .flw => 0x90 | .fea => 0x94
  | .sta => 0xA0 | .lvu => 0xA8 | .fgs => 0xB0 | .cc => 0xB8 | .smv => 0xC0 | .pfq => 0xC1
  | .fab => 0xC8 | .svm => 0xC9 | .lpc => 0xCC | .scr => 0xD0 | .pci => 0xE0 | .vpt => 0xE8 | .lio => 0xE9
  | .i3c => 0xF0 | .mon => 0xFC | .dptx => 0xFD | .ch => 0x100 | .pq => 0x140 | .hq => 0x180

/-- Block type codes (R32). -/
def pageTypeCode : PageKind → Nat
  | .sys => 0x01 | .clk => 0x02 | .pwr => 0x03 | .rst => 0x04 | .fus => 0x05 | .sec => 0x06 | .dbg => 0x07
  | .saf => 0x08 | .chk => 0x09 | .erl => 0x0A | .csi => 0x10 | .isp => 0x11 | .ctx => 0x12
  | .pyr => 0x18 | .wrp => 0x19 | .hmp => 0x1A | .ste => 0x1B | .flw => 0x1C | .fea => 0x1D
  | .sta => 0x20 | .lvu => 0x21 | .fgs => 0x28 | .cc => 0x29 | .smv => 0x30 | .pfq => 0x32
  | .fab => 0x38 | .svm => 0x39 | .lpc => 0x3A | .scr => 0x3B | .pci => 0x40 | .vpt => 0x48 | .lio => 0x49
  | .i3c => 0x4A | .mon => 0x50 | .dptx => 0x51 | .ch => 0x31 | .pq => 0x33 | .hq => 0x41

/-- PAGE_ERR bits above the common bits 0 to 7 that the register rule of each chapter does not reserve (R39). -/
def errBlockBits : PageKind → List Nat
  | .csi => [8, 9, 10, 11, 12] | .ctx => [8, 9, 10, 11, 16, 17] | .pyr | .wrp | .hmp => [8, 9]
  | .ste | .flw | .fea => [8, 9, 10, 11] | .sta => [8, 9, 10, 11] | .lvu => [8, 9, 10] | .fgs => [8, 9, 10, 11, 12]
  | .ch => [8, 9, 10, 11, 12] | .pq => [8, 9, 10, 11] | .fab => [8, 9, 10, 11, 12] | .svm => [8] | .lpc => [8, 9, 10]
  | .hq => [8, 9] | .pci => [8, 9, 10] | .vpt => [8, 9, 10, 11] | .lio => [8, 9, 10] | .i3c => [8, 9, 10, 11]
  | .mon => [8, 9] | .dptx => [8, 9, 10] | .saf => [8, 9, 10] | .chk => [8] | .erl => [8, 9] | .fus => [8, 9] | .sec => [8]
  | .pwr => [8, 9, 10]
  | .isp | .sys | .clk | .rst | .dbg | .cc | .smv | .pfq | .scr => []

/-- The bits of PAGE_ERR and PAGE_ERR_MASK that are not reserved on page p (R39). -/
def errMask (p : Nat) : Nat :=
  match pageKind p with
  | some k => 0xFF + ((errBlockBits k).map fun b => 2 ^ b).sum
  | none => 0

/-- PAGE_ID and PAGE_STAT pages by name. -/
def pgSys : Nat := 0
def pgClk : Nat := 1
def pgPwr : Nat := 2
def pgRst : Nat := 3
def pgFus : Nat := 4
def pgSec : Nat := 5
def pgDbg : Nat := 6
def pgSaf : Nat := 0x10
def pgChk : Nat := 0x11
def pgErl : Nat := 0x12
def pgCsi (i : Nat) : Nat := 0x20 + i
def pgIsp (i : Nat) : Nat := 0x30 + i
def pgCtx (s : Nat) : Nat := 0x40 + s
def pgHmp0 : Nat := 0x88
def pgSte1 : Nat := 0x8D
def pgLvu1 : Nat := 0xA9
def pgSta (i : Nat) : Nat := 0xA0 + i
def pgFgs : Nat := 0xB0
def pgCc (c : Nat) : Nat := 0xB8 + c
def pgSmv : Nat := 0xC0
def pgPfq : Nat := 0xC1
def pgFab : Nat := 0xC8
def pgSvm : Nat := 0xC9
def pgLpc (i : Nat) : Nat := 0xCC + i
def pgScr : Nat := 0xD0
def pgPci : Nat := 0xE0
def pgVpt : Nat := 0xE8
def pgLio : Nat := 0xE9
def pgI3c (i : Nat) : Nat := 0xF0 + i
def pgMon : Nat := 0xFC
def pgDp : Nat := 0xFD
def pgCh (c : Nat) : Nat := 0x100 + c
def pgPq (q : Nat) : Nat := 0x140 + q
def pgHq (n : Nat) : Nat := 0x180 + n

/-- The job slot block of a page: on STA and LVU pages it starts at 0x400 and has 8 slots (R214, R253). -/
def slotF (p : Nat) (f : Fld) : Fld :=
  match pageKind p with
  | some .sta => { f with off := f.off + 0x300, cnt := 8 }
  | some .lvu => { f with off := f.off + 0x300, cnt := 8 }
  | _ => f

def slots8 (l : List Fld) : List Fld := l.map fun f => { f with off := f.off + 0x300, cnt := 8 }

/-- Every field of a page of a kind, header first (R34). -/
def fieldsOf (k : PageKind) : List Fld :=
  R.tblHdr ++
  match k with
  | .sys => R.tblSys | .clk => R.tblClk | .pwr => R.tblPwr | .rst => R.tblRst | .fus => R.tblFus | .sec => R.tblSec
  | .dbg => R.tblDbg | .saf => R.tblSaf | .chk => R.tblChk | .erl => R.tblErl | .csi => R.tblCsi | .isp => R.tblIsp
  | .ctx => R.tblCtx
  | .pyr => R.tblEng ++ R.tblSlot | .wrp => R.tblEng ++ R.tblSlot | .hmp => R.tblEng ++ R.tblSlot
  | .ste => R.tblEng ++ R.tblSlot | .flw => R.tblEng ++ R.tblFlwMon ++ R.tblSlot | .fea => R.tblEng ++ R.tblSlot
  | .sta => R.tblSta ++ slots8 R.tblSlot | .lvu => R.tblLvu ++ slots8 R.tblSlot
  | .fgs => R.tblFgs | .cc => R.tblCc | .smv => R.tblSmv | .pfq => R.tblPfq | .fab => R.tblFab | .svm => R.tblSvm
  | .lpc => R.tblLpc | .scr => R.tblScr | .pci => R.tblPci | .vpt => R.tblVpt | .lio => R.tblLio | .i3c => R.tblI3c
  | .mon => R.tblMon | .dptx => R.tblDptx | .ch => R.tblCh | .pq => R.tblPq | .hq => R.tblHq

def within (lo hi x : Nat) : Bool := decide (lo ≤ x) && decide (x ≤ hi)

/-! ### Register fields -/

/-- Bit position of instance i of a field in its page's cells. -/
def fldPos (f : Fld) (i : Nat) : Nat :=
  (if f.win then f.home else f.off) * 8 + f.lo +
    (if f.inner = 0 then i * f.str else i / f.inner * f.ostr + i % f.inner * f.str)

/-- The cell of instance i of field f on page p. -/
def cellKey (p : Nat) (f : Fld) (i : Nat) : Nat := p * 1048576 + fldPos f i

/-- The reset value of instance i. -/
def rstAt (f : Fld) (i : Nat) : Nat := (f.rl[i]?).getD f.rst

/-- The value of a field. -/
def State.rd (s : State) (p : Nat) (f : Fld) (i : Nat := 0) : Nat := sget (rstAt f i) s.regs (cellKey p f i)

/-- Set a field, narrowing to its width. -/
def State.wr (s : State) (p : Nat) (f : Fld) (v : Nat) (i : Nat := 0) : State :=
  { s with regs := sset (rstAt f i) s.regs (cellKey p f i) (v % 2 ^ f.w) }

/-- A field as a flag. -/
def State.on (s : State) (p : Nat) (f : Fld) (i : Nat := 0) : Bool := s.rd p f i != 0

/-- Add n to a wrapping counter. -/
def State.bump (s : State) (p : Nat) (f : Fld) (n : Nat := 1) (i : Nat := 0) : State := s.wr p f (s.rd p f i + n) i

/-- Set or clear bit b of a field. -/
def State.wrBit (s : State) (p : Nat) (f : Fld) (b : Nat) (v : Bool) (i : Nat := 0) : State :=
  s.wr p f (if v then setBit (s.rd p f i) b else clrBit (s.rd p f i) b) i

/-- The owner of a page (R44). -/
def State.ownerOf (s : State) (p : Nat) : Nat := s.rd p R.owner

/-- Page states of R37. -/
def psOff : Nat := 0
def psIdle : Nat := 1
def psActive : Nat := 2
def psDraining : Nat := 3
def psResetting : Nat := 4
def psSelftest : Nat := 5
def psFenced : Nat := 6

def State.fenced (s : State) (p : Nat) : Bool := s.rd p R.pstate == psFenced

/-! ### Performance counters (R45, R46) -/

/-- Add to counter k of a page, with PERF_OVF at a wrap. -/
def perfAdd (s : State) (p k n : Nat) : State :=
  let v := s.rd p R.perf k + n
  let s := s.wr p R.perf v k
  if v < 2 ^ 64 then s else s.wrBit p R.perfOvf k true

/-- Event `code` happens n times on page p. -/
def State.perf (s : State) (p code : Nat) (n : Nat := 1) : State :=
  if s.rd p R.perfEn = 0 then s else
  [0, 1, 2, 3].foldl (fun s k => if s.rd p R.perfSel k = code then perfAdd s p k n else s) s

/-! ### Error flags (R39 to R42) -/

def eProg : Nat := 0
def eAccess : Nat := 1
def eEccCorr : Nat := 2
def eEccUncorr : Nat := 3
def eTimeout : Nat := 4
def eSelftest : Nat := 5
def eResidue : Nat := 6
def eInjected : Nat := 7

/-- The first error of page p is on record, set in the present cycle, and lies above `bit`: of the flags of one cycle
the lowest is recorded (R41). -/
def firstAbove (s : State) (p bit : Nat) : Bool :=
  let b := s.rd p R.errFirstBit
  s.on p R.errFirstValid && decide (bit < b) && sfind s.reports (p * 32 + b) == some s.time

/-- A PAGE_ERR flag goes from 0 to 1: the first is recorded, the lowest of one cycle (R41), and every flag that sets is
reported to the aggregator (R40). -/
def State.flag (s : State) (p bit : Nat) : State :=
  let e := s.rd p R.pageErr
  if bitOf e bit then s else
  let s := if (e = 0 ∨ firstAbove s p bit) ∧ bit ≠ eInjected then (s.wr p R.errFirstBit bit).wr p R.errFirstValid 1 else s
  let s := s.wr p R.pageErr (setBit e bit)
  { s.perf p 0x0B with reports := sput s.reports (p * 32 + bit) s.time }

/-- Whether an injection of PAGE_ERR bit `bit` takes its opportunity on page p now (R42). -/
def injectNow (s : State) (p bit : Nat) : Bool :=
  (s.on p R.injArm || s.on p R.injCont) && s.rd p R.injBit == bit

/-- The one-shot ARM clears after injecting (R42); the rotation's injection has taken its opportunity (R506). -/
def injectTake (s : State) (p bit : Nat) : State :=
  let s := s.wr p R.injArm 0
  { s with injections := s.injections.map fun j =>
      if j.page = p ∧ j.bit = bit ∧ j.taken = none then { j with taken := some s.time } else j }

/-- Set a flag together with INJECTED when the fault was injected (R42); an outstanding rotation injection of that
page and flag is thereby confirmed (R506). -/
def State.raiseI (s : State) (p bit : Nat) (inj : Bool) : State :=
  let s := s.flag p bit
  if inj then
    let s := s.flag p eInjected
    { s with injections := s.injections.map fun j =>
        if j.page = p ∧ j.bit = bit then { j with confirmed := true } else j }
  else s

/-- Set a PAGE_ERR flag whose mechanism found a fault.  The finding is an opportunity of an injection armed for that flag,
which thereby fires (R42). -/
def State.raise (s : State) (p bit : Nat) : State :=
  if injectNow s p bit then (injectTake s p bit).raiseI p bit true else s.flag p bit

/-- PROG of a page. -/
def State.prog (s : State) (p : Nat) : State := s.raise p eProg

/-- Whether a fault is found on page p under flag `bit`: a real one, or one injected at this opportunity (R42).  The
second Bool says that it was injected. -/
def State.hit (s : State) (p bit : Nat) (real : Bool) : Bool × Bool × State :=
  if injectNow s p bit then (true, true, injectTake s p bit) else (real, false, s)

/-- A check of page p under flag `bit` finds a fault, a real or an injected one, and the flag sets (R42).  The Bool says so. -/
def State.found (s : State) (p bit : Nat) (real : Bool) : Bool × State :=
  let (bad, inj, s) := s.hit p bit real
  (bad, if bad then s.raiseI p bit inj else s)

/-- The page takes work: enabled, and neither draining, resetting, under test nor fenced (R37). -/
def State.working (s : State) (p : Nat) : Bool := s.rd p R.pstate == psIdle || s.rd p R.pstate == psActive

/-- STATE follows whether the page has work in progress; a disabled page that was waiting for its work enters OFF (R37).
Channels and prefetch queues say themselves when they have drained. -/
def State.settle (s : State) (p : Nat) (busy : Bool) : State :=
  if s.working p then s.wr p R.pstate (if busy then psActive else psIdle)
  else if s.rd p R.pstate = psDraining ∧ busy = false ∧ (p < 0x100 ∨ 0x180 ≤ p) then s.wr p R.pstate psOff
  else s

/-! ### Incidents and the error log (R528, R532, R533) -/

/-- Take the next incident ID (R528): wraps and skips 0. -/
def State.newInc (s : State) : Nat × State :=
  let n := s.rd pgErl R.incidentNext
  (n, s.wr pgErl R.incidentNext (if n + 1 = 2 ^ 32 then 1 else n + 1))

/-- Hand an event to the aggregator under incident `inc` (0: it takes a new one and is FIRST); answers the incident. -/
def State.logI (s : State) (inc : Nat) (r : LogRec) : Nat × State :=
  if inc = 0 then
    let (n, s) := s.newInc
    (n, { s with logQ := s.logQ ++ [{ r with incident := n, first := true, time := s.time }] })
  else (inc, { s with logQ := s.logQ ++ [{ r with incident := inc, first := false, time := s.time }] })

/-- Log an event, forgetting the incident. -/
def State.log (s : State) (r : LogRec) (inc : Nat := 0) : State := (s.logI inc r).2

/-! ### Doubt reports and notices -/

/-- Send a doubt report to the island (R484). -/
def State.doubt (s : State) (sc : Scope) (inc : Nat := 0) (cont : Bool := false) : State :=
  { s with doubtQ := s.doubtQ ++ [{ scope := sc, cont := cont, time := s.time, inc := inc }] }

/-- Send a report that carries INJECTED (R488). -/
def State.doubtInj (s : State) (p bit : Nat) : State :=
  { s with doubtQ := s.doubtQ ++ [{ scope := .device, injected := true, page := p, bit := bit, time := s.time }] }

/-- NOTICE_PEND of every ACTIVE queue pair of partition p (R421). -/
def noticePairs (s : State) (p : Nat) : State :=
  (List.range 16).foldl (fun s q =>
    if s.rd (pgHq p) R.qpState q = 1 then s.wr (pgHq p) R.noticePend 1 q else s) s

/-- An event applies NOTICE to a partition (R641, R421). -/
def State.noticeOn (s : State) (p : Nat) : State :=
  let s := noticePairs { s with notice := sput s.notice p s.time } p
  if p = 0 then s else noticePairs s 0

/-! ### Initiator ports and the operations they number (R353, R370, R371) -/

/-- The register page of an initiator's port (R353). -/
def pageOfInit (i : Nat) : Option Nat :=
  if i < 8 then some (pgHq i)
  else if within 0x10 0x17 i then some (pgCc (i - 0x10))
  else if i = 0x18 then some pgSaf
  else if within 0x20 0x2B i then some (pgCsi (i - 0x20))
  else if within 0x30 0x33 i then some (pgIsp (i - 0x30))
  else if i = 0x40 ∨ i = 0x41 then some (0x80 + (i - 0x40))
  else if within 0x42 0x45 i then some (0x84 + (i - 0x42))
  else if i = 0x46 then some pgHmp0
  else if i = 0x47 ∨ i = 0x48 then some (0x8C + (i - 0x47))
  else if i = 0x49 ∨ i = 0x4A then some (0x90 + (i - 0x49))
  else if i = 0x4B ∨ i = 0x4C then some (0x94 + (i - 0x4B))
  else if within 0x50 0x53 i then some (pgSta (i - 0x50))
  else if i = 0x54 ∨ i = 0x55 then some (0xA8 + (i - 0x54))
  else if i = 0x58 then some pgFgs
  else if within 0x60 0x9F i then some (pgCh (i - 0x60))
  else if within 0xA0 0xDF i then some (pgPq (i - 0xA0))
  else if i = 0xE0 then some pgMon
  else if i = 0xE1 then some pgScr
  else if i = 0xE8 then some pgDbg
  else if i = 0xF0 then some pgSec
  else none

/-- The initiator port that the block of page p issues through (R353); a page whose block has none issues through the
island. -/
def initOfPage (p : Nat) : Nat :=
  match pageKind p with
  | some .hq => p - pgHq 0
  | some .cc => 0x10 + (p - pgCc 0)
  | some .csi => 0x20 + (p - pgCsi 0)
  | some .isp => 0x30 + (p - pgIsp 0)
  | some .pyr => 0x40 + (p - 0x80)
  | some .wrp => 0x42 + (p - 0x84)
  | some .hmp => 0x46
  | some .ste => 0x47 + (p - 0x8C)
  | some .flw => 0x49 + (p - 0x90)
  | some .fea => 0x4B + (p - 0x94)
  | some .sta => 0x50 + (p - pgSta 0)
  | some .lvu => 0x54 + (p - 0xA8)
  | some .fgs => 0x58
  | some .ch => 0x60 + (p - pgCh 0)
  | some .pq => 0xA0 + (p - pgPq 0)
  | some .mon | some .dptx => 0xE0
  | some .scr => 0xE1
  | some .dbg => 0xE8
  | some .sec => 0xF0
  | _ => 0x18

/-- The number after q: it wraps and skips 0 (R370). -/
def nextSeq (q : Nat) : Nat := if q + 1 = 65536 then 1 else q + 1

/-- How far q lies after the number b, modulo 2^16. -/
def seqDelta (q b : Nat) : Nat := (q % 65536 + 65536 - b % 65536) % 65536

/-- The key of the table that unit `target` (the page of the unit) keeps for an initiator. -/
def dedupKey (target init : Nat) : Nat := target * 256 + init

/-- A non-idempotent operation reaches its target (R371): applied when new, answered from the record when seen before, and
STALE otherwise.  The result, its status, and the state. -/
def State.deliver (s : State) (init part target seq : Nat) (f : State → Nat × State) : Nat × Nat × State :=
  let key := dedupKey target init
  let d := sget {} s.dedups key
  let delta := seqDelta seq d.newest
  if 1 ≤ delta ∧ delta ≤ 0x7FFF then
    let (r, s) := f s
    (r, 0, { s with dedups := sset {} s.dedups key { newest := seq % 65536, results := ((seq % 65536, r) :: d.results).take 32 } })
  else match d.results.find? fun x => x.1 == seq % 65536 with
    | some x => (x.2, 0, (s.bump pgFab R.dupCnt).raise pgFab 10)
    | none =>
      let s := (s.bump pgFab R.staleCnt).raise pgFab 9
      (0, 6, s.log { event := 0x03, level := 1, part := part, init := init, page := pgFab, d1 := 0 })

/-- Initiator port `init` issues a non-idempotent operation under its next SEQ, and its target handles it (R370, R371).  It
counts as a write transaction of the port's page (R46). -/
def State.once (s : State) (init part target : Nat) (f : State → Nat × State) : Nat × State :=
  let q := sget 1 s.seqs init
  let s := { s with seqs := sset 1 s.seqs init (nextSeq q) }
  let s := match pageOfInit init with
    | some p => s.perf p 0x07
    | none => s
  let (r, _, s) := s.deliver init part target q f
  (r, s)

/-- An operation whose target answers nothing. -/
def State.onceDo (s : State) (init part target : Nat) (f : State → State) : State :=
  (s.once init part target fun s => (0, f s)).2

/-! ### MSI-X and event registers (R301, R406) -/

/-- Send MSI-X vector v of function n, or leave it pending while masked or disabled (R406). -/
def State.msix (s : State) (n v : Nat) : State :=
  let c := sget {} s.fns n
  if c.msixEn = false ∨ c.msixMask ∨ c.bme = false ∨ s.rd (pgHq n) R.msixMask v = 1 then
    s.wrBit (pgHq n) R.pba v true
  else { s with outs := s.outs ++ [.msix n v (s.rd (pgHq n) R.msixAddr v) (s.rd (pgHq n) R.msixData v)] }

/-- Messages left pending are sent when the condition clears (R406). -/
def msixFlush (s : State) (n : Nat) : State :=
  (List.range 64).foldl (fun s v =>
    if bitOf (s.rd (pgHq n) R.pba) v then (s.wrBit (pgHq n) R.pba v false).msix n v else s) s

/-- Saturation of a semaphore post (R263): refused, counted, flagged and logged. -/
def semSaturated (s : State) (n : Nat) : State :=
  let s := (s.bump pgFgs R.semSatCnt).raise pgFgs 8
  s.log { event := 0x04, part := sget 0 s.semOwner (n / 2), page := pgFgs, d0 := n }

/-- A waiting core resumes when an enabled interrupt pends (R285, R287). -/
def coreWake (s : State) (c : Nat) : State :=
  let k := sget {} s.cores c
  let pend := (bitOf k.irqEn 0 && !k.inbox.isEmpty) || (bitOf k.irqEn 1 && k.pendTimer) || (bitOf k.irqEn 2 && k.pendSemw)
  if s.rd (pgCc c) R.ccState = 2 ∧ pend then s.wr (pgCc c) R.ccState 1 else s

/-- SEMW pends in every core that selects the semaphore (R285). -/
def semWatch (s : State) (n : Nat) : State :=
  (List.range 8).foldl (fun s c =>
    let k := sget {} s.cores c
    if k.semwSel = n then coreWake { s with cores := sset {} s.cores c { k with pendSemw := true } } c else s) s

/-- A post that reaches its semaphore (R263); the Bool says whether it was counted. -/
def State.semPostB (s : State) (n : Nat) : Bool × State :=
  let c := sget 0 s.sems n
  if c = 0xFFFFFFFF then (false, semSaturated s n)
  else (true, semWatch { s with sems := sset 0 s.sems n (c + 1) } n)

/-- Initiator port `init` posts semaphore n on behalf of a partition (R263, R370); the Bool says whether it was counted. -/
def State.semPostI (s : State) (init part n : Nat) : Bool × State :=
  let (r, s) := s.once init part pgFgs fun s => let (ok, s) := s.semPostB n; (b2n ok, s)
  (r == 1, s)

def State.semPost (s : State) (init part n : Nat) : State := (s.semPostI init part n).2

/-- The fields of an event register pair (R301, R320). -/
structure EvtRegs where
  evt : Fld
  en : Fld
  vec : Fld
  irqEn : Fld
  sem : Fld
  semEn : Fld

def evCh : EvtRegs := ⟨R.chEvt, R.chEvtEn, R.chIrqVec, R.chIrqEn, R.chEvtSem, R.chSemEn⟩
def evPq : EvtRegs := ⟨R.qEvt, R.qEvtEn, R.qIrqVec, R.qIrqEn, R.qEvtSem, R.qSemEn⟩
def evErl : EvtRegs := ⟨R.erlEvt, R.erlEvtEn, R.erlIrqVec, R.erlIrqEn, R.erlEvtSem, R.erlSemEn⟩
def evMon : EvtRegs := ⟨R.monEvt, R.monEvtEn, R.monIrqVec, R.monIrqEn, R.monEvtSem, R.monSemEn⟩
def evDp : EvtRegs := ⟨R.dpEvt, R.dpEvtEn, R.dpIrqVec, R.dpIrqEn, R.dpEvtSem, R.dpSemEn⟩

/-- The message and the post of an event (R301). -/
def evtSend (s : State) (p : Nat) (e : EvtRegs) : State :=
  let s := if s.on p e.irqEn then s.msix (s.ownerOf p) (s.rd p e.vec) else s
  if s.on p e.semEn then s.semPost (initOfPage p) (s.ownerOf p) (s.rd p e.sem) else s

/-- Raise event bit b (R301): an event that finds its bit set sends nothing. -/
def State.event (s : State) (p : Nat) (e : EvtRegs) (b : Nat) : State :=
  if bitOf (s.rd p e.evt) b then s else
  let s := s.wrBit p e.evt b true
  if bitOf (s.rd p e.en) b then evtSend s p e else s

/-! ### Rings (R68, R70) -/

def ixIdx (v : Nat) : Nat := v % 65536
def ixPh (v : Nat) : Nat := v / 65536 % 2

/-- Slots written and not released of a ring with n slots. -/
def ringUsed (n wr rd : Nat) : Nat :=
  if ixPh wr = ixPh rd then ixIdx wr - ixIdx rd else n + ixIdx wr - ixIdx rd

def ringFull (_n wr rd : Nat) : Bool := ixIdx wr == ixIdx rd && ixPh wr != ixPh rd

def ringEmpty (wr rd : Nat) : Bool := ixIdx wr == ixIdx rd && ixPh wr == ixPh rd

/-- The index after v in a ring of n slots: the phase toggles each time the index returns to 0. -/
def ringNext (n v : Nat) : Nat :=
  if ixIdx v + 1 ≥ n then (1 - ixPh v) * 65536 else ixPh v * 65536 + ixIdx v + 1

/-- Whether `v` is an acceptable consumer index: inside the ring, and holding at most what `rd` to `wr` held. -/
def ringOkRd (n wr v : Nat) : Bool :=
  decide (v < 131072) && decide (ixIdx v < n) &&
    (if ixPh wr = ixPh v then decide (ixIdx v ≤ ixIdx wr) else decide (ixIdx wr ≤ ixIdx v))

/-- Whether moving a consumer index from `rd` to `v` stays between `rd` and `wr` (R412). -/
def ringBetween (n wr rd v : Nat) : Bool := ringOkRd n wr v && decide (ringUsed n wr v ≤ ringUsed n wr rd)

/-! ### Memory -/

/-- What an unlisted byte reads as: zero (R385, R386, R395). -/
def memDefault : Byte := 0

def State.byte (s : State) (a : Nat) : Byte := sget memDefault s.mem a

def memPut (m : List Host.Cell) (a : Nat) (b : Byte) : List Host.Cell := sset memDefault m a b

def memPuts : List Host.Cell → Nat → List Byte → List Host.Cell
  | m, _, [] => m
  | m, a, b :: t => memPuts (memPut m a b) (a + 1) t

/-- The n bytes from address a. -/
def State.bytes (s : State) (a n : Nat) : List Byte := (List.range n).map fun i => s.byte (a + i)

def State.store (s : State) (a : Nat) (bs : List Byte) : State := { s with mem := memPuts s.mem a bs }

/-- Canonical form of a memory: rising addresses, and no byte equal to what is not listed. -/
def memWf (m : List Host.Cell) : Bool := srising m && m.all fun c => c.2 != memDefault

/-! ### Free values -/

/-- A value the spec leaves open, w bits wide. -/
def State.free (s : State) (w : Nat) : Nat × State :=
  ((Config.freeWord s.freeCtr).toNat % 2 ^ w, { s with freeCtr := s.freeCtr + 1 })

end Sys2Proof.Machine
end

