-- ==== Sys2Proof/Machine/Flags.lean ====
section
/-! DEFINITION. The condition field: which conditions are in force for a partition, a line and everyone (R13 to R16,
R420, R445, R641), and the views of the status flags of a page (R37, R40). -/
namespace Sys2Proof.Machine
open Sys2Proof

/-- Codes of R13. -/
inductive Cond
  | normal | notice | degraded | fallbackLine | fallbackAll | debugTouched | thermal | resync | updating | starting
  | fault
deriving DecidableEq, Repr

def Cond.code : Cond → Nat
  | .normal => 0 | .notice => 1 | .degraded => 2 | .fallbackLine => 3 | .fallbackAll => 4 | .debugTouched => 5
  | .thermal => 6 | .resync => 7 | .updating => 0xC | .starting => 0xD | .fault => 0xE

/-- The order of R14, first applicable first. -/
def Cond.order : List Cond :=
  [.fault, .fallbackAll, .fallbackLine, .resync, .starting, .updating, .degraded, .thermal, .debugTouched, .notice]

/-- The first condition of R14 among those in force. -/
def firstCond (inForce : Cond → Bool) : Cond := (Cond.order.find? inForce).getD .normal

/-- Bit p of the PARTS of line l: partition p maps to the line (R456). -/
def mapsTo (s : State) (p l : Nat) : Bool := bitOf (s.rd pgVpt R.lineParts l) p

def lineOn (s : State) (l : Nat) : Bool := s.on pgVpt R.lineEn l

/-- The enabled line whose range holds a tracking ID (R437). -/
def lineOfId (s : State) (id : Nat) : Option Nat :=
  (List.range 4).find? fun l => lineOn s l && decide (s.rd pgVpt R.idLo l ≤ id) && decide (id ≤ s.rd pgVpt R.idHi l)

/-- NOTICE of a partition under R641: within NOTICE_HOLD ms of its latest event. -/
def noticeOf (s : State) (p : Nat) : Bool :=
  match sfind s.notice p with
  | some t => decide (s.time < t + msTicks (s.rd pgVpt R.noticeHold))
  | none => false

/-- Number of failed temperature sensors (R586). -/
def sensorsFailed (s : State) : Nat :=
  ((List.range 8).filter fun k => bitOf (s.rd pgPwr R.sensFail) k).length

/-- THERMAL (R585, R586). -/
def thermalOn (s : State) : Bool := s.on pgPwr R.thermHot || decide (4 ≤ sensorsFailed s)

/-- The conditions that apply to every partition (R420, R586). -/
def everyCond (s : State) : Cond → Bool
  | .fault => s.on pgSaf R.fault
  | .fallbackAll => s.on pgSaf R.fallbackAll
  | .starting => s.on pgRst R.starting
  | .thermal => thermalOn s
  | .debugTouched => bitOf (s.rd pgDbg R.debugFlags) 0
  | .degraded => decide (0 < sensorsFailed s)
  | _ => false

/-- Speed monitors of the two FLW pages as pairs of page and monitor. -/
def allMonitors : List (Nat × Nat) := [(0x90, 0), (0x90, 1), (0x91, 0), (0x91, 1)]

/-- The conditions raised for line l itself: fallback (R492), RESYNC (R173), STARVED (R177), ROT_EN = 0 (R508). -/
def lineCondOf (s : State) (l : Nat) : Cond → Bool
  | .fallbackLine => bitOf (s.rd pgSaf R.lineFb) l
  | .resync => allMonitors.any fun (p, m) => s.on p R.monResync m && s.rd p R.monLine m == l
  | .degraded => !s.on pgChk R.rotEn || allMonitors.any fun (p, m) => s.on p R.monStarved m && s.rd p R.monLine m == l
  | _ => false

/-- Coverage of a stream is full: its 16 latest written frames carried compared blocks, and nothing R87 lists holds. -/
def coverNow (s : State) (k : Nat) : Bool :=
  let it := sget {} s.intakes k
  s.on (pgCtx k) R.inEn && it.cov.length == 16 && it.cov.all (·.2) && s.rd (pgCtx k) R.goldValid == 0xFFFF &&
    s.on (pgCtx k) R.testEn && s.rd (pgCtx k) R.stream != 3

/-- A stream owned by partition p is enabled with reduced coverage (R87, R88). -/
def coverageReduced (s : State) (p : Nat) : Bool :=
  (List.range 48).any fun k =>
    s.on (pgCtx k) R.inEn && !coverNow s k && s.ownerOf (pgCtx k) == p

/-- The conditions raised for partition p itself: UPDATING (R545), DEGRADED (R88). -/
def partCondOf (s : State) (p : Nat) : Cond → Bool
  | .updating => bitOf (s.rd pgSec R.updMark) p ||
      (s.rd pgSec R.ldStat == 1 && s.ownerOf (pgCc (s.rd pgSec R.ldCore)) == p)
  | .degraded => coverageReduced s p
  | _ => false

/-- The lines a partition maps to. -/
def linesOf (s : State) (p : Nat) : List Nat := (List.range 4).filter fun l => mapsTo s p l

/-- The conditions of one partition, NOTICE aside (R420). -/
def ownConds (s : State) (p : Nat) (c : Cond) : Bool :=
  everyCond s c || partCondOf s p c || (linesOf s p).any fun l => lineCondOf s l c

/-- The conditions of a partition, NOTICE aside: those of partition 0 are those of any partition (R420). -/
def partConds (s : State) (p : Nat) (c : Cond) : Bool :=
  if p = 0 then (List.range 8).any fun q => ownConds s q c else ownConds s p c

/-- COND of a queue-pair record before NOTICE (R420 to R422). -/
def condNoNotice (s : State) (p : Nat) : Cond := firstCond fun c => partConds s p c

/-- COND of any other record of partition p, NOTICE under R641. -/
def condOf (s : State) (p : Nat) : Nat :=
  (firstCond fun c => if c = .notice then
      (if p = 0 then (List.range 8).any (noticeOf s) else noticeOf s p)
    else partConds s p c).code

/-- COND of a queue-pair record: NOTICE applies when NOTICE_PEND is set (R421). -/
def condPair (s : State) (p q : Nat) : Nat :=
  (firstCond fun c => if c = .notice then s.on (pgHq p) R.noticePend q else partConds s p c).code

/-- The partitions named in the PARTS of line l. -/
def partsOf (s : State) (l : Nat) : List Nat := (List.range 8).filter fun p => mapsTo s p l

/-- COND of a reply for a tracking ID of enabled line l (R445). -/
def condLine (s : State) (l : Nat) : Nat :=
  (firstCond fun c => everyCond s c || lineCondOf s l c || (partsOf s l).any (fun p => partCondOf s p c) ||
    (c == .notice && (partsOf s l).any (noticeOf s))).code

/-- COND of a reply outside every enabled line (R445). -/
def condEvery (s : State) : Nat := (firstCond fun c => everyCond s c).code

/-- COND of a reply for a tracking ID. -/
def condId (s : State) (id : Nat) : Nat :=
  match lineOfId s id with
  | some l => condLine s l
  | none => condEvery s

/-- LINE_COND (R445, R456). -/
def lineCondView (s : State) (l : Nat) : Nat := if lineOn s l then condLine s l else condEvery s

/-- BUSY of PAGE_STAT (R37). -/
def busyView (s : State) (p : Nat) : Bool :=
  let st := s.rd p R.pstate
  st == psActive || st == psDraining || st == psResetting || st == psSelftest

/-- ATTN of PAGE_STAT: an error flag whose mask bit is 0 (R40). -/
def attnView (s : State) (p : Nat) : Bool :=
  (List.range 32).any fun b => bitOf (s.rd p R.pageErr) b && !bitOf (s.rd p R.pageErrMask) b

/-- The lowest partition named in the PARTS of a line, or 0 (R533). -/
def linePart (s : State) (l : Nat) : Nat := ((List.range 8).find? fun p => mapsTo s p l).getD 0

end Sys2Proof.Machine
end

