-- ==== Sys2Proof/Machine/Firewall.lean ====
section
/-! DEFINITION. The device address map, the firewalls and denials (R351, R352, R357, R358, R360, R390, R395, R407),
and raising FAULT (R496). -/
namespace Sys2Proof.Machine
open Sys2Proof

/-- Initiator, partition and safety class of a transaction (R354, R355). -/
structure Tag where
  init : Nat
  part : Nat
  sc : Nat
deriving DecidableEq, Repr

/-- Initiator IDs of register accesses (R353). -/
def iniId : Ini → Nat
  | .fn n => n
  | .core c => 0x10 + c
  | .island => 0x18
  | .rotation => 0x18
  | .dap => 0xE8

/-- The partition on whose behalf an initiator acts (R355). -/
def iniPart (s : State) : Ini → Nat
  | .fn n => n
  | .core c => s.ownerOf (pgCc c)
  | _ => 0

def tagIsland : Tag := ⟨0x18, 0, 3⟩
def tagDap : Tag := ⟨0xE8, 0, 0⟩

/-- The tag of an initiator's fabric accesses (R355). -/
def tagIni (s : State) (i : Ini) : Tag :=
  match i with
  | .fn n => ⟨n, n, 2⟩
  | .core c => ⟨0x10 + c, s.ownerOf (pgCc c), 2⟩
  | .island => tagIsland
  | .rotation => tagIsland
  | .dap => tagDap

/-- Targets of R351. -/
inductive Target | svm | vt | ext | pcie | none
deriving DecidableEq, Repr

def extBase : Nat := 0x100000000
def pcieBase : Nat := 0x8000000000000000
def vtBase : Nat := 0x08000000

/-- Where a device address leads (R351). -/
def targetOf (a : Nat) : Target :=
  if a < 0x06000000 then .svm
  else if vtBase ≤ a ∧ a < vtBase + 0x40000 then .vt
  else if extBase ≤ a ∧ a < 0x900000000 then .ext
  else if pcieBase ≤ a ∧ a < 2 ^ 64 then .pcie
  else .none

def fwOf : Target → Nat
  | .svm => 0 | .vt => 1 | .ext => 2 | .pcie => 3 | .none => 0

/-- Operations of R354. -/
def opRead : Nat := 0
def opWrite : Nat := 1
def opPost : Nat := 2
def opTake : Nat := 3
def opCount : Nat := 4

/-- Region r of firewall f as an instance of the region fields. -/
def regIx (f r : Nat) : Nat := 32 * f + r

/-- Whether region i contains the n bytes from a, at 4 KiB granularity with LIMIT inclusive (R357). -/
def inRegion (s : State) (i a n : Nat) : Bool :=
  s.on pgFab R.regEn i && decide (s.rd pgFab R.regBase i ≤ a / 4096) &&
    decide ((a + (n - 1)) / 4096 ≤ s.rd pgFab R.regLimit i)

/-- The first enabled region that contains a transaction decides (R357). -/
def firstRegion (s : State) (f a n : Nat) : Option Nat :=
  ((List.range 32).map (regIx f)).find? fun i => inRegion s i a n

/-- What the deciding region grants (R357, step 3). -/
def regionGrants (s : State) (i : Nat) (t : Tag) (op : Nat) : Bool :=
  if op = opRead then bitOf (s.rd pgFab R.regRd i) t.part
  else bitOf (s.rd pgFab R.regWr i) t.part && (!s.on pgFab R.regSc3w i || t.sc == 3)

/-- Fitted capacity of the external memory in bytes (R388). -/
def fittedBytes (s : State) : Nat := 4 * (2 ^ (s.rd (pgLpc 0) R.lpcCap) * 2 * 2 ^ 30)

/-- Bytes of the usable external range (R390). -/
def usableBytes (s : State) : Nat := 7 * fittedBytes s / 8

/-- All four controllers are READY (R395). -/
def extReady (s : State) : Bool :=
  [0, 1, 2, 3].all fun i => s.rd (pgLpc i) R.lpcState == 3 && s.rd (pgLpc i) R.pstate != psFenced

/-- The controller that serves a device address (R389). -/
def lpcOf (a : Nat) : Nat :=
  let x := a - extBase
  Nat.xor (bitsOf x 9 8) (bitsOf x 13 12)

/-- Address within the controller (R389). -/
def lpcAddr (a : Nat) : Nat :=
  let x := a - extBase
  x / 1024 * 256 + x % 256

/-- Sub-channel: 0 A, 1 B (R389). -/
def lpcSub (a : Nat) : Nat := bitsOf (lpcAddr a) 7 7

/-- Address within the sub-channel (R389). -/
def lpcSubAddr (a : Nat) : Nat := lpcAddr a / 256 * 128 + lpcAddr a % 128

/-- Where the 8 check bytes of a line lie in its sub-channel of the given capacity (R391). -/
def checkAddr (subBytes a : Nat) : Nat := 7 * subBytes / 8 + 8 * (lpcSubAddr a / 64)

/-- The judgement of a transaction: passed, or refused with the KIND of R360, silently under R407, or not ready. -/
inductive Verdict
  | pass
  | deny (fw : Nat)
  | reserved
  | noBme
  | notReady
deriving DecidableEq, Repr

/-- The firewall's decision (R352, R357, R390, R395, R407). -/
def judge (s : State) (t : Tag) (op a n : Nat) : Verdict :=
  match targetOf a with
  | .none => .reserved
  | tg =>
    if t.init = 0xE8 then
      (if tg = .ext ∧ extReady s = false then .notReady
       else if tg = .ext ∧ usableBytes s ≤ a - extBase then .deny 2 else .pass)
    else if tg = .pcie ∧ (sget {} s.fns t.part).bme = false then .noBme
    else
      match firstRegion s (fwOf tg) a n with
      | none => .deny (fwOf tg)
      | some i =>
        if regionGrants s i t op then
          (if tg = .ext ∧ extReady s = false then .notReady
           else if tg = .ext ∧ usableBytes s ≤ a - extBase then .deny 2 else .pass)
        else .deny (fwOf tg)

/-- Count, capture and log a denial (R360): one record per initiator and source in 10 ms.  The Nat is the incident of the
denied operation (R528). -/
def denialI (s : State) (t : Tag) (op kind fw a inc : Nat) : Nat × State :=
  let s := (s.bump pgFab R.fwEvtCnt).raise pgFab 8
  let s := ((((((s.wr pgFab R.fwLastInit t.init).wr pgFab R.fwLastPart t.part).wr pgFab R.fwLastSc t.sc).wr
    pgFab R.fwLastOp op).wr pgFab R.fwLastFw fw).wr pgFab R.fwLastKind kind).wr pgFab R.fwLastValid 1
  let s := s.wr pgFab R.fwLastAddr a
  let key := t.init * 8 + (if kind = 0 then fw else 3 + kind)
  match sfind s.denials key with
  | some (t0, n) =>
    if s.time < t0 + msTicks 10 then (inc, { s with denials := sput s.denials key (t0, n + 1) })
    else
      let (i, s) := (s.bump pgFab R.logSuppressed n).logI inc
        { event := 0x01, part := t.part, init := t.init, page := pgFab, addr := a, count := n,
          d0 := fw + 16 * op + 256 * kind }
      (i, { s with denials := sput s.denials key (s.time, 0) })
  | none =>
    let (i, s) := s.logI inc { event := 0x01, part := t.part, init := t.init, page := pgFab, addr := a,
                               d0 := fw + 16 * op + 256 * kind }
    (i, { s with denials := sput s.denials key (s.time, 0) })

/-- A denial, forgetting its incident. -/
def denial (s : State) (t : Tag) (op kind fw a : Nat) (inc : Nat := 0) : State := (denialI s t op kind fw a inc).2

/-- What a refusal leaves behind, by its kind (R352, R358, R390, R395, R407). -/
def refuse (s : State) (t : Tag) (op a : Nat) (v : Verdict) (inc : Nat := 0) : Nat × State :=
  match v with
  | .pass => (inc, s)
  | .noBme => (inc, s)
  | .reserved => denialI s t op 2 0 a inc
  | .deny f => denialI s t op 0 f a inc
  | .notReady =>
    denialI ((s.bump (pgLpc (lpcOf a)) R.notReadyCnt).raise (pgLpc (lpcOf a)) 10) t op 0 2 a inc

/-- Raise FAULT (R496): FAULT_CAUSE keeps the first cause, DEV_OK_N is released (R455), and the event is logged. -/
def raiseFault (s : State) (cause : Nat) (inc : Nat := 0) (inj : Bool := false) : State :=
  let s := s.log { event := 0x31, level := if cause = 3 then 5 else 6, page := pgSaf, d0 := cause, inj := inj } inc
  if s.on pgSaf R.fault then s else
  let s := ((s.wr pgSaf R.fault 1).wr pgSaf R.faultCause cause).wr pgSaf R.devOk 0
  { s with faultTime := s.time }

/-- The two evaluators of a decision disagree: the transaction is denied, FW_CHECK sets, and the island learns of a checker
failure, or of an injected one (R359, R488, R496). -/
def disagree (s : State) (t : Tag) (op a inc : Nat) (inj : Bool) : Nat × State :=
  let (i, s) := denialI s t op 0 (fwOf (targetOf a)) a inc
  let s := s.raiseI pgFab 12 inj
  (i, if inj then s.doubtInj pgFab 12 else raiseFault s 6 i)

/-- The firewall's decision on a transaction that has a target, by both evaluators (R357 to R359): whether it passes, the
incident of a denial, and what a denial leaves behind.  `clash` says that the evaluators disagree. -/
def passes (s : State) (t : Tag) (op a n : Nat) (clash : Bool) (inc : Nat := 0) : Bool × Nat × State :=
  if targetOf a = .none then (false, refuse s t op a .reserved inc)
  else
    let (bad, inj, s) := s.hit pgFab 12 clash
    if bad then (false, disagree s t op a inc inj)
    else match judge s t op a n with
      | .pass => (true, inc, s)
      | v => (false, refuse s t op a v inc)

/-- A state-changing debug action: DEBUG_TOUCHED holds until cold reset, DEBUG_TIME its first moment (R555, R556). -/
def debugTouch (s : State) : State :=
  if bitOf (s.rd pgDbg R.debugFlags) 0 then s
  else (s.wrBit pgDbg R.debugFlags 0 true).wr pgDbg R.debugTime s.time

end Sys2Proof.Machine
end

