-- ==== Sys2Proof/Machine/Verdict.lean ====
section
/-! DEFINITION. The verdict table's entries: the word, staging (R443), holding and storing FINAL (R489, R491, R494),
doubts (R486, R487), line and device fallback (R492, R493) and the actions of RESYNC (R174). -/
namespace Sys2Proof.Machine
open Sys2Proof

def vEmpty : Nat := 0
def vAnnounced : Nat := 1
def vPending : Nat := 2
def vFinal : Nat := 3
def vFallback : Nat := 4

/-- FLAGS bits of R432. -/
def fMissed : Nat := 0
def fTrack : Nat := 1
def fFawn : Nat := 2
def fUnpaired : Nat := 3
def fDoubt : Nat := 4

def State.entry (s : State) (id : Nat) : Entry := sget {} s.vt id

/-- The verdict word of an entry with a given COND (R432). -/
def entryWord (e : Entry) (cond : Nat) : Nat :=
  cond * 2 ^ 28 + e.seq % 16 * 2 ^ 24 + e.lane % 256 * 2 ^ 16 + e.dim % 16 * 2 ^ 12 + e.st % 8 * 2 ^ 9 + e.flags % 512

/-- Store an entry as it is. -/
def State.putEntry (s : State) (id : Nat) (e : Entry) : State := { s with vt := sset {} s.vt id e }

/-- Store a changed entry: SEQ advances when STATE, LANE, DIMCLASS or FLAGS changed (R433). -/
def State.chgEntry (s : State) (id : Nat) (e : Entry) : State :=
  let o := s.entry id
  if o.st = e.st ∧ o.lane = e.lane ∧ o.dim = e.dim ∧ o.flags = e.flags then s.putEntry id { e with seq := o.seq }
  else s.putEntry id { e with seq := (o.seq + 1) % 16 }

/-- The class of a FALLBACK entry: no smaller than the staged Fawn class, and 0xF where none is staged (R443, R480). -/
def fallbackDim (e : Entry) (written : Nat) : Nat :=
  match e.fawn with
  | some f => max written f
  | none => 0xF

/-- Set or clear FAWN_DIM: DIMCLASS is the staged Fawn class (R432). -/
def markFawn (e : Entry) : Entry :=
  { e with flags := if e.fawn = some e.dim then setBit e.flags fFawn else clrBit e.flags fFawn }

/-- Keep the device's own flags and take bits 4, 7 and 8 from the written word (R443). -/
def mergeFlags (old written : Nat) : Nat :=
  old % 16 + (written / 16 % 2) * 16 + (written / 128 % 4) * 128

/-- The entry as FALLBACK under a request (R443): LANE MANUAL; any held FINAL is discarded (R489). -/
def asFallback (e : Entry) (written flags : Nat) : Entry :=
  markFawn { e with st := vFallback, lane := 0xFF, dim := fallbackDim e written, flags := mergeFlags e.flags flags,
                    held := none }

def resyncOn (s : State) (l : Nat) : Bool := lineCondOf s l .resync

def fallbackOn (s : State) (l : Nat) : Bool := s.on pgSaf R.fallbackAll || bitOf (s.rd pgSaf R.lineFb) l

/-- FINAL requests of the line are stored as FALLBACK now (R174, R494). -/
def finalBarred (s : State) (id : Nat) : Bool :=
  match lineOfId s id with
  | some l => fallbackOn s l || resyncOn s l
  | none => s.on pgSaf R.fallbackAll

/-- Held requests of the entry's line (R489). -/
def heldOfLine (s : State) (id : Nat) : Nat :=
  (s.vt.filter fun x => x.2.held.isSome && lineOfId s x.1 == lineOfId s id).length

/-- An accepted FINAL request: barred, held, or turned into FALLBACK when 256 are held (R489, R494). -/
def acceptFinal (s : State) (id : Nat) (e : Entry) (lane dim flags : Nat) : State :=
  if finalBarred s id then s.chgEntry id (asFallback e dim (setBit flags fDoubt))
  else if e.held.isNone ∧ 256 ≤ heldOfLine s id then s.chgEntry id (asFallback e dim (setBit flags fDoubt))
  else (s.bump pgSaf R.heldCnt).putEntry id { e with held := some ⟨lane, dim, flags⟩ }

/-- A staging request reaches the entry (R443): the word's STATE asks for PENDING, FINAL or FALLBACK. -/
def stage (s : State) (t : Tag) (id word : Nat) : State :=
  let e := s.entry id
  let st := bitsOf word 11 9
  let lane := bitsOf word 23 16
  let dim := bitsOf word 15 12
  let flags := bitsOf word 8 0
  let refused := s.bump pgVpt R.stageRefusedCnt
  if st = vPending ∧ e.st = vAnnounced ∧ t.init = 0x18 ∧ t.sc = 3 then
    s.chgEntry id { e with st := vPending, lane := 0xFF, dim := dim, fawn := some dim,
                           flags := setBit (mergeFlags e.flags flags) fFawn }
  else if st = vFinal ∧ e.st = vPending then acceptFinal s id e lane dim flags
  else if st = vFallback ∧ (e.st = vAnnounced ∨ e.st = vPending ∨ e.st = vFinal) then
    s.chgEntry id (asFallback e dim flags)
  else refused

/-- A staging word. -/
def stageWord (st lane dim flags : Nat) : Nat := lane * 2 ^ 16 + dim * 2 ^ 12 + st * 2 ^ 9 + flags

/-- A staging request of the safety island through FW1: none once FAULT applies, and a denial raises FAULT
(R496, R498).  A poisoned word is left as it is (R378). -/
def islandStage (s : State) (id word : Nat) : State :=
  if s.on pgSaf R.fault ∨ (s.entry id).poisoned then s else
  let (ok, inc, s) := passes s tagIsland opWrite (vtBase + 4 * id) 4 false
  if ok then stage s tagIsland id word else raiseFault s 9 inc

/-- FALLBACK with DOUBT and the staged Fawn class, or 0xF (R487). -/
def islandFallback (s : State) (id : Nat) : State :=
  islandStage s id (stageWord vFallback 0xFF (((s.entry id).fawn).getD 0xF) 16)

/-- A doubt that finds its entry EMPTY (R487). -/
def lateDoubt (s : State) (id : Nat) (inc : Nat) : State :=
  let s := (s.bump pgSaf R.lateDoubtCnt).raise pgSaf 8
  s.log { event := 0x2C, part := ((lineOfId s id).map (linePart s)).getD 0, page := pgSaf, d0 := id } inc

/-- A doubt applied to one entry of its scope (R487). -/
def doubtEntry (s : State) (id : Nat) : State :=
  let st := (s.entry id).st
  if st = vAnnounced ∨ st = vPending ∨ st = vFinal then islandFallback s id else s

/-- The tracking IDs of listed entries of line l. -/
def idsOfLine (s : State) (l : Nat) : List Nat :=
  (s.vt.map (·.1)).filter fun id => lineOfId s id == some l

/-- Signed footprint position of stream k (R486). -/
def camPosI (s : State) (k : Nat) : Int := sgn 32 (s.rd pgSaf R.camPos k)

def camHalfI (s : State) (k : Nat) : Int := (s.rd pgSaf R.camHalf k : Nat)

/-- The reach test of R486 for an origin and a trailing edge. -/
def reaches (s : State) (k e0 e1 c : Nat) (trail : Option Nat) : Bool :=
  let lp := match trail with | some t => diff32 t c | none => diff32 e1 c
  decide (diff32 e1 c ≥ camPosI s k - camHalfI s k) &&
    decide (diff32 e0 c - lp ≤ camPosI s k + camHalfI s k)

/-- An entry without an origin is always reached (R486). -/
def reachesEntry (s : State) (k e0 e1 : Nat) (e : Entry) : Bool :=
  match e.origin with
  | some c => reaches s k e0 e1 c e.trail
  | none => true

/-- Mark the unpaired photo-eye events a test selects (R486). -/
def markEvents (s : State) (l : Nat) (test : Parcel → Bool) : State :=
  { s with parcels := s.parcels.map fun q =>
      if q.line = l ∧ q.listed ∧ test q then { q with doubtful := true } else q }

/-- A FRAME scope applied to the line of its stream (R486, R487). -/
def doubtFrame (s : State) (k e0 e1 : Nat) : State :=
  let l := s.rd pgSaf R.camLine k
  let ids := (idsOfLine s l).filter fun id => reachesEntry s k e0 e1 (s.entry id)
  let s := ids.foldl doubtEntry s
  markEvents s l fun q => reaches s k e0 e1 q.c q.trail

/-- A LINE scope: every parcel of a line. -/
def doubtLine (s : State) (l : Nat) : State :=
  markEvents ((idsOfLine s l).foldl doubtEntry s) l fun _ => true

/-- Apply a report's scope (R484, R487); what R174 lays down for RESYNC happened when it was raised. -/
def applyScope (s : State) (sc : Scope) (inc : Nat) : State :=
  match sc with
  | .entry id =>
    if (s.entry id).st = vEmpty then lateDoubt s id inc else doubtEntry s id
  | .frame k e0 e1 => doubtFrame s k e0 e1
  | .line l => doubtLine s l
  | .part p => (linesOf s p).foldl doubtLine s
  | .resync _ => s
  | .device => ((List.range 4).filter (lineOn s)).foldl doubtLine s

/-- Every open entry of the line is moved to FALLBACK, FINAL ones too after a checker failure (R492, R495). -/
def moveOpen (s : State) (l : Nat) (finals : Bool) : State :=
  let ids := (idsOfLine s l).filter fun id =>
    let st := (s.entry id).st
    st == vAnnounced || st == vPending || (finals && st == vFinal)
  ids.foldl islandFallback s

def setFallbackAll (s : State) : State := s.wr pgSaf R.fallbackAll (b2n (s.fbSleep || s.fbAllRaised))

/-- FALLBACK_ALL is raised (R493). -/
def raiseFallbackAll (s : State) (finals : Bool := false) : State :=
  let s := setFallbackAll { s with fbAllRaised := true, fbCauseTime := s.time }
  (List.range 4).foldl (fun s l => moveOpen s l finals) s

/-- FALLBACK_LINE is raised for a set of lines, or FALLBACK_ALL when the set is every enabled line (R492, R493). -/
def raiseFallback (s : State) (ls : List Nat) (finals : Bool := false) : State :=
  let en := (List.range 4).filter (lineOn s)
  if en ≠ [] ∧ en.all (fun l => ls.contains l) then raiseFallbackAll s finals
  else
    let s := { s with fbCauseTime := s.time }
    ls.foldl (fun s l => moveOpen (s.wrBit pgSaf R.lineFb l true) l finals) s

/-- Every SAFE stream of the entry's line has a passing block beyond the parcel's footprint (R489). -/
def confirmed (s : State) (l : Nat) (e : Entry) : Bool :=
  match e.origin, e.trail with
  | some c, some t =>
    (List.range 48).all fun k =>
      if s.on pgSaf R.camSafe k ∧ s.rd pgSaf R.camLine k = l then
        match sfind s.confE k with
        | some ce => decide (diff32 ce c - diff32 t c > camPosI s k + camHalfI s k)
        | none => false
      else true
  | _, _ => false

/-- A held FINAL is stored, subject to fallback (R494) and plausibility (R491). -/
def storeFinal (s : State) (l id : Nat) (e : Entry) (h : Held) : State :=
  if finalBarred s id then s.chgEntry id (asFallback e h.dim (setBit h.user fDoubt))
  else
    let slack := s.rd pgSaf R.classSlack l
    let f := e.fawn.getD 0xF
    if f = 0xF ∨ h.dim + slack < f then
      (s.bump pgSaf R.plausCnt).chgEntry id (asFallback e h.dim (setBit h.user fDoubt))
    else
      s.chgEntry id { e with st := vFinal, lane := h.lane, dim := h.dim, held := none,
                             flags := clrBit (mergeFlags e.flags h.user) fFawn }

/-- The deadline of R20 acts on an entry. -/
def missEntry (s : State) (id : Nat) : State :=
  let e := s.entry id
  if e.poisoned then s else
  s.chgEntry id (markFawn { e with st := vFallback, lane := 0xFF, dim := e.fawn.getD 0xF, held := none,
                                   flags := setBit e.flags fMissed })

/-- What RESYNC does to an open entry at its raise (R174). -/
def resyncEntry (s : State) (id : Nat) : State :=
  let e := s.entry id
  if e.poisoned then s
  else if e.st = vAnnounced ∨ e.st = vPending then
    s.chgEntry id (markFawn { e with st := vFallback, lane := 0xFF, dim := e.fawn.getD 0xF, held := none,
                                     flags := setBit e.flags fDoubt })
  else if e.st = vFinal then s.chgEntry id { e with flags := setBit e.flags fTrack }
  else s

/-- RESYNC acts on every unacknowledged entry of the line (R174). -/
def resyncLine (s : State) (l : Nat) : State := (idsOfLine s l).foldl resyncEntry s

end Sys2Proof.Machine
end

