-- ==== Sys2Proof/Machine/Fabric.lean ====
section
/-! DEFINITION. Fabric reads and writes: firewall, ECC findings, poisoned lines, staging through the verdict table
(R357, R358, R377, R378, R391 to R393, R443, R447), and fencing a page with its consequences (R133, R492, R496). -/
namespace Sys2Proof.Machine
open Sys2Proof

/-- How the target answered (R358, R377, R367); a failure carries the incident of the operation (R528). -/
inductive FabResp
  | ok (bs : List Byte)
  | denied (inc : Nat)
  | uncorr (inc : Nat)
  | timeout (inc : Nat)
deriving DecidableEq, Repr

def jobKey (p n : Nat) : Nat := 8 * p + n

/-- Every job of a fenced engine is abandoned and will end FENCED (R133).  DESIGN CHOICE (log 147): until its record is
written its slot reads CANCELLING. -/
def fenceJobs (s : State) (p : Nat) : State :=
  (List.range 8).foldl (fun s n =>
    match sfind s.jobs (jobKey p n) with
    | some j =>
      if j.done.isNone then
        { (s.wr p (slotF p R.slotState) 3 n) with jobs := sput s.jobs (jobKey p n) { j with ending := some 6 } }
      else s
    | none => s) s

/-- The partitions a page's fencing concerns (R492): its owner, those named in SLOT_PART, and for an ISP pipe the
owners of the contexts whose PIPE_MASK names it. -/
def fenceParts (s : State) (p : Nat) : List Nat :=
  s.ownerOf p ::
  match pageKind p with
  | some .pyr | some .wrp | some .ste | some .flw | some .fea | some .hmp => (List.range 4).map fun n => s.rd p R.slotPart n
  | some .sta => (List.range 8).map fun n => s.rd p R.staSlotPart n
  | some .lvu => (List.range 8).map fun n => s.rd p R.lvuSlotPart n
  | some .isp => ((List.range 48).filter fun k => bitOf (s.rd (pgCtx k) R.pipeMask) (p - 0x30)).map fun k => s.ownerOf (pgCtx k)
  | _ => []

/-- The lines whose PARTS include one of some partitions. -/
def linesOfParts (s : State) (ps : List Nat) : List Nat := (List.range 4).filter fun l => ps.any fun p => mapsTo s p l

/-- The fallback or FAULT that the fencing of page p, or a checker self-test failure of it, causes (R492, R493, R496). -/
def fenceEffects (s : State) (p inc : Nat) (finals : Bool) : State :=
  match pageKind p with
  | some .hmp => raiseFault s 4 inc
  | some .lpc => raiseFault s 5 inc
  | some .fgs => raiseFallbackAll s finals
  | some .ste => if p = pgSte1 then raiseFault s 4 inc else raiseFallback s (linesOfParts s (fenceParts s p)) finals
  | some .lvu => if p = pgLvu1 then raiseFault s 4 inc else raiseFallback s (linesOfParts s (fenceParts s p)) finals
  | some .pyr | some .wrp | some .flw | some .fea | some .sta | some .isp | some .ctx | some .ch | some .pq | some .cc =>
    raiseFallback s (linesOfParts s (fenceParts s p)) finals
  | _ => s

/-- Pipe i is in service. -/
def pipeUp (s : State) (i : Nat) : Bool := !s.fenced (pgIsp i)

/-- Enabled contexts whose PIPE_MASK names no pipe in service set NO_PIPE (R111). -/
def noPipes (s : State) : State :=
  (List.range 48).foldl (fun s k =>
    if s.on (pgCtx k) R.ctxEn && (List.range 4).all (fun i => !(bitOf (s.rd (pgCtx k) R.pipeMask) i && pipeUp s i)) then
      s.raise (pgCtx k) 17
    else s) s

/-- Take a page out of service after a lasting fault (R133, R525, R506). -/
def fencePage (s : State) (p inc : Nat) (checker : Bool := false) : State :=
  if s.fenced p then s else
  let s := s.log { event := 0x1C, level := if checker then 6 else 2, cls := 2, part := s.ownerOf p, page := p } inc
  let s := noPipes (fenceJobs (s.wr p R.pstate psFenced) p)
  fenceEffects s p inc checker

/-- A checker self-test failure (R506): recorded, logged, and the checked page fenced, or FAULT raised for FAB and for
the island's own checkers, whose number is the cause: 1 lockstep, 2 clock monitors, 3 watchdogs (R516). -/
def checkerFail (s : State) (p bit : Nat) : State :=
  let (inc, s) := s.logI 0 { event := 0x32, level := 6, cls := 2, part := s.ownerOf p, page := p, d0 := bit }
  let s := ((((s.wr pgChk R.chkFailPage p).wr pgChk R.chkFailBit bit).wr pgChk R.chkFailValid 1).bump pgChk R.chkFailCnt).raise
    pgChk 8
  if p = pgFab then raiseFault s 6 inc
  else if p = pgSaf then raiseFault s bit inc
  else fencePage s p inc true

/-- The watchdog of partition p expires, or the island acts as though it had (R492, R493, R526, R529). -/
def wdExpire (s : State) (p : Nat) (inc : Nat := 0) : State :=
  let s := { s with wds := sset ({} : Wd) s.wds p { sget ({} : Wd) s.wds p with expired := true } }
  let s := (s.raise pgSaf 10).log ({ event := 0x30, level := 4, part := p, page := pgSaf } : LogRec) inc
  if p = 0 then raiseFallbackAll s else raiseFallback s (linesOf s p)

/-- Doubt of an uncorrectable ECC error by the reading transaction (R484). -/
def eccDoubt (s : State) (t : Tag) (inc : Nat) : State :=
  if t.init = 0xE0 ∨ t.init = 0xE1 ∨ t.init = 0xE8 ∨ t.init = 0x18 then s
  else if t.part = 0 ∧ 0x10 ≤ t.init ∧ t.init < 0x18 then s.doubt .device inc
  else s.doubt (.part t.part) inc

/-- A corrected error in Shared Vision Memory or the verdict table (R377). -/
def svmCorr (s : State) (t : Tag) (a : Nat) (vt : Bool) : State :=
  let s := (s.bump pgSvm (if vt then R.vtCorrCnt else R.svmCorrCnt)).raise pgSvm eEccCorr
  let s := if vt then s.raise pgSvm 8 else s
  let (syn, s) := s.free 8
  let s := (((s.wr pgSvm R.svmLastErr a).wr pgSvm R.svmSyndrome (if vt then syn % 128 else syn)).wr
    pgSvm R.svmErrUncorr 0).wr pgSvm R.svmErrInit t.init
  s.noticeOn t.part

/-- An uncorrectable error in Shared Vision Memory or the verdict table (R377). -/
def svmUncorr (s : State) (t : Tag) (a : Nat) (vt : Bool) (inc : Nat := 0) : Nat × State :=
  let s := (s.bump pgSvm (if vt then R.vtUncorrCnt else R.svmUncorrCnt)).raise pgSvm eEccUncorr
  let s := if vt then s.raise pgSvm 8 else s
  let (syn, s) := s.free 8
  let s := (((s.wr pgSvm R.svmLastErr a).wr pgSvm R.svmSyndrome (if vt then syn % 128 else syn)).wr
    pgSvm R.svmErrUncorr 1).wr pgSvm R.svmErrInit t.init
  let (inc, s) := s.logI inc { event := 0x10, part := t.part, init := t.init, page := pgSvm, addr := a,
                               d0 := if vt then syn % 128 else syn }
  (inc, eccDoubt s t inc)

/-- Poisoned lines of controller i (R393). -/
def poisonOf (s : State) (i : Nat) : Nat := (s.poisoned.filter fun x => lpcOf x.1 == i).length

/-- An error on an external read that ended well after correction or re-read (R392): counted, logged and noticed. -/
def extTransient (s : State) (t : Tag) (a : Nat) (inc : Nat := 0) : State :=
  let p := pgLpc (lpcOf a)
  let s := (s.bump p R.rereadOkCnt).wr p R.lpcLastErr a
  let s := s.log { event := 0x11, level := 0, cls := 1, part := t.part, init := t.init, page := p, addr := a } inc
  s.noticeOn t.part

/-- A corrected first read of external memory (R377, R392). -/
def extCorr (s : State) (t : Tag) (a : Nat) : State :=
  let p := pgLpc (lpcOf a)
  (((s.bump p R.lpcCorrCnt).raise p eEccCorr).wr p R.lpcLastErr a).noticeOn t.part

/-- A re-read that found the line uncorrectable: it enters the poisoned-line list, or a 17th line fences the
controller (R392, R393). -/
def extPoison (s : State) (t : Tag) (a : Nat) (inc : Nat := 0) : Nat × State :=
  let i := lpcOf a
  let p := pgLpc i
  let line := a / 64 * 64
  let s := ((s.bump p R.lpcUncorrCnt).raise p eEccUncorr).wr p R.lpcLastErr a
  let (inc, s) := s.logI inc { event := 0x11, level := 0, cls := 2, part := t.part, init := t.init, page := p, addr := a }
  let s := eccDoubt s t inc
  (inc,
    if (sfind s.poisoned line).isSome then s
    else if poisonOf s i < 16 then
      let s := { s with poisoned := sput s.poisoned line {} }
      s.wr p R.poisonUsed (poisonOf s i)
    else
      let s := (s.raise p 9).log { event := 0x12, level := 0, cls := 2, part := t.part, init := t.init, page := p, addr := a } inc
      fencePage s p inc)

/-- A read of a listed line (R393). -/
def extListed (s : State) (t : Tag) (a : Nat) (q : Poison) (inc : Nat := 0) : Nat × State :=
  let p := pgLpc (lpcOf a)
  let line := a / 64 * 64
  let s := ((s.bump p R.lpcUncorrCnt).raise p eEccUncorr).wr p R.lpcLastErr a
  let recent := match q.logged with | some t0 => decide (s.time < t0 + msTicks 10) | none => false
  if recent then
    (inc, eccDoubt { s with poisoned := sput s.poisoned line { q with suppressed := q.suppressed + 1 } } t inc)
  else
    let (inc, s) := s.logI inc { event := 0x10, level := 0, cls := 2, part := t.part, init := t.init, page := p, addr := a,
                                 count := q.suppressed }
    (inc, eccDoubt { s with poisoned := sput s.poisoned line { logged := some s.time, suppressed := 0 } } t inc)

/-- The bytes a fabric read of the verdict table returns: each entry's word with its COND (R447). -/
def vtBytes (s : State) (a n : Nat) : List Byte :=
  (List.range n).map fun i =>
    let id := (a + i - vtBase) / 4
    BitVec.ofNat 8 (entryWord (s.entry id) (condId s id) / 256 ^ ((a + i) % 4))

/-- The addresses of the 8-byte ECC words a range touches. -/
def eccWords (a n : Nat) : List Nat := (List.range (cdiv (a % 8 + n) 8)).map fun i => a / 8 * 8 + 8 * i

/-- The tracking IDs a range of the verdict table touches. -/
def vtIds (a n : Nat) : List Nat := (List.range (cdiv (a % 4 + n) 4)).map fun i => (a - vtBase) / 4 + i

/-- The first poisoned line a range touches. -/
def firstPoison (s : State) (a n : Nat) : Option (Nat × Poison) :=
  ((List.range (cdiv (a % 64 + n) 64)).map fun i => a / 64 * 64 + 64 * i).findSome? fun l =>
    (sfind s.poisoned l).map fun q => (l, q)

/-- What host memory returns: the bytes the command brings, and else what the device last wrote there. -/
def hostBytes (s : State) (host : Cells) (a n : Nat) : List Byte :=
  (List.range n).map fun i => match host.find? fun c => c.1 == a + i with
    | some c => BitVec.ofNat 8 c.2
    | none => s.byte (a + i)

/-- A passed read at its target (R377, R392, R393, R447); `host` is what host memory returns. -/
def serveRead (s : State) (t : Tag) (a n : Nat) (e : Ecc) (host : Cells) (inc : Nat := 0) : FabResp × State :=
  match targetOf a with
  | .svm =>
    if e = .uncorr ∨ (eccWords a n).any s.eccBad.contains then
      let (i, s) := svmUncorr s t a false inc
      (.uncorr i, if (eccWords a n).any s.eccBad.contains then s else { s with eccBad := a / 8 * 8 :: s.eccBad })
    else (.ok (s.bytes a n), if e = .ok then s else svmCorr s t a false)
  | .vt =>
    if e = .uncorr ∨ (vtIds a n).any (fun id => (s.entry id).poisoned) then
      let id := (a - vtBase) / 4
      let (i, s) := svmUncorr s t a true inc
      (.uncorr i, if (vtIds a n).any (fun id => (s.entry id).poisoned) then s
                  else s.putEntry id { s.entry id with poisoned := true })
    else (.ok (vtBytes s a n), if e = .ok then s else svmCorr s t a true)
  | .ext =>
    match firstPoison s a n with
    | some (l, q) => let (i, s) := extListed s t l q inc; (.uncorr i, s)
    | none =>
      match e with
      | .ok => (.ok (s.bytes a n), s)
      | .corr => (.ok (s.bytes a n), extCorr s t a)
      | .rereadOk => (.ok (s.bytes a n), extTransient s t a inc)
      | .rereadCorr => (.ok (s.bytes a n), extTransient s t a inc)
      | .uncorr => let (i, s) := extPoison s t a inc; (.uncorr i, s)
  | .pcie => (.ok (hostBytes s host a n), s)
  | .none => (.denied inc, s)

/-- Bytes of a write that a read-modify-write with an uncorrectable word leaves out (R378). -/
def rmwKeep (s : State) (a : Nat) (bs : List Byte) (i : Nat) : Bool :=
  let w := (a + i) / 8 * 8
  !(s.eccBad.contains w && !(decide (a ≤ w) && decide (w + 8 ≤ a + bs.length)))

/-- Store the bytes that survive the read-modify-write; fully written words are good again (R377, R378). -/
def svmStore (s : State) (a : Nat) (bs : List Byte) : State :=
  let m := (List.range bs.length).foldl (fun m i =>
    if rmwKeep s a bs i then memPut m (a + i) ((bs[i]?).getD 0) else m) s.mem
  { s with mem := m,
           eccBad := s.eccBad.filter fun w => !(decide (a ≤ w) && decide (w + 8 ≤ a + bs.length)) }

/-- The staging word of entry id after the bytes of a write have been merged into the stored word (R378, R443). -/
def vtMerged (s : State) (a : Nat) (bs : List Byte) (id : Nat) : Nat :=
  let old := leBytes 4 (entryWord (s.entry id) 0)
  fromLe ((List.range 4).map fun j =>
    let x := vtBase + 4 * id + j
    if a ≤ x ∧ x < a + bs.length then (bs[x - a]?).getD 0 else (old[j]?).getD 0)

/-- ECC words of `unit` bytes that a write of n bytes at a covers only in part, and so reads (R378). -/
def partWords (unit a n : Nat) : List Nat :=
  ((List.range (cdiv (a % unit + n) unit)).map fun i => a / unit * unit + unit * i).filter fun w =>
    !(decide (a ≤ w) && decide (w + unit ≤ a + n))

/-- What the read part of a read-modify-write in Shared Vision Memory finds (R377, R378): a corrected word, or one that is
uncorrectable from now on. -/
def svmReadPart (s : State) (t : Tag) (a n : Nat) (e : Ecc) : State :=
  match (partWords 8 a n).find? fun w => !s.eccBad.contains w with
  | none => s
  | some w => if e = .ok then s else if e = .uncorr then { s with eccBad := w :: s.eccBad } else svmCorr s t w false

/-- The same in the verdict table. -/
def vtReadPart (s : State) (t : Tag) (a n : Nat) (e : Ecc) : State :=
  match (partWords 4 a n).find? fun w => !(s.entry ((w - vtBase) / 4)).poisoned with
  | none => s
  | some w =>
    let id := (w - vtBase) / 4
    if e = .ok then s else if e = .uncorr then s.putEntry id { s.entry id with poisoned := true } else svmCorr s t w true

/-- A write to one external line (R378, R391 to R393): a full line is written and leaves the list; part of a line is read
first, and not written where that read fails. -/
def extLine (s : State) (t : Tag) (a : Nat) (bs : List Byte) (e : Ecc) (inc : Nat) : FabResp × State :=
  let line := a / 64 * 64
  if a % 64 = 0 ∧ bs.length = 64 then
    let s := { (s.store a bs) with poisoned := serase s.poisoned line }
    (.ok [], s.wr (pgLpc (lpcOf a)) R.poisonUsed (poisonOf s (lpcOf a)))
  else match sfind s.poisoned line, e with
    | some q, _ => let (i, s) := extListed s t a q inc; (.uncorr i, s)
    | none, .uncorr => let (i, s) := extPoison s t a inc; (.uncorr i, s)
    | none, .corr => (.ok [], (extCorr s t a).store a bs)
    | none, .rereadOk => (.ok [], (extTransient s t a inc).store a bs)
    | none, .rereadCorr => (.ok [], (extTransient s t a inc).store a bs)
    | none, .ok => (.ok [], s.store a bs)

/-- The pieces of a range that lie in one 64-byte line each, so none crosses a 4 KiB boundary (R352). -/
def linePieces (a n : Nat) : List (Nat × Nat) :=
  (List.range (cdiv (a % 64 + n) 64)).map fun i =>
    let lo := max a (a / 64 * 64 + 64 * i)
    let hi := min (a + n) (a / 64 * 64 + 64 * i + 64)
    (lo, hi - lo)

/-- A write to external memory, line by line: every line is written that can be, and the answer is the last failure. -/
def extWrite (s : State) (t : Tag) (a : Nat) (bs : List Byte) (e : Ecc) (inc : Nat) : FabResp × State :=
  ((linePieces a bs.length).zipIdx).foldl (fun (r, s) (x, i) =>
    match extLine s t x.1 ((bs.drop (x.1 - a)).take x.2) (if i = 0 then e else .ok) inc with
    | (.ok _, s) => (r, s)
    | (v, s) => (v, s)) (.ok [], s)

/-- A passed write at its target (R378, R391 to R393, R443); `e` is what the read part of a read-modify-write finds. -/
def serveWrite (s : State) (t : Tag) (a : Nat) (bs : List Byte) (e : Ecc := .ok) (inc : Nat := 0) : FabResp × State :=
  match targetOf a with
  | .svm =>
    let s := svmReadPart s t a bs.length e
    let bad := (List.range bs.length).any fun i => !rmwKeep s a bs i
    let s' := svmStore s a bs
    if bad then let (i, s') := svmUncorr s' t a false inc; (.uncorr i, s') else (.ok [], s')
  | .vt =>
    let s := vtReadPart s t a bs.length e
    let ids := vtIds a bs.length
    let s' := (ids.filter fun id => !(s.entry id).poisoned).foldl (fun s id => stage s t id (vtMerged s a bs id)) s
    match ids.find? fun id => (s.entry id).poisoned with
    | some id => let (i, s') := svmUncorr s' t (vtBase + 4 * id) true inc; (.uncorr i, s')
    | none => (.ok [], s')
  | .ext => extWrite s t a bs e inc
  | .pcie => (.ok [], s.store a bs)
  | .none => (.denied inc, s)

/-- A read that reaches its firewall: judged, then served (R357 to R359). -/
def fabRead (s : State) (t : Tag) (a n : Nat) (e : Ecc) (host : Cells) (clash : Bool := false) (inc : Nat := 0) :
    FabResp × State :=
  match passes s t opRead a n clash inc with
  | (true, _, s) => serveRead s t a n e host inc
  | (false, i, s) => (.denied i, s)

/-- A write that reaches its firewall: judged, then served.  One of the debug port sets DEBUG_TOUCHED (R357, R555). -/
def fabWrite (s : State) (t : Tag) (a : Nat) (bs : List Byte) (e : Ecc := .ok) (clash : Bool := false) (inc : Nat := 0) :
    FabResp × State :=
  match passes (if t.init = 0xE8 then debugTouch s else s) t opWrite a bs.length clash inc with
  | (true, _, s) => serveWrite s t a bs e inc
  | (false, i, s) => (.denied i, s)

/-! ### Initiator ports (R365 to R369) -/

def txnKey (init tid : Nat) : Nat := 64 * init + tid
def State.txn (s : State) (init tid : Nat) : Txn := sget {} s.txns (txnKey init tid)
def State.putTxn (s : State) (init tid : Nat) (t : Txn) : State := { s with txns := sset {} s.txns (txnKey init tid) t }

/-- REMOTE transactions: from a function, or to FW3's target (R363). -/
def isRemote (i a : Nat) : Bool := decide (i < 8) || targetOf a == .pcie

/-- The timeout of a transaction in ticks (R365, R366). -/
def txnLimit (s : State) (part a : Nat) : Nat :=
  if targetOf a = .pcie then usTicks (s.rd pgFab R.remoteTo part) else 400

/-- A slot is held while the next epoch is still outstanding (R368). -/
def slotHeld (t : Txn) : Bool := t.old.contains ((t.epoch + 1) % 16)

/-- The lowest slot of a port that a transaction may take (R365, R368). -/
def freeTid (s : State) (init : Nat) : Option Nat :=
  (List.range 64).find? fun i => !(s.txn init i).busy && !slotHeld (s.txn init i)

/-- Slots of a port that are neither held nor taken (R365, R368). -/
def openSlots (s : State) (init : Nat) : Nat :=
  ((List.range 64).filter fun i => !(s.txn init i).busy && !slotHeld (s.txn init i)).length

/-- The incident a transaction carries: its operation's, or that of a link event in progress (R528). -/
def txnInc (s : State) (init a inc : Nat) : Nat := if inc = 0 ∧ isRemote init a then s.linkInc else inc

/-- A port all of whose slots are held issues nothing, which is a lasting fault of the initiator (R368). -/
def portHeld (s : State) (init inc : Nat) : State :=
  if (List.range 64).all fun i => slotHeld (s.txn init i) then
    match pageOfInit init with
    | some p => fencePage s p inc
    | none => s
  else s

/-- The timer of the transaction x in a slot expires (R367 to R369, R404): it is abandoned, its epoch stays outstanding, and
the slot may be held.  The Nat is the incident. -/
def expire (s : State) (init tid : Nat) (x : Txn) : Nat × State :=
  let (inc, s) := s.logI x.inc { event := 0x02, level := 1, part := x.part, init := init, page := pgFab, addr := x.addr,
                                 d0 := tid, d1 := x.epoch }
  let s := s.bump pgFab R.timeoutCnt
  let s := if targetOf x.addr = .pcie then
      let s := (s.bump pgPci R.cplToCnt 1 x.part).raise pgPci 9
      { s with fns := sset {} s.fns x.part { sget {} s.fns x.part with aerCplTo := true } }
    else s
  let y : Txn := { epoch := (x.epoch + 1) % 16, old := x.old ++ [x.epoch], part := x.part, inc := inc }
  let s := s.putTxn init tid y
  (inc, if slotHeld y then portHeld (s.raise pgFab 11) init inc else s)

/-- The finding a response carries. -/
def respEcc : Resp → Ecc
  | .ok => .ok | .corr => .corr | .uncorr => .uncorr | .rereadOk => .rereadOk | .rereadCorr => .rereadCorr
  | .timeout => .ok
  | .clash => .ok

/-- The response that carries a finding. -/
def ofEcc : Ecc → Resp
  | .ok => .ok | .corr => .corr | .uncorr => .uncorr | .rereadOk => .rereadOk | .rereadCorr => .rereadCorr

/-- The transaction that a unit's access puts into a slot of its port. -/
def unitTxn (s : State) (t : Tag) (tid a inc : Nat) : Txn :=
  { s.txn t.init tid with busy := true, addr := a, part := t.part, remote := isRemote t.init a, issued := s.time,
                          limit := txnLimit s t.part a, inc := txnInc s t.init a inc }

/-- One attempt of a read at the unit's port, which may also expire there (R365, R367).  A port without a free slot issues
nothing, which its unit sees as an expiry. -/
def tryRead (s : State) (t : Tag) (a n : Nat) (r : Resp) (host : Cells) (inc : Nat := 0) : FabResp × State :=
  match freeTid s t.init with
  | none => (.timeout inc, s)
  | some tid =>
    if r = .timeout then
      match passes s t opRead a n false inc with
      | (true, _, s) => let (i, s) := expire s t.init tid (unitTxn s t tid a inc); (.timeout i, s)
      | (false, i, s) => (.denied i, s)
    else fabRead s t a n (respEcc r) host (r = .clash) (txnInc s t.init a inc)

/-- One attempt of a write at the unit's port.  An expired write may still have been applied, and is (R367); a posted write
to the host awaits no response (R365). -/
def tryWrite (s : State) (t : Tag) (a : Nat) (bs : List Byte) (r : Resp) (inc : Nat := 0) : FabResp × State :=
  match freeTid s t.init with
  | none => (.timeout inc, s)
  | some tid =>
    match fabWrite s t a bs (respEcc r) (r = .clash) (txnInc s t.init a inc) with
    | (.denied i, s) => (.denied i, s)
    | (v, s') =>
      if r = .timeout ∧ targetOf a ≠ .pcie then
        let (i, s') := expire s' t.init tid (unitTxn s t tid a inc)
        (.timeout i, s')
      else (v, s')

/-- Count one read transaction and its line on the issuing page (R46). -/
def perfRd (s : State) (page : Nat) (ok : Bool) : State :=
  let s := s.perf page 0x06
  if ok then s.perf page 0x08 else s

/-- Count one write transaction and its line on the issuing page (R46). -/
def perfWr (s : State) (page : Nat) : State := (s.perf page 0x07).perf page 0x09

/-- The record of a second attempt (R523, R534). -/
def retryRec (s : State) (t : Tag) (page tag a cls inc : Nat) : State :=
  s.log { event := 0x18, level := 2, cls := cls, part := t.part, init := t.init, page := page, tag := tag, addr := a } inc

def FabResp.isOk : FabResp → Bool
  | .ok _ => true
  | _ => false

/-- The incident of an operation after an answer. -/
def FabResp.inc : FabResp → Nat → Nat
  | .ok _, i => i
  | .denied i, _ => i
  | .uncorr i, _ => i
  | .timeout i, _ => i

/-- A read with the one reissue of R523: a denial is final, any other failure is tried once more, and the second
attempt is recorded in the same incident (RETRY, XFER_RETRY). The Bool says that the first attempt failed. -/
def readTwice (s : State) (t : Tag) (page tag a n : Nat) (r1 r2 : Resp) (host : Cells) (inc : Nat) :
    FabResp × Bool × State :=
  match tryRead s t a n r1 host inc with
  | (.ok bs, s) => (.ok bs, false, perfRd s page true)
  | (.denied i, s) => (.denied i, false, perfRd s page false)
  | (v, s) =>
    let inc := v.inc inc
    match tryRead ((perfRd s page false).perf page 0x0C) t a n r2 host inc with
    | (.ok bs, s) => (.ok bs, true, retryRec (perfRd s page true) t page tag a 1 inc)
    | (x, s) => (x, true, retryRec (perfRd s page false) t page tag a 2 inc)

/-- A write with the one reissue of R523. -/
def writeTwice (s : State) (t : Tag) (page tag a : Nat) (bs : List Byte) (r1 r2 : Resp) (inc : Nat) :
    FabResp × Bool × State :=
  match tryWrite s t a bs r1 inc with
  | (.ok x, s) => (.ok x, false, perfWr s page)
  | (.denied i, s) => (.denied i, false, perfWr s page)
  | (v, s) =>
    let inc := v.inc inc
    match tryWrite ((perfWr s page).perf page 0x0C) t a bs r2 inc with
    | (.ok x, s) => (.ok x, true, retryRec (perfWr s page) t page tag a 1 inc)
    | (x, s) => (x, true, retryRec (perfWr s page) t page tag a 2 inc)

def cleanHit : Hit := ⟨0, .ok, .ok⟩

/-- What remains of a command's trouble after n of its transactions. -/
def hitAfter (h : Hit) (n : Nat) : Hit := if n ≤ h.idx then { h with idx := h.idx - n } else cleanHit

/-- The reads of a transfer in order, up to the first that fails for good. -/
def readPieces (t : Tag) (page tag : Nat) (h : Hit) (host : Cells) (inc : Nat) :
    List (Nat × Nat) → Nat → List Byte → Bool → State → FabResp × Bool × State
  | [], _, acc, ret, s => (.ok acc, ret, s)
  | (a, n) :: rest, i, acc, ret, s =>
    match readTwice s t page tag a n (if i = h.idx then h.r1 else .ok) (if i = h.idx then h.r2 else .ok)
        host inc with
    | (.ok bs, r, s) => readPieces t page tag h host inc rest (i + 1) (acc ++ bs) (ret || r) s
    | (x, r, s) => (x, ret || r, s)

/-- Read n bytes from a, each line with the one reissue of R523. -/
def readAll (s : State) (t : Tag) (page tag a n : Nat) (h : Hit) (host : Cells) (inc : Nat) :
    FabResp × Bool × State :=
  readPieces t page tag h host inc (linePieces a n) 0 [] false s

/-- The writes of a transfer in order, up to the first that fails for good. The Nat counts the writes that landed. -/
def writePieces (t : Tag) (page tag : Nat) (h : Hit) (a0 : Nat) (bs : List Byte) (inc : Nat) :
    List (Nat × Nat) → Nat → Bool → State → FabResp × Bool × Nat × State
  | [], i, ret, s => (.ok [], ret, i, s)
  | (a, n) :: rest, i, ret, s =>
    match writeTwice s t page tag a ((bs.drop (a - a0)).take n) (if i = h.idx then h.r1 else .ok)
        (if i = h.idx then h.r2 else .ok) inc with
    | (.ok _, r, s) => writePieces t page tag h a0 bs inc rest (i + 1) (ret || r) s
    | (x, r, s) => (x, ret || r, i, s)

/-- Write bytes at a, each line with the one reissue of R523. -/
def writeAll (s : State) (t : Tag) (page tag a : Nat) (bs : List Byte) (h : Hit) (inc : Nat) :
    FabResp × Bool × Nat × State :=
  writePieces t page tag h a bs inc (linePieces a bs.length) 0 false s

def noSpot : Spot := ⟨0, .ok⟩

/-- How the transaction at a comes back. -/
def respAt (x : Spot) (a : Nat) : Resp := if x.addr / 64 = a / 64 then x.r else .ok

/-- Writes of a receiver or a pipe, which no unit reissues: every line is issued, and the Bool says that one of them
was denied or failed (R358). -/
def writeOnce (s : State) (t : Tag) (page a : Nat) (bs : List Byte) (x : Spot := noSpot) : Bool × State :=
  (linePieces a bs.length).foldl (fun (bad, s) (y, n) =>
    match tryWrite s t y ((bs.drop (y - a)).take n) (respAt x y) with
    | (.ok _, s) => (bad, perfWr s page)
    | (_, s) => (true, perfWr s page)) (false, s)

/-- n bytes the spec leaves open. -/
def State.freeBytes (s : State) (n : Nat) : List Byte × State :=
  ((List.range n).map fun i => (Config.freeWord (s.freeCtr + i)).setWidth 8, { s with freeCtr := s.freeCtr + n })

/-- Reads of a pipe, which no unit reissues: the bytes, open values where a line was denied or failed, and whether one
was. -/
def readOnce (s : State) (t : Tag) (page a n : Nat) (x : Spot := noSpot) : List Byte × Bool × State :=
  (linePieces a n).foldl (fun (acc, bad, s) (y, m) =>
    match tryRead s t y m (respAt x y) [] with
    | (.ok bs, s) => (acc ++ bs, bad, perfRd s page true)
    | (_, s) =>
      let (bs, s) := s.freeBytes m
      (acc ++ bs, true, perfRd s page false)) ([], false, s)

end Sys2Proof.Machine
end

