-- ==== Sys2Proof/Machine/Access.lean ====
section
/-! DEFINITION. Who may reach a register page (R47 to R49, R483, R639), and the frame in which every command that is a
register write of its own runs. -/
namespace Sys2Proof.Machine
open Sys2Proof

/-- A register or doorbell access reaches the device: the device is not in reset, and Memory Space Enable of the
function is set (R409). -/
def busOk (s : State) (i : Ini) : Bool :=
  decide (s.rst.ph < 3) && match i with
    | .fn n => (sget {} s.fns n).memEn
    | _ => true

/-- An initiator that stands for a partition: a function or a control core. -/
def isPart : Ini → Bool
  | .fn _ => true
  | .core _ => true
  | _ => false

/-- The initiator acts for partition 0, or is one R639 leaves alone. -/
def p0Ok (s : State) (i : Ini) : Bool := !isPart i || iniPart s i == 0

/-- Offsets the safety island may write (R47, R356, R375). -/
def islandMay (p off : Nat) : Bool :=
  off == 0x00C || off == 0x020 || off == 0x024 ||
  ((pageKind p == some .ch || pageKind p == some .pq) && off == 0x080) ||
  (p == pgFab && (off == 0x080 || off == 0x094))

/-- Registers whose fields are all reserved for partition 0, whichever partition owns their page (R375, R495, R508, R525,
R548, R560, R639). -/
def p0Register (p off : Nat) : Bool :=
  (p == pgFab && (off == 0x094 || off == 0x0A4)) || (p == pgChk && off == 0x080) || (p == pgErl && off == 0x0A0) ||
  (p == pgSaf && off == 0x084) || (p == pgFus && (off == 0x088 || within 0x0C0 0x0F0 off))

/-- Writes of R47, with the exceptions that R483, R543, R545 and R639 name. -/
def mayWrite (s : State) (i : Ini) (p off : Nat) : Bool :=
  match i with
  | .dap => true
  | .island => islandMay p off
  | .rotation => off == 0x020
  | _ =>
    let n := iniPart s i
    s.ownerOf p == n || (n == 0 && (off == 0x028 || p0Register p off)) ||
    (p == pgSaf && (off == 0x088 || off == 0x08C)) || (p == pgSec && decide (0x0E0 ≤ off) && decide (off < 0x0F8))

/-- Pages every function may read (R48, R381, R428, R483, R535, R561, R562, R589, R590, R610). -/
def everyoneReads (p : Nat) : Bool :=
  [pgSys, pgClk, pgPwr, pgRst, pgSec, pgDbg, pgSaf, pgErl, pgSvm, pgPci].contains p

/-- Reads of R47 and R48. -/
def mayRead (s : State) (i : Ini) (p : Nat) : Bool :=
  match i with
  | .dap => true
  | .island => true
  | .rotation => true
  | _ => s.ownerOf p == iniPart s i || iniPart s i == 0 || everyoneReads p

/-- A refused page access is logged as a firewall event of KIND 1 (R49, R360); a refused write of PART_CTRL or REG_PERM
sets PROG besides (R375). -/
def denyPage (s : State) (i : Ini) (p off op : Nat) : State :=
  let s := { denial s (tagIni s i) op 1 0 (p * 4096 + off) with reply := ⟨0, 3⟩ }
  if p = pgFab ∧ op = opWrite ∧ (off = 0x094 ∨ off = 0x0A4) then s.prog p else s

/-- A rung below NAP is left (R573, R574): source `src` is recorded and the exit begins; the power requests rise (R575).
A wake during entry turns the entry back instead. -/
def wakeUp (s : State) (src : Nat) : State :=
  let s := (s.wr pgPwr R.wakeCause (src + 1)).bump pgPwr R.wakeCnt
  if s.on pgPwr R.entering then { s with pw := { s.pw with back := true } }
  else { (s.wr pgPwr R.exiting 1).wr pgPwr R.preq 7 with pw := { s.pw with since := s.time } }

/-- The device is entering or in rung r, with no exit under way. -/
def asleepIn (s : State) (r : Nat) : Bool :=
  (if s.on pgPwr R.entering then s.pw.target == r && !s.pw.back else s.rd pgPwr R.rung == r && !s.on pgPwr R.exiting)

/-- A memory request from the host wakes the device from DOZE (R573, R580). -/
def hostWake (s : State) : Ini → State
  | .fn _ => if asleepIn s 3 ∧ bitOf (s.rd pgPwr R.wakeEn) 1 then wakeUp s 1 else s
  | _ => s

/-- The frame of a register write: the bus, the page, the permission of R47, and DEBUG_TOUCHED for the debug port
(R555).  `k` is the write's own effect. -/
def regRow (s : State) (i : Ini) (p off : Nat) (k : State → State) : State :=
  if busOk s i = false then { s with reply := ⟨0, 2⟩ }
  else
  let s := hostWake s i
  if pageKind p = none then { s with reply := ⟨0, 0⟩ }
  else if mayWrite s i p off = false then denyPage s i p off opWrite
  else k { (if i = .dap then debugTouch s else s) with reply := ⟨0, 0⟩ }

/-- The frame of a register write that partition 0 alone may make (R639). -/
def regRow0 (s : State) (i : Ini) (p off : Nat) (k : State → State) : State :=
  regRow s i p off fun s => if p0Ok s i then k s else s.prog p

/-- An RWL field takes a write only while LOCK is clear (R8, R50). -/
def unlocked (s : State) (p : Nat) : Bool := s.rd p R.lock == 0

/-- The frame of a read that has a command of its own (R47, R49): `k` answers the value and its effect. -/
def readRow (s : State) (i : Ini) (p off : Nat) (k : State → Nat × State) : State :=
  if busOk s i = false then { s with reply := ⟨0, 2⟩ }
  else
  let s := hostWake s i
  if pageKind p = none then { s with reply := ⟨0, 0⟩ }
  else if mayRead s i p = false then
    (if off = 0 then { s with reply := ⟨0, 0⟩ } else denyPage s i p off opRead)
  else
    let r := k s
    { r.2 with reply := ⟨r.1, 0⟩ }

/-- The frame of a read that pops or clears (RC): through the debug port it sets DEBUG_TOUCHED (R555). -/
def popRow (s : State) (i : Ini) (p off : Nat) (k : State → Nat × State) : State :=
  readRow s i p off fun s => k (if i = .dap then debugTouch s else s)

/-- The frame of a BAR4 doorbell (R29, R30, R372): the target must be owned by the function's partition, which is not
FREE or TEARING. -/
def doorbell (s : State) (n owner bar4 : Nat) (k : State → State) : State :=
  if busOk s (.fn n) = false then { s with reply := ⟨0, 2⟩ }
  else
  let s := hostWake s (.fn n)
  if owner ≠ n ∨ s.rd pgFab R.partState n ≠ 1 then
    { denial s (tagIni s (.fn n)) opWrite 0 0 bar4 with reply := ⟨0, 3⟩ }
  else k { s with reply := ⟨0, 0⟩ }

/-- The answer of every meaning: a next state. -/
abbrev Result := Host.Outcome State Fault Refusal

end Sys2Proof.Machine
end

