-- ==== Sys2Proof/Machine/GraphOps.lean ====
section
/-! DEFINITION. The graph table, starting instances from requests and stream frames (R260 to R262), and the execution
keys other units carry. -/
namespace Sys2Proof.Machine
open Sys2Proof

def gEmpty : Nat := 0
def gLoading : Nat := 1
def gReady : Nat := 2
def gBad : Nat := 3

def State.graph (s : State) (g : Nat) : Graph := sget {} s.graphs g

def State.putGraph (s : State) (g : Nat) (x : Graph) : State := { s with graphs := sset {} s.graphs g x }

/-- The key under which a unit names the execution of node n of instance i of graph g. -/
def execKey (g i n : Nat) : Nat := (g * 2 ^ 32 + i % 2 ^ 32) * 1024 + n % 1024

def keyGraph (k : Nat) : Nat := k / 1024 / 2 ^ 32
def keyInst (k : Nat) : Nat := k / 1024 % 2 ^ 32
def keyNode (k : Nat) : Nat := k % 1024

/-- The instance with number i. -/
def Graph.inst (x : Graph) (i : Nat) : Option Inst := x.insts.find? fun a => a.num == i

def Graph.setInst (x : Graph) (a : Inst) : Graph :=
  { x with insts := x.insts.map fun b => if b.num = a.num then a else b }

def Inst.exec (a : Inst) (n : Nat) : Exec := sget {} a.execs n

def Inst.setExec (a : Inst) (n : Nat) (e : Exec) : Inst := { a with execs := sset {} a.execs n e }

/-- The execution a key names. -/
def execOf (s : State) (key : Nat) : Option Exec :=
  ((s.graph (keyGraph key)).inst (keyInst key)).map fun a => a.exec (keyNode key)

/-- Change the execution a key names. -/
def modExec (s : State) (key : Nat) (f : Exec → Exec) : State :=
  let x := s.graph (keyGraph key)
  match x.inst (keyInst key) with
  | some a => s.putGraph (keyGraph key) (x.setInst (a.setExec (keyNode key) (f (a.exec (keyNode key)))))
  | none => s

/-- A unit reports that a running execution has finished with a status: NODE_END follows (R266). -/
def finishExec (s : State) (key status : Nat) : State :=
  modExec s key fun e => if e.st = 1 then { e with st := 3, status := e.force.getD status } else e

/-- Start the next instance of an entry (R260 to R262). -/
def startInst (s : State) (g frame : Nat) : State :=
  let x := s.graph g
  let k := (if x.stream.isSome then frame else x.nextInst) % x.ringN
  let a : Inst := { num := x.nextInst, k := k, frame := frame }
  (s.putGraph g { x with started := (x.started + 1) % 65536, nextInst := (x.nextInst + 1) % 2 ^ 32, insts := x.insts ++ [a] }).settle
    pgFgs true

/-- START_DROP of a frame (R261); `flag` when the frame is the owner's own. -/
def startDrop (s : State) (g frame : Nat) (flag : Bool) : Nat × State :=
  let s := s.bump pgFgs R.startDropCnt
  let s := if flag then s.raise pgFgs 11 else s
  s.logI 0 { event := 0x22, level := 3, part := (s.graph g).owner, page := pgFgs, d0 := g, d1 := frame }

/-- A written frame of stream k reaches one graph that its frames start (R261); those of a departing partition are
not started (R373). -/
def streamFrameTo (s : State) (k frame enc g : Nat) : State :=
  let x := s.graph g
  if x.st ≠ gReady ∨ x.stream ≠ some k ∨ s.rd pgFab R.partState x.owner ≠ 1 then s
  else if s.ownerOf (pgCtx k) ≠ x.owner then (startDrop s g frame false).2
  else if x.insts.length < x.instMax then startInst s g frame
  else
    let (inc, s) := startDrop s g frame true
    s.doubt (.frame k enc enc) inc

/-- A written frame of stream k starts an instance of every graph that its frames start, or drops the start (R261). -/
def streamFrame (s : State) (k frame enc : Nat) : State :=
  if s.working pgFgs then (s.graphs.map (·.1)).foldl (fun s g => streamFrameTo s k frame enc g) s else s

end Sys2Proof.Machine
end

