-- ==== Sys2Proof/Machine/HostOps.lean ====
section
/-! DEFINITION. The completion queue of a queue pair: room, record writes, errors and messages (R414, R417 to R421, R425,
R426). -/
namespace Sys2Proof.Machine
open Sys2Proof

def State.qp (s : State) (n q : Nat) : HPair := sget {} s.qps (16 * n + q)
def State.putQp (s : State) (n q : Nat) (k : HPair) : State := { s with qps := sset {} s.qps (16 * n + q) k }

/-- States of a pair (R427). -/
def qpOff : Nat := 0
def qpActive : Nat := 1
def qpDeleting : Nat := 2
def qpError : Nat := 3

/-- The queue engine of function n issues through the function's port (R355). -/
def hqTag (n : Nat) : Tag := ⟨n, n, 2⟩

/-- USED: records written and not yet released (R414). -/
def cqUsed (s : State) (n q : Nat) : Nat :=
  ringUsed (s.rd (pgHq n) R.hqCqSize q) (s.rd (pgHq n) R.cqTail q) (s.rd (pgHq n) R.cqHead q)

/-- An instance or condition record finds room (R414). -/
def cqRoom (s : State) (n q : Nat) : Bool :=
  decide (cqUsed s n q + s.rd (pgHq n) R.qpInflight q < s.rd (pgHq n) R.hqCqSize q)

/-- A pair enters ERROR (R425). -/
def qpFail (s : State) (n q cause : Nat) : State :=
  let p := pgHq n
  let s := ((s.wr p R.qpState qpError q).wr p R.errCause cause q).raise p 9
  if s.on p R.hqIrqEn q then s.msix n (s.rd p R.hqVec q) else s

/-- Write a record into an ACTIVE pair's CQ: `w0` is word 0 less COND and PHASE.  A pair in any other state drops it
(R417 to R421, R425, R426). -/
def cqWrite (s : State) (n q w0 w4 w8 w12 : Nat) (hit : Hit) (inc : Nat := 0) : State :=
  let p := pgHq n
  if s.rd p R.qpState q ≠ qpActive then s.bump p R.lostRec 1 q
  else
    let tail := s.rd p R.cqTail q
    let was := cqUsed s n q
    let cond := condPair s n q
    let bs := leBytes 4 (w0 + cond + (1 - ixPh tail) * 2 ^ 15) ++ leBytes 4 w4 ++ leBytes 4 w8 ++ leBytes 4 w12
    match writeAll s (hqTag n) p 0 (s.rd p R.hqCqBase q + 16 * ixIdx tail) bs hit inc with
    | (.ok _, _, _, s) =>
      let s := (s.wr p R.cqTail (ringNext (s.rd p R.hqCqSize q) tail) q).wr p R.noticePend 0 q
      if was = 0 ∧ s.on p R.hqIrqEn q then s.msix n (s.rd p R.hqVec q) else s
    | (_, _, _, s) => qpFail (s.bump p R.lostRec 1 q) n q 2

end Sys2Proof.Machine
end

