-- ==== Sys2Proof/Machine/Cbg.lean ====
section
/-! DEFINITION. The counter-based generator CBG-128 with its keys, counters and units (R215 to R224), the test block
(R77) and the CRC-32 of signatures (R80). -/
namespace Sys2Proof.Machine
open Sys2Proof

/-- Four words: a key, a counter or an output block. -/
structure Quad where
  a : Word
  b : Word
  c : Word
  d : Word
deriving DecidableEq, Repr

def rotl (v : Word) (n : Nat) : Word := (v <<< n) ||| (v >>> (32 - n))

/-- One round (R215). -/
def qr (x : Quad) : Quad :=
  let x0 := x.a + x.b
  let x3 := rotl (x.d ^^^ x0) 16
  let x2 := x.c + x3
  let x1 := rotl (x.b ^^^ x2) 12
  let x0 := x0 + x1
  let x3 := rotl (x3 ^^^ x0) 8
  let x2 := x2 + x3
  let x1 := rotl (x1 ^^^ x2) 4
  ⟨x0, x1, x2, x3⟩

def Quad.word (k : Quad) (i : Nat) : Word :=
  match i % 4 with
  | 0 => k.a
  | 1 => k.b
  | 2 => k.c
  | _ => k.d

/-- The key addition with number j (R215). -/
def addKey (k x : Quad) (j : Nat) : Quad :=
  ⟨x.a + k.word j, x.b + k.word (1 + j), x.c + k.word (2 + j), x.d + k.word (3 + j) + BitVec.ofNat 32 j⟩

/-- The initial mix of the constants, the key and the counter. -/
def cbgInit (k n : Quad) : Quad :=
  ⟨0x51a3c6e9 + k.a + n.a, 0xb4d20f87 + k.b + n.b, 0x6e198a3d + k.c + n.c, 0xc8705b24 + k.d + n.d⟩

/-- CBG-128 (R215): six rounds, a key addition after every second one. -/
def cbg128 (k n : Quad) : Quad :=
  let x := addKey k (qr (qr (cbgInit k n))) 1
  let x := addKey k (qr (qr x)) 2
  addKey k (qr (qr x)) 3

/-- The rows of the generator that the known-answer test compares: after initialisation and after each round, with the
key addition that follows it (R217). -/
def cbgRows (k n : Quad) : List Quad :=
  let x0 := cbgInit k n
  let x1 := qr x0
  let x2 := addKey k (qr x1) 1
  let x3 := qr x2
  let x4 := addKey k (qr x3) 2
  let x5 := qr x4
  [x0, x1, x2, x3, x4, x5, addKey k (qr x5) 3]

/-- The test vector's table (R217). -/
def katTable : List Quad :=
  [⟨0x51A3C6EA, 0xB4D20F89, 0x6E198A40, 0xC8705B28⟩, ⟨0x7BF29B6D, 0x1B605C1D, 0xA4CAC13B, 0xA95568F6⟩,
   ⟨0x0188ED7E, 0x32F8F128, 0x391A7AE4, 0xF4D37BA0⟩, ⟨0xD123CD73, 0xF8FB2679, 0x032E5CAA, 0x250D2174⟩,
   ⟨0x90FB36C2, 0xF7CB52D3, 0x39A0F800, 0x63D9AC46⟩, ⟨0x83E35420, 0xB28E84E6, 0x903422C5, 0x30BF3FA6⟩,
   ⟨0xE149354F, 0xAD0F2DFD, 0x6007AE9C, 0xE933850D⟩]

/-- The known-answer test of one core: every row it computes of the test vector equals the table (R217). -/
def katPass : Bool := cbgRows ⟨1, 2, 3, 4⟩ ⟨0, 0, 0, 0⟩ == katTable

/-- The output block as a number (R216). -/
def Quad.num (x : Quad) : Nat :=
  x.a.toNat + 2 ^ 32 * x.b.toNat + 2 ^ 64 * x.c.toNat + 2 ^ 96 * x.d.toNat

/-- The seven fields of a draw (R219). -/
structure Draw where
  seed : Nat
  p : Nat
  q : Nat
  s : Nat
  u : Nat
  dom : Nat
deriving DecidableEq, Repr

/-- Block n of a stream (R219). -/
def Draw.block (d : Draw) (n : Nat) : Nat :=
  (cbg128 ⟨BitVec.ofNat 32 d.seed, BitVec.ofNat 32 (d.seed / 2 ^ 32), BitVec.ofNat 32 d.p, BitVec.ofNat 32 d.q⟩
    ⟨BitVec.ofNat 32 n, BitVec.ofNat 32 d.s, BitVec.ofNat 32 d.u, BitVec.ofNat 32 (d.dom % 16)⟩).num

/-- Unit n of a stream whose units are w bits wide (R221, R222, R224). -/
def Draw.unit (d : Draw) (w n : Nat) : Nat :=
  d.block (n / (128 / w)) / 2 ^ (w * (n % (128 / w))) % 2 ^ w

/-- Q of domains 0 to 2 (R220). -/
def arrQ (layer fork array : Nat) : Nat := layer % 65536 + fork % 256 * 65536 + array % 4 * 2 ^ 24

def domRow : Nat := 0
def domCol : Nat := 1
def domSel : Nat := 2
def domLround : Nat := 3
def domDropout : Nat := 4
def domSample : Nat := 5
def domTest : Nat := 6
def domSelftest : Nat := 7

/-- The stream of test block b (R77, R220). -/
def testDraw (seed b : Nat) : Draw := ⟨seed, 0, 0, b, 0, domTest⟩

/-- Bits per pixel of a data type (R59, R77). -/
def dtBits (dt : Nat) : Nat :=
  if dt = 0x2A then 8 else if dt = 0x2B then 10 else if dt = 0x2C then 12 else if dt = 0x2D then 14
  else if dt = 0x2E then 16 else 0

/-- Pixel p of test block b (R77). -/
def testPixel (seed b dt p : Nat) : Nat :=
  (testDraw seed b).block (p / 8) / 2 ^ (16 * (p % 8)) % 2 ^ 16 % 2 ^ dtBits dt

/-- The first n bytes of the test area (R64, R77). -/
def testArea (seed b dt n : Nat) : List Byte :=
  (List.range n).map fun i => BitVec.ofNat 8 (testPixel seed b dt (i / 2) / 256 ^ (i % 2))

/-- One bit of the CRC-32. -/
def crcBit (c : Word) : Word := if c.toNat % 2 = 1 then (c >>> 1) ^^^ 0xEDB88320 else c >>> 1

def crcByte (c : Word) (b : Byte) : Word :=
  crcBit (crcBit (crcBit (crcBit (crcBit (crcBit (crcBit (crcBit (c ^^^ b.setWidth 32))))))))

/-- The CRC-32 of IEEE 802.3 (R80). -/
def crc32 (bs : List Byte) : Nat := ((bs.foldl crcByte 0xFFFFFFFF) ^^^ 0xFFFFFFFF).toNat

end Sys2Proof.Machine
end

