-- ==== Sys2Proof/Machine/IspPix.lean ====
section
/-! DEFINITION. The pixel arithmetic of the ISP pipeline, stage by stage (R96 to R109), and the packing of outputs. -/
namespace Sys2Proof.Machine
open Sys2Proof

/-- An image of samples, row by row. -/
structure Img where
  w : Nat
  h : Nat
  px : Array Nat

def Img.get (m : Img) (x y : Nat) : Nat := (m.px[y * m.w + x]?).getD 0

/-- The image with a given sample at each place. -/
def Img.of (w h : Nat) (f : Nat → Nat → Nat) : Img := ⟨w, h, Array.ofFn (n := w * h) fun i => f (i.val % w) (i.val / w)⟩

/-- clamp(x) of R96. -/
def clamp16 (x : Int) : Nat := if x < 0 then 0 else if 65535 < x then 65535 else x.toNat

/-- The context registers a frame uses: the working set for shadows (R118), read by field and instance. -/
abbrev Par := Fld → Nat → Nat

def Par.s16 (g : Par) (f : Fld) (i : Nat) : Int := sgn 16 (g f i)

/-- Type of cell k (R99). -/
def cfaType (g : Par) (k : Nat) : Nat :=
  if k < 8 then bitsOf (g R.cfaLo 0) (3 * k + 2) (3 * k) else bitsOf (g R.cfaHi 0) (3 * (k - 8) + 2) (3 * (k - 8))

/-- Cell index of a pixel (R97). -/
def cellOf (g : Par) (x y : Nat) : Nat := 4 * ((y + g R.offY 0) % 4) + (x + g R.offX 0) % 4

def typeAt (g : Par) (x y : Nat) : Nat := cfaType g (cellOf g x y)

/-- The coordinate x + d - 2 brought into an extent n with its CFA phase kept (R100). -/
def phaseRef (n x d : Nat) : Nat :=
  if x + d < 2 then x + d + 2 else if n ≤ x + d - 2 then x + d - 2 - 4 * cdiv (x + d - 2 - n + 1) 4 else x + d - 2

/-- Steps 1 and 2 (R97). -/
def stepBlack (g : Par) (n : Nat) (raw : Img) : Img :=
  Img.of raw.w raw.h fun x y =>
    let v := raw.get x y * 2 ^ (16 - n) % 65536
    let k := cellOf g x y
    clamp16 (((v - g R.black k) * g R.gain k + 2048) / 4096 : Nat)

/-- Offsets of a square window around a pixel. -/
def winOffs (lo hi : Nat) : List (Nat × Nat) :=
  (List.range (hi + 1 - lo)).flatMap fun j => (List.range (hi + 1 - lo)).map fun i => (lo + i, lo + j)

/-- The samples of one cell type in a window. -/
def winOf (g : Par) (m : Img) (ty x y : Nat) (offs : List (Nat × Nat)) : List Nat :=
  offs.filterMap fun (dx, dy) =>
    let x' := phaseRef m.w x dx
    let y' := phaseRef m.h y dy
    if typeAt g x' y' = ty then some (m.get x' y') else none

/-- Step 3: defect correction (R98). -/
def stepDefect (g : Par) (m : Img) : Img :=
  if g R.dpcEn 0 = 0 then m else
  Img.of m.w m.h fun x y =>
    let p := m.get x y
    let ns := winOf g m (typeAt g x y) x y ((winOffs 0 4).filter fun o => o != (2, 2))
    match ns with
    | [] => p
    | a :: rest =>
      let mx := rest.foldl max a
      let mn := rest.foldl min a
      if mx + g R.dpcThr 0 < p then mx else if p + g R.dpcThr 0 < mn then mn else p

/-- Rounded mean (R101). -/
def meanOf (l : List Nat) : Nat := (l.sum + l.length / 2) / l.length

/-- Step 4: one demosaiced channel (R101). -/
def demosaic (g : Par) (m : Img) (ty : Nat) : Img :=
  if (List.range 16).all fun k => cfaType g k != ty then Img.of m.w m.h fun _ _ => 0 else
  Img.of m.w m.h fun x y =>
    if typeAt g x y = ty then m.get x y else
    let a := winOf g m ty x y (winOffs 1 3)
    if a ≠ [] then meanOf a else meanOf (winOf g m ty x y (winOffs 0 4))

/-- Everything a frame's outputs are taken from (R96, R109). -/
structure Stages where
  raw : Img
  s2 : Img
  s3 : Img
  r : Img
  g : Img
  b : Img
  c : Img
  i : Img
  r1 : Img
  g1 : Img
  b1 : Img
  y16 : Img
  rl : Img
  gl : Img
  bl : Img
  tr : Img
  tg : Img
  tb : Img
  yy : Img
  cb : Img
  cr : Img

/-- A row of the IR matrix (R102). -/
def irRow (g : Par) (row : Nat) (r gr b i : Img) : Img :=
  Img.of r.w r.h fun x y =>
    clamp16 ((g.s16 R.irM (4 * row) * r.get x y + g.s16 R.irM (4 * row + 1) * gr.get x y +
      g.s16 R.irM (4 * row + 2) * b.get x y + g.s16 R.irM (4 * row + 3) * i.get x y + 2048) / 4096)

/-- A row of a 3 × 3 matrix with an offset (R104, R106).  DESIGN CHOICE (log 142): the offsets of R106 are read as unsigned
16-bit numbers. -/
def matRow (g : Par) (mf off : Fld) (signedOff : Bool) (row : Nat) (r gr b : Img) : Img :=
  Img.of r.w r.h fun x y =>
    clamp16 ((g.s16 mf (3 * row) * r.get x y + g.s16 mf (3 * row + 1) * gr.get x y +
      g.s16 mf (3 * row + 2) * b.get x y + 2048) / 4096 + (if signedOff then g.s16 off row else (g off row : Int)))

/-- Step 7 (R103). -/
def lumaOf (g : Par) (r gr b c i : Img) : Img :=
  Img.of r.w r.h fun x y =>
    clamp16 ((g.s16 R.kCoef 0 * r.get x y + g.s16 R.kCoef 1 * gr.get x y + g.s16 R.kCoef 2 * b.get x y +
      g.s16 R.kCoef 3 * c.get x y + g.s16 R.kCoef 4 * i.get x y + 2048) / 4096)

/-- Step 8: a tone table (R105). -/
def toneOf (t : Nat → Nat) (m : Img) : Img :=
  Img.of m.w m.h fun x y =>
    let v := m.get x y
    (t (v / 256) * (256 - v % 256) + t (v / 256 + 1) * (v % 256) + 128) / 256

/-- Every stage of an image of n-bit containers (R96).  `tone c e` is entry e of table c of the bank in use. -/
def stagesOf (g : Par) (tone : Nat → Nat → Nat) (n : Nat) (raw : Img) : Stages :=
  let s2 := stepBlack g n raw
  let s3 := stepDefect g s2
  let r := demosaic g s3 0
  let gr := demosaic g s3 1
  let b := demosaic g s3 2
  let c := demosaic g s3 3
  let i := demosaic g s3 4
  let r1 := irRow g 0 r gr b i
  let g1 := irRow g 1 r gr b i
  let b1 := irRow g 2 r gr b i
  let rl := matRow g R.colC R.cOff true 0 r1 g1 b1
  let gl := matRow g R.colC R.cOff true 1 r1 g1 b1
  let bl := matRow g R.colC R.cOff true 2 r1 g1 b1
  let tr := toneOf (tone 0) rl
  let tg := toneOf (tone 1) gl
  let tb := toneOf (tone 2) bl
  { raw, s2, s3, r, g := gr, b, c, i, r1, g1, b1, y16 := lumaOf g r1 g1 b1 c i, rl, gl, bl, tr, tg, tb,
    yy := matRow g R.yccM R.yccOff false 0 tr tg tb,
    cb := matRow g R.yccM R.yccOff false 1 tr tg tb,
    cr := matRow g R.yccM R.yccOff false 2 tr tg tb }

/-- The coefficients and samples of a sum of products of steps 5, 6, 7 and 9 (R102, R103, R104, R106), by step, row and
pixel. -/
def sumTerms (g : Par) (t : Stages) (step row x y : Nat) : List (Int × Int) :=
  let at' (f : Fld) (base : Nat) (l : List Img) : List (Int × Int) :=
    l.mapIdx fun j m => (g.s16 f (base + j), (m.get x y : Int))
  if t.raw.w ≤ x ∨ t.raw.h ≤ y then []
  else if step = 5 ∧ row < 3 then at' R.irM (4 * row) [t.r, t.g, t.b, t.i]
  else if step = 6 ∧ row < 3 then at' R.colC (3 * row) [t.r1, t.g1, t.b1]
  else if step = 7 ∧ row = 0 then at' R.kCoef 0 [t.r1, t.g1, t.b1, t.c, t.i]
  else if step = 9 ∧ row < 3 then at' R.yccM (3 * row) [t.tr, t.tg, t.tb]
  else []

/-- The residue of the independent datapath: Σ r(c)·r(x) mod 7 (R110). -/
def sumResidue (l : List (Int × Int)) : Int := (l.map fun c => c.1 % 7 * (c.2 % 7)).sum % 7

/-- The residue check of some sum misses (R110, R134). -/
def residueMiss (l : List SumErr) : Bool := l.any fun e => sumResidue e.terms != e.sum % 7

/-- The sum before its rounding constant, shift, offset and clamp, as it came out, has another residue (R110). -/
def sumMisses (g : Par) (t : Stages) (a : SumAt) : Bool :=
  let l := sumTerms g t a.step a.row a.x a.y
  !l.isEmpty && sumResidue l != a.sum % 7

/-- One scaler tap (R107): index and fraction of output x. -/
def scaleTap (step x : Nat) : Nat × Nat :=
  let p := x * step + step / 2 - 32768
  (p / 65536, p / 256 % 256)

/-- The downscaler (R107): columns first, then rows. -/
def scaleImg (sx sy ow oh : Nat) (m : Img) : Img :=
  let a := Img.of ow m.h fun x y =>
    let (i, f) := scaleTap sx x
    (m.get i y * (256 - f) + m.get (min (i + 1) (m.w - 1)) y * f + 128) / 256
  Img.of ow oh fun x y =>
    let (i, f) := scaleTap sy y
    (a.get x i * (256 - f) + a.get x (min (i + 1) (m.h - 1)) * f + 128) / 256

/-- Chroma subsampling over 2 × 2 blocks (R107). -/
def halfImg (m : Img) : Img :=
  Img.of (m.w / 2) (m.h / 2) fun x y =>
    (m.get (2 * x) (2 * y) + m.get (2 * x + 1) (2 * y) + m.get (2 * x) (2 * y + 1) + m.get (2 * x + 1) (2 * y + 1) + 2) / 4

def q8 (v : Nat) : Byte := BitVec.ofNat 8 (min 255 ((v + 128) / 256))
def q10 (v : Nat) : List Byte := leBytes 2 (min 1023 ((v + 32) / 64) * 64)

/-- A plane as lines of bytes. -/
def planeLines (w h : Nat) (f : Nat → Nat → List Byte) : List (List Byte) :=
  (List.range h).map fun y => (List.range w).flatMap fun x => f x y

/-- The raw tap (R109). -/
def tapImg (g : Par) (sel : Nat) (t : Stages) : Img :=
  if sel = 0 then t.raw else if sel = 1 then t.s2 else if sel = 2 then t.s3 else
  Img.of t.raw.w t.raw.h fun x y =>
    let ty := typeAt g x y
    if ty = 3 then t.c.get x y
    else if ty = 4 then t.i.get x y
    else if sel = 3 then (if ty = 0 then t.r1.get x y else if ty = 1 then t.g1.get x y else t.b1.get x y)
    else (if ty = 0 then t.rl.get x y else if ty = 1 then t.gl.get x y else t.bl.get x y)

/-- Format codes of OUT_FMT (R122). -/
def fmtRgb : Nat := 1
def fmtRgba : Nat := 2
def fmtNv12 : Nat := 3
def fmtP010 : Nat := 4
def fmtY16 : Nat := 5
def fmtRaw16 : Nat := 6

/-- The planes of an output as lines of bytes (R107, R108). -/
def outPlanes (g : Par) (fmt : Nat) (irEn : Bool) (tapSel : Nat) (t : Stages) (sx sy ow oh : Nat) : List (List (List Byte)) :=
  let sc := scaleImg sx sy ow oh
  if fmt = fmtRgb then
    let (r, gr, b) := (sc t.tr, sc t.tg, sc t.tb)
    [planeLines ow oh fun x y => [q8 (r.get x y), q8 (gr.get x y), q8 (b.get x y)]]
  else if fmt = fmtRgba then
    let (r, gr, b) := (sc t.tr, sc t.tg, sc t.tb)
    [planeLines ow oh fun x y => [q8 (r.get x y), q8 (gr.get x y), q8 (b.get x y), BitVec.ofNat 8 (g R.alpha 0)]]
  else if fmt = fmtNv12 then
    let (yy, cb, cr) := (sc t.yy, halfImg (sc t.cb), halfImg (sc t.cr))
    [planeLines ow oh fun x y => [q8 (yy.get x y)], planeLines (ow / 2) (oh / 2) fun x y => [q8 (cb.get x y), q8 (cr.get x y)]]
  else if fmt = fmtP010 then
    let (yy, cb, cr) := (sc t.yy, halfImg (sc t.cb), halfImg (sc t.cr))
    [planeLines ow oh fun x y => q10 (yy.get x y),
     planeLines (ow / 2) (oh / 2) fun x y => q10 (cb.get x y) ++ q10 (cr.get x y)]
  else if fmt = fmtY16 then
    let yy := sc t.y16
    let p0 := planeLines ow oh fun x y => leBytes 2 (yy.get x y)
    if irEn then
      let ir := sc t.i
      [p0, planeLines ow oh fun x y => leBytes 2 (ir.get x y)]
    else [p0]
  else if fmt = fmtRaw16 then
    let m := tapImg g tapSel t
    [planeLines m.w m.h fun x y => leBytes 2 (m.get x y)]
  else []

/-- Bytes of a line of plane p of an output w pixels wide. -/
def outLineBytes (fmt p w : Nat) : Nat :=
  if fmt = fmtRgb then 3 * w else if fmt = fmtRgba then 4 * w else if fmt = fmtNv12 then (if p = 0 then w else w / 2 * 2)
  else if fmt = fmtP010 then (if p = 0 then 2 * w else w / 2 * 4) else 2 * w

/-- Lines of plane p. -/
def outLines (fmt p h : Nat) : Nat := if (fmt = fmtNv12 ∨ fmt = fmtP010) ∧ p = 1 then h / 2 else h

/-- Number of planes of a format (R108). -/
def outPlaneCount (fmt : Nat) (irEn : Bool) : Nat :=
  if fmt = fmtNv12 ∨ fmt = fmtP010 then 2 else if fmt = fmtY16 then (if irEn then 2 else 1) else 1

/-- Size of a test block's output along one axis (R117). -/
def tbSize (fmt n step : Nat) : Nat :=
  let v := max 1 (n * 65536 / step)
  if fmt = fmtNv12 ∨ fmt = fmtP010 then max 2 (v / 2 * 2) else v

/-- The image of stored containers in a byte string with a given line pitch. -/
def rawImg (w h stride : Nat) (bs : Array Byte) : Img :=
  Img.of w h fun x y =>
    ((bs[y * stride + 2 * x]?).getD 0).toNat + 256 * ((bs[y * stride + 2 * x + 1]?).getD 0).toNat

end Sys2Proof.Machine
end

