-- ==== Sys2Proof/Machine/Engine.lean ====
section
/-! DEFINITION. What the jobs of all engines share: slots, tags, reads and writes of a unit with line buffers (R272),
arbitration (R129, R156), and doubt by job tag (R485). -/
namespace Sys2Proof.Machine
open Sys2Proof

/-! ### Slots -/

/-- A page with job slots. -/
def isEngine (p : Nat) : Bool :=
  match pageKind p with
  | some .pyr | some .wrp | some .hmp | some .ste | some .flw | some .fea | some .sta | some .lvu => true
  | _ => false

/-- Job slots of a page (R152, R214, R253). -/
def nSlots (p : Nat) : Nat :=
  match pageKind p with
  | some .sta | some .lvu => 8
  | _ => 4

/-- A reserved Fawn slot (R124, R154, R249). -/
def isFawn (p n : Nat) : Bool := (p == pgHmp0 && n == 3) || (p == pgSte1 && n == 3) || (p == pgLvu1 && n == 7)

/-- SLOT_PART n (R152, R214, R253). -/
def slotPartOf (s : State) (p n : Nat) : Nat :=
  match pageKind p with
  | some .sta => s.rd p R.staSlotPart n
  | some .lvu => s.rd p R.lvuSlotPart n
  | _ => s.rd p R.slotPart n

/-- Initiator ID of an engine page (R353). -/
def engInit (p : Nat) : Nat :=
  match pageKind p with
  | some .pyr => 0x40 + (p - 0x80)
  | some .wrp => 0x42 + (p - 0x84)
  | some .hmp => 0x46
  | some .ste => 0x47 + (p - 0x8C)
  | some .flw => 0x49 + (p - 0x90)
  | some .fea => 0x4B + (p - 0x94)
  | some .sta => 0x50 + (p - 0xA0)
  | some .lvu => 0x54 + (p - 0xA8)
  | _ => 0xFF

def jobTag (p : Nat) (j : Job) : Tag := ⟨engInit p, j.part, j.sc⟩

def State.job (s : State) (p n : Nat) : Option Job := sfind s.jobs (jobKey p n)
def State.putJob (s : State) (p n : Nat) (j : Job) : State := { s with jobs := sput s.jobs (jobKey p n) j }
def State.slotSt (s : State) (p n : Nat) : Nat := s.rd p (slotF p R.slotState) n
def State.setSlot (s : State) (p n st : Nat) : State := s.wr p (slotF p R.slotState) st n

/-- Slot states (R152). -/
def slIdle : Nat := 0
def slQueued : Nat := 1
def slRunning : Nat := 2
def slCancelling : Nat := 3
def slDoneWait : Nat := 4

/-- Status codes (R128). -/
def stOk : Nat := 0
def stProg : Nat := 1
def stTimeout : Nat := 2
def stBusErr : Nat := 3
def stResidue : Nat := 4
def stCancelled : Nat := 5
def stFenced : Nat := 6
def stSkipped : Nat := 8

/-- Header fields of a job descriptor (R126). -/
def Job.kind (j : Job) : Nat := bitsOf (wordAt j.desc 0) 7 0
def Job.dflags (j : Job) : Nat := bitsOf (wordAt j.desc 0) 15 8
def Job.dtag (j : Job) : Nat := bitsOf (wordAt j.desc 0) 31 16
def Job.budget (j : Job) : Nat := let b := wordAt j.desc 4; if b = 0 then 2000 else b
def Job.sem (j : Job) : Nat := bitsOf (wordAt j.desc 8) 9 0
def Job.semEn (j : Job) : Bool := bitOf (wordAt j.desc 8) 15
def Job.w32 (j : Job) (o : Nat) : Nat := wordAt j.desc o
def Job.w64 (j : Job) (o : Nat) : Nat := quadAt j.desc o
def Job.lo16 (j : Job) (o : Nat) : Nat := wordAt j.desc o % 65536
def Job.hi16 (j : Job) (o : Nat) : Nat := wordAt j.desc o / 65536

/-- KIND is the engine's block type (R126). -/
def kindOk (p : Nat) (j : Job) : Bool := decide (some j.kind = (pageKind p).map pageTypeCode)

/-- The alignment rule for DMA (R12). -/
def al64 (l : List Nat) : Bool := l.all fun a => a % 64 == 0

/-! ### Doubt by job tag (R485) -/

/-- The scope of a job report for one line. -/
def tagScope (s : State) (l tag : Nat) : Scope :=
  if s.on pgSaf R.bind l = false then .line l
  else if bitOf tag 15 then
    let id := s.rd pgVpt R.idLo l + tag % 2 ^ 15
    if s.rd pgVpt R.idHi l < id then .line l else .entry id
  else if bitOf tag 14 then
    let k := tag % 64
    let h : List (Nat × Nat) := if s.on pgSaf R.camSafe k then sget [] s.encHist k else []
    match h.find? fun e => e.1 % 256 == bitsOf tag 13 6 with
    | some e => .frame k e.2 e.2
    | none => .line l
  else .line l

/-- Report doubt by the TAG of a job of partition p. -/
def doubtByTag (s : State) (p tag inc : Nat) : State :=
  (linesOf s p).foldl (fun s l => s.doubt (tagScope s l tag) inc) s

/-! ### Arbitration between the slots of an engine -/

/-- The page runs one job at a time to its end (R129, R156). -/
def oneAtATime (p : Nat) : Bool :=
  match pageKind p with
  | some .pyr | some .fea => true
  | _ => false

/-- A slot has a unit to compute. `more` says whether its job has units left. -/
def slotHasWork (s : State) (more : Nat → Job → Bool) (p n : Nat) : Bool :=
  match s.job p n with
  | some j => s.slotSt p n == slRunning && j.fetched && j.ending.isNone && j.done.isNone && more p j
  | none => false

/-- The slots of a page in the order the next one is chosen: round-robin after the slot served last. -/
def slotRing (s : State) (p : Nat) : List Nat :=
  (List.range (nSlots p)).map fun i => (sget (nSlots p - 1) s.served p + 1 + i) % nSlots p

/-- The earliest started among some slots. -/
def earliest (s : State) (p : Nat) (l : List Nat) : Option Nat :=
  l.foldl (fun best n => match best with
    | none => some n
    | some b => if ((s.job p n).getD {}).order < ((s.job p b).getD {}).order then some n else some b) none

/-- A slot holds a job with units to come, whether or not its descriptor is there yet. -/
def slotWaits (s : State) (more : Nat → Job → Bool) (p n : Nat) : Bool :=
  match s.job p n with
  | some j => j.ending.isNone && j.done.isNone && (!j.fetched || more p j)
  | none => false

/-- The slot served next (R129, R156): the Fawn slot first, then round-robin.  PYR and FEA take the jobs in the order in
which their slots were started: the earliest is served to its end, and awaited while its descriptor is fetched. -/
def chooseSlot (s : State) (more : Nat → Job → Bool) (p : Nat) : Option Nat :=
  let l := (slotRing s p).filter fun n => slotHasWork s more p n
  if oneAtATime p then (earliest s p ((slotRing s p).filter fun n => slotWaits s more p n)).filter fun n => slotHasWork s more p n
  else match l.find? fun n => isFawn p n with
    | some n => some n
    | none => l.head?

/-- At a unit boundary the engine chooses the slot it serves next. -/
def pickNext (s : State) (more : Nat → Job → Bool) (p : Nat) : State :=
  match chooseSlot s more p with
  | some n => { s with current := sput s.current p n, served := sput s.served p n }
  | none => { s with current := serase s.current p }

/-- The page chooses when no unit is in progress, or when the slot of the unit in progress has left. -/
def pickIfIdle (s : State) (more : Nat → Job → Bool) (p : Nat) : State :=
  match sfind s.current p with
  | some n => if slotHasWork s more p n then s else pickNext s more p
  | none => pickNext s more p

/-- A page is ACTIVE while any slot holds a job. -/
def engBusy (s : State) (p : Nat) : Bool := (List.range (nSlots p)).any fun n => (s.job p n).isSome

/-! ### Reads and writes of a unit -/

/-- What a unit is computed with: page, slot, tag, the transaction that met trouble, and host memory. -/
structure JC where
  page : Nat
  slot : Nat
  t : Tag
  hit : Hit
  host : Cells

/-- The job and the machine while a unit is computed; `n` counts its transactions. -/
structure JS where
  job : Job
  s : State
  n : Nat := 0

/-- How a step of a unit ends: with a value, waiting for a line buffer, or ending the job with a status. -/
inductive JR (α : Type)
  | ok (a : α) (x : JS)
  | wait
  | fail (status : Nat) (x : JS)

/-- A step of a unit. -/
abbrev J (α : Type) := JS → JR α

def jret {α : Type} (a : α) : J α := fun x => .ok a x

def jthen {α β : Type} (m : J α) (f : α → J β) : J β := fun x =>
  match m x with
  | .ok a y => f a y
  | .wait => .wait
  | .fail st y => .fail st y

/-- A step for every element of a list, in order. -/
def jmap {α β : Type} (f : α → J β) : List α → J (List β)
  | [] => jret []
  | a :: t => jthen (f a) fun b => jthen (jmap f t) fun bs => jret (b :: bs)

/-- A step folded over a list. -/
def jfold {α β : Type} (f : β → α → J β) : List α → β → J β
  | [], b => jret b
  | a :: t, b => jthen (f b a) fun b' => jfold f t b'

/-- The first incident a job's transfers took stays with the job, that of a link event its transaction was outstanding
under among them (R528): `link` is that incident, and `failed` says that an attempt failed. -/
def keepInc (j : Job) (link : Nat) (failed : Bool) (before after : State) : Job :=
  if j.inc = 0 ∧ failed ∧ link ≠ 0 then { j with inc := link }
  else if j.inc = 0 ∧ before.rd pgErl R.incidentNext ≠ after.rd pgErl R.incidentNext then
    { j with inc := before.rd pgErl R.incidentNext }
  else j

def failStatus : FabResp → Nat
  | .timeout _ => stTimeout
  | _ => stBusErr

/-- One read transaction of a unit, with the one reissue of R523. -/
def jpiece (c : JC) (an : Nat × Nat) : J (List Byte) := fun x =>
  let r1 := if x.n = c.hit.idx then c.hit.r1 else .ok
  let r2 := if x.n = c.hit.idx then c.hit.r2 else .ok
  match readTwice x.s c.t c.page x.job.dtag an.1 an.2 r1 r2 c.host x.job.inc with
  | (.ok bs, again, s) =>
    let j := keepInc x.job (txnInc x.s c.t.init an.1 0) again x.s s
    .ok bs { job := { j with retried := j.retried || again }, s := s, n := x.n + 1 }
  | (r, _, s) =>
    .fail (failStatus r) { job := keepInc x.job (txnInc x.s c.t.init an.1 0) true x.s s, s := s, n := x.n + 1 }

/-- The line buffer of the job's own group whose range holds an address (R272), with its number. -/
def lbOf (s : State) (j : Job) (a : Nat) : Option (Nat × LineBuf) :=
  match j.node with
  | none => none
  | some key => s.lbs.find? fun b =>
      decide (b.2.base ≤ a) && decide (a < b.2.base + b.2.stride * b.2.lines) &&
      (b.2.prod / 1024 == key / 1024) && (b.2.prod == key || b.2.cons == key ||
        (let g := (s.graph (keyGraph key)).nodes
         let m := fun k => (g[k % 1024]?).getD {}
         (m key).fused && (m key).fuseId == (m b.2.prod).fuseId))

/-- Bytes of a line that a fetched producer writes: up to the line's end in the plane (R272). -/
def Job.lineLen (j : Job) : Nat :=
  if j.kind = 0x19 then 2 * (j.w32 0x2C % 65536)
  else 2 * (if bitOf j.dflags 1 then cdiv (j.w32 0x24 % 65536) 2 else j.w32 0x24 % 65536)

/-- The line buffers a job produces learn the length of its lines (R272). -/
def lbLearn (s : State) (j : Job) : State :=
  match j.node with
  | none => s
  | some key => { s with lbs := s.lbs.map fun e => if e.2.prod = key then (e.1, { e.2 with len := some j.lineLen }) else e }

/-- Line y counts as written: all its bytes up to the line's end have been (R272); none is before the producer's job is
fetched. -/
def lbWritten (b : LineBuf) (y : Nat) : Bool :=
  match b.len with
  | none => false
  | some n => (List.range n).all fun i => (sfind b.bytes (y * b.stride + i)).isSome

def lbOldest (b : LineBuf) : Nat :=
  match b.newest with
  | some n => n - b.back
  | none => 0

/-- A read within a handed-over range (R272): served from the buffer for the consumer once the line is written, ending
the group with PROG for any other member and for a line below OLDEST. -/
def jbuffer (k : Nat) (b : LineBuf) (a n : Nat) : J (List Byte) := fun x =>
  let y := (a - b.base) / b.stride
  if x.job.node ≠ some b.cons ∨ y < lbOldest b then .fail stProg x
  else if lbWritten b y = false then .wait
  else
    let bs := (List.range n).map fun i => (sfind b.bytes (a - b.base + i)).getD 0
    .ok bs { x with s := { x.s with lbs := sput x.s.lbs k { b with newest := some (max y (b.newest.getD 0)) } } }

/-- Read n bytes from a, line by line, through the line buffers of the job's group. -/
def jread (c : JC) (a n : Nat) : J (List Byte) :=
  jthen (jmap (fun p => fun x => match lbOf x.s x.job p.1 with
    | some (k, b) => jbuffer k b p.1 p.2 x
    | none => jpiece c p x) (linePieces a n)) fun ls => jret ls.flatten

/-- The 16-bit samples a byte string spells. -/
def halves (w : Nat) (bs : List Byte) : Array Nat :=
  let a := bs.toArray
  Array.ofFn (n := w) fun i => ((a[2 * i.val]?).getD 0).toNat + 256 * ((a[2 * i.val + 1]?).getD 0).toNat

/-- Lines ya to yb (exclusive) of a 16-bit plane, as an image whose line 0 is ya. -/
def jlines (c : JC) (base stride w ya yb : Nat) : J Img :=
  jthen (jmap (fun i => jread c (base + (ya + i) * stride) (2 * w)) (List.range (yb - ya))) fun rows =>
    jret ⟨w, yb - ya, (rows.map fun r => halves w r).foldl (· ++ ·) #[]⟩

/-- One write transaction of a unit, with the one reissue of R523. -/
def jput (c : JC) (a : Nat) (bs : List Byte) : J Unit := fun x =>
  let r1 := if x.n = c.hit.idx then c.hit.r1 else .ok
  let r2 := if x.n = c.hit.idx then c.hit.r2 else .ok
  match writeTwice x.s c.t c.page x.job.dtag a bs r1 r2 x.job.inc with
  | (.ok _, again, s) =>
    let j := keepInc x.job (txnInc x.s c.t.init a 0) again x.s s
    .ok () { job := { j with retried := j.retried || again, wrote := true }, s := s, n := x.n + 1 }
  | (r, _, s) =>
    .fail (failStatus r) { job := keepInc x.job (txnInc x.s c.t.init a 0) true x.s s, s := s, n := x.n + 1 }

/-- A write by the producer of a line buffer goes to the buffer, and to memory too with MIRROR; it waits for room
(R272). -/
def jstore (c : JC) (a : Nat) (bs : List Byte) : J Unit := fun x =>
  match lbOf x.s x.job a with
  | some (k, b) =>
    if x.job.node ≠ some b.prod then jput c a bs x
    else if lbOldest b + b.depth ≤ (a - b.base) / b.stride then .wait
    else
      let m := bs.zipIdx.foldl (fun m (v, i) => sput m (a - b.base + i) v) b.bytes
      let y : JS := { x with s := { x.s with lbs := sput x.s.lbs k { b with bytes := m } } }
      if b.mirror then jput c a bs y else .ok () { y with job := { y.job with wrote := true } }
  | none => jput c a bs x

/-- Write bytes at a, line by line. -/
def jwrite (c : JC) (ab : Nat × List Byte) : J Unit :=
  jthen (jmap (fun p => jstore c p.1 ((ab.2.drop (p.1 - ab.1)).take p.2)) (linePieces ab.1 ab.2.length)) fun _ => jret ()

/-- Give the job a new shape. -/
def jmod (f : Job → Job) : J Unit := fun x => .ok () { x with job := f x.job }

/-- What a unit has computed and not yet written. -/
abbrev Writes := List (Nat × List Byte)

/-- The lines of a plane as writes. -/
def planeWrites (base stride : Nat) (lines : List (List Byte)) (y0 : Nat) : Writes :=
  lines.zipIdx.map fun (l, i) => (base + (y0 + i) * stride, l)

end Sys2Proof.Machine
end

