-- ==== Sys2Proof/Machine/Geometry.lean ====
section
/-! DEFINITION. The pyramid, warp and height-map engines: descriptor rules and the units of their jobs
(R136 to R151). -/
namespace Sys2Proof.Machine
open Sys2Proof

/-! ### PYR (R136 to R139) -/

/-- Width or height of level l (R137). -/
def pyrDim (n : Nat) : Nat → Nat
  | 0 => n
  | l + 1 => cdiv (pyrDim n l) 2

/-- Stride of a level w pixels wide (R137). -/
def pyrStride (w : Nat) : Nat := 64 * cdiv (2 * w) 64

/-- Offset of level l ≥ 1 from the base of level 1 (R137). -/
def pyrOff (w h : Nat) : Nat → Nat
  | 0 => 0
  | 1 => 0
  | l + 2 => pyrOff w h (l + 1) + pyrStride (pyrDim w (l + 1)) * pyrDim h (l + 1)

def pyrOk (j : Job) : Bool :=
  let w := j.lo16 0x1C
  let h := j.hi16 0x1C
  let stride := j.w32 0x18 % 2 ^ 20
  al64 [j.w64 0x10, j.w64 0x20, stride] && decide (2 * w ≤ stride) && within 16 8192 w && within 16 8192 h &&
    within 1 8 (j.w32 0x28 % 16)

/-- An index brought into 0 to n - 1 by replication or mirroring (R138). -/
def border (mirror : Bool) (n : Nat) (i : Int) : Nat :=
  if n ≤ 1 then 0
  else if mirror then
    let f := fun (i : Int) => if i < 0 then -i else if (n : Int) ≤ i then 2 * (n - 1 : Int) - i else i
    (f (f i)).toNat
  else if i < 0 then 0 else min i.toNat (n - 1)

/-- The five taps of R138. -/
def pyrTaps : List (Int × Nat) := [(-2, 1), (-1, 4), (0, 6), (1, 4), (2, 1)]

/-- Pixel (i, j) filtered from an image whose line 0 is y0 of a plane h lines high; `step` 2 halves, 1 smooths
(R138, R181). -/
def pyrPixel (mirror : Bool) (m : Img) (y0 h step i j : Nat) : Nat :=
  let sum := (pyrTaps.map fun (b, wb) =>
    (pyrTaps.map fun (a, wa) =>
      wa * wb * m.get (border mirror m.w (step * i + a)) (border mirror h (step * j + b) - y0)).sum).sum
  (sum + 128) / 256

/-- Lines of level l that unit k writes: those whose source line lies in its band of 32. -/
def pyrOut (h k l : Nat) (last : Bool) : Nat × Nat :=
  let hl := pyrDim h l
  (min hl (cdiv (32 * k) (2 ^ l)), if last then hl else min hl (cdiv (32 * (k + 1)) (2 ^ l)))

/-- Lines of level l that unit k needs, from level n downward. -/
def pyrNeed (h k n : Nat) (last : Bool) : Nat → Nat × Nat
  | 0 => pyrOut h k n last
  | d + 1 =>
    let (a, b) := pyrNeed h k n last d
    let l := n - (d + 1)
    let (oa, ob) := if l = 0 then (32 * k, min h (32 * (k + 1))) else pyrOut h k l last
    if b ≤ a then (oa, ob) else (min oa (2 * a - 2), max ob (min (pyrDim h l) (2 * b + 1)))

/-- The lines of level l of unit k from those of level l - 1, level by level; answers what each level stores. -/
def pyrLevels (mirror : Bool) (h k n : Nat) (last : Bool) (dst w : Nat) : Nat → Nat → Img → Nat → Writes
  | 0, _, _, _ => []
  | fuel + 1, l, m, y0 =>
    let (a, b) := pyrNeed h k n last (n - l)
    let wl := pyrDim w l
    let img := Img.of wl (b - a) fun x y => pyrPixel mirror m y0 (pyrDim h (l - 1)) 2 x (a + y)
    let (oa, ob) := pyrOut h k l last
    let ws := (List.range (ob - oa)).map fun i =>
      (dst + pyrOff w h l + (oa + i) * pyrStride wl, (List.range wl).flatMap fun x => leBytes 2 (img.get x (oa + i - a)))
    ws ++ (if l < n then pyrLevels mirror h k n last dst w fuel (l + 1) img a else [])

def pyrUnits (j : Job) : Nat := cdiv (j.hi16 0x1C) 32

def pyrUnit (c : JC) : J Writes := fun x =>
  let j := x.job
  let w := j.lo16 0x1C
  let h := j.hi16 0x1C
  let n := j.w32 0x28 % 16
  let k := j.units
  let last := decide (pyrUnits j ≤ k + 1)
  let (a, b) := pyrNeed h k n last n
  jthen (jlines c (j.w64 0x10) (j.w32 0x18 % 2 ^ 20) w a b)
    (fun m => jret (pyrLevels (bitOf j.dflags 0) h k n last (j.w64 0x20) w n 1 m a)) x

/-! ### WRP (R140 to R144) -/

/-- The fields of a WRP descriptor (R140). -/
structure Wrp where
  src : Nat
  sstride : Nat
  sw : Nat
  sh : Nat
  dst : Nat
  dstride : Nat
  ow : Nat
  oh : Nat
  mesh : Bool
  bilinear : Bool
  clamp : Bool
  fill : Nat
  xf : List Byte

def wrpOf (j : Job) : Wrp :=
  { src := j.w64 0x10, sstride := j.w32 0x18 % 2 ^ 20, sw := j.lo16 0x1C, sh := j.hi16 0x1C, dst := j.w64 0x20,
    dstride := j.w32 0x28 % 2 ^ 20, ow := j.lo16 0x2C, oh := j.hi16 0x2C, mesh := bitOf (j.w32 0x30) 0,
    bilinear := bitOf (j.w32 0x30) 1, clamp := bitOf (j.w32 0x30) 2, fill := j.hi16 0x30, xf := j.aux }

def wrpOk (j : Job) : Bool :=
  let w := wrpOf j
  al64 [w.src, w.sstride, w.dst, w.dstride, j.w64 0x38] && decide (2 * w.sw ≤ w.sstride) && decide (2 * w.ow ≤ w.dstride) &&
    within 1 8192 w.sw && within 1 8192 w.sh && within 16 8192 w.ow && within 16 8192 w.oh &&
    (!w.mesh || (w.ow % 16 == 0 && w.oh % 16 == 0))

/-- Bytes of the transform block (R141). -/
def wrpAux (j : Job) : Nat × Nat := (j.w64 0x38, if bitOf (j.w32 0x30) 0 then 2368 else 64)

/-- Signed word i of the transform block. -/
def Wrp.word (w : Wrp) (i : Nat) : Int := sgn 32 (wordAt w.xf (4 * i))

/-- The source coordinate of an output pixel in 1/256 pixel (R141); none where w ≤ 0. -/
def Wrp.coord (w : Wrp) (x y : Nat) : Option (Int × Int) :=
  if w.mesh then
    let cw := w.ow / 16
    let ch := w.oh / 16
    let i := x / cw
    let j := y / ch
    let fx := x % cw
    let fy := y % ch
    let v := fun (a b o : Nat) => w.word (2 * (17 * (j + b) + (i + a)) + o)
    let f := fun (o : Nat) => (v 0 0 o * ((cw - fx : Nat) * (ch - fy : Nat)) + v 1 0 o * (fx * (ch - fy : Nat)) +
      v 0 1 o * ((cw - fx : Nat) * fy) + v 1 1 o * (fx * fy)) / ((cw * ch : Nat) : Int)
    some (f 0, f 1)
  else
    let u := w.word 0 * x + w.word 1 * y + w.word 2
    let v := w.word 3 * x + w.word 4 * y + w.word 5
    let q := w.word 6 * x + w.word 7 * y + w.word 8
    if q ≤ 0 then none else some (256 * u / q, 256 * v / q)

/-- The taps an output pixel reads before borders act: top-left pixel, fractions, and whether it reads two by two;
none where the pixel is FILL (R141, R142). -/
def Wrp.taps (w : Wrp) (x y : Nat) : Option (Int × Int × Nat × Nat) :=
  match w.coord x y with
  | none => none
  | some (sx, sy) =>
    let big := fun (v : Int) => v / 256 < -32768 || 32767 < v / 256
    if big sx || big sy then none
    else if w.bilinear then some (sx / 256, sy / 256, (sx % 256).toNat, (sy % 256).toNat)
    else some ((sx + 128) / 256, (sy + 128) / 256, 0, 0)

/-- A tap coordinate as a source coordinate; none outside the source under constant border (R142). -/
def Wrp.place (w : Wrp) (i j : Int) : Option (Nat × Nat) :=
  let inX := 0 ≤ i && i < w.sw
  let inY := 0 ≤ j && j < w.sh
  if inX && inY then some (i.toNat, j.toNat)
  else if w.clamp then some ((min (max i 0) (w.sw - 1 : Int)).toNat, (min (max j 0) (w.sh - 1 : Int)).toNat)
  else none

/-- The source pixels an output pixel needs.  DESIGN CHOICE (log 145): every tap counts, with weight zero or clamped to the
border too. -/
def Wrp.needs (w : Wrp) (x y : Nat) : List (Nat × Nat) :=
  match w.taps x y with
  | none => []
  | some (i, j, _, _) =>
    if w.bilinear then [(i, j), (i + 1, j), (i, j + 1), (i + 1, j + 1)].filterMap fun p => w.place p.1 p.2
    else [(i, j)].filterMap fun p => w.place p.1 p.2

/-- The output pixel from a reader of source pixels (R142). -/
def Wrp.pixel (w : Wrp) (px : Nat → Nat → Nat) (x y : Nat) : Nat :=
  match w.taps x y with
  | none => w.fill
  | some (i, j, fx, fy) =>
    let p := fun (a b : Int) => match w.place (i + a) (j + b) with
      | some (u, v) => px u v
      | none => w.fill
    if w.bilinear then
      (p 0 0 * (256 - fx) * (256 - fy) + p 1 0 * fx * (256 - fy) + p 0 1 * (256 - fx) * fy + p 1 1 * fx * fy + 32768) / 65536
    else p 0 0

/-- A block of output pixels. -/
structure Blk where
  x : Nat
  y : Nat
  w : Nat
  h : Nat

/-- The bounding box of the source pixels a block needs: least and greatest column and line. -/
def Wrp.foot (w : Wrp) (b : Blk) : Option (Nat × Nat × Nat × Nat) :=
  ((List.range b.h).flatMap fun j => (List.range b.w).flatMap fun i => w.needs (b.x + i) (b.y + j)).foldl
    (fun acc (u, v) => match acc with
      | none => some (u, u, v, v)
      | some (a, c, d, e) => some (min a u, max c u, min d v, max e v)) none

/-- A footprint fits the 256 × 128 window (R143). -/
def footFits : Option (Nat × Nat × Nat × Nat) → Bool
  | none => true
  | some (a, c, d, e) => decide (c - a < 256) && decide (e - d < 128)

/-- Split a block whose footprint exceeds the window, down to 8 × 4 (R143); the Bool marks a block that is filled.  DESIGN
CHOICE (log 145): a clipped tile is cut into the quarters of the whole tile, of which those outside the output are dropped,
and a part 16 × 4 into two. -/
def Wrp.parts (w : Wrp) : Nat → Nat → Nat → Blk → List (Blk × Bool)
  | 0, _, _, b => [(b, !footFits (w.foot b))]
  | fuel + 1, pw, ph, b =>
    if footFits (w.foot b) then [(b, false)]
    else if pw ≤ 8 ∧ ph ≤ 4 then [(b, true)]
    else
      let hw := max 8 (pw / 2)
      let hh := max 4 (ph / 2)
      ((if hh < ph then [0, hh] else [0]).flatMap fun dy => (if hw < pw then [0, hw] else [0]).map fun dx =>
        ({ x := b.x + dx, y := b.y + dy, w := min hw (b.w - dx), h := min hh (b.h - dy) } : Blk)).flatMap fun q =>
          if q.w = 0 ∨ q.h = 0 then [] else w.parts fuel hw hh q

/-- Tiles per row. -/
def wrpCols (w : Wrp) : Nat := cdiv w.ow 64

def wrpUnits (j : Job) : Nat := let w := wrpOf j; wrpCols w * cdiv w.oh 16

/-- Tile k of the output, clipped (R143). -/
def Wrp.tile (w : Wrp) (k : Nat) : Blk :=
  let tx := 64 * (k % wrpCols w)
  let ty := 16 * (k / wrpCols w)
  { x := tx, y := ty, w := min 64 (w.ow - tx), h := min 16 (w.oh - ty) }

/-- The lines of a block of output. -/
def Wrp.blockLines (w : Wrp) (b : Blk) (px : Nat → Nat → Nat) : Writes :=
  (List.range b.h).map fun j =>
    (w.dst + (b.y + j) * w.dstride + 2 * b.x, (List.range b.w).flatMap fun i => leBytes 2 (px (b.x + i) (b.y + j)))

/-- Compute one part of a tile, reading its window of the source. -/
def wrpPart (c : JC) (w : Wrp) (b : Blk) (filled : Bool) : J Writes :=
  if filled then jthen (jmod fun j => { j with bit9 := true, acc2 := j.acc2 + 1 }) fun _ => jret (w.blockLines b fun _ _ => w.fill)
  else match w.foot b with
    | none => jret (w.blockLines b fun _ _ => w.fill)
    | some (a, e, d, f) =>
      jthen (jlines c (w.src + 2 * a) w.sstride (e + 1 - a) d (f + 1)) fun m =>
        jret (w.blockLines b (w.pixel fun u v => m.get (u - a) (v - d)))

def wrpUnit (c : JC) : J Writes := fun x =>
  let w := wrpOf x.job
  let parts := w.parts 4 64 16 (w.tile x.job.units)
  jthen (jmap (fun p => wrpPart c w p.1 p.2) parts) (fun ws => jthen
    (jmod fun j => if footFits (w.foot (w.tile x.job.units)) then j else { j with acc3 := j.acc3 + 1 })
    fun _ => jret ws.flatten) x

/-! ### HMP (R145 to R150) -/

def hmpOk (j : Job) : Bool :=
  let dw := j.lo16 0x1C
  let dh := j.hi16 0x1C
  let stride := j.w32 0x18 % 2 ^ 20
  let gw := j.w32 0x38 % 1024
  let gh := bitsOf (j.w32 0x38) 25 16
  al64 [j.w64 0x10, stride, j.w64 0x28, j.w64 0x30] && decide (2 * dw ≤ stride) && within 1 8192 dw && within 1 8192 dh &&
    decide (j.w32 0x24 % 4 < 3) && within 4 512 gw && decide (gw % 4 = 0) && within 1 512 gh

/-- The calibration block is in range (R147). -/
def hmpCalOk (j : Job) : Bool :=
  decide (16 ≤ wordAt j.aux 0x38 % 65536) && decide (sgn 16 (wordAt j.aux 0x3C) ≤ sgn 16 (wordAt j.aux 0x3C / 65536))

def hmpAux (j : Job) : Nat × Nat := (j.w64 0x28, 64)

/-- Sampled columns and lines (R146). -/
def hmpCols (j : Job) : Nat := cdiv (j.lo16 0x1C) (2 ^ (j.w32 0x24 % 4))
def hmpRows (j : Job) : Nat := cdiv (j.hi16 0x1C) (2 ^ (j.w32 0x24 % 4))
def hmpUnits (j : Job) : Nat := cdiv (hmpCols j * hmpRows j) 1024

def calWord (j : Job) (o : Nat) : Int := sgn 32 (wordAt j.aux o)
def calHalf (j : Job) (o : Nat) : Int := sgn 16 (fromLe ((j.aux.drop o).take 2))

/-- What a sample does (R145, R148). -/
inductive Sample
  | invalid
  | outHeight
  | outGrid
  | cell (i : Nat) (h : Int)

/-- The height of one disparity word at (x, y) (R148). -/
def hmpSample (j : Job) (x y word : Nat) : Sample :=
  let d16 := word % 2 ^ 14
  if bitOf word 15 || d16 == 0 then .invalid
  else
    let pz : Int := ((wordAt j.aux 0 / d16 : Nat) : Int)
    let xc : Int := 16 * (j.lo16 0x20 + x) + 8
    let yc : Int := 16 * (j.hi16 0x20 + y) + 8
    let invf : Int := wordAt j.aux 0xC
    let px := ((xc - calWord j 4) * pz * invf + 2 ^ 27) / 2 ^ 28
    let py := ((yc - calWord j 8) * pz * invf + 2 ^ 27) / 2 ^ 28
    let b := fun (k : Nat) =>
      (calHalf j (0x10 + 6 * k) * px + calHalf j (0x12 + 6 * k) * py + calHalf j (0x14 + 6 * k) * pz + 8192) / 16384 +
        calWord j (0x24 + 4 * k)
    let encScale : Int := ((wordAt j.aux 0x38 / 65536 : Nat) : Int)
    let ax := b 0 - (sgn 32 (j.w32 0x3C) * encScale) / 256 - calWord j 0x30
    let ay := b 1 - calWord j 0x34
    let h := b 2
    let cell16 : Int := ((wordAt j.aux 0x38 % 65536 : Nat) : Int)
    let gw := j.w32 0x38 % 1024
    let gh := bitsOf (j.w32 0x38) 25 16
    if h < calHalf j 0x3C ∨ calHalf j 0x3E < h then .outHeight
    else
      let cx := ax / cell16
      let cy := ay / cell16
      if cx < 0 ∨ (gw : Int) ≤ cx ∨ cy < 0 ∨ (gh : Int) ≤ cy then .outGrid
      else .cell (cy.toNat * gw + cx.toNat) h

/-- The empty cell (R149). -/
def emptyCell : List Byte := leBytes 2 0x8000 ++ leBytes 2 0x8000 ++ leBytes 2 0x7FFF ++ leBytes 10 0

/-- Merge height h into a cell record (R149); the Bool says that COUNT or SUM saturated. -/
def mergeCell (bs : List Byte) (h : Int) : List Byte × Bool :=
  let mx := sgn 16 (wordAt bs 0)
  let m2 := sgn 16 (wordAt bs 0 / 65536)
  let mn := sgn 16 (wordAt bs 4)
  let cnt := wordAt bs 4 / 65536
  let sum := sgn 32 (wordAt bs 8)
  let fl := wordAt bs 0xC % 65536
  let (mx', m2') := if mx < h then (h, mx) else if m2 < h then (mx, h) else (mx, m2)
  let satC := cnt == 0xFFFF
  let sum' := min (max (sum + h) (-(2 ^ 31))) (2 ^ 31 - 1)
  let sat := satC || sum' != sum + h
  (leBytes 2 (unsgn 16 mx') ++ leBytes 2 (unsgn 16 m2') ++ leBytes 2 (unsgn 16 (min mn h)) ++
    leBytes 2 (if satC then cnt else cnt + 1) ++ leBytes 4 (unsgn 32 sum') ++
    leBytes 4 (if sat then setBit fl 0 else fl), sat)

/-- Merge the samples of a unit into the cells they touch, one 16-byte write per cell. -/
def hmpMerge (c : JC) (grid : Nat) (fresh : Bool) (cells : List (Nat × List Int)) : J Writes :=
  jmap (fun (i, hs) =>
    jthen (if fresh then jret emptyCell else jread c (grid + 16 * i) 16) fun old =>
      let (bs, sat) := hs.foldl (fun (b, z) h => let (b', z') := mergeCell b h; (b', z || z')) (old, false)
      jthen (jmod fun j => { j with bit10 := j.bit10 || sat }) fun _ => jret (grid + 16 * i, bs)) cells

/-- The samples of unit k in raster order. -/
def hmpSamples (c : JC) (j : Job) : J (List Sample) :=
  let cols := hmpCols j
  let step := 2 ^ (j.w32 0x24 % 4)
  let idx := (List.range 1024).map (1024 * j.units + ·) |>.filter fun i => decide (i < cols * hmpRows j)
  let rows := (idx.map (· / cols)).eraseDups
  jthen (jmap (fun r => jthen (jread c (j.w64 0x10 + r * step * (j.w32 0x18 % 2 ^ 20)) (2 * j.lo16 0x1C)) fun bs =>
      jret ((idx.filter fun i => i / cols == r).map fun i =>
        let x := i % cols * step
        hmpSample j x (r * step) (fromLe ((bs.drop (2 * x)).take 2)))) rows) fun ls => jret ls.flatten

def hmpUnit (c : JC) : J Writes := fun x =>
  let j := x.job
  let grid := j.w64 0x30
  let gw := j.w32 0x38 % 1024
  let gh := bitsOf (j.w32 0x38) 25 16
  let init := bitOf j.dflags 0 && j.units == 0
  jthen (hmpSamples c j) (fun l =>
    let cells := l.foldl (fun (acc : List (Nat × List Int)) s => match s with
      | .cell i h => sput acc i (sget [] acc i ++ [h])
      | _ => acc) []
    let cnt := fun (f : Sample → Bool) => (l.filter f).length
    jthen (jmod fun j => { j with
      acc0 := j.acc0 + cnt (fun s => match s with | .invalid => true | _ => false),
      acc1 := j.acc1 + cnt (fun s => match s with | .outHeight => true | _ => false),
      acc2 := j.acc2 + cnt (fun s => match s with | .outGrid => true | _ => false) }) fun _ =>
    jthen (hmpMerge c grid init cells) fun ws =>
      jret ((if init then (List.range (gw * gh)).map fun i => (grid + 16 * i, emptyCell) else []) ++ ws)) x

end Sys2Proof.Machine
end

