-- ==== Sys2Proof/Machine/Depth.lean ====
section
/-! DEFINITION. The stereo engine: matching cost, aggregation, selection and the units of its jobs (R158 to R167). -/
namespace Sys2Proof.Machine
open Sys2Proof

/-- The fields of an STE descriptor (R158, R159). -/
structure Ste where
  left : Nat
  right : Nat
  stride : Nat
  sw : Nat
  sh : Nat
  disp : Nat
  conf : Nat
  cw7 : Bool
  decim : Bool
  confEn : Bool
  dmin : Nat
  nd : Nat
  p1 : Nat
  p2 : Nat
  margin : Nat
  lrTol : Nat
  uniq : Nat
  lrcov : Nat
  doubtEn : Bool

def steOf (j : Job) : Ste :=
  { left := j.w64 0x10, right := j.w64 0x18, stride := j.w32 0x20 % 2 ^ 20, sw := j.lo16 0x24, sh := j.hi16 0x24,
    disp := j.w64 0x28, conf := j.w64 0x30, cw7 := bitOf j.dflags 0, decim := bitOf j.dflags 1, confEn := bitOf j.dflags 3,
    dmin := j.w32 0x38 % 1024, nd := 16 * (bitsOf (j.w32 0x38) 13 10 + 1), p1 := bitsOf (j.w32 0x38) 23 16,
    p2 := bitsOf (j.w32 0x38) 31 24, margin := j.w32 0x3C % 64, lrTol := bitsOf (j.w32 0x3C) 7 6,
    uniq := bitsOf (j.w32 0x3C) 14 8, lrcov := bitsOf (j.w32 0x3C) 23 16, doubtEn := bitOf j.dflags 2 }

/-- The working image (R159). -/
def Ste.w (t : Ste) : Nat := if t.decim then cdiv t.sw 2 else t.sw
def Ste.h (t : Ste) : Nat := if t.decim then cdiv t.sh 2 else t.sh

def steOk (j : Job) : Bool :=
  let t := steOf j
  al64 [t.left, t.right, t.stride, t.disp] && (!t.confEn || t.conf % 64 == 0) && decide (2 * t.sw ≤ t.stride) &&
    within 16 8192 t.sw && within 16 8192 t.sh && decide (t.w ≤ 2048) && decide (t.dmin ≤ 767) && decide (t.p1 ≤ t.p2) &&
    decide (t.margin ≤ 32) && decide (t.uniq ≤ 100)

def steUnits (j : Job) : Nat := cdiv (steOf j).h 32

/-- Number of one bits among the low n. -/
def popcount (n x : Nat) : Nat := ((List.range n).filter fun i => bitOf x i).length

/-- Census bits of a window (R160). -/
def Ste.bits (t : Ste) : Nat := if t.cw7 then 48 else 24

/-- The census of pixel (x, y), read through an image whose line 0 is y0 of h lines (R160). -/
def Ste.census (t : Ste) (m : Img) (y0 x y : Nat) : Nat :=
  let r := if t.cw7 then 3 else 2
  let n := 2 * r + 1
  let px := fun (i j : Int) => m.get (border false t.w i) (border false t.h j - y0)
  let c := px x y
  (((List.range (n * n)).filter fun k => k != r * n + r).foldl (fun (acc : Nat × Nat) k =>
    let v := px ((x : Int) + (k % n : Nat) - r) ((y : Int) + (k / n : Nat) - r)
    (if v < c then setBit acc.1 acc.2 else acc.1, acc.2 + 1)) (0, 0)).1

/-- One direction of the aggregation (R161), pixels in the order they are processed: forwards, or backwards when the
path runs against raster order. -/
def pathDir (w lh nd p1 p2 : Nat) (cost : Nat → Nat → Nat → Nat) (rx ry : Int) : Array Nat :=
  let n := w * lh
  let rev : Bool := ry < 0 || (ry == 0 && rx < 0)
  let at' := fun i => if rev then n - 1 - i else i
  (List.range n).foldl (fun (acc : Array Nat) i =>
    let q := at' i
    let x := q % w
    let y := q / w
    let qx := (x : Int) - rx
    let qy := (y : Int) - ry
    if qx < 0 ∨ (w : Int) ≤ qx ∨ qy < 0 ∨ (lh : Int) ≤ qy then
      acc ++ (Array.ofFn (n := nd) fun d => cost x y d.val)
    else
      let b := at' (qy.toNat * w + qx.toNat) * nd
      let l := fun d => (acc[b + d]?).getD 0
      let m := (List.range nd).foldl (fun a d => min a (l d)) (l 0)
      acc ++ (Array.ofFn (n := nd) fun d =>
        let v := min (l d.val) (m + p2)
        let v := if d.val = 0 then v else min v (l (d.val - 1) + p1)
        let v := if d.val + 1 = nd then v else min v (l (d.val + 1) + p1)
        cost x y d.val + v - m)) #[]

def pathDirs : List (Int × Int) := [(1, 0), (-1, 0), (0, 1), (0, -1), (1, 1), (-1, -1), (1, -1), (-1, 1)]

/-- S(p, d) over a window (R161), as an array of w × lh × nd. -/
def aggregate (w lh nd p1 p2 : Nat) (cost : Nat → Nat → Nat → Nat) : Array Nat :=
  let ls := pathDirs.map fun (rx, ry) =>
    (pathDir w lh nd p1 p2 cost rx ry, (ry < 0 || (ry == 0 && rx < 0) : Bool))
  Array.ofFn (n := w * lh * nd) fun i =>
    let q := i.val / nd
    (ls.map fun (a, rev) => (a[(if rev then w * lh - 1 - q else q) * nd + i.val % nd]?).getD 0).sum

/-- The index of the least of some values, the smaller index on a tie. -/
def argMin (f : Nat → Nat) : List Nat → Option Nat
  | [] => none
  | a :: t => some (t.foldl (fun b d => if f d < f b then d else b) a)

/-- The sub-pixel fraction in sixteenths (R162, R169). -/
def subPixel (a b c : Int) : Int :=
  let den := max a c - b
  if den = 0 then 0 else min (max (Int.fdiv (16 * (a - c) + den) (2 * den)) (-8)) 7

/-- What R162 selects at a pixel: the disparity word, the confidence byte, and whether it was LR-tested and LR-passed. -/
structure Pick where
  word : Nat
  conf : Nat
  tested : Bool := false
  passed : Bool := false

/-- The selection at column x of a line of the window (R162 to R165). `s x d` is S at that line. -/
def Ste.select (t : Ste) (s : Nat → Nat → Nat) (x : Nat) : Pick :=
  let ds := List.range t.nd
  let i := (argMin (s x) ds).getD 0
  let d := t.dmin + i
  let s1 := s x i
  let far := ds.filter fun k => decide (i + 1 < k) || decide (k + 1 < i)
  let s2 := match argMin (s x) far with | some k => s x k | none => s1
  if x < d then { word := 0x8003, conf := 0 }
  else if i = 0 ∨ i + 1 = t.nd then { word := 0x8004, conf := 0 }
  else if t.uniq ≠ 0 ∧ 100 * (s2 - s1) < t.uniq * s1 then { word := 0x8002, conf := 0 }
  else
    let q := x - d
    let cand := ds.filter fun k => decide (q + t.dmin + k ≤ t.w - 1)
    let r := (argMin (fun k => s (q + t.dmin + k) k) cand).getD i
    if t.lrTol < (if r < i then i - r else r - i) then { word := 0x8001, conf := 0, tested := true }
    else
      let f := subPixel (s x (i - 1)) s1 (s x (i + 1))
      { word := (16 * (d : Int) + f).toNat % 2 ^ 14, conf := 255 * (s2 - s1) / max s2 1, tested := true, passed := true }

/-- Working lines ya to yb of a source image. -/
def steLines (c : JC) (t : Ste) (base ya yb : Nat) : J Img :=
  if t.decim then
    jthen (jmap (fun i => jread c (base + 2 * (ya + i) * t.stride) (2 * t.sw)) (List.range (yb - ya))) fun rows =>
      let a := (rows.map fun r => halves t.sw r).toArray
      jret (Img.of t.w (yb - ya) fun x y => (((a[y]?).getD #[])[2 * x]?).getD 0)
  else jlines c base t.stride t.w ya yb

/-- A band of an STE job (R161 to R166). -/
def steUnit (c : JC) : J Writes := fun x =>
  let t := steOf x.job
  let k := x.job.units
  let b0 := 32 * k
  let b1 := min t.h (32 * k + 32)
  let ya := b0 - t.margin
  let yb := min t.h (b1 + t.margin)
  let ca := ya - 3
  let cb := min t.h (yb + 3)
  jthen (steLines c t t.left ca cb) (fun lm => jthen (steLines c t t.right ca cb) fun rm =>
    let lh := yb - ya
    let cl := Img.of t.w lh fun x y => t.census lm ca x (ya + y)
    let cr := Img.of t.w lh fun x y => t.census rm ca x (ya + y)
    let cost := Array.ofFn (n := t.w * lh * t.nd) fun i =>
      let q := i.val / t.nd
      let x := q % t.w
      let y := q / t.w
      let d := t.dmin + i.val % t.nd
      if x < d then t.bits else popcount 48 (Nat.xor (cl.get x y) (cr.get (x - d) y))
    let s := aggregate t.w lh t.nd t.p1 t.p2 fun x y d => (cost[(y * t.w + x) * t.nd + d]?).getD 0
    let rows := (List.range (b1 - b0)).map fun i =>
      let y := b0 + i - ya
      (List.range t.w).map fun x => t.select (fun x d => (s[(y * t.w + x) * t.nd + d]?).getD 0) x
    let ps := rows.flatten
    jthen (jmod fun j => { j with
      acc0 := j.acc0 + (ps.filter fun p => p.word < 0x8000).length,
      acc1 := j.acc1 + (ps.filter (·.tested)).length,
      acc2 := j.acc2 + (ps.filter fun p => p.tested && !p.passed).length }) fun _ =>
    jret (planeWrites t.disp (64 * cdiv (2 * t.w) 64) (rows.map fun r => r.flatMap fun p => leBytes 2 p.word) b0 ++
      (if t.confEn then
        planeWrites t.conf (64 * cdiv t.w 64) (rows.map fun r => r.map fun p => BitVec.ofNat 8 p.conf) b0
       else []))) x

end Sys2Proof.Machine
end

