-- ==== Sys2Proof/Machine/Flow.lean ====
section
/-! DEFINITION. The flow engine (R168 to R171), its speed monitors with RESYNC (R172 to R177, R184), and the feature
engine (R178 to R181). -/
namespace Sys2Proof.Machine
open Sys2Proof

/-! ### Flow search -/

/-- The fields of a FLW job (R168): descriptor and parameter block.  DESIGN CHOICE (log 146): BSTEP is a step in pixels,
whose 4 bits hold 4 and 8; 0 stands for 16. -/
structure Flw where
  prev0 : Nat
  prevP : Nat
  cur0 : Nat
  curP : Nat
  out : Nat
  w : Nat
  h : Nat
  stride0 : Nat
  nlev : Nat
  bstep : Nat
  rad : Nat
  fbEn : Bool
  spdEn : Bool
  mon : Nat
  axisY : Bool
  negate : Bool
  fbTol : Nat
  minBlocks : Nat
  x0 : Nat
  y0 : Nat
  x1 : Nat
  y1 : Nat
  encPrev : Nat
  encCur : Nat
  fsPrev : Nat
  pxc : Nat

def flwAux (j : Job) : Nat × Nat := (j.w64 0x38, 64)

def flwOf (j : Job) : Flw :=
  let a := fun o => wordAt j.aux o
  { prev0 := j.w64 0x10, prevP := j.w64 0x18, cur0 := j.w64 0x20, curP := j.w64 0x28, out := j.w64 0x30,
    w := a 0 % 65536, h := a 0 / 65536, stride0 := a 4 % 2 ^ 20, nlev := a 8 % 8, bstep := if bitsOf (a 8) 11 8 = 0 then 16 else bitsOf (a 8) 11 8,
    rad := bitsOf (a 8) 19 16, fbEn := bitOf (a 8) 24, spdEn := bitOf (a 8) 25, mon := bitsOf (a 8) 26 26,
    axisY := bitOf (a 8) 27, negate := bitOf (a 8) 28, fbTol := a 0xC % 65536, minBlocks := a 0xC / 65536,
    x0 := a 0x10 % 65536, y0 := a 0x10 / 65536, x1 := a 0x14 % 65536, y1 := a 0x14 / 65536, encPrev := a 0x18,
    encCur := a 0x1C, fsPrev := quadAt j.aux 0x20, pxc := a 0x28 % 65536 }

def flwOk (j : Job) : Bool := al64 [j.w64 0x10, j.w64 0x18, j.w64 0x20, j.w64 0x28, j.w64 0x30, j.w64 0x38]

/-- The parameter block is in range (R168), and a named monitor accepts samples (R184). -/
def flwParOk (s : State) (p : Nat) (j : Job) : Bool :=
  let f := flwOf j
  within 16 8192 f.w && within 16 8192 f.h && f.stride0 % 64 == 0 && decide (2 * f.w ≤ f.stride0) && within 1 5 f.nlev &&
    [4, 8, 16].contains f.bstep && within 1 8 f.rad && decide (f.x1 < f.w) && decide (f.y1 < f.h) &&
    (!f.spdEn || s.on p R.monEn f.mon)

/-- Anchors along one axis: multiples of BSTEP whose 8 pixels lie inside (R169). -/
def anchors (step lo hi : Nat) : List Nat :=
  ((List.range (hi + 1)).filter fun a => decide (step ≠ 0) && a % step == 0 && decide (lo ≤ a) && decide (a + 7 ≤ hi))

def Flw.cols (f : Flw) : List Nat := anchors f.bstep f.x0 f.x1
def Flw.rows (f : Flw) : List Nat := anchors f.bstep f.y0 f.y1

/-- Block rows of a job that has blocks. -/
def flwUnits (j : Job) : Nat := let f := flwOf j; if f.cols = [] then 0 else f.rows.length

/-- A level of a frame as read: the image lines from y0 on. -/
structure Lev where
  m : Img
  y0 : Nat
  h : Nat

def Lev.get (v : Lev) (x y : Int) : Nat := v.m.get (border false v.m.w x) (border false v.h y - v.y0)

/-- SAD of an 8 × 8 block (R169). -/
def sad (src dst : Lev) (x y vx vy : Int) : Nat :=
  ((List.range 64).map fun k =>
    let a : Int := (k % 8 : Nat)
    let b : Int := (k / 8 : Nat)
    let p := src.get (x + a) (y + b)
    let q := dst.get (x + a + vx) (y + b + vy)
    if p < q then q - p else p - q).sum

/-- Whether a candidate beats another: SAD, then |vx| + |vy|, then vy, then vx (R169). -/
def beats (a b : Nat × Int × Int) : Bool :=
  let na := a.2.1.natAbs + a.2.2.natAbs
  let nb := b.2.1.natAbs + b.2.2.natAbs
  if a.1 ≠ b.1 then decide (a.1 < b.1) else if na ≠ nb then decide (na < nb)
  else if a.2.2 ≠ b.2.2 then decide (a.2.2 < b.2.2) else decide (a.2.1 < b.2.1)

/-- The best displacement among a square of candidates around (cx, cy). -/
def bestOf (src dst : Lev) (x y : Int) (r : Nat) (cx cy : Int) : Nat × Int × Int :=
  let l := (List.range ((2 * r + 1) * (2 * r + 1))).map fun k =>
    let vx := cx + (k % (2 * r + 1) : Nat) - r
    let vy := cy + (k / (2 * r + 1) : Nat) - r
    (sad src dst x y vx vy, vx, vy)
  match l with
  | [] => (0, 0, 0)
  | a :: t => t.foldl (fun b c => if beats c b then c else b) a

/-- The coarse-to-fine search (R169), from level l downward. -/
def refine (src dst : Nat → Lev) (bx by' : Int) : Nat → Int → Int → Nat × Int × Int
  | 0, vx, vy => bestOf (src 0) (dst 0) bx by' 1 vx vy
  | l + 1, vx, vy =>
    let (_, ux, uy) := bestOf (src (l + 1)) (dst (l + 1)) (bx / 2 ^ (l + 1)) (by' / 2 ^ (l + 1)) 1 vx vy
    refine src dst bx by' l (2 * ux) (2 * uy)

/-- A block's displacement in sixteenths, with its level-0 SAD (R169). -/
def searchBlock (src dst : Nat → Lev) (nlev rad : Nat) (bx by' : Int) : Int × Int × Nat :=
  let t := nlev - 1
  let (e, vx, vy) :=
    let (e0, ux, uy) := bestOf (src t) (dst t) (bx / 2 ^ t) (by' / 2 ^ t) rad 0 0
    if t = 0 then (e0, ux, uy) else refine src dst bx by' (t - 1) (2 * ux) (2 * uy)
  let s := fun (dx dy : Int) => (sad (src 0) (dst 0) bx by' (vx + dx) (vy + dy) : Int)
  (16 * vx + subPixel (s (-1) 0) e (s 1 0), 16 * vy + subPixel (s 0 (-1)) e (s 0 1), e)

/-- A record of R171. -/
def flowRecord (valid : Bool) (vx vy : Int) (e : Nat) : List Byte :=
  if valid then leBytes 2 (unsgn 16 vx) ++ leBytes 2 (unsgn 16 vy) ++ leBytes 2 (min e 0xFFFF) ++ leBytes 2 0
  else leBytes 2 0x8000 ++ leBytes 2 1 ++ leBytes 2 (min e 0xFFFF) ++ leBytes 2 1

/-- Read the lines of level l that a block row at `by'` may touch. -/
def flwLevel (c : JC) (f : Flw) (base0 baseP l by' : Nat) : J Lev :=
  let reach := 2 * (f.rad * 2 ^ (f.nlev - 1 - l) + 2 ^ (f.nlev - 1 - l)) + 2
  let h := pyrDim f.h l
  let w := pyrDim f.w l
  let ya := min (h - 1) (by' / 2 ^ l - reach)
  let yb := min h (by' / 2 ^ l + 8 + reach)
  let (base, stride) := if l = 0 then (base0, f.stride0) else (baseP + pyrOff f.w f.h l, pyrStride w)
  jthen (jlines c base stride w ya yb) fun m => jret ⟨m, ya, h⟩

/-- A block row of a flow job (R169 to R171). -/
def flwUnit (c : JC) : J Writes := fun x =>
  let f := flwOf x.job
  let by' := (f.rows[x.job.units]?).getD 0
  let ls := List.range f.nlev
  jthen (jmap (fun l => flwLevel c f f.prev0 f.prevP l by') ls) (fun ps =>
  jthen (jmap (fun l => flwLevel c f f.cur0 f.curP l by') ls) fun cs =>
    let src := fun l => (ps[l]?).getD ⟨⟨0, 0, #[]⟩, 0, 0⟩
    let dst := fun l => (cs[l]?).getD ⟨⟨0, 0, #[]⟩, 0, 0⟩
    let recs := f.cols.map fun bx =>
      let (vx, vy, e) := searchBlock src dst f.nlev f.rad bx by'
      let ok := if f.fbEn then
          let (wx, wy, _) := searchBlock dst src f.nlev f.rad (bx + (vx + 8) / 16) (by' + (vy + 8) / 16)
          decide ((vx + wx).natAbs + (vy + wy).natAbs ≤ f.fbTol)
        else true
      (ok, vx, vy, e)
    let good := recs.filter (·.1)
    let comps := good.map fun r => unsgn 32 (let v := if f.axisY then r.2.2.1 else r.2.1; if f.negate then -v else v)
    jthen (jmod fun j => { j with acc0 := j.acc0 + good.length, acc1 := j.acc1 + (recs.length - good.length),
                                  hist := j.hist ++ comps }) fun _ =>
    jret [(f.out + x.job.units * (64 * cdiv (8 * f.cols.length) 64),
           recs.flatMap fun r => flowRecord r.1 r.2.1 r.2.2.1 r.2.2.2)]) x

/-! ### Belt speed and RESYNC -/

def insertInt (a : Int) : List Int → List Int
  | [] => [a]
  | b :: t => if a ≤ b then a :: b :: t else b :: insertInt a t

def sortInt (l : List Int) : List Int := l.foldr insertInt []

/-- The speed sample of a job: none when empty (R172). -/
def speedMed (j : Job) : Option Int :=
  let f := flwOf j
  let l := sortInt (j.hist.map fun v => sgn 32 v)
  if f.spdEn = false ∨ l.length < f.minBlocks ∨ l = [] then none else l[(l.length - 1) / 2]?

/-- Expected motion (R172). -/
def speedExp (j : Job) : Int := let f := flwOf j; diff32 f.encCur f.encPrev * f.pxc / 256

def State.mon (s : State) (p m : Nat) : MonSt := sget {} s.mons (2 * p + m)
def State.putMon (s : State) (p m : Nat) (x : MonSt) : State := { s with mons := sset {} s.mons (2 * p + m) x }

/-- RESYNC is raised for the monitor's line (R173, R174). -/
def raiseResync (s : State) (p m run : Nat) : State :=
  let l := s.rd p R.monLine m
  let s := ((s.wr p R.monResync 1 m).bump p R.resyncCnt 1 m).raise p 10
  let (inc, s) :=
    s.logI 0 { event := 0x24, part := linePart s l, page := p, addr := (s.mon p m).winStart, d0 := l, d1 := run }
  (resyncLine s l).doubt (.resync l) inc

/-- A non-empty speed sample reaches a monitor (R172, R173, R177). -/
def speedSample (s : State) (p m : Nat) (med exp : Int) (fsPrev : Nat) : State :=
  let s := (s.wr p R.lastMed16 (unsgn 16 med) m).wr p R.lastExp16 (unsgn 16 exp) m
  let x := s.mon p m
  let s := (s.putMon p m { x with lastSample := s.time }).wr p R.monStarved 0 m
  let x := s.mon p m
  let miss := decide (256 * (med - exp).natAbs > s.rd p R.monTol m * max exp.natAbs 16)
  if miss then
    let old := s.rd p R.missRun m
    let run := min 255 (old + 1)
    let x := { x with winStart := if old = 0 then fsPrev else x.winStart, missTime := s.time,
                      missEnc := s.rd pgLio R.encCnt (s.rd p R.monEncSel m) }
    let s := ((s.putMon p m x).wr p R.missRun run m).wr p R.agreeRun 0 m
    if run = s.rd p R.nRaise m ∧ old < run then raiseResync s p m run else s
  else (s.wr p R.agreeRun (min 255 (s.rd p R.agreeRun m + 1)) m).wr p R.missRun 0 m

/-- What a flow job delivers at its end (R172): a sample, or an empty one. -/
def flowEnd (s : State) (p : Nat) (j : Job) : State :=
  let f := flwOf j
  match speedMed j with
  | some med => if f.spdEn ∧ s.on p R.monEn f.mon then speedSample s p f.mon med (speedExp j) f.fsPrev else s
  | none => s

/-- RESYNC_CLEAR (R176, R184). -/
def execResyncClear (page m : Nat) (s : State) : Result :=
  .next (
    if ¬ (page = 0x90 ∨ page = 0x91) ∨ ¬ m < 2 then s else
    let x := s.mon page m
    if s.on page R.monEn m ∧ s.on page R.monResync m ∧ s.rd page R.nClear m ≤ s.rd page R.agreeRun m ∧
        (s.rd page R.holdCounts m : Int) ≤ diff32 (s.rd pgLio R.encCnt (s.rd page R.monEncSel m)) x.missEnc ∧
        x.missTime + s.rd page R.holdTime m ≤ s.time then
      s.wr page R.monResync 0 m
    else s)

/-- STARVED (R177). -/
def execStarved (page m : Nat) (s : State) : Result :=
  .next (
    if ¬ (page = 0x90 ∨ page = 0x91) ∨ ¬ m < 2 then s else
    let t := s.rd page R.starveTime m
    if s.on page R.monEn m ∧ t ≠ 0 ∧ (s.mon page m).lastSample + t ≤ s.time ∧ s.on page R.monStarved m = false then
      (s.wr page R.monStarved 1 m).raise page 11
    else s)

/-- MONITOR_ENABLE (R184). -/
def execMonitorEnable (ini : Ini) (page m : Nat) (on : Bool) (s : State) : Result :=
  .next (
    if ¬ (page = 0x90 ∨ page = 0x91) ∨ ¬ m < 2 then s else
    regRow s ini page (0x0C0 + 0x20 * m) fun s =>
      if on then
        let s := if s.on page R.monEn m then s else s.putMon page m { s.mon page m with lastSample := s.time }
        ((s.wr page R.monEn 1 m).wr page R.missRun 0 m).wr page R.agreeRun 0 m
      else s.wr page R.monEn 0 m)

/-! ### Features -/

/-- The fields of a FEA descriptor (R178). -/
structure Fea where
  src : Nat
  stride : Nat
  w : Nat
  h : Nat
  out : Nat
  thr : Nat
  maxPts : Nat
  arc : Nat

def feaOf (j : Job) : Fea :=
  { src := j.w64 0x10, stride := j.w32 0x18 % 2 ^ 20, w := j.lo16 0x1C, h := j.hi16 0x1C, out := j.w64 0x20,
    thr := j.lo16 0x30, maxPts := j.hi16 0x30, arc := j.w32 0x34 % 16 }

def feaAux (j : Job) : Nat × Nat := (j.w64 0x28, 1024)

def feaOk (j : Job) : Bool :=
  let f := feaOf j
  al64 [f.src, f.stride, f.out, j.w64 0x28] && within 48 8192 f.w && within 48 8192 f.h &&
    within 1 4096 f.maxPts && within 9 12 f.arc

/-- Every pattern byte lies in -15 to 15 (R178). -/
def feaPatOk (j : Job) : Bool := j.aux.all fun b => decide (-15 ≤ sgn 8 b.toNat) && decide (sgn 8 b.toNat ≤ 15)

/-- The circle of R179. -/
def feaCircle : List (Int × Int) :=
  [(0, -3), (1, -3), (2, -2), (3, -1), (3, 0), (3, 1), (2, 2), (1, 3), (0, 3), (-1, 3), (-2, 2), (-3, 1), (-3, 0),
   (-3, -1), (-2, -2), (-1, -3)]

/-- `arc` cyclically consecutive entries hold. -/
def runOf (l : List Bool) (arc : Nat) : Bool :=
  (List.range 16).any fun i => (List.range arc).all fun k => (l[(i + k) % 16]?).getD false

/-- The score of a corner; none where the pixel is no corner (R179). -/
def cornerScore (f : Fea) (v : Lev) (x y : Nat) : Option Nat :=
  if x < 17 ∨ f.w < x + 18 ∨ y < 17 ∨ f.h < y + 18 then none
  else
    let c := v.get x y
    let ps := feaCircle.map fun (dx, dy) => v.get ((x : Int) + dx) ((y : Int) + dy)
    let br := ps.map fun p => decide (c + f.thr < p)
    let dk := ps.map fun p => decide (p + f.thr < c)
    if runOf br f.arc then some (ps.map fun p => if c + f.thr < p then p - c - f.thr else 0).sum
    else if runOf dk f.arc then some (ps.map fun p => if p + f.thr < c then c - p - f.thr else 0).sum
    else none

/-- A corner packed as score, line and column. -/
def packCorner (x y sc : Nat) : Nat := sc * 2 ^ 32 + y * 65536 + x
def cX (k : Nat) : Nat := k % 65536
def cY (k : Nat) : Nat := k / 65536 % 65536
def cS (k : Nat) : Nat := k / 2 ^ 32

/-- A corner survives suppression (R179). -/
def survives (l : List Nat) (k : Nat) : Bool :=
  l.all fun n =>
    let near := n != k && decide (cX n ≤ cX k + 1) && decide (cX k ≤ cX n + 1) && decide (cY n ≤ cY k + 1) &&
      decide (cY k ≤ cY n + 1)
    !near || decide (cS n < cS k) ||
      (cS n == cS k && (decide (cY k < cY n) || (cY k == cY n && decide (cX k < cX n))))

/-- Order of the kept corners: descending score, ties in raster order (R180). -/
def cornerBefore (a b : Nat) : Bool :=
  if cS a ≠ cS b then decide (cS b < cS a) else if cY a ≠ cY b then decide (cY a < cY b) else decide (cX a ≤ cX b)

def insertCorner (a : Nat) : List Nat → List Nat
  | [] => [a]
  | b :: t => if cornerBefore a b then a :: b :: t else b :: insertCorner a t

/-- The survivors in order (R179, R180). -/
def feaFound (j : Job) : List Nat := (j.hist.filter (survives j.hist)).foldr insertCorner []

/-- Bands of detection, then groups of 64 features (R157); one group carries the header when nothing was found. -/
def feaBands (j : Job) : Nat := cdiv (feaOf j).h 32

def feaUnits (j : Job) : Nat :=
  if j.units < feaBands j then feaBands j + 1
  else feaBands j + max 1 (cdiv (min (feaOf j).maxPts (feaFound j).length) 64)

/-- Lines ya to yb of the source. -/
def feaLines (c : JC) (f : Fea) (ya yb : Nat) : J Lev :=
  jthen (jlines c f.src f.stride f.w ya (min f.h yb)) fun m => jret ⟨m, ya, f.h⟩

/-- The smoothed pixel of R181. -/
def smooth (v : Lev) (x y : Int) : Nat := pyrPixel false v.m v.y0 v.h 1 x.toNat y.toNat

/-- The 256-bit descriptor of a corner (R181). -/
def feaDesc (aux : List Byte) (v : Lev) (x y : Nat) : List Byte :=
  (List.range 32).map fun i => BitVec.ofNat 8 ((List.range 8).foldl (fun acc b =>
    let o := 4 * (8 * i + b)
    let at' := fun k => sgn 8 ((aux[o + k]?).getD 0).toNat
    if smooth v (x + at' 0) (y + at' 1) < smooth v (x + at' 2) (y + at' 3) then setBit acc b else acc) 0)

/-- A unit of a FEA job (R157, R179 to R181). -/
def feaUnit (c : JC) : J Writes := fun x =>
  let j := x.job
  let f := feaOf j
  if j.units < feaBands j then
    let y0 := 32 * j.units
    let y1 := min f.h (y0 + 32)
    jthen (feaLines c f (y0 - 3) (y1 + 3)) (fun v =>
      let cs := (List.range (y1 - y0)).flatMap fun i => (List.range f.w).filterMap fun x =>
        (cornerScore f v x (y0 + i)).map fun sc => packCorner x (y0 + i) sc
      jthen (jmod fun j => { j with hist := j.hist ++ cs }) fun _ => jret []) x
  else
    let g := j.units - feaBands j
    let found := feaFound j
    let kept := found.take f.maxPts
    let mine := (kept.drop (64 * g)).take 64
    jthen (jmap (fun k => jthen (feaLines c f (cY k - 17) (cY k + 18)) fun v =>
        jret (leBytes 2 (cX k) ++ leBytes 2 (cY k) ++ leBytes 4 (cS k) ++ leBytes 24 0 ++ feaDesc j.aux v (cX k) (cY k))) mine)
      (fun recs => jthen (jmod fun j => { j with acc0 := kept.length, acc1 := found.length }) fun _ =>
        jret ((if g = 0 then [(f.out, leBytes 4 kept.length ++ leBytes 4 found.length ++ leBytes 56 0)] else []) ++
          [(f.out + 64 + 4096 * g, recs.flatten)])) x

end Sys2Proof.Machine
end

