-- ==== Sys2Proof/Machine/Lvu.lean ====
section
/-! DEFINITION. The log-domain vector units: LNS16 arithmetic, the operations of a job and its units, the sampler and the
context record (R231 to R251). -/
namespace Sys2Proof.Machine
open Sys2Proof

/-! ### LNS16 (R231 to R236) -/

/-- EXP2[f] (R233): the integer nearest to 32,768 × 2^(f ÷ 1,024). -/
def exp2 (f : Nat) : Nat :=
  (List.range 17).foldl (fun n k =>
    let c := n + 2 ^ (16 - k)
    if ((2 * c - 1) ^ 32) ^ 32 ≤ 2 ^ (16384 + f) then c else n) 0

/-- The integer nearest to 1,024 × log2 a, for a > 0 (R234). -/
def log1024 (a : Nat) : Nat := (Nat.log2 ((a ^ 32) ^ 64) + 1) / 2

def lnsZero : Nat := 0x4000
def lnsNar : Nat := 0xC000

/-- The E field of a word. -/
def lnsE (w : Nat) : Int := sgn 15 w

def lnsS (w : Nat) : Bool := bitOf w 15

/-- The linear value of a signed log value (R233), in units of 2^−48. -/
def linE (neg : Bool) (e : Int) : Int :=
  let m : Int := exp2 (e % 1024).toNat * 2 ^ (e / 1024 + 33).toNat
  if neg then -m else m

/-- The linear value of a word; ZERO gives 0 (R233). -/
def lin (w : Nat) : Int := if w % 2 ^ 15 = lnsZero then 0 else linE (lnsS w) (lnsE w)

/-- A result with what it counts: saturations and underflows (R232). -/
structure Lns where
  w : Nat
  sat : Nat := 0
  unf : Nat := 0

/-- R232 for a sign and an exact E. -/
def lnsFit (neg : Bool) (e : Int) : Lns :=
  let sb := if neg then 2 ^ 15 else 0
  if 16383 < e then ⟨sb + 16383, 1, 0⟩
  else if e < -16383 then ⟨lnsZero, 0, 1⟩
  else ⟨sb + unsgn 15 e, 0, 0⟩

/-- lns of a linear value, with R232 (R234). -/
def lnsOf (a : Int) : Lns := if a = 0 then ⟨lnsZero, 0, 0⟩ else lnsFit (decide (a < 0)) (log1024 a.natAbs - 49152)

def isZero (w : Nat) : Bool := w == lnsZero
def isNar (w : Nat) : Bool := w == lnsNar

/-- The product of two words (R235), NAR as R232 has it. -/
def lnsMul (x y : Nat) : Lns :=
  if isNar x || isNar y then ⟨lnsNar, 0, 0⟩
  else if isZero x || isZero y then ⟨lnsZero, 0, 0⟩
  else lnsFit (lnsS x != lnsS y) (lnsE x + lnsE y)

/-- The exact linear product of two words, NAR counting as ZERO (R233, R241). -/
def linMul (x y : Nat) : Int :=
  if isNar x || isNar y || isZero x || isZero y then 0 else linE (lnsS x != lnsS y) (lnsE x + lnsE y)

/-- A linear value, NAR counting as ZERO. -/
def linZ (x : Nat) : Int := if isNar x then 0 else lin x

/-! ### Jobs (R239 to R241) -/

/-- The fields of a descriptor and its parameter block. -/
structure Lv where
  src0 : Nat
  src1 : Nat
  dst : Nat
  aux : Nat
  op : Nat
  sub : Nat
  nsrc : Nat
  n : Nat
  m : Nat
  xs : Int
  ys : Int
  seed : Nat
  pass : Nat
  layer : Nat
  fork : Nat
  flags : Nat
  kt : Nat
  topk : Nat
  ns : Nat
  topp : Nat
  disMax : Nat
  dropP : Nat
  blank : Nat
  nv : Nat
  ss : Nat
  ds : Nat
  eps : Nat
  ws : Nat

def lvOf (j : Job) : Lv :=
  let b := fun o => fromLe ((j.aux.drop o).take 1)
  let h := fun o => fromLe ((j.aux.drop o).take 2)
  { src0 := j.w64 0x10, src1 := j.w64 0x18, dst := j.w64 0x20, aux := j.w64 0x28, op := bitsOf (j.w32 0x30) 3 0,
    sub := bitsOf (j.w32 0x30) 7 4, nsrc := bitsOf (j.w32 0x30) 10 8 + 1, n := j.hi16 0x30, m := j.lo16 0x34,
    xs := sgn 8 (bitsOf (j.w32 0x34) 23 16), ys := sgn 8 (bitsOf (j.w32 0x34) 31 24), seed := quadAt j.aux 0,
    pass := wordAt j.aux 8, layer := h 0x0C, fork := b 0x0E, flags := b 0x0F, kt := h 0x10, topk := b 0x12, ns := b 0x13,
    topp := h 0x14, disMax := b 0x16, dropP := b 0x17, blank := h 0x18, nv := h 0x1A, ss := wordAt j.aux 0x1C,
    ds := wordAt j.aux 0x20, eps := h 0x24, ws := wordAt j.aux 0x28 }

def Lv.rnd (a : Lv) : Bool := bitOf a.flags 0
def Lv.collapse (a : Lv) : Bool := bitOf a.flags 1
def Lv.doubtEn (a : Lv) : Bool := bitOf a.flags 2
def Lv.writeP (a : Lv) : Bool := bitOf a.flags 3

def lvuAux (j : Job) : Nat × Nat := (j.w64 0x38, 64)

def lvuOk (j : Job) : Bool :=
  let a := lvOf j
  al64 [a.src0, a.src1, a.dst, a.aux, j.w64 0x38] && within 1 7 a.op && within 1 4096 a.n &&
    (a.op != 1 || decide (a.sub ≤ 2)) && (a.op != 2 || decide (a.sub ≤ 1)) && (a.op != 4 || decide (a.sub ≤ 2)) &&
    (a.op != 3 || within 1 4096 a.m)

/-- The limits of the parameter block (R240). -/
def lvuParOk (j : Job) : Bool :=
  let a := lvOf j
  al64 [a.ss, a.ds, a.ws] && decide (1 ≤ a.nv) && (a.op != 7 || (within 1 64 a.topk && decide (a.ns ≤ 15)))

/-- Units of one vector, or decodes of one step (R241). -/
def lvuPer (a : Lv) : Nat :=
  if a.op = 3 then cdiv a.m 64 else if a.op = 7 then a.ns + 1 else if a.op = 5 ∨ a.op = 6 then 1 else cdiv a.n 64

def lvuUnits (j : Job) : Nat := let a := lvOf j; a.nv * lvuPer a

/-- Q of domains 3 and 4, and of domain 5 with a decode in place of the fork (R220, R245). -/
def lvQ (a : Lv) (f : Nat) : Nat := a.layer + f * 2 ^ 16

/-! ### Operations -/

/-- Words of a vector, as the bytes spell them. -/
def words16 (n : Nat) (bs : List Byte) : List Nat := (halves n bs).toList

/-- Elements e0 to e1 − 1 of the unit. -/
def unitRange (n k : Nat) : Nat × Nat := (64 * k, min n (64 * k + 64))

/-- Narrowing counts kept with the job: saturations in acc0, underflows in acc2. -/
def jcount (rs : List Lns) : J Unit :=
  jmod fun j => { j with acc0 := j.acc0 + (rs.map (·.sat)).sum, acc2 := j.acc2 + (rs.map (·.unf)).sum }

def wordBytes (rs : List Lns) : List Byte := rs.flatMap fun r => leBytes 2 r.w

/-- Results that a unit stores from address a. -/
def jresult (a : Nat) (rs : List Lns) : J Writes := jthen (jcount rs) fun _ => jret [(a, wordBytes rs)]

/-- IN (R237). -/
def lvIn (c : JC) (a : Lv) (v k : Nat) : J Writes :=
  let e := unitRange a.n k
  let n := e.2 - e.1
  let sz := if a.sub = 0 then 1 else if a.sub = 1 then 2 else 4
  let srcs := if a.sub = 2 then a.nsrc else 1
  jthen (jmap (fun i => jread c (a.src0 + (v * srcs + i) * a.ss + sz * e.1) (sz * n)) (List.range srcs)) fun bs =>
    let val := fun (i : Nat) => ((bs.map fun b => sgn (8 * sz) (fromLe ((b.drop (sz * i)).take sz))).sum : Int)
    jresult (a.dst + v * a.ds + 2 * e.1) ((List.range n).map fun i =>
      let x := val i
      if x = 0 then ⟨lnsZero, 0, 0⟩ else lnsFit (decide (x < 0)) (log1024 x.natAbs + 1024 * a.xs))

/-- floor of m × 2^sh + h ÷ 2^16 (R238). -/
def roundAt (m : Nat) (sh : Int) (h : Nat) : Nat :=
  if 0 ≤ sh then m * 2 ^ sh.toNat + h / 2 ^ 16
  else (m * 2 ^ 16 + h * 2 ^ (-sh).toNat) / 2 ^ (16 + (-sh).toNat)

/-- One element of OUT (R238). -/
def lvOutElem (a : Lv) (v e w : Nat) : Int :=
  let d : Draw := ⟨a.seed, a.pass, lvQ a a.fork, v, 0, domLround⟩
  if a.dropP ≠ 0 ∧ ({ d with dom := domDropout }).unit 8 e < a.dropP then 0
  else if isZero w || isNar w then 0
  else
    let i := lnsE w / 1024
    let m := roundAt (exp2 (lnsE w % 1024).toNat) (i + a.ys - 15) (if a.rnd then d.unit 16 e else 2 ^ 15)
    let x : Int := if lnsS w then -(m : Int) else m
    let lim : Int := if a.sub = 0 then 128 else 32768
    if x < -lim then -lim else if lim - 1 < x then lim - 1 else x

/-- OUT (R238). -/
def lvOut (c : JC) (a : Lv) (v k : Nat) : J Writes :=
  let e := unitRange a.n k
  let sz := if a.sub = 0 then 1 else 2
  jthen (jread c (a.src0 + v * a.ss + 2 * e.1) (2 * (e.2 - e.1))) fun bs =>
    jret [(a.dst + v * a.ds + sz * e.1, (words16 (e.2 - e.1) bs).zipIdx.flatMap fun (w, i) =>
      leBytes sz (unsgn (8 * sz) (lvOutElem a v (e.1 + i) w)))]

/-- MATVEC (R241). -/
def lvMat (c : JC) (a : Lv) (v k : Nat) : J Writes :=
  let e := unitRange a.m k
  jthen (jread c (a.src0 + v * a.ss) (2 * a.n)) fun xb =>
    let x := words16 a.n xb
    jthen (if a.src1 = 0 then jret (List.replicate (e.2 - e.1) lnsZero)
           else jthen (jread c (a.src1 + 2 * e.1) (2 * (e.2 - e.1))) fun b => jret (words16 (e.2 - e.1) b)) fun bias =>
      jthen (jmap (fun (b, i) => jthen (jread c (a.aux + (e.1 + i) * a.ws) (2 * a.n)) fun wb =>
          jret (lnsOf ((List.zipWith linMul (words16 a.n wb) x).sum + linZ b))) bias.zipIdx) fun rs =>
        jresult (a.dst + v * a.ds + 2 * e.1) rs

/-- One element of EW (R235, R236, R241). -/
def lvEwElem (sub x y : Nat) : Lns :=
  if sub = 0 then lnsMul x y
  else if isNar x || isNar y then ⟨lnsNar, 0, 0⟩
  else lnsOf (if sub = 1 then lin x + lin y else lin x - lin y)

/-- EW (R241). -/
def lvEw (c : JC) (a : Lv) (v k : Nat) : J Writes :=
  let e := unitRange a.n k
  jthen (jread c (a.src0 + v * a.ss + 2 * e.1) (2 * (e.2 - e.1))) fun x =>
    jthen (jread c (a.src1 + 2 * e.1) (2 * (e.2 - e.1))) fun y =>
      jresult (a.dst + v * a.ds + 2 * e.1)
        (List.zipWith (lvEwElem a.sub) (words16 (e.2 - e.1) x) (words16 (e.2 - e.1) y))

/-- RMSNORM (R242). -/
def lvNorm (c : JC) (a : Lv) (v : Nat) : J Writes :=
  jthen (jread c (a.src0 + v * a.ss) (2 * a.n)) fun xb =>
    jthen (if a.src1 = 0 then jret (List.replicate a.n 0)
           else jthen (jread c a.src1 (2 * a.n)) fun g => jret (words16 a.n g)) fun gs =>
      let x := words16 a.n xb
      let q := lnsOf ((x.map fun w => if isZero w || isNar w then 0 else linE false (2 * lnsE w)).sum + linZ a.eps)
      let r := lnsE q.w - (log1024 a.n : Int)
      let y := List.zipWith (fun w g =>
        if isNar w || isNar g then (⟨lnsNar, 0, 0⟩ : Lns)
        else if isZero w || isZero g then ⟨lnsZero, 0, 0⟩
        else lnsFit (lnsS w != lnsS g) (lnsE w + lnsE g - r / 2)) x gs
      jthen (jcount [q]) fun _ => jresult (a.dst + v * a.ds) y

/-- The logit step (R243): e of each real element, and s. -/
def logits (a : Lv) (z : List Nat) : List (Option Int) × Int :=
  let g := z.map fun w => if isNar w then none else some ((lin w * (a.kt : Int) + 2 ^ 49) / 2 ^ 50)
  let gs := g.filterMap id
  let top := gs.foldl max (gs.headD 0)
  let e := g.map fun o => o.map fun x => x - top
  (e, (e.map fun o => match o with
    | some x => if x < -16383 then 0 else linE false x
    | none => 0).sum)

/-- The probabilities of a vector (R243). -/
def probs (e : List (Option Int)) (s : Int) : List Lns :=
  let es := lnsE (lnsOf s).w
  e.map fun o => match o with
    | some x => lnsFit false (x - es)
    | none => ⟨lnsZero, 0, 0⟩

/-- SOFTMAX (R243). -/
def lvSoft (c : JC) (a : Lv) (v : Nat) : J Writes :=
  jthen (jread c (a.src0 + v * a.ss) (2 * a.n)) fun zb => fun x =>
    let l := logits a (words16 a.n zb)
    if l.1.all (·.isNone) then .fail stProg x
    else jresult (a.dst + v * a.ds) (probs l.1 l.2) x

/-! ### The sampler (R244 to R248) -/

/-- The linear weight of an element with a given e. -/
def candW (x : Int) : Int := if x < -16383 then 0 else linE false x

/-- Insert a candidate in descending order of e; the earlier index stays first among equals. -/
def candIns (c : Int × Nat) : List (Int × Nat) → List (Int × Nat)
  | [] => [c]
  | d :: t => if d.1 < c.1 then c :: d :: t else d :: candIns c t

/-- The candidates with the largest e (R244 step 1). -/
def candidates (a : Lv) (e : List (Option Int)) : List (Int × Nat) :=
  ((e.zipIdx.filterMap fun (o, i) => o.map fun x => (x, i)).foldl (fun l c => (candIns c l).take a.topk) [])

/-- The candidates up to the one at which top-p cuts (R244 step 2). -/
def topCut (a : Lv) (s : Int) : List (Int × Nat) → Int → List (Int × Nat)
  | [], _ => []
  | c :: t, acc =>
    let acc := acc + candW c.1
    if (a.topp : Int) * s ≤ 65536 * acc then [c] else c :: topCut a s t acc

/-- The first candidate whose running sum exceeds the target (R244 step 5). -/
def takeCand (target : Int) : List (Int × Nat) → Int → Nat
  | [], _ => 0
  | c :: t, acc => if target < acc + candW c.1 then c.2 else takeCand target t (acc + candW c.1)

/-- The token of decode d at step t (R244, R245). -/
def sampleTok (a : Lv) (t d : Nat) (e : List (Option Int)) (s : Int) : Nat :=
  let l := candidates a e
  let l := if a.topp = 0 then l else topCut a s l 0
  if d = 0 then (l.headD (0, 0)).2
  else
    let k := (l.map fun c => candW c.1).sum
    let w := (⟨a.seed, a.pass, lvQ a d, t, 0, domSample⟩ : Draw).unit 32 0
    takeCand ((w : Int) * k / 2 ^ 32) l 0

/-- Merge runs of equal consecutive tokens. -/
def mergeRuns : List Nat → List Nat
  | x :: y :: t => if x = y then mergeRuns (y :: t) else x :: mergeRuns (y :: t)
  | l => l

/-- The sequence of decode d that is compared (R246), from all tokens in unit order. -/
def decodeSeq (a : Lv) (toks : List Nat) (d : Nat) : List Nat :=
  let raw := (List.range a.nv).map fun t => (toks[t * (a.ns + 1) + d]?).getD 0
  if a.collapse then (mergeRuns raw).filter fun x => a.blank == 0xFFFF || x != a.blank else raw

/-- DIS (R246). -/
def disOf (a : Lv) (toks : List Nat) : Nat :=
  ((List.range a.ns).filter fun d => decodeSeq a toks (d + 1) != decodeSeq a toks 0).length

/-- AGREE[t] (R246). -/
def agree (a : Lv) (toks : List Nat) (t : Nat) : Nat :=
  ((List.range a.ns).filter fun d => toks[t * (a.ns + 1) + (d + 1)]? == toks[t * (a.ns + 1)]?).length

/-- The header of a SAMPLE output (R248). -/
def sampleHeader (a : Lv) (toks : List Nat) : List Byte :=
  leBytes 1 (disOf a toks) ++ leBytes 1 a.ns ++ leBytes 2 a.nv ++
    ((List.range 16).flatMap fun d => leBytes 2 (if a.ns < d then 0 else (decodeSeq a toks d).length)) ++
    List.replicate 28 0

/-- A decode of a step (R244 to R248): its token, with the step's probabilities, and after the last one the agreement
bytes and the header. -/
def lvSample (c : JC) (a : Lv) (t d : Nat) : J Writes :=
  jthen (jread c (a.src0 + t * a.ss) (2 * a.n)) fun zb => fun x =>
    let l := logits a (words16 a.n zb)
    if l.1.all (·.isNone) then .fail stProg x
    else
      let tok := sampleTok a t d l.1 l.2
      let toks := x.job.hist ++ [tok]
      let gs := 64 * cdiv (2 * a.nv) 64
      let last := decide (t + 1 = a.nv ∧ d = a.ns)
      let ps := if d = 0 ∧ a.writeP then probs l.1 l.2 else []
      let ws := (if ps.isEmpty then [] else [(a.dst + t * a.ds, wordBytes ps)]) ++
        [(a.aux + 64 + d * gs + 2 * t, leBytes 2 tok)] ++
        (if last then [(a.aux + 64 + (a.ns + 1) * gs, (List.range a.nv).flatMap fun i => leBytes 1 (agree a toks i)),
                       (a.aux, sampleHeader a toks)] else [])
      jthen (jcount ps) (fun _ => jthen (jmod fun j =>
        { j with hist := toks, acc1 := if last then disOf a toks else j.acc1 }) fun _ => jret ws) x

/-- A unit of a job (R241). -/
def lvuUnit (c : JC) : J Writes := fun x =>
  let a := lvOf x.job
  let v := x.job.units / lvuPer a
  let k := x.job.units % lvuPer a
  (match a.op with
   | 1 => lvIn c a v k
   | 2 => lvOut c a v k
   | 3 => lvMat c a v k
   | 4 => lvEw c a v k
   | 5 => lvNorm c a v
   | 6 => lvSoft c a v
   | _ => lvSample c a v k) x

/-! ### The context record (R251) -/

/-- A generator context record (R227). -/
def genRec (d : Draw) (per n unit : Nat) : List Byte :=
  leBytes 8 d.seed ++ leBytes 4 d.p ++ leBytes 4 d.q ++ leBytes 4 d.s ++ leBytes 4 d.u ++ leBytes 4 (n / per) ++
    leBytes 4 (d.dom + n % per * 2 ^ 4 + unit * 2 ^ 9)

/-- The record of the context a job is left in (R251). -/
def ctxRecord (ptr : Nat) (j : Job) : List Byte :=
  let a := lvOf j
  let per := lvuPer a
  let v := j.units / per
  let k := j.units % per
  let d : Draw := ⟨a.seed, a.pass, lvQ a a.fork, v, 0, domLround⟩
  let none := List.replicate 32 (0 : Byte)
  let genA := if a.op = 2 ∧ a.rnd then genRec d 8 (64 * k) 1
    else if a.op = 7 ∧ a.ns ≠ 0 then genRec { d with q := lvQ a k, dom := domSample } 4 0 3 else none
  let genB := if a.op = 2 ∧ a.dropP ≠ 0 then genRec { d with dom := domDropout } 16 (64 * k) 0 else none
  leBytes 8 ptr ++ leBytes 4 j.units ++ leBytes 4 (if a.op = 7 then v + k * 2 ^ 16 else 0) ++ genA ++ genB ++
    List.replicate 48 0

/-- The unit writes the record of the context it leaves (R251). -/
def leaveContext (s : State) (p n : Nat) : State :=
  match s.job p n with
  | some j => if j.fetched then
      let r := ctxRecord j.ptr j
      (List.range 32).foldl (fun s w => s.wr p R.ctxRec (wordAt r (4 * w)) (32 * n + w)) s
    else s
  | none => s

end Sys2Proof.Machine
end

