-- ==== Sys2Proof/Machine/Stochastic.lean ====
section
/-! DEFINITION. The stochastic arrays: descriptor rules, the counts of a vector, early decision, the checksum column and
the vector block (R185 to R199, R222, R223). -/
namespace Sys2Proof.Machine
open Sys2Proof

/-- ⌈√x⌉. -/
def sqrtUp (x : Nat) : Nat := let r := Nat.sqrt x; if r * r < x then r + 1 else r

/-- A job of an array as R190 and R191 lay it out; `aux` holds the pass context, the biases and the multipliers. -/
structure Pass where
  actBase : Nat
  outBase : Nat
  actStride : Nat
  outStride : Nat
  v : Nat
  plane : Nat
  tiles : Nat
  len : Nat
  planeId : Nat
  pass0 : Nat
  rows : Nat
  cols : Nat
  fork : Nat
  raw : Bool
  seed : Nat
  layer : Nat
  act : Nat
  ed : Nat
  edz : Nat
  rnd : Bool
  csk : Nat
  tc : Nat
  shift : Nat
  bias : Array Int
  mult : Array Nat

def passOf (j : Job) : Pass :=
  let raw := bitOf j.dflags 0
  let w := wordAt j.aux 8
  let h := fun (o i : Nat) => fromLe ((j.aux.drop (o + 2 * i)).take 2)
  { actBase := j.w64 0x10, outBase := j.w64 0x18, actStride := j.lo16 0x28, outStride := j.hi16 0x28, v := j.lo16 0x2C,
    plane := bitsOf (j.w32 0x2C) 20 16, tiles := bitsOf (j.w32 0x2C) 23 21 + 1,
    len := 32 * (bitsOf (j.w32 0x2C) 29 24 + 1), planeId := j.w32 0x30, pass0 := j.w32 0x34,
    rows := bitsOf (j.w32 0x38) 9 0, cols := bitsOf (j.w32 0x38) 25 16, fork := bitsOf (j.w32 0x3C) 7 0, raw := raw,
    seed := quadAt j.aux 0, layer := bitsOf w 15 0, act := bitsOf w 17 16, ed := if raw then 0 else bitsOf w 19 18,
    edz := 2 + bitsOf w 21 20, rnd := bitOf w 22, csk := 4 + bitsOf w 25 24, tc := 32 * (bitsOf w 31 26 + 1),
    shift := bitsOf (wordAt j.aux 0x0C) 4 0,
    bias := Array.ofFn (n := 512) fun i => sgn 16 (h 128 i.val), mult := Array.ofFn (n := 512) fun i => h 1152 i.val }

/-- Bytes of a vector block (R199). -/
def Pass.block (a : Pass) : Nat := cdiv (if a.raw then 4 * a.cols else a.cols) 64 * 64 + 64

/-- The descriptor's own rules (R12, R190, R199). -/
def staOk (j : Job) : Bool :=
  let a := passOf j
  al64 [a.actBase, a.outBase, j.w64 0x20, a.actStride, a.outStride] && decide (512 * a.tiles ≤ a.actStride) &&
    decide (a.block ≤ a.outStride) && decide (1 ≤ a.v) && decide (a.plane + a.tiles ≤ 32) && within 1 512 a.rows &&
    within 1 512 a.cols

/-- The rules of the pass context (R191, R192). -/
def staCtxOk (j : Job) : Bool :=
  let a := passOf j
  decide (a.tc ≤ a.len) &&
    (a.raw || (al64 [quadAt j.aux 0x10, quadAt j.aux 0x18] && decide (a.act ≤ 2) && decide (a.ed ≤ 2) &&
      (a.ed != 1 || a.act == 1) && (a.ed != 2 || a.act == 2)))

/-- Where the pass context lies (R190). -/
def staCtx (j : Job) : Nat × Nat := (j.w64 0x20, 128)

/-- Unless RAWOUT, the biases and multipliers that the context names are read once too (R191, R192). -/
def staWeights (c : JC) : J Unit := fun x =>
  if bitOf x.job.dflags 0 then .ok () x
  else
    let ctx := x.job.aux
    jthen (jread c (quadAt ctx 0x10) 1024) (fun b =>
      jthen (jread c (quadAt ctx 0x18) 1024) fun m => jmod fun j => { j with aux := ctx ++ b ++ m }) x

/-! ### Counts of a vector -/

/-- A tile of a vector: the key of its draws, and the weights of its plane. -/
structure Tile where
  draw : Draw
  w : Array Byte
  chk : Array Nat
  acts : Array Byte

def pStore (s : State) (p n : Nat) : Plane := sget {} s.planes (32 * (p - 0xA0) + n)

/-- Tile k of vector v, under a fork (R190, R220). -/
def tileOf (s : State) (p : Nat) (a : Pass) (v fork : Nat) (acts : List Byte) (k : Nat) : Tile :=
  let pl := pStore s p (a.plane + k)
  { draw := ⟨a.seed, (a.pass0 + v * a.tiles + k) % 2 ^ 32, arrQ a.layer fork (p - 0xA0), 0,
             s.rd p R.planeId (a.plane + k), 0⟩,
    w := pl.weights.toArray, chk := pl.chk.toArray, acts := ((acts.drop (512 * k)).take 512).toArray }

/-- The row that group g passes on at stream bit t (R187). -/
def Tile.row (x : Tile) (g t : Nat) : Nat := 16 * g + ({ x.draw with s := g, dom := domSel }).unit 4 t

/-- The activation bit of row i (R185). -/
def Tile.actBit (x : Tile) (i t : Nat) : Bool :=
  decide ((({ x.draw with s := i, dom := domRow }).unit 8 t : Int) < ((x.acts[i]?).getD 0).toInt + 128)

/-- The weight bit of row i of column j, whose group is g (R185, R186). -/
def Tile.weightBit (x : Tile) (i j g t : Nat) : Bool :=
  let d := { x.draw with s := j, dom := domCol }
  if j < 512 then decide ((d.unit 8 (32 * t + g) : Int) < ((x.w[512 * i + j]?).getD 0).toInt + 128)
  else decide ((d.unit 16 (32 * t + g) : Int) < sgn 16 ((x.chk[i]?).getD 0) + 32768)

/-- The count of column j over stream bits t0 to t0 + n - 1 (R187). -/
def Tile.count (x : Tile) (j t0 n : Nat) : Nat :=
  ((List.range n).map fun b => ((List.range 32).map fun g =>
    let t := t0 + b
    let i := x.row g t
    b2n (x.actBit i t == x.weightBit i j g t)).sum).sum

/-- The centred count of column j over n stream bits (R187). -/
def Tile.centred (x : Tile) (j t0 n : Nat) : Int := 2 * (x.count j t0 n : Int) - (32 * n : Nat)

/-- The decision of a column at τ stream bits (R195): below, above or go on. -/
def edDecide (a : Pass) (j : Nat) (q : Int) (tau : Nat) : Option Bool :=
  let zt := q + ((a.bias[j]?).getD 0 * (tau : Int)) / 1024
  let m : Int := sqrtUp (32 * tau * a.edz * a.edz)
  if zt < -m then some false else if a.ed = 2 ∧ m < zt then some true else none

/-- Column j through the checkpoints of the last tile (R195); the stop is 2 × checkpoint, plus 1 when above. -/
def edRun (a : Pass) (x : Tile) (j : Nat) : Nat → Nat → Int → Int × Option Nat
  | 0, _, q => (q, none)
  | fuel + 1, t, q =>
    if a.len ≤ t then (q, none)
    else match edDecide a j q ((a.tiles - 1) * a.len + t) with
      | some hi => (q, some (2 * t + b2n hi))
      | none => edRun a x j fuel (t + 32) (q + x.centred j t 32)

/-- What an outside fault added to the count of column j in tile k. -/
def upsetOf (upset : Cells) (k j : Nat) : Int :=
  match upset.find? fun c => c.1 == 1024 * k + j with
  | some c => sgn 32 c.2
  | none => 0

/-- A column through the tiles of a vector (R187, R193, R195, R197): its count, its increments to t_c, its stop. -/
def colRun (a : Pass) (ts : List Tile) (upset : Cells) (j : Nat) : Int × List Int × Option Nat :=
  ts.zipIdx.foldl (fun (q, ds, _) (x, k) =>
    let d := x.centred j 0 a.tc + upsetOf upset k j
    if k + 1 = a.tiles ∧ a.ed ≠ 0 then
      let r := edRun a x j 64 a.tc (q + d)
      (r.1, ds ++ [d], r.2)
    else (q + d + x.centred j a.tc (a.len - a.tc), ds ++ [d], none)) (0, [], none)

/-- 512 × T_c (R197). -/
def Pass.limit (a : Pass) : Nat := 512 * (sqrtUp (128 * a.tc * a.csk * a.csk) + 1)

/-- The run of a vector under a fork (R187, R195, R197). -/
def runVector (s : State) (p : Nat) (a : Pass) (v fork : Nat) (acts : List Byte) (upset : Cells) : ArrRun :=
  let ts := (List.range a.tiles).map fun k => tileOf s p a v fork acts k
  let cs := (List.range 512).map fun j => colRun a ts upset j
  let chk := ts.zipIdx.map fun (x, k) => x.centred 512 0 a.tc + upsetOf upset k 512
  let devs := chk.zipIdx.map fun (d, k) => (512 * d - (cs.map fun c => (c.2.1[k]?).getD 0).sum).natAbs
  { counts := cs.map (·.1) ++ [chk.sum],
    stops := cs.zipIdx.filterMap fun (c, j) => c.2.2.map fun t => (j, t),
    dev := devs.foldl max 0, misses := (devs.filter fun d => decide (a.limit < d)).length, fork := fork }

/-! ### Outputs -/

/-- The output code of column j (R193, R195). -/
def colOut (s : State) (p : Nat) (a : Pass) (v : Nat) (r : ArrRun) (j : Nat) : Int :=
  match r.stops.find? fun x => x.1 == j with
  | some x => if x.2 % 2 = 1 then 127 else if a.act = 1 then 0 else -128
  | none =>
    let z := (r.counts[j]?).getD 0 + ((a.bias[j]?).getD 0 * ((a.len * a.tiles : Nat) : Int)) / 1024
    if a.act = 2 then (if 0 ≤ z then 127 else -128) else
    let y := if a.act = 1 then max 0 z else z
    let d := (tileOf s p a v r.fork [] (a.tiles - 1)).draw
    let rr := if a.rnd then ({ d with s := j, dom := domCol }).unit 32 (8 * (a.len * a.tiles)) % 2 ^ a.shift
              else 2 ^ a.shift / 2
    let o := (y * ((a.mult[j]?).getD 0 : Nat) + (rr : Nat)) / ((2 ^ a.shift : Nat) : Int)
    if o < -128 then -128 else if 127 < o then 127 else o

/-- The trailer of vector v (R199). -/
def trailer (a : Pass) (v cls : Nat) (r : ArrRun) : List Byte :=
  leBytes 4 (cls + r.fork * 2 ^ 8 + r.stops.length * 2 ^ 16) ++ leBytes 4 r.dev ++ leBytes 4 a.limit ++ leBytes 2 v ++
    List.replicate 50 0

/-- The block of vector v (R194, R199): outputs with padding, then the trailer. -/
def blockOf (s : State) (p : Nat) (a : Pass) (v cls : Nat) (r : ArrRun) : Writes :=
  let out := (List.range a.cols).flatMap fun j =>
    if a.raw then leBytes 4 (unsgn 32 ((r.counts[j]?).getD 0)) else leBytes 1 (unsgn 8 (colOut s p a v r j))
  let at0 := a.outBase + v * a.outStride
  [(at0, out ++ List.replicate (a.block - 64 - out.length) 0), (at0 + a.block - 64, trailer a v cls r)]

/-- The activation codes of vector v, 512 for each tile: rows that are not read take code 0 (R190). -/
def readActs (c : JC) (a : Pass) (v : Nat) : J (List Byte) :=
  jthen (jmap (fun k => jread c (a.actBase + v * a.actStride + 512 * k) a.rows) (List.range a.tiles)) fun ls =>
    jret (ls.flatMap fun l => l ++ List.replicate (512 - l.length) 0)

end Sys2Proof.Machine
end

