-- ==== Sys2Proof/Machine/Jobs.lean ====
section
/-! DEFINITION. The life of a job in a slot of an engine, array or log-domain vector unit: start, fetch, units and vectors,
recomputation and replay, end, completion record, budget and cancel (R124 to R135, R155, R156, R189, R198, R523 to R525). -/
namespace Sys2Proof.Machine
open Sys2Proof

/-! ### The engines behind one interface -/

/-- Units of a job on page p. -/
def unitsOf (p : Nat) (j : Job) : Nat :=
  match pageKind p with
  | some .pyr => pyrUnits j
  | some .wrp => wrpUnits j
  | some .hmp => hmpUnits j
  | some .ste => steUnits j
  | some .flw => flwUnits j
  | some .fea => feaUnits j
  | some .sta => (passOf j).v
  | some .lvu => lvuUnits j
  | _ => 0

def moreUnits (p : Nat) (j : Job) : Bool := decide (j.units < unitsOf p j)

/-- Compute the unit a job stands at. -/
def unitRun (p : Nat) (c : JC) : J Writes :=
  match pageKind p with
  | some .pyr => pyrUnit c
  | some .wrp => wrpUnit c
  | some .hmp => hmpUnit c
  | some .ste => steUnit c
  | some .flw => flwUnit c
  | some .fea => feaUnit c
  | some .lvu => lvuUnit c
  | _ => jret []

/-- The rules a descriptor keeps by itself (R12, R126 and the engine's own). -/
def descOk (p : Nat) (j : Job) : Bool :=
  kindOk p j && match pageKind p with
  | some .pyr => pyrOk j
  | some .wrp => wrpOk j
  | some .hmp => hmpOk j
  | some .ste => steOk j
  | some .flw => flwOk j
  | some .fea => feaOk j
  | some .sta => staOk j
  | some .lvu => lvuOk j
  | _ => false

/-- Fail with PROG unless a condition on the job holds. -/
def jcheck (f : JS → Bool) : J Unit := fun x => if f x then .ok () x else .fail stProg x

/-- Read a block that the descriptor names. -/
def jaux (c : JC) (f : Job → Nat × Nat) : J Unit := fun x =>
  jthen (jread c (f x.job).1 (f x.job).2) (fun bs => jmod fun j => { j with aux := bs }) x

/-- What a job reads once at its start besides the descriptor, with the rules that block keeps. -/
def jstart (p : Nat) (c : JC) : J Unit :=
  match pageKind p with
  | some .wrp => jaux c wrpAux
  | some .hmp => jthen (jaux c hmpAux) fun _ => jcheck fun x => hmpCalOk x.job
  | some .flw => jthen (jaux c flwAux) fun _ => jcheck fun x => flwParOk x.s p x.job
  | some .fea => jthen (jaux c feaAux) fun _ => jcheck fun x => feaPatOk x.job
  | some .sta => jthen (jaux c staCtx) fun _ => jthen (jcheck fun x => staCtxOk x.job) fun _ => staWeights c
  | some .lvu => jthen (jaux c lvuAux) fun _ => jcheck fun x => lvuParOk x.job
  | _ => jret ()

/-- The status with which the plane slots of an array refuse a job (R202). -/
def planeRefusal (s : State) (p : Nat) (a : Pass) : Option Nat :=
  (List.range a.tiles).findSome? fun k =>
    let n := a.plane + k
    let st := s.rd p R.planeState n
    if st = 5 then some stBusErr
    else if st ≠ 3 ∨ s.rd p R.planeId n ≠ (a.planeId + k) % 2 ^ 32 then some stProg
    else none

/-- REFCNT of the plane slots a job names rises when the job is accepted (R203). -/
def takePlanes (p : Nat) : J Unit := fun x =>
  if pageKind p ≠ some .sta then .ok () x else
  let a := passOf x.job
  match planeRefusal x.s p a with
  | some st => .fail st x
  | none =>
    let ns := (List.range a.tiles).map fun k => a.plane + k
    .ok () { x with s := ns.foldl (fun s n => s.bump p R.planeRef 1 n) x.s, job := { x.job with planes := ns } }

/-- The activation codes of vector v, if the job has it (R22, R192). -/
def vectorActs (c : JC) (v : Nat) : J (List Byte) := fun x =>
  let a := passOf x.job
  if a.v ≤ v then .ok [] x else readActs c a v x

/-- An accepted array job fetches the activations of its first vector (R192). -/
def firstActs (p : Nat) (c : JC) : J Unit :=
  if pageKind p = some .sta then jthen (vectorActs c 0) fun l => jmod fun j => { j with acts := l } else jret ()

/-- REFCNT falls when the record has been written; a RETIRING slot becomes EMPTY at 0 (R202, R203). -/
def dropPlanes (s : State) (p : Nat) (j : Job) : State :=
  j.planes.foldl (fun s n =>
    let s := s.wr p R.planeRef (s.rd p R.planeRef n - 1) n
    if s.rd p R.planeState n = 4 ∧ s.rd p R.planeRef n = 0 then s.wr p R.planeState 0 n else s) s

/-! ### Choosing the slot in service -/

/-- The slot whose unit comes next; an LVU that leaves a context writes its record (R129, R156, R189, R250, R251). -/
def serve (s : State) (p : Nat) : State :=
  let old := sfind s.served p
  let s' := pickIfIdle s moreUnits p
  match old with
  | some n => if pageKind p = some .lvu ∧ sfind s'.served p ≠ some n then leaveContext s' p n else s'
  | none => s'

/-- At a unit boundary the page chooses anew. -/
def boundary (s : State) (p : Nat) : State := serve { s with current := serase s.current p } p

/-- Put a job back and let the page choose, after its unit ended. -/
def putUnit (s : State) (p n : Nat) (j : Job) : State := boundary (s.putJob p n j) p

/-- A job that cannot go on will end with a status (R126, R523). -/
def failJob (s : State) (p n : Nat) (j : Job) (st : Nat) : State :=
  putUnit (if st = stProg then s.prog p else s) p n { j with ending := some st, missed := false }

/-! ### Submission -/

/-- A job enters a slot (R125). -/
def enqueue (s : State) (p n : Nat) (j : Job) : State :=
  let s := { (s.putJob p n { j with order := s.jobSeq }) with jobSeq := s.jobSeq + 1 }
  (s.setSlot p n slQueued).settle p true

/-- A START that reaches its slot (R124, R125): 1 when the job enters. -/
def startSlot (s : State) (p n part : Nat) : Nat × State :=
  if isFawn p n then (0, s)
  else if s.working p = false ∨ s.slotSt p n ≠ slIdle then (0, s.prog p)
  else (1, enqueue s p n { ptr := s.rd p (slotF p R.jobPtr) n, part := part })

/-- START (R125, R370). -/
def execStart (ini : Ini) (page slot : Nat) (s : State) : Result :=
  .next (
    if isEngine page = false ∨ nSlots page ≤ slot then s else
    regRow s ini page ((slotF page R.slotStart).off + 0x40 * slot) fun s =>
      (s.once (iniId ini) (iniPart s ini) page fun s => startSlot s page slot (iniPart s ini)).2)

/-- A job enters a reserved slot; the island, whose path is the slot's only user, has taken the records written before it
(log 52). -/
def fawnEnqueue (s : State) (p ptr : Nat) : State :=
  let n := nSlots p - 1
  enqueue (s.wr p (slotF p R.cqRdIdx) (s.rd p (slotF p R.cqWrIdx) n) n) p n { ptr := ptr, part := 0, sc := 3 }

/-- The island's own submission path (R124, R154, R249). -/
def execFawnSubmit (page ptr : Nat) (s : State) : Result :=
  .next (
    let n := nSlots page - 1
    if isEngine page = false ∨ isFawn page n = false ∨ s.working page = false ∨ s.slotSt page n ≠ slIdle then s
    else fawnEnqueue s page ptr)

/-- The job's last output write has been issued (R132). -/
def allIssued (p : Nat) (j : Job) : Bool := j.fetched && j.ending.isNone && !moreUnits p j

/-- CANCEL of a slot (R132): an abandoned retry is recorded (R527). -/
def cancelSlot (s : State) (p n : Nat) : State :=
  match s.job p n with
  | none => s
  | some j =>
    if s.slotSt p n ≠ slQueued ∧ s.slotSt p n ≠ slRunning then s else
    let s := s.setSlot p n slCancelling
    if j.done.isSome ∨ j.ending.isSome ∨ allIssued p j then s
    else
      let s := if j.missed then
          s.log { event := 0x1A, level := 2, cls := 3, part := j.part, page := p, tag := j.dtag, d0 := j.units } j.inc
        else if j.phase ≠ 0 then
          s.log { event := 0x1B, level := 2, cls := 3, part := j.part, page := p, tag := j.dtag, d0 := j.units } j.inc
        else s
      putUnit s p n { j with ending := some stCancelled, missed := false, phase := 0 }

/-- SLOT_CANCEL (R132). -/
def execSlotCancel (ini : Ini) (page slot : Nat) (s : State) : Result :=
  .next (
    if isEngine page = false ∨ nSlots page ≤ slot then s else
    regRow s ini page ((slotF page R.slotCancel).off + 0x40 * slot) fun s =>
      if isFawn page slot then s else cancelSlot s page slot)

/-- The context in which a job's transactions run. -/
def jcOf (p n : Nat) (j : Job) (hit : Hit) (host : Cells) : JC := ⟨p, n, jobTag p j, hit, host⟩

/-- Fetch and check the descriptor and what it names, before anything is written (R126, R202). -/
def fetchDesc (p : Nat) (c : JC) : J Unit := fun x =>
  jthen (jcheck fun x => al64 [x.job.ptr]) (fun _ =>
  jthen (jread c x.job.ptr 64) fun d =>
  jthen (jmod fun j => { j with desc := d }) fun _ =>
  jthen (jcheck fun x => descOk p x.job) fun _ =>
  jthen (jstart p c) fun _ =>
  jthen (takePlanes p) fun _ => firstActs p c) x

/-- DESCRIPTOR_FETCH_DONE (R126). -/
def execDescriptorFetchDone (page slot : Nat) (hit : Hit) (host : Cells) (s : State) : Result :=
  .next (
    match s.job page slot with
    | none => s
    | some j =>
      if s.slotSt page slot ≠ slQueued ∨ j.fetched ∨ j.ending.isSome then s else
      let go := fun (x : JS) (f : Job → Job) =>
        serve (((lbLearn x.s x.job).putJob page slot
          (f { x.job with fetched := true, start := s.time, skipped := s.pw.skipped })).setSlot page slot slRunning) page
      match fetchDesc page (jcOf page slot j hit host) { job := j, s := s } with
      | .ok _ x =>
        let (bad, s) := x.s.found page eProg false
        go { x with s := s } fun j => if bad then { j with ending := some stProg } else j
      | .wait => s
      | .fail st x => go { x with s := if st = stProg then x.s.prog page else x.s } fun j => { j with ending := some st })

/-! ### Units -/

/-- The slot's job is the one whose unit is in progress. -/
def inUnit (s : State) (p n : Nat) : Bool := sfind s.current p == some n && slotHasWork s moreUnits p n

/-- What a unit counted reaches the page's counters when it is committed (R143, R232, R253). -/
def unitCounts (s : State) (p : Nat) (old new : Job) : State :=
  match pageKind p with
  | some .wrp =>
    let s := s.bump p R.splitCnt (new.acc3 - old.acc3)
    if old.acc2 < new.acc2 then s.raise p 9 else s
  | some .lvu => (s.bump p R.satCnt (new.acc0 - old.acc0)).bump p R.unfCnt (new.acc2 - old.acc2)
  | _ => s

/-- Write a unit's held output and go on to the next unit (R134). -/
def commitUnit (s0 : State) (p n : Nat) (c : JC) (ws : Writes) (old : Job) (x : JS) : State :=
  match jfold (fun _ w => jwrite c w) ws () x with
  | .ok _ y => putUnit (unitCounts y.s p old y.job) p n { y.job with units := y.job.units + 1, missed := false }
  | .wait => s0
  | .fail st y => failJob y.s p n y.job st

/-- A residue miss on a unit: flag, count and one recomputation (R135, R252). -/
def missUnit (s : State) (p n : Nat) (j : Job) (inj : Bool) : State :=
  let s := (s.raiseI p eResidue inj).perf p 0x0C
  let s := if pageKind p = some .lvu then s.bump p R.lvuResMiss else s
  s.putJob p n { j with missed := true, missInj := inj }

/-- A check of the unit missed (R134, R252). -/
def unitMiss (p : Nat) (e : UnitErr) : Bool := residueMiss e.sums || (e.rom && pageKind p == some .lvu)

/-- UNIT_DONE (R134). -/
def execUnitDone (page slot : Nat) (miss : UnitErr) (hit : Hit) (host : Cells) (s : State) : Result :=
  .next (
    match s.job page slot with
    | none => s
    | some j =>
      if pageKind page = some .sta ∨ inUnit s page slot = false ∨ j.missed then s else
      let c := jcOf page slot j hit host
      match unitRun page c { job := j, s := s } with
      | .wait => s
      | .fail st x => failJob x.s page slot x.job st
      | .ok ws x =>
        let h := x.s.hit page eResidue (unitMiss page miss)
        if h.1 then missUnit h.2.2 page slot { j with retried := x.job.retried, inc := x.job.inc } h.2.1
        else commitUnit s page slot c ws j { x with s := h.2.2 })

/-- The record of a residue classification (R135, R534). -/
def residueRec (s : State) (p : Nat) (j : Job) (cls : Nat) (inj : Bool) : Nat × State :=
  s.logI j.inc { event := 0x1A, level := 2, cls := cls, inj := inj, part := j.part, page := p, tag := j.dtag, d0 := j.units }

/-- A lasting residue miss (R135): doubt for the job's frame, the page fenced, and the job ending RESIDUE_FAIL. -/
def lastingMiss (s : State) (p n : Nat) (j : Job) (inj : Bool) : State :=
  let (inc, s) := residueRec s p j 2 inj
  let s := if inj then s.doubtInj p eResidue else doubtByTag s j.part j.dtag inc
  let s := fencePage (s.putJob p n { j with inc := inc }) p inc
  putUnit s p n { j with ending := some stResidue, missed := false, phase := 0, inc := inc }

/-- A job whose unit has been recomputed without a miss (R135). -/
def retriedJob (p : Nat) (j : Job) : Job :=
  if pageKind p = some .sta then { j with acc2 := j.acc2 + 1, missed := false } else { j with retried := true, missed := false }

/-! ### Vectors of an array -/

/-- Totals kept for LAST_ counters and record bits: stops, the largest CS_DEV, transients and outliers. -/
def vecCounts (j : Job) (r : ArrRun) (cls : Nat) : Job :=
  { j with acc0 := j.acc0 + r.stops.length, acc1 := max j.acc1 r.dev, acc2 := j.acc2 + (if cls = 1 then 1 else 0),
           acc3 := j.acc3 + (if cls = 2 then 1 else 0) }

/-- Write the block of the vector once its tree has resolved (R198, R199). -/
def commitVector (s0 : State) (p n : Nat) (c : JC) (r : ArrRun) (cls : Nat) (x : JS) : State :=
  let a := passOf x.job
  match jfold (fun _ w => jwrite c w) (blockOf x.s p a x.job.units cls r) () x with
  | .ok _ y =>
    putUnit y.s p n { vecCounts y.job r cls with
      units := y.job.units + 1, missed := false, run := none, phase := 0, cls := 0, acts := y.job.ahead, ahead := [] }
  | .wait => s0
  | .fail st y => failJob y.s p n { y.job with phase := 0 } st

/-- The output of a resolved vector passes the post-processing residue checks, or awaits its recomputation (R194). -/
def finishVector (s0 : State) (p n : Nat) (c : JC) (r : ArrRun) (cls : Nat) (res : List SumErr) (x : JS) : State :=
  if residueMiss res then missUnit x.s p n { x.job with run := some r, cls := cls, phase := 0 } false
  else commitVector s0 p n c r cls x

/-- The record of a checksum classification (R198, R534). -/
def checksumRec (s : State) (p : Nat) (j : Job) (cls : Nat) (inj : Bool) (r : ArrRun) : Nat × State :=
  s.logI j.inc { event := 0x1B, level := 2, cls := cls, inj := inj, part := j.part, page := p, tag := j.dtag, d0 := j.units,
                 d1 := r.dev, d2 := r.fork }

/-- A lasting checksum miss (R198): the array is fenced, and the miss is reported as unresolved for the partition and for
the job's frame (R484). -/
def lastingVector (s : State) (p n : Nat) (j : Job) (inj : Bool) (r : ArrRun) : State :=
  let s := (s.bump p R.lastingCnt).raiseI p eResidue inj
  let (inc, s) := checksumRec s p j 2 inj r
  let s := if inj then s.doubtInj p eResidue else doubtByTag (s.doubt (.part j.part) inc) j.part j.dtag inc
  let s := fencePage (s.putJob p n { j with inc := inc }) p inc
  putUnit s p n { j with ending := some stResidue, missed := false, phase := 0, inc := inc }

/-- An uncorrectable weight read (R205, R377); its record names where the plane slot lies in the weight store. -/
def weightError (s : State) (p n : Nat) (j : Job) (wtile : Nat) (inj : Bool) : State :=
  let a := passOf j
  let k := a.plane + min wtile (a.tiles - 1)
  let s := s.raiseI p eEccUncorr inj
  let s := if inj then s else s.wr p R.planeState 5 k
  let (inc, s) := s.logI j.inc { event := 0x10, inj := inj, part := j.part, init := engInit p, page := p, tag := j.dtag,
                                 addr := 0x40400 * k }
  let s := if inj then s.doubtInj p eEccUncorr else s.doubt (.part j.part) inc
  failJob s p n { j with phase := 0, run := none, inc := inc } stBusErr

/-- A run of the vector in progress, with what its weight reads found; none after an uncorrectable one. -/
def arrayRun (s : State) (p : Nat) (j : Job) (fork : Nat) (upset : Cells) : Bool × State × ArrRun :=
  let r := runVector s p (passOf j) j.units fork j.acts upset
  let h := s.hit p eResidue (r.misses != 0)
  (h.1, h.2.2, { r with upset := h.2.1 })

/-- Weight ECC of a pass (R377): a corrected word is flagged, and noticed by the job's partition; the Bools say whether a
word could not be corrected, and whether an injection made it so. -/
def weightEcc (s : State) (p : Nat) (j : Job) (e : Ecc) : Bool × Bool × State :=
  let h := s.hit p eEccUncorr (e == .uncorr)
  if h.1 then h
  else
    let g := h.2.2.hit p eEccCorr (e == .corr)
    (false, false, if g.1 then (g.2.2.raiseI p eEccCorr g.2.1).noticeOn j.part else g.2.2)

/-- While a vector is in the array the activations of the next one are fetched (R192). -/
def nextActs (c : JC) : J Unit := fun x =>
  jthen (vectorActs c (x.job.units + 1)) (fun l => jmod fun j => { j with ahead := l }) x

/-- VECTOR_DONE (R193, R195, R197, R205). -/
def execVectorDone (page slot wtile : Nat) (wecc : Ecc) (upset : Cells) (res : List SumErr) (hit : Hit) (host : Cells)
    (s : State) : Result :=
  .next (
    match s.job page slot with
    | none => s
    | some j =>
      if pageKind page ≠ some .sta ∨ inUnit s page slot = false ∨ j.missed ∨ j.phase ≠ 0 then s else
      let c := jcOf page slot j hit host
      match nextActs c { job := j, s := s } with
      | .wait => s
      | .fail st x => failJob x.s page slot x.job st
      | .ok _ x =>
        let w := weightEcc x.s page x.job wecc
        if w.1 then weightError w.2.2 page slot x.job wtile w.2.1 else
        let (miss, s1, r) := arrayRun w.2.2 page x.job (passOf j).fork upset
        if miss then
          ((s1.bump page R.csMissCnt (max 1 r.misses)).perf page 0x0C).putJob page slot
            { x.job with run := some r, phase := 1 }
        else finishVector s page slot c r 0 res { x with s := s1 })

/-- REPLAY_DONE (R198 step 1). -/
def execReplayDone (page slot wtile : Nat) (wecc : Ecc) (upset : Cells) (res : List SumErr) (hit : Hit) (host : Cells)
    (s : State) : Result :=
  .next (
    match s.job page slot with
    | none => s
    | some j =>
      if pageKind page ≠ some .sta ∨ inUnit s page slot = false ∨ j.missed ∨ j.phase ≠ 1 then s else
      let w := weightEcc s page j wecc
      if w.1 then weightError w.2.2 page slot j wtile w.2.1 else
      let first := j.run.getD {}
      let (miss, s1, r) := arrayRun w.2.2 page j (passOf j).fork upset
      let differ := r.counts ≠ first.counts ∨ r.stops ≠ first.stops ∨ r.upset ≠ first.upset
      if differ then
        if miss then lastingVector s1 page slot j (first.upset || r.upset) r
        else
          let s1 := (s1.bump page R.transientCnt).raiseI page eResidue first.upset
          let (inc, s1) := checksumRec s1 page j 1 first.upset r
          finishVector s page slot (jcOf page slot j hit host) r 1 res { job := { j with inc := inc }, s := s1 }
      else s1.putJob page slot { j with phase := 2 })

/-- FORK_RUN_DONE (R198 step 2). -/
def execForkRunDone (page slot wtile : Nat) (wecc : Ecc) (upset : Cells) (res : List SumErr) (hit : Hit) (host : Cells)
    (s : State) : Result :=
  .next (
    match s.job page slot with
    | none => s
    | some j =>
      if pageKind page ≠ some .sta ∨ inUnit s page slot = false ∨ j.missed ∨ j.phase ≠ 2 then s else
      let w := weightEcc s page j wecc
      if w.1 then weightError w.2.2 page slot j wtile w.2.1 else
      let (miss, s1, r) := arrayRun w.2.2 page j ((passOf j).fork ^^^ 0x80) upset
      if miss then lastingVector s1 page slot j r.upset r
      else
        let s1 := ((s1.bump page R.outlierCnt).raise page 10).noticeOn j.part
        let (inc, s1) := checksumRec s1 page j 4 false r
        finishVector s page slot (jcOf page slot j hit host) r 2 res { job := { j with inc := inc }, s := s1 })

/-- UNIT_RECOMPUTE_DONE (R135, R194). -/
def execUnitRecomputeDone (page slot : Nat) (miss : UnitErr) (hit : Hit) (host : Cells) (s : State) : Result :=
  .next (
    match s.job page slot with
    | none => s
    | some j =>
      if inUnit s page slot = false ∨ j.missed = false then s else
      let c := jcOf page slot j hit host
      match (if pageKind page = some .sta then .ok [] { job := j, s := s } else unitRun page c { job := j, s := s }) with
      | .wait => s
      | .fail st x => failJob (residueRec x.s page x.job 3 j.missInj).2 page slot x.job st
      | .ok ws x =>
        let h := x.s.hit page eResidue (unitMiss page miss)
        if h.1 then
          let s1 := h.2.2.raiseI page eResidue h.2.1
          let s1 := if pageKind page = some .lvu then s1.bump page R.lvuResMiss else s1
          lastingMiss s1 page slot { j with inc := x.job.inc, retried := x.job.retried } h.2.1
        else
          let (inc, s1) := residueRec h.2.2 page x.job 1 j.missInj
          let y : JS := { x with job := { retriedJob page x.job with inc := inc }, s := s1 }
          if pageKind page = some .sta then commitVector s page slot c (j.run.getD {}) j.cls y
          else commitUnit s page slot c ws j y)

/-! ### Ends -/

/-- LAST_ counters of a slot (R152, R182, R214, R253). -/
def lastCounters (s : State) (p n : Nat) (j : Job) : State :=
  let (a, b, c) := match pageKind p with
    | some .hmp => (j.acc0, j.acc1, j.acc2)
    | some .ste => (j.acc0, j.acc1, j.acc2)
    | some .flw => (j.acc0, j.acc1, match speedMed j with | some m => unsgn 32 m | none => 0x80000000)
    | some .fea => (j.acc0, j.acc1, 0)
    | some .sta => (j.acc0, j.acc1, j.units)
    | some .lvu => (j.acc0, j.acc1, j.units)
    | _ => (0, 0, 0)
  ((s.wr p (slotF p R.last0) a n).wr p (slotF p R.last1) b n).wr p (slotF p R.last2) c n

/-- Bits 8 to 10 of the completion record (R128, R155, R214, R253). -/
def recordBits (p : Nat) (j : Job) : Bool × Bool × Bool :=
  match pageKind p with
  | some .sta => (j.acc2 != 0, j.acc3 != 0, j.acc0 != 0)
  | some .lvu => (j.retried, j.acc0 != 0, j.bit10)
  | _ => (j.retried, j.bit9, j.bit10)

/-- LOWCOV of an STE job (R166). -/
def lowcov (j : Job) : Bool :=
  decide (j.acc1 = 0) || decide (256 * (j.acc1 - j.acc2) < (steOf j).lrcov * j.acc1)

/-- What an engine does at the end of a job that ran to its end (R166, R172, R232, R247). -/
def endEffects (s : State) (p : Nat) (j : Job) : Job × State :=
  match pageKind p with
  | some .ste =>
    if lowcov j then
      let s := s.raise p 9
      ({ j with bit9 := true }, if (steOf j).doubtEn then doubtByTag s j.part j.dtag j.inc else s)
    else (j, s)
  | some .flw => ({ j with bit9 := (flwOf j).spdEn && (speedMed j).isNone }, flowEnd s p j)
  | some .lvu =>
    let a := lvOf j
    let s := if j.acc0 ≠ 0 then s.raise p 10 else s
    if a.op = 7 ∧ a.doubtEn ∧ a.disMax < j.acc1 then
      ({ j with bit10 := true }, doubtByTag ((s.bump p R.lvuDoubtCnt).raise p 9) j.part j.dtag j.inc)
    else (j, s)
  | _ => (j, s)

/-- Consecutive TIMEOUT ends of a slot; the second fences the page (R525). -/
def countTimeout (s : State) (p n st inc : Nat) : State :=
  if st = stTimeout then
    let k := sget 0 s.toRuns (jobKey p n) + 1
    let s := { s with toRuns := sput s.toRuns (jobKey p n) k }
    if 2 ≤ k then fencePage s p inc else s
  else { s with toRuns := serase s.toRuns (jobKey p n) }

/-- Slot n's completion ring is full (R68, R127). -/
def cqFull (s : State) (p n : Nat) : Bool :=
  ringFull (s.rd p (slotF p R.cqCount) n) (s.rd p (slotF p R.cqWrIdx) n) (s.rd p (slotF p R.cqRdIdx) n)

/-- A job ends with a status: its record is due, or waits for room (R127). -/
def endJob (s : State) (p n cycles st : Nat) (j : Job) : State :=
  let (j, s) := if st = stOk then endEffects s p j else (j, s)
  let j := { j with done := some st, cycles := min cycles 0xFFFFFFFF, run := none, phase := 0, missed := false }
  let s := lastCounters (s.putJob p n j) p n j
  let s := s.perf p 0x04
  let s := if st = stOk then s else s.perf p 0x05
  let s := if st = stTimeout then s.raise p eTimeout else s
  let s := if cqFull s p n then (s.setSlot p n slDoneWait).raise p 8 else s
  serve (countTimeout s p n st j.inc) p

/-- JOB_END (R127): every output write of the job is complete, or the job cannot go on. -/
def execJobEnd (page slot cycles : Nat) (s : State) : Result :=
  .next (
    match s.job page slot with
    | none => s
    | some j =>
      if j.fetched = false ∨ j.done.isSome then s
      else match j.ending with
        | some st => if st ≤ stResidue then endJob s page slot cycles st j else s
        | none => if allIssued page j then endJob s page slot cycles stOk j else s)

/-- JOB_DRAIN_DONE (R131 to R133). -/
def execJobDrainDone (page slot cycles : Nat) (s : State) : Result :=
  .next (
    match s.job page slot with
    | none => s
    | some j =>
      if j.done.isSome then s
      else match j.ending with
        | some st => endJob s page slot cycles st j
        | none => s)

/-- The time a job has run has reached its budget; an array job's advances only in unskipped cycles (R131, R587). -/
def budgetSpent (s : State) (p : Nat) (j : Job) : Bool :=
  let lost := if pageKind p = some .sta then s.pw.skipped - j.skipped else 0
  decide (8 * (j.start + usTicks j.budget) + lost ≤ 8 * s.time)

/-- JOB_BUDGET_EXPIRY (R131, R527, R587). -/
def execJobBudgetExpiry (page slot : Nat) (s : State) : Result :=
  .next (
    match s.job page slot with
    | none => s
    | some j =>
      if j.fetched = false ∨ j.done.isSome ∨ j.ending.isSome ∨ allIssued page j ∨
          budgetSpent s page j = false then s else
      let second := decide (1 ≤ sget 0 s.toRuns (jobKey page slot))
      let (inc, s) := s.logI j.inc { event := 0x19, level := 2, cls := if second then 2 else 0, part := j.part, page := page,
                                     tag := j.dtag, d0 := slot }
      let j := { j with inc := inc }
      let s := if j.missed then (residueRec s page j 3 j.missInj).2
        else if j.phase ≠ 0 then (checksumRec s page j 3 false (j.run.getD {})).2 else s
      let s := doubtByTag s j.part j.dtag inc
      putUnit s page slot { j with ending := some stTimeout, missed := false, phase := 0 })

/-- The 16-byte completion record (R128). -/
def complRecord (s : State) (p n : Nat) (j : Job) (st : Nat) : List Byte :=
  let b := recordBits p j
  let w := condOf s j.part + st * 2 ^ 4 + b2n b.1 * 2 ^ 8 + b2n b.2.1 * 2 ^ 9 + b2n b.2.2 * 2 ^ 10 +
    b2n (st != 0 && j.wrote) * 2 ^ 11 + n % 4 * 2 ^ 12 + j.dtag * 2 ^ 16
  leBytes 4 w ++ leBytes 4 j.cycles ++ leBytes 8 s.time

/-- The node execution of a job ends, or its descriptor is to be dispatched once more (R524). -/
def nodeJobEnd (s : State) (j : Job) (st : Nat) : State :=
  match j.node with
  | none => s
  | some key =>
    match execOf s key with
    | none => s
    | some e =>
      let live := ((s.graph (keyGraph key)).inst (keyInst key)).any fun a => a.ending.isNone
      if st = stTimeout ∧ e.tries = 0 ∧ e.cancelled = false ∧ live then
        modExec s key fun e => { e with again := true, tries := 1 }
      else
        let s := if st = stOk ∧ e.tries = 1 then
            s.log { event := 0x19, level := 2, cls := 1, part := j.part, page := 0x3FFF, tag := j.dtag } j.inc
          else s
        finishExec s key st

/-- The job leaves its slot (R127). -/
def freeSlot (s : State) (p n : Nat) (j : Job) : State :=
  let s := dropPlanes { (s.setSlot p n slIdle) with jobs := serase s.jobs (jobKey p n) } p j
  let s := { s with current := if sfind s.current p = some n then serase s.current p else s.current }
  serve (s.settle p (engBusy s p)) p

/-- COMPLETION_RECORD_DONE (R127, R128); of a Fawn slot the island learns how the job ended (R499). -/
def execCompletionRecordDone (page slot : Nat) (hit : Hit) (s : State) : Result :=
  .next (
    match s.job page slot with
    | none => s
    | some j =>
      match j.done with
      | none => s
      | some st =>
        if cqFull s page slot then s else
        let s := if isFawn page slot then { s with fawnEnds := sput s.fawnEnds page (st + 16 * b2n j.bit9) } else s
        let i := s.rd page (slotF page R.cqWrIdx) slot
        match writeAll s (jobTag page j) page j.dtag (s.rd page (slotF page R.cqBase) slot + 16 * ixIdx i)
            (complRecord s page slot j st) hit j.inc with
        | (.ok _, _, _, s) =>
          let s := s.wr page (slotF page R.cqWrIdx) (ringNext (s.rd page (slotF page R.cqCount) slot) i) slot
          let s := s.bump page (slotF page R.jobsDone) 1 slot
          let s := if st = stOk ∧ j.semEn then s.semPost (engInit page) j.part j.sem else s
          nodeJobEnd (freeSlot s page slot j) j st
        | (_, _, _, s) => nodeJobEnd (freeSlot s page slot j) j stBusErr)

end Sys2Proof.Machine
end

