-- ==== Sys2Proof/Machine/Planes.lean ====
section
/-! DEFINITION. Weight planes: arming and retiring plane slots, push orders and the Antler chain (R200 to R210), and the
model digest (R546). -/
namespace Sys2Proof.Machine
open Sys2Proof

/-- SHA-384 of a byte string, as bytes. -/
def shaBytes (bs : List Byte) : List Byte :=
  (List.range 48).map fun i => (Config.sha384 bs >>> (8 * (47 - i))).setWidth 8

/-- The bytes of MD of partition p, in its partition entry (R546, R551). -/
def mdOf (s : State) (p : Nat) : List Byte :=
  (List.range 12).flatMap fun i => leBytes 4 (s.rd pgSec R.partEntry (16 * p + 4 + i))

def setMd (s : State) (p : Nat) (bs : List Byte) : State :=
  (List.range 12).foldl (fun s i => s.wr pgSec R.partEntry (wordAt bs (4 * i)) (16 * p + 4 + i)) s

/-- Bytes of a plane (R200). -/
def planeBytes : Nat := 263232

def isSta (p : Nat) : Bool := pageKind p == some .sta

/-- ARM of a plane slot (R204): accepted or not. -/
def armPlane (s : State) (p n : Nat) : Bool × State :=
  let st := s.rd p R.planeState n
  let id := s.rd p R.planeId n
  let taken := (List.range 32).any fun m =>
    m != n && s.rd p R.planeId m == id && [1, 2, 3].contains (s.rd p R.planeState m)
  if (st = 0 ∨ (st = 3 ∧ s.rd p R.planeRef n = 0) ∨ st = 5) ∧ taken = false then (true, s.wr p R.planeState 1 n)
  else (false, s.prog p)

/-- ARM (R204). -/
def execArm (ini : Ini) (page plane : Nat) (s : State) : Result :=
  .next (
    if isSta page = false ∨ 32 ≤ plane then s else
    regRow s ini page (0x204 + 8 * plane) fun s => (armPlane s page plane).2)

/-- RETIRE (R204). -/
def execRetire (ini : Ini) (page plane : Nat) (s : State) : Result :=
  .next (
    if isSta page = false ∨ 32 ≤ plane then s else
    regRow s ini page (0x204 + 8 * plane) fun s =>
      if s.rd page R.planeState plane = 3 then
        s.wr page R.planeState (if s.rd page R.planeRef plane = 0 then 0 else 4) plane
      else s)

/-- Queue a push order (R207). -/
def queuePush (s : State) (o : Push) : State :=
  let s := { s with pushes := s.pushes ++ [o] }
  s.wr (pgSta 0) R.pushQ s.pushes.length

/-- A GO that reaches PUSH_CTRL (R207): 1 when the order is queued. -/
def pushOrder (s : State) (part : Nat) : Nat × State :=
  let src := s.rd (pgSta 0) R.pushSrc
  let dig := s.rd (pgSta 0) R.pushDig
  if 8 ≤ s.pushes.length then (0, s.raise (pgSta 0) 11)
  else if al64 [src, dig] = false then (0, s.prog (pgSta 0))
  else (1, queuePush s { src := src, dig := dig, part := part })

/-- PUSH_GO (R207, R370). -/
def execPushGo (ini : Ini) (s : State) : Result :=
  .next (regRow s ini (pgSta 0) 0x110 fun s =>
    (s.once (iniId ini) (iniPart s ini) (pgSta 0) fun s => pushOrder s (iniPart s ini)).2)

/-- PUSH_ORDER_START (R207, R209): the plane is read in ascending order; a read that fails makes it poisoned. -/
def execPushOrderStart (hit : Hit) (host : Cells) (s : State) : Result :=
  .next (
    match s.pushes with
    | [] => s
    | o :: rest =>
      if s.working (pgSta 0) = false ∨ s.transits.any (fun t => !t.sent) then s else
      let s := { s with pushes := rest }
      let s := s.wr (pgSta 0) R.pushQ rest.length
      let t : Tag := ⟨0x50, o.part, 1⟩
      let (bytes, bad, s) := match readAll s t (pgSta 0) 0 o.src planeBytes hit host 0 with
        | (.ok bs, _, s) => (bs, false, s)
        | (_, _, s) =>
          let (bs, s) := s.freeBytes planeBytes
          (bs, true, s)
      let (badDig, s) := if o.dig = 0 then (false, s) else
        match readAll s t (pgSta 0) 0 o.dig 48 cleanHit host 0 with
        | (.ok bs, _, s) => (bs != shaBytes bytes, s)
        | (_, _, s) => (true, s)
      { s with transits := s.transits ++ [{ order := o, bytes := bytes, poisoned := bad, badDigest := badDig }] })

/-- Replace the first transit that satisfies a test; one that has passed all arrays and left STA0 goes. -/
def modTransit (f : Transit → Bool) (g : Transit → Transit) : List Transit → List Transit
  | [] => []
  | t :: rest =>
    if f t then
      let u := g t
      if u.ended = 4 ∧ u.sent then rest else u :: rest
    else t :: modTransit f g rest

/-- A PUSH node ends once every capture it armed has become READY or BAD (R257, R275). -/
def pushNodeEnd (s : State) (o : Push) : State :=
  match o.node with
  | none => s
  | some key =>
    if o.arms = [] then
      let cancelled := match execOf s key with
        | some e => e.cancelled
        | none => false
      finishExec s key (if cancelled then stCancelled else if o.bad then stBusErr else stOk)
    else s

/-- The captures that ended in array a leave an order's list (R257). -/
def Push.captured (o : Push) (a : Nat) (slots bads : List Nat) : Push :=
  { o with arms := o.arms.filter (fun m => !(m.1 == a && slots.contains m.2)),
           bad := o.bad || o.arms.any fun m => m.1 == a && bads.contains m.2 }

/-- Every order, waiting or on the chain, learns which captures ended in array a; the orders that waited for no others end
their PUSH nodes (R257, R275). -/
def captureEnds (s : State) (a : Nat) (slots bads : List Nat) : State :=
  let hit := fun (o : Push) => o.arms.any fun m => m.1 == a && slots.contains m.2
  let done := ((s.pushes ++ s.transits.map (·.order)).filter hit).map fun o => o.captured a slots bads
  let s := { s with pushes := s.pushes.map fun o => o.captured a slots bads,
                    transits := s.transits.map fun t => { t with order := t.order.captured a slots bads } }
  done.foldl pushNodeEnd s

/-- PLANE_ARRIVAL (R208). -/
def execPlaneArrival (page : Nat) (s : State) : Result :=
  .next (
    let a := page - 0xA0
    if isSta page = false ∨ s.transits.any (fun t => decide (a < t.arrived) && decide (t.ended ≤ a)) then s else
    match s.transits.find? fun t => t.arrived == a with
    | none => s
    | some t =>
      let s := { s with transits := modTransit (fun t => t.arrived == a) (fun t => { t with arrived := a + 1 }) s.transits }
      let s := s.wr page R.chainBusy 1
      let id := wordAt t.bytes 0
      match (List.range 32).find? fun n => s.rd page R.planeState n == 1 && s.rd page R.planeId n == id with
      | some n => s.wr page R.planeState 2 n
      | none => s)

/-- Checksum weight of row i, as a half-word (R201). -/
def rowChk (w : List Byte) (i : Nat) : Nat :=
  unsgn 16 ((((w.drop (512 * i)).take 512).map fun b => b.toInt).sum / 2)

/-- The weights of a plane, and the checksum weights computed of them (R200, R201). -/
def planeOf (t : Transit) : Plane :=
  let w := (t.bytes.drop 0x40).take 262144
  { weights := w, chk := (List.range 512).map (rowChk w), part := t.order.part }

/-- A plane whose capture is BAD: poisoned, of another digest or layout, or with checksum weights that are not its own
(R201, R209). -/
def planeBad (t : Transit) : Bool :=
  let stored := (List.range 512).map fun i => fromLe ((t.bytes.drop (0x40040 + 2 * i)).take 2)
  t.poisoned || t.badDigest || wordAt t.bytes 8 != 1 || (!bitOf (wordAt t.bytes 4) 0 && (planeOf t).chk != stored)

/-- Capture a plane in slot n of array page p (R200, R201, R209). -/
def capture (s : State) (p n : Nat) (t : Transit) : State :=
  let s := { s with planes := sset {} s.planes (32 * (p - 0xA0) + n) (planeOf t) }
  if planeBad t then (s.wr p R.planeState 5 n).raise p 9 else s.wr p R.planeState 3 n

/-- PLANE_CAPTURE_END (R209). -/
def execPlaneCaptureEnd (page : Nat) (poison : Bool) (s : State) : Result :=
  .next (
    let a := page - 0xA0
    if isSta page = false then s else
    match s.transits.find? fun t => decide (a < t.arrived) && t.ended == a with
    | none => s
    | some t =>
      let t := { t with poisoned := t.poisoned || poison, ended := a + 1 }
      let s := { s with transits := modTransit (fun t => decide (a < t.arrived) && t.ended == a) (fun _ => t) s.transits }
      let s := s.wr page R.chainBusy 0
      let slots := (List.range 32).filter fun n => s.rd page R.planeState n == 2
      let s := slots.foldl (fun s n => capture s page n t) s
      captureEnds s a slots (slots.filter fun n => s.rd page R.planeState n == 5))

/-- PUSH_ORDER_END (R207, R546). -/
def execPushOrderEnd (s : State) : Result :=
  .next (
    match s.transits.find? fun t => !t.sent && decide (1 ≤ t.ended) with
    | none => s
    | some t =>
      let p := t.order.part
      let s := { s with transits := modTransit (fun t => !t.sent && decide (1 ≤ t.ended)) (fun t => { t with sent := true }) s.transits }
      let s := s.bump (pgSta 0) R.pushDone
      let s := setMd s p (shaBytes (mdOf s p ++ shaBytes t.bytes))
      let s := s.bump pgSec R.partEntry 1 (16 * p + 1)
      pushNodeEnd s t.order)

end Sys2Proof.Machine
end

