-- ==== Sys2Proof/Machine/Channels.lean ====
section
/-! DEFINITION. Stream Mover channels: doorbells, descriptors, the data path, ends, records, budgets, cancel and disable
(R288 to R320), and what translation faults do to channels and queues alike (R344, R345). -/
namespace Sys2Proof.Machine
open Sys2Proof

def State.chan (s : State) (c : Nat) : Chan := sget {} s.chans c
def State.putChan (s : State) (c : Nat) (k : Chan) : State := { s with chans := sset {} s.chans c k }
def State.chSt (s : State) (c : Nat) : Nat := s.rd (pgCh c) R.chState
def State.setChSt (s : State) (c st : Nat) : State := s.wr (pgCh c) R.chState st

/-- Channel states (R320). -/
def cOff : Nat := 0
def cIdle : Nat := 1
def cRun : Nat := 2
def cParked : Nat := 3
def cWaitOwn : Nat := 4
def cCqWait : Nat := 5
def cDraining : Nat := 6
def cHalted : Nat := 7

def chRing (s : State) (c : Nat) : Bool := s.on (pgCh c) R.chMode

def chTag (s : State) (c : Nat) : Tag := ⟨0x60 + c, s.ownerOf (pgCh c), s.rd (pgCh c) R.chSclass⟩

/-! ### The descriptor (R290) -/

def Chan.w (k : Chan) (o : Nat) : Nat := wordAt k.desc o
def Chan.flag (k : Chan) (b : Nat) : Bool := bitOf (k.w 0) b
def Chan.srcMode (k : Chan) : Nat := bitsOf (k.w 0) 17 16
def Chan.dstMode (k : Chan) : Nat := bitsOf (k.w 0) 19 18
def Chan.swap (k : Chan) : Nat := bitsOf (k.w 0) 21 20
def Chan.tag (k : Chan) : Nat := k.w 4 % 65536
def Chan.len (k : Chan) : Nat := k.w 0x20
def Chan.beats (k : Chan) : Nat := k.len / 64
def Chan.budget (k : Chan) : Nat := let b := k.w 0x24; if b = 0 then 2000 else b
def Chan.src (k : Chan) (b : Nat) : Nat := quadAt k.desc 0x10 + (if k.srcMode = 0 then 64 * b else 0)
def Chan.dst (k : Chan) (b : Nat) : Nat := quadAt k.desc 0x18 + (if k.dstMode = 0 then 64 * b else 0)
def Chan.inflight (k : Chan) : Nat := k.rdIss - k.rdDone
def Chan.fill (k : Chan) : Nat := k.buf.length + k.inflight

/-- The beat of a constant source (R293). -/
def Chan.pattern (k : Chan) : List Byte := (List.replicate 8 ((k.desc.drop 0x28).take 8)).flatten

/-- SWAP (R293): byte i of each word takes byte i XOR s. -/
def swapBeat (m : Nat) (bs : List Byte) : List Byte :=
  (List.range bs.length).map fun i => (bs[i ^^^ m]?).getD 0

/-- The field rules that cost only the descriptor (R292). -/
def chFieldsOk (k : Chan) : Bool :=
  al64 [quadAt k.desc 0x18, k.len] && (k.srcMode == 2 || quadAt k.desc 0x10 % 64 == 0) && decide (64 ≤ k.len) &&
    decide (k.srcMode ≤ 2) && decide (k.dstMode ≤ 1) &&
    (k.srcMode != 0 || decide (quadAt k.desc 0x10 + k.len ≤ 2 ^ 64)) &&
    (k.dstMode != 0 || decide (quadAt k.desc 0x18 + k.len ≤ 2 ^ 64))

/-- NEXT of a descriptor: none at the end of the chain (R290). -/
def nextOf (bs : List Byte) : Option Nat := let n := quadAt bs 8; if bitOf n 0 then none else some (n / 64 * 64)

/-- A NEXT that names no descriptor (R292). -/
def nextBad (bs : List Byte) : Bool := let n := quadAt bs 8; !bitOf n 0 && bitsOf n 5 1 != 0

/-! ### Translation (R344, R345) -/

/-- What a request's address becomes: issued at an address, waiting for a translation, or faulting. -/
inductive Xl
  | go (a : Nat)
  | need
  | deny

def xlate (on : Bool) (ts : List Trans) (write : Bool) (a : Nat) : Xl :=
  if on = false ∨ targetOf a ≠ .pcie then .go a
  else match ts.find? fun t => t.page == a / 4096 with
    | none => .need
    | some t => if (if write then t.wr else t.rd) then .go (t.dest * 4096 + a % 4096) else .deny

/-- The lowest PRG index a function has not in use. -/
def freePrg (s : State) (fn : Nat) : Nat :=
  ((List.range 512).find? fun i => !(s.prgs.any fun g => g.fn == fn && g.idx == i)).getD 0

/-- Send a page request if the function's allocation has room: the index it takes (R345). -/
def sendPrg (s : State) (fn u addr : Nat) : Option Nat × State :=
  let used := (s.prgs.filter fun g => g.fn == fn).length
  if used < min 32 (sget {} s.fns fn).priAlloc then
    let i := freePrg s fn
    let s := { s with prgs := s.prgs ++ [(⟨fn, i, u⟩ : Prg)], outs := s.outs ++ [Out.pageRequest fn addr i] }
    (some i, (s.bump pgPfq R.prqCnt).bump (pgHq fn) R.prqFnCnt)
  else (none, s)

/-! ### Ends of a descriptor, in reverse order of the steps of R296 -/

/-- PAUSED follows the fill level (R295). -/
def chPace (s : State) (c : Nat) : State :=
  let p := pgCh c
  let f := (s.chan c).fill
  if s.on p R.paceEn = false then s.wr p R.chPaused 0
  else if s.rd p R.paceHi ≤ f then s.wr p R.chPaused 1
  else if f ≤ s.rd p R.paceLo then s.wr p R.chPaused 0
  else s

/-- BYTES_BUF and PAUSED follow the buffer (R294, R295). -/
def chBuf (s : State) (c : Nat) : State := chPace (s.wr (pgCh c) R.bytesBuf (64 * (s.chan c).buf.length)) c

/-- The channel enters IDLE or HALTED, and its node ends (R319).  The last PCIe address written stays for the next flush
(R298). -/
def chRest (s : State) (c st : Nat) : State :=
  let k := s.chan c
  let s := (s.setChSt c st).settle (pgCh c) false
  let s := chBuf (s.putChan c { trans := k.trans, addr := k.addr, lastPcie := k.lastPcie }) c
  match k.node with
  | some key => finishExec s key k.nodeSt
  | none => s

/-- Go on with the descriptor at a: one that was fetched ahead needs no read; for any other its read is issued, which clears
EXT_PEND (R289, R305). -/
def chFetch (s : State) (c a : Nat) : State :=
  let s := ((s.setChSt c cRun).settle (pgCh c) true).wr (pgCh c) R.curDesc a
  let s := if ((s.chan c).ahead.map (·.1)) = some a then s else s.wr (pgCh c) R.extPend 0
  s.putChan c { s.chan c with fetch := some a }

/-- Address of the descriptor at RING_HEAD. -/
def ringHeadAddr (s : State) (c : Nat) : Nat :=
  s.rd (pgCh c) R.chRingBase + 64 * ixIdx (s.rd (pgCh c) R.chRingHead)

/-- Drop what belongs to the descriptor that ended. -/
def chClear (k : Chan) : Chan :=
  { k with desc := [], st := 0, start := 0, rdIss := 0, rdDone := 0, wrDone := 0, buf := [], froms := [], invs := [], status := 0, retried := false,
           half := false, disc := 0, fail := none, halt := none, inc := 0, tailDue := false, loose := false }

/-- What follows a descriptor whose steps are all done (R304, R305, R308, R314 to R316).  An EXTEND that is pending at the end
of a chain has the tail read again. -/
def chNext (s : State) (c : Nat) : State :=
  let p := pgCh c
  let k := s.chan c
  let s := s.putChan c (chClear k)
  if s.fenced p ∨ k.stop.isSome ∨ (k.status ≠ 0 ∧ s.on p R.stopOnErr ∧ k.cancel = false) then
    chRest (s.putChan c { chClear k with nodeSt := if k.nodeSt = 0 then k.stop.getD 0 else k.nodeSt }) c cHalted
  else if chRing s c then
    if s.rd p R.chRingHead = s.rd p R.chRingTail then chRest s c cIdle else chFetch s c (ringHeadAddr s c)
  else if k.cancel then chRest s c cIdle
  else match k.next with
    | some a => chFetch s c a
    | none =>
      if s.on p R.extPend then (s.wr p R.extPend 0).putChan c { chClear k with st := 6, tailDue := true }
      else if s.on p R.chPark then
        let s := (s.setChSt c cParked).wr p R.curDesc k.addr
        if k.quiet then s else s.event p evCh 3
      else chRest s c cIdle

/-- The descriptor has made its last report: counters and events (R296, R301, R525). -/
def chFin (s : State) (c : Nat) : State :=
  let p := pgCh c
  let k := s.chan c
  let s := s.putChan c { k with st := 6, nodeSt := if k.nodeSt = 0 then k.status else k.nodeSt, quiet := false }
  let s := (s.bump p R.descDone).perf p 0x04
  let s := if k.status = 0 then s else (((s.bump p R.descErr).perf p 0x05).raise p 8).event p evCh 2
  let s := if k.flag 12 then s.event p evCh 1 else s
  let s := countTimeout s p 0 k.status k.inc
  if k.tailDue then s else chNext s c

/-- The record ring of a channel is full. -/
def crFull (s : State) (c : Nat) : Bool :=
  ringFull (s.rd (pgCh c) R.chCrCount) (s.rd (pgCh c) R.chCrWrIdx) (s.rd (pgCh c) R.chCrRdIdx)

/-- Step 3 of R296, or CQ_WAIT when the ring is full (R300). -/
def chRec (s : State) (c : Nat) : State :=
  let k := s.chan c
  if k.flag 10 then
    let s := s.putChan c { k with st := 5 }
    if crFull s c then (s.setChSt c cCqWait).raise (pgCh c) 10 else s
  else chFin s c

/-- Step 2 of R296 (R299). -/
def chWb (s : State) (c : Nat) : State :=
  let k := s.chan c
  if chRing s c ∨ k.flag 13 then s.putChan c { k with st := 4 } else chRec s c

/-- The tail re-read is issued at the end of a chain (R304). -/
def chTail (s : State) (c : Nat) : State :=
  let k := s.chan c
  if chRing s c = false ∧ k.next = none then
    chWb ((s.wr (pgCh c) R.extPend 0).putChan c { k with tailDue := true }) c
  else chWb s c

/-- Step 1 of R296: the flush of R298. -/
def chFlush (s : State) (c : Nat) : State :=
  let k := s.chan c
  if k.flag 9 ∧ k.lastPcie.isSome then s.putChan c { k with st := 3 } else chTail s c

/-- A descriptor is abandoned (R312, R313, R315): its buffered lines are discarded, and its reads drain. -/
def chAbandon (s : State) (c st : Nat) : State :=
  let p := pgCh c
  let k := s.chan c
  let n := 64 * k.buf.length
  let s := (s.bump p R.bytesWr n).bump p R.bytesDisc n
  let s := s.wr p R.chFaultHalt 0
  let k := { k with buf := [], disc := n, status := st, fail := none, halt := none }
  if k.inflight = 0 then chFlush (chBuf (s.putChan c k) c) c
  else
    let s := chBuf (s.putChan c { k with st := 2 }) c
    if k.cancel then s.setChSt c cDraining else s

/-- The channel halts on a translation fault, or the descriptor ends when it may not ask (R345). -/
def chHalt (s : State) (c : Nat) (write : Bool) (a : Nat) : State :=
  let p := pgCh c
  let k := s.chan c
  let fn := s.ownerOf p
  let s := ((s.wr p R.chFaultAddr a).wr p R.chFaultBeat (if write then k.wrDone else k.rdIss)).wr p R.chFaultDir (b2n write)
  let k := { k with trans := k.trans.filter fun t => t.page != a / 4096 }
  if s.on p R.chPriEn ∧ (sget {} s.fns fn).priEn then
    let (i, s) := sendPrg s fn c a
    let s := match i with
      | some n => s.wr p R.chPrgIndex n
      | none => s
    (s.wr p R.chFaultHalt 1).putChan c { k with halt := some { write := write, addr := a, prg := i } }
  else chAbandon (s.putChan c k) c stBusErr

/-! ### The data path (R293 to R295) -/

/-- A read may be issued (R295, R368). -/
def chMayRead (s : State) (c : Nat) (k : Chan) : Bool :=
  k.st == 1 && k.halt.isNone && k.fail.isNone && k.srcMode != 2 && decide (k.rdIss < k.beats) && decide (k.fill < 32) &&
    decide (k.inflight < s.rd (pgCh c) R.chOutMax) && !s.on (pgCh c) R.chPaused && decide (k.inflight < openSlots s (0x60 + c))

/-- Issue reads while the conditions of R295 hold. -/
def chPump : Nat → State → Nat → State
  | 0, s, _ => s
  | f + 1, s, c =>
    let s := chPace s c
    let k := s.chan c
    if chMayRead s c k then
      match xlate (s.on (pgCh c) R.chAtMode) k.trans false (k.src k.rdIss) with
      | .go x =>
        let under := s.on (pgCh c) R.chAtMode && targetOf (k.src k.rdIss) == .pcie
        chPump f (s.putChan c { k with rdIss := k.rdIss + 1, froms := k.froms ++ [(x, under)] }) c
      | .need => s
      | .deny => chHalt s c false (k.src k.rdIss)
    else s

/-- A transfer of the channel fails for the first time, or for good (R312). -/
def chFailed (s : State) (c kind : Nat) (r : FabResp) : State :=
  let k := { s.chan c with inc := r.inc (s.chan c).inc }
  match r with
  | .denied _ => chAbandon (s.putChan c k) c stBusErr
  | _ => s.putChan c { k with fail := some kind }

/-- HALF (R301). -/
def chHalf (s : State) (c : Nat) : State :=
  let k := s.chan c
  if k.half = false ∧ cdiv k.len 128 ≤ k.wrDone then
    let s := s.putChan c { k with half := true }
    if k.flag 11 then s.event (pgCh c) evCh 0 else s
  else s

/-- One beat leaves the buffer for its destination. -/
def chPut (s : State) (c : Nat) (line : List Byte) (w : Resp) : State :=
  let p := pgCh c
  let k := s.chan c
  let a := k.dst k.wrDone
  match xlate (s.on p R.chAtMode) k.trans true a with
  | .need => s
  | .deny => chHalt s c true a
  | .go x =>
    match tryWrite s (chTag s c) x (swapBeat k.swap line) w k.inc with
    | (.ok _, s) =>
      let s := (perfWr s p).bump p R.bytesWr 64
      chHalf (chBuf (s.putChan c { k with wrDone := k.wrDone + 1, buf := k.buf.drop 1, froms := k.froms.drop 1,
                                          lastPcie := if targetOf x = .pcie then some x else k.lastPcie }) c) c
    | (r, s) => chFailed (perfWr s p) c 1 r

/-- The channel has a write ready: a beat in its buffer, or a constant one, and nothing that holds it. -/
def chWriteReady (s : State) (c : Nat) : Bool :=
  let k := s.chan c
  k.st == 1 && k.fail.isNone && !k.halt.any (fun h => h.write) && decide (k.wrDone < k.beats) &&
    (k.srcMode == 2 || !k.buf.isEmpty) &&
    match xlate (s.on (pgCh c) R.chAtMode) k.trans true (k.dst k.wrDone) with
    | .need => false
    | _ => true

/-- The next write of the Stream Mover is channel c's (R288): no channel of higher PRIO has one ready, and c is the first of its
PRIO after the channel served last there. -/
def chTurn (s : State) (c : Nat) : Bool :=
  let prio := s.rd (pgCh c) R.chPrio
  let ready := (s.chans.map (·.1)).filter fun d => chWriteReady s d
  let last := sget 63 s.smvServed prio
  ready.all fun d => d == c || decide (s.rd (pgCh d) R.chPrio < prio) ||
    (s.rd (pgCh d) R.chPrio == prio && decide ((c + 63 - last) % 64 ≤ (d + 63 - last) % 64))

/-- The channel is served (R288). -/
def chServed (s : State) (c : Nat) : State := { s with smvServed := sset 63 s.smvServed (s.rd (pgCh c) R.chPrio) c }

/-- A constant beat enters the empty buffer (R293, R294). -/
def chConst (s : State) (c : Nat) : State :=
  let k := s.chan c
  if k.srcMode = 2 ∧ k.buf = [] then
    chBuf ((s.bump (pgCh c) R.bytesRd 64).putChan c { k with buf := [k.pattern] }) c
  else s

/-- Write up to n beats while it is the channel's turn; the first meets response w and may find its line bad (R312). -/
def chWrites : Nat → State → Nat → Resp → Bool → State
  | 0, s, _, _, _ => s
  | n + 1, s, c, w, bad =>
    let k := s.chan c
    if chWriteReady s c = false ∨ chTurn s c = false then s
    else if bad then (s.raise (pgCh c) eEccUncorr).putChan c { k with fail := some 2 }
    else
      let s := chServed (chConst s c) c
      let s' := chPut s c ((s.chan c).buf.headD []) w
      if (s'.chan c).wrDone = k.wrDone then s' else chWrites n s' c .ok false

/-- A beat enters the buffer. -/
def chEnter (s : State) (c : Nat) (bs : List Byte) : State :=
  let k := s.chan c
  let s := s.bump (pgCh c) R.bytesRd 64
  chBuf (s.putChan c { k with rdDone := k.rdDone + 1, buf := k.buf ++ [bs] }) c

/-- One attempt to read beat b, at the address its read was issued at. -/
def chGet (s : State) (c b : Nat) (r : Resp) (host : Cells) : FabResp × State :=
  let k := s.chan c
  let (v, s) := tryRead s (chTag s c) (((k.froms[b - k.wrDone]?).map (·.1)).getD (k.src b)) 64 r host k.inc
  (v, perfRd s (pgCh c) v.isOk)

/-- SMV_READ_RESPONSE (R295): the oldest read returns, and some beats are written on; with no read in flight, buffered
beats are written on alone. -/
def execSmvReadResponse (c : Nat) (r : Resp) (writes : Nat) (w : Resp) (bufBad : Bool) (host : Cells) (s : State) :
    Result :=
  .next (
    let k := s.chan c
    if 64 ≤ c ∨ k.st ≠ 1 ∨ k.fail.isSome then s
    else if k.inflight = 0 then chPump 33 (chWrites (min writes 32) s c w bufBad) c
    else match chGet s c k.rdDone r host with
    | (.ok bs, s) => chPump 33 (chWrites (min writes 32) (chEnter s c bs) c w bufBad) c
    | (x, s) => chFailed s c 0 x)

/-- The record of a second attempt, with the incident kept (R312, R528). -/
def chRetryRec (s : State) (c cls a : Nat) : State :=
  let k := s.chan c
  let (inc, s) := s.logI k.inc { event := 0x18, level := 2, cls := cls, part := s.ownerOf (pgCh c), init := 0x60 + c,
                                 page := pgCh c, tag := k.tag, addr := a }
  s.putChan c { s.chan c with inc := inc }

/-- A second attempt succeeds (R312). -/
def chRetried (s : State) (c a : Nat) : State :=
  let s := chRetryRec (s.bump (pgCh c) R.chRetryCnt) c 1 a
  s.putChan c { s.chan c with retried := true, fail := none }

/-- A second attempt fails (R312). -/
def chLost (s : State) (c a : Nat) (r : FabResp) : State :=
  let s := chRetryRec (s.putChan c { s.chan c with inc := r.inc (s.chan c).inc }) c 2 a
  match r with
  | .timeout _ => chAbandon (s.raise (pgCh c) eTimeout) c stTimeout
  | _ => chAbandon s c stBusErr

/-- SMV_TRANSFER_FAIL (R312): the second attempt of a beat. -/
def execSmvTransferFail (c : Nat) (r : Resp) (host : Cells) (s : State) : Result :=
  .next (
    let k := s.chan c
    if 64 ≤ c then s else
    match k.fail with
    | none => s
    | some kind =>
      let s := s.perf (pgCh c) 0x0C
      if kind = 0 then
        match chGet s c k.rdDone r host with
        | (.ok bs, s) => chPump 33 (chEnter (chRetried s c (k.src k.rdDone)) c bs) c
        | (.denied _, s) => chAbandon s c stBusErr
        | (x, s) => chLost s c (k.src k.rdDone) x
      else if kind = 1 then
        let s' := chPut (s.putChan c { k with fail := none }) c (k.buf.headD []) r
        match (s'.chan c).fail with
        | some _ => chLost s' c (k.dst k.wrDone) (if r = .timeout then .timeout 0 else .uncorr 0)
        | none =>
          if (s'.chan c).wrDone = k.wrDone then s'
          else
            let s' := chRetryRec (s'.bump (pgCh c) R.chRetryCnt) c 1 (k.dst k.wrDone)
            chPump 33 (s'.putChan c { s'.chan c with retried := true }) c
      else
        let lost := fun (s : State) =>
          let s := chRetryRec s c 2 (k.src k.wrDone)
          chAbandon (fencePage s (pgCh c) (s.chan c).inc) c stBusErr
        if k.srcMode = 2 then (if r = .ok then chRetried s c k.addr else lost s)
        else match chGet s c k.wrDone r host with
          | (.ok bs, s) =>
            let s := chRetried s c (k.src k.wrDone)
            s.putChan c { s.chan c with buf := bs :: (s.chan c).buf.drop 1 }
          | (_, s) => lost s)

/-- SMV_COMPLETION_POINT (R296): the last writes of the descriptor complete. -/
def execSmvCompletionPoint (c : Nat) (w : Resp) (bufBad : Bool) (s : State) : Result :=
  .next (
    let k := s.chan c
    if 64 ≤ c ∨ k.st ≠ 1 ∨ k.fail.isSome ∨ (k.srcMode ≠ 2 ∧ k.rdDone < k.beats) then s else
    let s := chWrites (k.beats - k.wrDone) s c w bufBad
    let k := s.chan c
    if k.st = 1 ∧ k.wrDone = k.beats then chFlush s c else s)

/-! ### Fetching a descriptor -/

/-- A descriptor whose fetch completed at t0 is checked, run, refused or found not owned (R292, R310, R313, R316); `re` says that
its fetch succeeded on the second attempt (R312). -/
def chRun (s : State) (c a : Nat) (bs : List Byte) (t0 : Nat) (re : Bool) : State :=
  let p := pgCh c
  let k := { s.chan c with fetch := none, ahead := none, addr := a, desc := bs, start := t0, next := nextOf bs, retried := re }
  let s := s.putChan c k
  let ring := chRing s c
  let own := bitOf (wordAt bs 0x30) 0
  if ring ∧ k.cancel then
    if own then chFlush (s.putChan c { k with status := stCancelled }) c
    else chRest ((s.wr p R.chRingTail (s.rd p R.chRingHead)).putChan c { k with desc := [] }) c cIdle
  else if ring ∧ own = false then
    ((s.bump p R.ownMissCnt).raise p 9 |>.setChSt c cWaitOwn).putChan c { k with desc := [] }
  else if wordAt bs 0 % 256 ≠ 0x31 ∨ (ring = false ∧ nextBad bs) then
    chRest ((s.prog p).putChan c { k with desc := [], nodeSt := if k.nodeSt = 0 then stProg else k.nodeSt }) c cHalted
  else
    let (bad, s) := s.found p eProg (!chFieldsOk k)
    if bad then chFlush (s.putChan c { k with status := stProg }) c
    else chPump 33 (s.putChan c { k with st := 1 }) c

/-- The descriptor that may be fetched ahead of the one in progress (R289). -/
def chAhead (s : State) (c : Nat) (k : Chan) : Option Nat :=
  if k.st ≠ 1 ∨ k.ahead.isSome ∨ k.cancel ∨ (k.srcMode ≠ 2 ∧ k.rdIss < k.beats) then none
  else if chRing s c then
    let i := ringNext (s.rd (pgCh c) R.chRingCount) (s.rd (pgCh c) R.chRingHead)
    if i = s.rd (pgCh c) R.chRingTail then none else some (s.rd (pgCh c) R.chRingBase + 64 * ixIdx i)
  else k.next

/-- A descriptor read that fails twice leaves the channel no way on. -/
def chNoDesc (s : State) (c : Nat) (r : FabResp) : State :=
  let k := s.chan c
  let st := failStatus r
  let s := (s.raise (pgCh c) 8).event (pgCh c) evCh 2
  chRest (s.putChan c { k with fetch := none, nodeSt := if k.nodeSt = 0 then st else k.nodeSt }) c cHalted

/-- A read, write-back or record that succeeded on its second attempt counts (R312). -/
def chAgain (s : State) (c : Nat) (re : Bool) : State := if re then s.bump (pgCh c) R.chRetryCnt else s

/-- The read of the descriptor at a, which the channel then runs. -/
def chReadDesc (s : State) (c a : Nat) (hit : Hit) (host : Cells) : State :=
  match readAll s (chTag s c) (pgCh c) 0 a 64 hit host 0 with
  | (.ok bs, re, s) => chRun (chAgain s c re) c a bs s.time re
  | (x, _, s) => chNoDesc s c x

/-- SMV_DESC_FETCH (R289, R292, R310). -/
def execSmvDescFetch (c : Nat) (hit : Hit) (host : Cells) (s : State) : Result :=
  .next (
    let k := s.chan c
    if 64 ≤ c then s else
    match k.fetch with
    | some a =>
      match k.ahead with
      | some (b, bs) => if a = b then chRun s c a bs k.aheadAt k.aheadRe else chReadDesc s c a hit host
      | none => chReadDesc s c a hit host
    | none =>
      match chAhead s c k with
      | none => s
      | some a =>
        match readAll s (chTag s c) (pgCh c) 0 a 64 hit host 0 with
        | (.ok bs, re, s) =>
          let s := (chAgain s c re).wr (pgCh c) R.extPend 0
          s.putChan c { s.chan c with ahead := some (a, bs), aheadAt := s.time, aheadRe := re }
        | (_, _, s) => s)

/-! ### Reports -/

/-- BYTES of the record and the write-back (R300). -/
def Chan.bytes (k : Chan) : Nat :=
  if k.status = stOk then k.len else if k.status = stCancelled then k.disc else if k.status = stProg then 0
  else 64 * k.wrDone

def Chan.partial' (k : Chan) : Bool := k.status != 0 && decide (0 < k.wrDone)

/-- The status group as written back (R291). -/
def chGroup (s : State) (c : Nat) (k : Chan) : List Byte :=
  leBytes 4 (k.status * 2 ^ 4 + b2n k.retried * 2 ^ 8 + b2n k.partial' * 2 ^ 9 + condOf s (s.ownerOf (pgCh c)) * 2 ^ 12) ++
    leBytes 4 k.bytes ++ leBytes 8 s.time

/-- The record of a descriptor (R300). -/
def chRecord (s : State) (c : Nat) (k : Chan) : List Byte :=
  leBytes 4 (condOf s (s.ownerOf (pgCh c)) + k.status * 2 ^ 4 + b2n k.retried * 2 ^ 8 + b2n k.partial' * 2 ^ 9 +
    k.tag * 2 ^ 16) ++ leBytes 4 k.bytes ++ leBytes 8 s.time

/-- FLUSH_DONE (R298). -/
def execFlushDone (c : Nat) (hit : Hit) (host : Cells) (s : State) : Result :=
  .next (
    let k := s.chan c
    if 64 ≤ c ∨ k.st ≠ 3 then s else
    match readAll s (chTag s c) (pgCh c) k.tag (k.lastPcie.getD 0) 64 hit host k.inc with
    | (.ok _, re, s) =>
      let s := chAgain s c re
      chTail (s.putChan c { k with lastPcie := none, retried := k.retried || re }) c
    | (_, _, s) => chTail (s.putChan c { k with lastPcie := none, status := if k.status = 0 then stBusErr else k.status }) c)

/-- WRITE_BACK_DONE (R299, R311). -/
def execWriteBackDone (c : Nat) (hit : Hit) (s : State) : Result :=
  .next (
    let p := pgCh c
    let k := s.chan c
    if 64 ≤ c ∨ k.st ≠ 4 then s else
    let (ok, re, s) := match writeAll s (chTag s c) p k.tag (k.addr + 0x30) (chGroup s c k) hit k.inc with
      | (.ok _, re, _, s) => (true, re, s)
      | (_, re, _, s) => (false, re, s)
    let s := if chRing s c ∧ k.loose = false then s.wr p R.chRingHead (ringNext (s.rd p R.chRingCount) (s.rd p R.chRingHead)) else s
    let s := chAgain s c (re && ok)
    chRec (s.putChan c { k with status := if ok ∨ k.status ≠ 0 then k.status else stBusErr }) c)

/-- SMV_RECORD_DONE (R300). -/
def execSmvRecordDone (c : Nat) (hit : Hit) (s : State) : Result :=
  .next (
    let p := pgCh c
    let k := s.chan c
    if 64 ≤ c ∨ k.st ≠ 5 ∨ crFull s c then s else
    let s := if s.chSt c = cCqWait then s.setChSt c cRun else s
    let i := s.rd p R.chCrWrIdx
    match writeAll s (chTag s c) p k.tag (s.rd p R.chCrBase + 16 * ixIdx i) (chRecord s c k) hit k.inc with
    | (.ok _, re, _, s) => chFin ((chAgain s c re).wr p R.chCrWrIdx (ringNext (s.rd p R.chCrCount) i)) c
    | (_, _, _, s) => chFin s c)

/-- TAIL_REREAD_DATA (R304, R305, R307).  A NEXT that names no descriptor (R292) and a read that fails twice (R312) leave the
channel no way on: it halts once the write-back and the record that the tail owes are done. -/
def execTailRereadData (c : Nat) (hit : Hit) (host : Cells) (s : State) : Result :=
  .next (
    let p := pgCh c
    let k := s.chan c
    if 64 ≤ c ∨ k.tailDue = false then s else
    let go := fun (s : State) (n : Option Nat) =>
      let s := s.putChan c { s.chan c with tailDue := false, next := n }
      if k.st = 6 then chNext s c else s
    let dead := fun (s : State) (st : Nat) => go (s.putChan c { s.chan c with stop := some st }) none
    match readAll s (chTag s c) p k.tag k.addr 64 hit host k.inc with
    | (.ok bs, re, s) =>
      let s := chAgain s c re
      let s := if re ∧ k.st < 4 then s.putChan c { s.chan c with retried := true } else s
      if nextBad bs then dead (s.prog p) stProg
      else match nextOf bs with
        | some a => go s (some a)
        | none => if s.on p R.extPend then s.wr p R.extPend 0 else go s none
    | (x, _, s) => dead ((s.raise p 8).event p evCh 2) (failStatus x))

/-! ### Doorbells -/

/-- A start doorbell in chain mode (R302) or ring mode (R308, R310); a channel that is not enabled takes no new tail (log 86). -/
def chDoorbell (s : State) (c v : Nat) : State :=
  let p := pgCh c
  if chRing s c then
    let n := s.rd p R.chRingCount
    let head := s.rd p R.chRingHead
    let tail := s.rd p R.chRingTail
    let st := s.chSt c
    let (ok, s) :=
      if v % 131072 = tail then (true, s)
      else if s.on p R.enable = false ∨ n ≤ ixIdx v ∨ ringOkRd n (v % 131072) head = false then (false, s.raise p 11)
      else (true, s.wr p R.chRingTail (v % 131072))
    if st = cWaitOwn then chFetch s c (ringHeadAddr s c)
    else if ok ∧ st = cIdle ∧ s.working p ∧ s.rd p R.chRingTail ≠ head then
      chFetch (s.putChan c { s.chan c with cancel := false }) c (ringHeadAddr s c)
    else s
  else
    let started := s.rd p R.chStarted
    if v % 65536 = started then s
    else if s.chSt c = cIdle ∧ s.working p ∧ v % 65536 = (started + 1) % 65536 then
      let s := (s.wr p R.chStarted v).putChan c { trans := (s.chan c).trans, lastPcie := (s.chan c).lastPcie }
      chFetch s c (s.rd p R.chainPtr)
    else s.raise p 11

/-- EXTEND (R305). -/
def chExtend (s : State) (c : Nat) : State :=
  let p := pgCh c
  let st := s.chSt c
  if chRing s c then s.bump p R.extIgnored
  else if st = cParked then
    let s := ((s.setChSt c cRun).settle p true).wr p R.extPend 0
    s.putChan c { s.chan c with st := 6, tailDue := true, quiet := true }
  else if st = cRun ∨ st = cCqWait then s.wr p R.extPend 1
  else s.bump p R.extIgnored

/-- A doorbell through BAR4 or through the channel page. -/
def chDoor (s : State) (ini : Ini) (bar4 : Bool) (c off bar : Nat) (k : State → State) : State :=
  if 64 ≤ c then s
  else if bar4 then
    match ini with
    | .fn n => doorbell s n (s.ownerOf (pgCh c)) bar k
    | _ => s
  else regRow s ini (pgCh c) off k

/-- START_DB (R302). -/
def execStartDb (ini : Ini) (bar4 : Bool) (c value : Nat) (s : State) : Result :=
  .next (chDoor s ini bar4 c 0x0D8 (0x1000 + 0x40 * c) fun s => chDoorbell s c value)

/-- RING_DOORBELL (R308): the same register in ring mode. -/
def execRingDoorbell (ini : Ini) (bar4 : Bool) (c value : Nat) (s : State) : Result :=
  .next (chDoor s ini bar4 c 0x0D8 (0x1000 + 0x40 * c) fun s => chDoorbell s c value)

/-- EXTEND (R305). -/
def execExtend (ini : Ini) (bar4 : Bool) (c : Nat) (s : State) : Result :=
  .next (chDoor s ini bar4 c 0x0DC (0x1004 + 0x40 * c) fun s => chExtend s c)

/-! ### Budget, cancel, disable -/

/-- SMV_BUDGET_EXPIRY (R313). -/
def execSmvBudgetExpiry (c : Nat) (s : State) : Result :=
  .next (
    let p := pgCh c
    let k := s.chan c
    if 64 ≤ c ∨ k.st ≠ 1 ∨ s.time < k.start + usTicks k.budget then s else
    let (inc, s) := s.logI k.inc { event := 0x19, level := 2, cls := if 1 ≤ sget 0 s.toRuns (jobKey p 0) then 2 else 0,
                                   part := s.ownerOf p, page := p, tag := k.tag, d0 := c }
    let s := s.putChan c { k with inc := inc }
    let s := if k.fail.isSome then chRetryRec s c 3 k.addr else s
    chAbandon (s.raise p eTimeout) c stTimeout)

/-- CANCEL of a channel (R315, R316). -/
def cancelChan (s : State) (c : Nat) : State :=
  let p := pgCh c
  let k := s.chan c
  let st := s.chSt c
  let sweep := fun (s : State) =>
    if s.rd p R.chRingHead = s.rd p R.chRingTail then chRest s c cIdle
    else chFetch (s.putChan c { s.chan c with cancel := true, ahead := none }) c (ringHeadAddr s c)
  if st = cParked ∨ st = cHalted ∨ st = cWaitOwn then
    (if chRing s c then sweep s else chRest s c cIdle)
  else if st = cCqWait then s.putChan c { k with cancel := true, ahead := none }
  else if st = cRun then
    if k.st = 0 then
      if chRing s c then sweep (s.putChan c { k with fetch := none })
      else
        let s := s.putChan c { k with fetch := none, nodeSt := if k.nodeSt = 0 then stCancelled else k.nodeSt }
        chRest s c cIdle
    else if k.st = 1 ∧ k.wrDone < k.beats then
      let s := if k.fail.isSome then chRetryRec s c 3 k.addr else s
      chAbandon (s.putChan c { s.chan c with cancel := true, ahead := none }) c stCancelled
    else s.putChan c { k with cancel := true, ahead := none }
  else s

/-- CHANNEL_CANCEL (R315). -/
def execChannelCancel (ini : Ini) (c : Nat) (s : State) : Result :=
  .next (if 64 ≤ c then s else regRow s ini (pgCh c) 0x0E0 fun s => cancelChan s c)

/-- A channel is disabled (R317): what it held is lost, and its counters are undefined. -/
def disableChan (s : State) (c : Nat) : State :=
  let p := pgCh c
  if s.chSt c = cOff then s.wr p R.enable 0 else
  let k := s.chan c
  let (a, s) := s.free 64
  let (b, s) := s.free 64
  let (d, s) := s.free 64
  let (e, s) := s.free 12
  let s := (((s.wr p R.bytesRd a).wr p R.bytesWr b).wr p R.bytesDisc d).wr p R.bytesBuf e
  let s := ((s.wr p R.enable 0).wr p R.chFaultHalt 0).wr p R.extPend 0
  let s := (s.setChSt c cDraining).wr p R.chPaused 0
  let s := if s.fenced p ∨ s.rd p R.pstate = psResetting then s else s.wr p R.pstate psDraining
  s.putChan c { rdIss := k.rdIss, rdDone := k.rdDone, lastPcie := k.lastPcie, node := k.node, nodeSt := k.nodeSt }

/-- CHANNEL_DISABLE (R317). -/
def execChannelDisable (ini : Ini) (c : Nat) (s : State) : Result :=
  .next (if 64 ≤ c then s else regRow s ini (pgCh c) 0x00C fun s => disableChan s c)

/-- CHANNEL_DRAIN_DONE (R315, R317). -/
def execChannelDrainDone (c : Nat) (s : State) : Result :=
  .next (
    let p := pgCh c
    let k := s.chan c
    if 64 ≤ c then s
    else if s.on p R.enable = false ∧ s.chSt c = cDraining then
      let s := (s.setChSt c cOff).putChan c { lastPcie := k.lastPcie, node := k.node, nodeSt := k.nodeSt }
      if s.fenced p ∨ s.rd p R.pstate = psResetting then s else s.wr p R.pstate psOff
    else if k.st = 2 then
      let s := if s.chSt c = cDraining then s.setChSt c cRun else s
      let d := if k.status = stCancelled then k.disc + 64 * k.inflight else k.disc
      chFlush (s.putChan c { k with rdDone := k.rdIss, disc := d }) c
    else s)

/-- The node of a channel that was disabled under it ends (R319, log 139): its descriptor in progress never ended OK. -/
def endLostNode (s : State) (c : Nat) : State :=
  let k := s.chan c
  match k.node with
  | some key => finishExec (s.putChan c { k with node := none, nodeSt := 0 }) key (if k.nodeSt = 0 then stCancelled else k.nodeSt)
  | none => s

/-- ENABLE = 1 of a channel page (R294, R311): the channel is IDLE again, where a node that it still carried ends (R319). -/
def enableChan (s : State) (c : Nat) : State :=
  let p := pgCh c
  let s := (((s.wr p R.bytesRd 0).wr p R.bytesWr 0).wr p R.bytesDisc 0).wr p R.bytesBuf 0
  let s := endLostNode ((s.wr p R.chRingTail (s.rd p R.chRingHead)).setChSt c cIdle) c
  s.putChan c { lastPcie := (s.chan c).lastPcie }

/-- The sequencer cancels the channel of a node at the node's budget or at a deadline (R319).  A channel that is disabled has
nothing left that could end, so the node ends at once. -/
def cancelNode (s : State) (c : Nat) : State :=
  if s.on (pgCh c) R.enable then cancelChan s c else endLostNode s c

/-- A change of RING_COUNT empties the ring (R70): what the channel waited for is no longer held, and a descriptor in progress
runs to its end but no longer moves RING_HEAD. -/
def chEmptied (s : State) (c : Nat) : State :=
  let k := s.chan c
  if chRing s c = false then s
  else if s.chSt c = cWaitOwn ∨ (s.chSt c = cRun ∧ k.st = 0) then chRest s c cIdle
  else s.putChan c { k with ahead := none, loose := true }

/-- Dispatch of an SMV node (R12, R319): none when the channel does not take it. -/
def smvDispatch (s : State) (key part page ptr : Nat) : Option State :=
  let c := page - 0x100
  if pageKind page ≠ some .ch ∨ chRing s c ∨ s.on page R.chPark ∨ s.chSt c ≠ cIdle ∨ s.working page = false ∨
      s.ownerOf page ≠ part ∨ al64 [ptr] = false then none
  else
    let s := (s.wr page R.chainPtr ptr).bump page R.chStarted
    some (chFetch (s.putChan c { trans := (s.chan c).trans, lastPcie := (s.chan c).lastPcie, node := some key }) c ptr)

end Sys2Proof.Machine
end

