-- ==== Sys2Proof/Machine/Queues.lean ====
section
/-! DEFINITION. Prefetch queues: streams, requests, landing and publishing, the credit books, ends and audits (R322 to
R343), and the host's translation and page-request traffic for queues and channels (R344 to R347). -/
namespace Sys2Proof.Machine
open Sys2Proof

def State.pq (s : State) (q : Nat) : Pq := sget {} s.pqs q
def State.putPq (s : State) (q : Nat) (k : Pq) : State := { s with pqs := sset {} s.pqs q k }
def State.qSt (s : State) (q : Nat) : Nat := s.rd (pgPq q) R.qState
def State.setQSt (s : State) (q st : Nat) : State := s.wr (pgPq q) R.qState st

/-- Queue states (R348). -/
def qOff : Nat := 0
def qIdle : Nat := 1
def qRun : Nat := 2
def qHaltd : Nat := 3
def qDrain : Nat := 4
def qCqWait : Nat := 5

def qTag (s : State) (q : Nat) : Tag := ⟨0xA0 + q, s.ownerOf (pgPq q), s.rd (pgPq q) R.qSclass⟩

/-- Bytes of an entry (R322). -/
def qEntry (s : State) (q : Nat) : Nat := 64 * (s.rd (pgPq q) R.entryL + 1)

/-- FREE: every credit that is not in one of the other three states (R330). -/
def qFreeOf (s : State) (q : Nat) : Nat :=
  let p := pgPq q
  s.rd p R.qCap - (s.rd p R.qReserved + s.rd p R.qOccupied + s.rd p R.qReturning)

def Pq.w (k : Pq) (o : Nat) : Nat := wordAt k.desc o
def Pq.flag (k : Pq) (b : Nat) : Bool := bitOf (k.w 0) b
def Pq.gather (k : Pq) : Bool := k.flag 8
def Pq.merge (k : Pq) : Bool := k.flag 9
def Pq.tag (k : Pq) : Nat := k.w 4 % 65536
def Pq.srcBase (k : Pq) : Nat := quadAt k.desc 8
def Pq.pitch (k : Pq) : Nat := k.w 0x10
def Pq.elems (k : Pq) : Nat := k.w 0x14 % 2 ^ 24
def Pq.idxBase (k : Pq) : Nat := quadAt k.desc 0x18
def Pq.limit (k : Pq) : Nat := k.w 0x20
def Pq.budget (k : Pq) : Nat := let b := k.w 0x24; if b = 0 then 2000 else b

/-- Index lines of a stream. -/
def Pq.lineCnt (k : Pq) : Nat := if k.gather then cdiv k.elems 16 else 0

/-- What element k is read from (R326). -/
inductive Src
  | src (a : Nat)
  | zero
  | bad
  | wait

/-- A source range must not pass 2^64 (R326). -/
def srcIn (a e : Nat) : Src := if a + e ≤ 2 ^ 64 then .src a else .bad

def Pq.source (k : Pq) (e n : Nat) : Src :=
  if k.gather = false then srcIn (k.srcBase + n * k.pitch) e
  else match k.lines.find? fun l => l.1 == n / 16 with
    | none => .wait
    | some (_, bs) =>
      let v := wordAt bs (n % 16 * 4)
      if v ≤ k.limit then srcIn (k.srcBase + v * k.pitch) e else if v = 0xFFFFFFFF then .zero else .bad

/-- Elements 1 to m after element n that its request may carry along (R334). -/
def mergeRun (k : Pq) (e a room lim : Nat) : Nat → Nat → Nat → Nat
  | 0, _, m => m
  | f + 1, n, m =>
    if n + m + 1 < k.elems ∧ m + 2 ≤ room ∧ (m + 2) * e ≤ lim ∧ (a + (m + 2) * e - 1) / 4096 = a / 4096 then
      match k.source e (n + m + 1) with
      | .src b => if b = a + (m + 1) * e then mergeRun k e a room lim f n (m + 1) else m
      | _ => m
    else m

/-- The address in the buffer of an element not yet published (R322, R327): element `pub` lands at PROD_IDX. -/
def qSlotAddr (s : State) (q n : Nat) : Nat :=
  let p := pgPq q
  s.rd p R.bufBase + (ixIdx (s.rd p R.prodIdx) + (n - (s.pq q).pub)) % s.rd p R.qCap * qEntry s q

/-! ### Ends -/

/-- The record of a stream (R342). -/
def qRecord (s : State) (q st bytes : Nat) : List Byte :=
  let k := s.pq q
  leBytes 4 (condOf s (s.ownerOf (pgPq q)) + st * 2 ^ 4 + b2n k.retried * 2 ^ 8 + b2n (st != 0 && decide (0 < k.pub)) * 2 ^ 9 +
    b2n k.faulted * 2 ^ 10 + k.tag * 2 ^ 16) ++ leBytes 4 bytes ++ leBytes 8 s.time

def qCrFull (s : State) (q : Nat) : Bool :=
  ringFull (s.rd (pgPq q) R.qCrCount) (s.rd (pgPq q) R.qCrWrIdx) (s.rd (pgPq q) R.qCrRdIdx)

/-- The queue enters IDLE, and its stream is over. -/
def qRest (s : State) (q : Nat) : State :=
  let k := s.pq q
  ((s.setQSt q qIdle).settle (pgPq q) false).putPq q { snap := k.snap, held := k.held }

/-- The record write of a stream, and DONE after it (R342). -/
def qWriteRec (s : State) (q st bytes : Nat) (z : Hit := cleanHit) : State :=
  let p := pgPq q
  let i := s.rd p R.qCrWrIdx
  match writeAll s (qTag s q) p (s.pq q).tag (s.rd p R.qCrBase + 16 * ixIdx i) (qRecord s q st bytes) z (s.pq q).inc with
  | (.ok _, re, _, s) => qRest (((if re then s.bump p R.qRetryCnt else s).wr p R.qCrWrIdx (ringNext (s.rd p R.qCrCount) i)).event p evPq 0) q
  | (_, _, _, s) => qRest s q

/-- STREAM_END: counters, ERR, and the record, which may have to wait in CQ_WAIT (R342, R525). -/
def qFinish (s : State) (q st bytes : Nat) (z : Hit := cleanHit) : State :=
  let p := pgPq q
  let k := s.pq q
  let s := s.perf p 0x04
  let s := if st = stOk then s else (s.perf p 0x05).event p evPq 1
  let s := countTimeout s p 0 st k.inc
  if k.flag 10 then
    if qCrFull s q then ((s.setQSt q qCqWait).raise p 9).putPq q { k with due := some (st, bytes) }
    else qWriteRec s q st bytes z
  else qRest s q

/-- A release of entries (R328, R330, R338). -/
def qRelease (s : State) (q v : Nat) : State :=
  let p := pgPq q
  let cap := s.rd p R.qCap
  let prod := s.rd p R.prodIdx
  let cons := s.rd p R.consIdx
  if s.qSt q = qDrain then s.bump p R.qStaleCnt
  else if v = cons then s
  else if ringBetween cap prod cons v = false then s.prog p
  else
    let n := min (ringUsed cap prod cons - ringUsed cap prod v) (s.rd p R.qOccupied)
    ((s.wr p R.consIdx v).wr p R.qOccupied (s.rd p R.qOccupied - n)).bump p R.qReturning n

/-- Whether an outstanding request covers element n. -/
def Pq.covers (k : Pq) (e n : Nat) (r : PqReq) : Bool :=
  !r.index && decide (r.elem ≤ n) && decide (n * e < r.elem * e + r.off + r.len) && decide (n < k.elems)

/-- Elements whose credit is RESERVED: begun, and not landed whole. -/
def Pq.reservedElems (k : Pq) (e next : Nat) : List Nat :=
  ((List.range (next + (if k.off = 0 then 0 else 1) - k.pub)).map (k.pub + ·)).filter fun n => sget 0 k.landed n < e

/-- Releases held for an audit are applied (R333). -/
def qLetGo (s : State) (q : Nat) : State :=
  let k := s.pq q
  k.held.foldl (fun s v => qRelease s q v) (s.putPq q { k with held := [] })

/-- The stream drains (R336, R338, R341): releases that came before are applied, a request that waits for its second attempt is
given up, and every outstanding response will be dropped; `cancel` discards published entries too. -/
def qBegin (s : State) (q st : Nat) (cancel : Bool) : State :=
  let s := qLetGo s q
  let p := pgPq q
  let k := { s.pq q with reqs := (s.pq q).reqs.filter fun r => !r.again }
  let e := qEntry s q
  let res := k.reservedElems e (s.rd p R.nextElem)
  let out := res.filter fun n => k.reqs.any (k.covers e n)
  let whole := (k.landed.filter fun x => x.2 == e).length
  let part := (k.landed.filter fun x => x.2 != e).foldl (fun n x => n + x.2) 0
  let disc := if cancel then part + s.rd p R.qOccupied * e else 0
  let s := (s.wr p R.qReserved out.length).wr p R.qDraining out.length
  let s := s.wr p R.qOccupied (if cancel then 0 else s.rd p R.qOccupied - whole)
  (s.setQSt q qDrain).putPq q { k with ending := some st, disc := disc, halt := none, landed := [], fetch := false,
                                       lines := [], trans := [] }

/-- A stream that has published its last element ends OK (R342). -/
def qTryEnd (s : State) (q : Nat) (z : Hit := cleanHit) : State :=
  let k := s.pq q
  if k.desc ≠ [] ∧ k.ending.isNone ∧ k.pub = k.elems then qFinish s q stOk (k.elems * qEntry s q) z else s

/-! ### Requests -/

/-- A translation fault (R345): the queue enters FAULT_HALT and asks for the page, or its stream ends at once. -/
def qHalt (s : State) (q n off a : Nat) : State :=
  let p := pgPq q
  let k := s.pq q
  let fn := s.ownerOf p
  let s := (((s.wr p R.qFaultAddr a).wr p R.qFaultElem n).wr p R.qFaultOff off).bump p R.qFaultCnt
  let k := { k with trans := k.trans.filter (fun t => t.page != a / 4096), faulted := true }
  let s := (s.setQSt q qHaltd).event p evPq 2
  if s.on p R.qPriEn ∧ (sget {} s.fns fn).priEn then
    let (i, s) := sendPrg s fn (64 + q) a
    let s := match i with
      | some g => s.wr p R.qPrgIndex g
      | none => s
    s.putPq q { k with halt := some { write := false, addr := a, prg := i } }
  else qBegin (s.putPq q k) q stBusErr false

/-- The next index line to read, when a line is free (R326): the lines are read once each, in order. -/
def Pq.nextLine (k : Pq) : Option Nat :=
  if k.lines.length + (k.reqs.filter (·.index)).length < 4 ∧ k.lineNext < k.lineCnt then some k.lineNext else none

/-- Publish what has landed whole in ring order (R329). -/
def qPublish : Nat → State → Nat → State
  | 0, s, _ => s
  | f + 1, s, q =>
    let p := pgPq q
    let k := s.pq q
    if k.pub < k.elems ∧ sget 0 k.landed k.pub = qEntry s q then
      qPublish f ((s.wr p R.prodIdx (ringNext (s.rd p R.qCap) (s.rd p R.prodIdx))).putPq q
        { k with pub := k.pub + 1, landed := serase k.landed k.pub }) q
    else s

/-- n bytes of element e have landed; a whole entry's credit becomes OCCUPIED. -/
def qLand (s : State) (q e n : Nat) : State :=
  let p := pgPq q
  let k := s.pq q
  let m := sget 0 k.landed e + n
  let s := s.putPq q { k with landed := sput k.landed e m }
  if m = qEntry s q then (s.wr p R.qReserved (s.rd p R.qReserved - 1)).bump p R.qOccupied else s

/-- Advance NEXT_ELEM; index lines with no index left are dropped. -/
def qAdvance (s : State) (q n : Nat) : State :=
  let k := s.pq q
  (s.wr (pgPq q) R.nextElem n).putPq q { k with off := 0, lines := k.lines.filter fun l => decide (n < 16 * l.1 + 16) }

/-- A write of a queue into its buffer, with the second attempt of R312 (R339): the status with which a failure ends the
stream, and what is left of the command's trouble. -/
def qPut (s : State) (q a : Nat) (bs : List Byte) (z : Hit) : Option Nat × Hit × State :=
  let p := pgPq q
  let z' := hitAfter z (linePieces a bs.length).length
  match writeAll s (qTag s q) p (s.pq q).tag a bs z (s.pq q).inc with
  | (.ok _, re, _, s) =>
    (none, z', if re then (s.bump p R.qRetryCnt).putPq q { s.pq q with retried := true } else s)
  | (v, _, _, s) =>
    let s := s.putPq q { s.pq q with inc := v.inc (s.pq q).inc }
    (some (failStatus v), z', if failStatus v = stTimeout then s.raise p eTimeout else s)

/-- Write an entry of zeros (R326, R331). -/
def qZero (s : State) (q n : Nat) (z : Hit) : Hit × State :=
  let e := qEntry s q
  match qPut s q (qSlotAddr s q n) (List.replicate e 0) z with
  | (some st, z, s) => (z, qBegin s q st false)
  | (none, z, s) => (z, qAdvance (qPublish 1025 (qLand (s.bump (pgPq q) R.qReserved) q n e) q) q (n + 1))

/-- Issue one request for data from element n, off bytes into it, at source address a (R332, R334). -/
def qIssue (s : State) (q n a dest : Nat) : State :=
  let p := pgPq q
  let k := s.pq q
  let e := qEntry s q
  let lim := 64 * (s.rd p R.reqMax + 1)
  let first := min (min (e - k.off) lim) (4096 - (a + k.off) % 4096)
  let more := if k.merge ∧ k.off = 0 ∧ first = e then mergeRun k e a (qFreeOf s q) lim 8 n 0 else 0
  let len := first + more * e
  let s := if k.off = 0 then s.bump p R.qReserved (more + 1) else s
  let s := (s.bump p R.mergedCnt more).perf p 0x06
  let r : PqReq := { elem := n, off := k.off, len := len, addr := a + k.off, dest := dest,
                     under := s.on p R.qAtMode && targetOf a == .pcie }
  let s := s.putPq q { k with reqs := k.reqs ++ [r] }
  if k.off + len < e then s.putPq q { s.pq q with off := k.off + len } else qAdvance s q (n + 1 + more)

/-- Issue what may be issued (R326, R332): index reads, zero entries and requests for data from NEXT_ELEM on.  `z` is the trouble
that the zero entries' writes meet; what is left of it is answered. -/
def qPump : Nat → State → Nat → Hit → Hit × State
  | 0, s, _, z => (z, s)
  | f + 1, s, q, z =>
    let p := pgPq q
    let k := s.pq q
    let at' := s.on p R.qAtMode
    if s.qSt q ≠ qRun ∨ k.fetch ∨ k.desc = [] ∨ k.halt.isSome ∨ k.ending.isSome then (z, s)
    else
      let full := decide (min (s.rd p R.qOutMax) (openSlots s (0xA0 + q)) ≤ k.reqs.length)
      let n := s.rd p R.nextElem
      match (if full then none else k.nextLine) with
      | some l =>
        let a := (k.idxBase + 64 * l) % 2 ^ 64
        match xlate at' k.trans false a with
        | .go x =>
          let r : PqReq := { elem := l, off := 0, len := 64, addr := a, dest := x, index := true, under := at' && targetOf a == .pcie }
          qPump f ((s.perf p 0x06).putPq q { k with reqs := k.reqs ++ [r], lineNext := l + 1 }) q z
        | .need => (z, s)
        | .deny => (z, qHalt s q n k.off a)
      | none =>
        if n < k.elems then
          match k.source (qEntry s q) n with
          | .wait => (z, s)
          | .bad => (z, qBegin (s.prog p) q stProg false)
          | .zero =>
            if 0 < qFreeOf s q then
              let (z, s) := qZero s q n z
              qPump f s q z
            else (z, s)
          | .src a =>
            if full ∨ (k.off = 0 ∧ qFreeOf s q = 0) then (z, s)
            else match xlate at' k.trans false (a + k.off) with
              | .go x => qPump f (qIssue s q n a x) q z
              | .need => (z, s)
              | .deny => (z, qHalt s q n k.off (a + k.off))
        else (z, s)

/-- Issue what may be issued, and end the stream if nothing is left. -/
def qGo (s : State) (q : Nat) (z : Hit := cleanHit) : State :=
  let (z, s) := qPump 1200 s q z
  qTryEnd s q z

/-- The bytes of one element that a response brings. -/
def landOne (s : State) (q e : Nat) (r : PqReq) (bs : List Byte) (n : Nat) (z : Hit) : Option Nat × Hit × State :=
  let lo := if n = r.elem then r.off else 0
  let skip := (n - r.elem) * e + lo - r.off
  let part := (bs.drop skip).take (e - lo)
  match qPut s q (qSlotAddr s q n + lo) part z with
  | (none, z, s) => (none, z, qLand s q n part.length)
  | x => x

/-- The data of a request lands and is published (R329); a write that fails for good ends the stream (R339).  `z` is the trouble
that the writes meet. -/
def qLanding (s : State) (q : Nat) (r : PqReq) (bs : List Byte) (z : Hit) : State :=
  let k := s.pq q
  if r.index then qGo (s.putPq q { k with lines := k.lines ++ [(r.elem, bs)] }) q z
  else
    let e := qEntry s q
    let ns := (List.range (cdiv (r.off + r.len) e)).map (r.elem + ·)
    let (bad, z, s) := ns.foldl (fun (b, z, s) n => match b with
      | some st => (some st, z, s)
      | none => landOne s q e r bs n z) ((none : Option Nat), z, s)
    match bad with
    | some st => qBegin s q st false
    | none => qGo (qPublish 1025 s q) q z

/-- Take request i out of flight. -/
def qTake (s : State) (q i : Nat) : State :=
  let k := s.pq q
  s.putPq q { k with reqs := k.reqs.eraseIdx i }

/-- One attempt of a request. -/
def qAttempt (s : State) (q : Nat) (r : PqReq) (x : Resp) (host : Cells) : FabResp × State :=
  let (v, s) := tryRead s (qTag s q) r.dest r.len x host (s.pq q).inc
  (v, if v.isOk then s.perf (pgPq q) 0x08 (r.len / 64) else s)

/-- A response that arrives in DRAINING is dropped, and the credits whose last response it was become FREE (R336). -/
def qDropped (s : State) (q : Nat) (r : PqReq) (got : Bool) : State :=
  let p := pgPq q
  let k := s.pq q
  let e := qEntry s q
  if r.index then s
  else
    let ns := ((List.range (cdiv (r.off + r.len) e)).map (r.elem + ·)).filter fun n => !k.reqs.any (k.covers e n)
    let s := (s.wr p R.qReserved (s.rd p R.qReserved - ns.length)).wr p R.qDraining (s.rd p R.qDraining - ns.length)
    s.putPq q { k with disc := if got ∧ k.ending = some stCancelled then k.disc + r.len else k.disc }

/-- The record of a second attempt, with the incident kept (R339, R528). -/
def qRetryRec (s : State) (q cls a : Nat) : State :=
  let k := s.pq q
  let (inc, s) := s.logI k.inc { event := 0x18, level := 2, cls := cls, part := s.ownerOf (pgPq q), init := 0xA0 + q,
                                 page := pgPq q, tag := k.tag, addr := a }
  s.putPq q { s.pq q with inc := inc }

/-- PFQ_RESPONSE (R329, R336, R339): the response to request i, oldest first, arrives, unless that request awaits its second
attempt. -/
def execPfqResponse (q i : Nat) (back : Back) (host : Cells) (s : State) : Result :=
  .next (
    if 64 ≤ q then s else
    match (s.pq q).reqs[i]? with
    | none => s
    | some x =>
      if x.again then s else
      match qAttempt s q x back.r host with
      | (v, s) =>
        let s := s.putPq q { s.pq q with inc := v.inc (s.pq q).inc }
        if s.qSt q = qDrain then qDropped (qTake s q i) q x v.isOk
        else match v with
          | .ok bs => qLanding (qTake s q i) q x bs back.w
          | .denied _ => qBegin (qTake s q i) q stBusErr false
          | _ => s.putPq q { s.pq q with reqs := (s.pq q).reqs.set i { x with again := true } })

/-- PFQ_TRANSFER_FAIL (R339): the second attempt of the oldest request that awaits one. -/
def execPfqTransferFail (q : Nat) (back : Back) (host : Cells) (s : State) : Result :=
  .next (
    let p := pgPq q
    if 64 ≤ q then s else
    match (s.pq q).reqs.zipIdx.find? fun y => y.1.again with
    | none => s
    | some (x, i) =>
      match qAttempt ((s.perf p 0x0C).perf p 0x06) q x back.r host with
      | (v, s) =>
        let s := qTake (s.putPq q { s.pq q with inc := v.inc (s.pq q).inc }) q i
        match v with
        | .ok bs =>
          let s := qRetryRec (s.bump p R.qRetryCnt) q 1 x.addr
          qLanding (s.putPq q { s.pq q with retried := true }) q x bs back.w
        | .denied _ => qBegin s q stBusErr false
        | .timeout _ => qBegin ((qRetryRec s q 2 x.addr).raise p eTimeout) q stTimeout false
        | .uncorr _ => qBegin (qRetryRec s q 2 x.addr) q stBusErr false)

/-- Requests that await a second attempt are given up (R534). -/
def qGiveUp (s : State) (q : Nat) : State :=
  ((s.pq q).reqs.filter (·.again)).foldl (fun s x => qRetryRec s q 3 x.addr) s

/-! ### Starting -/

/-- The field rules of R325. -/
def qFieldsOk (k : Pq) : Bool :=
  k.w 0 % 256 == 0x33 && k.srcBase % 64 == 0 && k.pitch % 64 == 0 && (!k.gather || k.idxBase % 64 == 0) && decide (1 ≤ k.elems)

/-- STREAM_DESC_FETCH (R325): the descriptor is checked and the stream begins. -/
def execStreamDescFetch (q : Nat) (hit : Hit) (host : Cells) (s : State) : Result :=
  .next (
    let p := pgPq q
    let k := s.pq q
    if 64 ≤ q ∨ k.fetch = false then s else
    match readAll s (qTag s q) p 0 (s.rd p R.streamPtr) 64 hit host 0 with
    | (.ok bs, re, s) =>
      let s := if re then s.bump p R.qRetryCnt else s
      let k := { k with fetch := false, desc := bs, start := s.time, retried := re }
      let s := (s.wr p R.nextElem 0).putPq q k
      let (bad, s) := s.found p eProg (!qFieldsOk k)
      if bad then qFinish s q stProg 0 else qGo s q
    | (x, re, s) => qFinish (s.putPq q { k with fetch := false, retried := re }) q (failStatus x) 0)

/-- A start doorbell (R327). -/
def qStart (s : State) (q v : Nat) : State :=
  let p := pgPq q
  let started := s.rd p R.qStarted
  if v % 65536 = started then s
  else if s.qSt q = qIdle ∧ s.working p ∧ v % 65536 = (started + 1) % 65536 then
    let k := s.pq q
    ((((s.wr p R.qStarted v).setQSt q qRun).settle p true).wr p R.nextElem 0).putPq q
      { fetch := true, snap := k.snap, held := k.held }
  else s.raise p 10

/-- A release that may be held for an audit (R333, R338). -/
def qReleaseIn (s : State) (q v : Nat) : State :=
  let k := s.pq q
  if k.snap ∧ s.qSt q ≠ qDrain then s.putPq q { k with held := k.held ++ [v] } else qRelease s q v

/-- A doorbell through BAR4 or through the queue page (R328). -/
def qDoor (s : State) (ini : Ini) (bar4 : Bool) (q off : Nat) (k : State → State) : State :=
  if 64 ≤ q then s
  else if bar4 then
    match ini with
    | .fn n => doorbell s n (s.ownerOf (pgPq q)) (0x2000 + 0x40 * q) k
    | _ => s
  else regRow s ini (pgPq q) off k

/-- The value of the BAR4 doorbell: bit 31 tells a start from a release (R328). -/
def qBar4 (s : State) (q v : Nat) : State := if bitOf v 31 then qStart s q v else qReleaseIn s q (v % 131072)

/-- QUEUE_START (R327, R328). -/
def execQueueStart (ini : Ini) (bar4 : Bool) (q value : Nat) (s : State) : Result :=
  .next (qDoor s ini bar4 q 0x0B0 fun s => if bar4 then qBar4 s q value else qStart s q value)

/-- QUEUE_RELEASE (R328). -/
def execQueueRelease (ini : Ini) (bar4 : Bool) (q value : Nat) (s : State) : Result :=
  .next (qDoor s ini bar4 q 0x0B4 fun s => if bar4 then qBar4 s q value else qReleaseIn s q (value % 131072))

/-- CREDIT_RETURN (R330). -/
def execCreditReturn (q : Nat) (s : State) : Result :=
  .next (if 64 ≤ q ∨ s.rd (pgPq q) R.qReturning = 0 then s else qGo (s.wr (pgPq q) R.qReturning 0) q)

/-! ### Cancel, disable, budget -/

/-- QUEUE_CANCEL (R336, R338): releases that arrived before it are applied first. -/
def execQueueCancel (ini : Ini) (q : Nat) (s : State) : Result :=
  .next (
    if 64 ≤ q then s else regRow s ini (pgPq q) 0x0B8 fun s =>
      if s.qSt q = qRun ∨ s.qSt q = qHaltd then
        qBegin (qGiveUp s q) q stCancelled true
      else s)

/-- A queue is disabled (R343). -/
def disableQueue (s : State) (q : Nat) : State :=
  let p := pgPq q
  let s := s.wr p R.enable 0
  if s.qSt q = qOff then s
  else
    let k := s.pq q
    let s := if s.qSt q = qDrain then s.putPq q { k with due := none }
             else (fun (t : State) => t.putPq q { t.pq q with due := none }) (qBegin s q stCancelled false)
    if s.fenced p ∨ s.rd p R.pstate = psResetting then s else s.wr p R.pstate psDraining

/-- QUEUE_DISABLE (R343). -/
def execQueueDisable (ini : Ini) (q : Nat) (s : State) : Result :=
  .next (if 64 ≤ q then s else regRow s ini (pgPq q) 0x00C fun s => disableQueue s q)

/-- ENABLE = 1 of a queue: its buffer is checked (R322), and its books begin anew (R343). -/
def enableQueue (s : State) (q : Nat) : State :=
  let p := pgPq q
  let cap := s.rd p R.qCap
  let base := s.rd p R.bufBase
  let len := cap * qEntry s q
  let inOne := (targetOf base == .svm && targetOf (base + len - 1) == .svm) || (targetOf base == .ext && targetOf (base + len - 1) == .ext)
  if 1 ≤ cap ∧ cap ≤ 1024 ∧ base % 64 = 0 ∧ inOne then
    let s := (((s.wr p R.qReserved 0).wr p R.qOccupied 0).wr p R.qDraining 0).wr p R.qReturning 0
    ((s.wr p R.enable 1).setQSt q qIdle).putPq q { snap := (s.pq q).snap, held := (s.pq q).held }
  else s.prog p

/-- QUEUE_DRAIN_DONE (R336, R341, R343): nothing more is outstanding. -/
def execQueueDrainDone (q : Nat) (s : State) : Result :=
  .next (
    let p := pgPq q
    let k := s.pq q
    if 64 ≤ q ∨ s.qSt q ≠ qDrain ∨ k.reqs ≠ [] then s
    else if s.on p R.enable = false then
      let s := (s.setQSt q qOff).putPq q { snap := k.snap, held := k.held }
      if s.fenced p ∨ s.rd p R.pstate = psResetting then s else s.wr p R.pstate psOff
    else
      let st := k.ending.getD stCancelled
      if st = stCancelled then qFinish (s.wr p R.consIdx (s.rd p R.prodIdx)) q st k.disc
      else qFinish s q st (k.pub * qEntry s q))

/-- PFQ_BUDGET_EXPIRY (R340). -/
def execPfqBudgetExpiry (q : Nat) (s : State) : Result :=
  .next (
    let p := pgPq q
    let k := s.pq q
    if 64 ≤ q ∨ k.desc = [] ∨ (s.qSt q ≠ qRun ∧ s.qSt q ≠ qHaltd) ∨ s.time < k.start + usTicks k.budget then s else
    let (inc, s) := s.logI k.inc { event := 0x19, level := 2, cls := if 1 ≤ sget 0 s.toRuns (jobKey p 0) then 2 else 0,
                                   part := s.ownerOf p, page := p, tag := k.tag, d0 := q }
    let s := qGiveUp (s.putPq q { k with inc := inc }) q
    qBegin (s.raise p eTimeout) q stTimeout false)

/-! ### Audits -/

/-- SNAP (R333). -/
def execSnap (ini : Ini) (q : Nat) (s : State) : Result :=
  .next (if 64 ≤ q then s else regRow s ini (pgPq q) 0x0D0 fun s =>
    (s.wr (pgPq q) R.snapValid 0).putPq q { s.pq q with snap := true })

/-- AUDIT_CAPTURE (R333): the books are captured with nothing in transit, and the held releases go on. -/
def execAuditCapture (q : Nat) (s : State) : Result :=
  .next (
    let p := pgPq q
    let k := s.pq q
    if 64 ≤ q ∨ k.snap = false ∨ s.rd p R.qReturning ≠ 0 then s else
    let f := qFreeOf s q
    let r := s.rd p R.qReserved
    let o := s.rd p R.qOccupied
    let s := (((s.wr p R.aFree f).wr p R.aReserved r).wr p R.aOccupied o).wr p R.aDraining (s.rd p R.qDraining)
    let s := ((s.wr p R.auditTime s.time).wr p R.snapValid 1).putPq q { k with snap := false }
    let s := match s.hit p 8 (f + r + o != s.rd p R.qCap) with
      | (true, true, s) => (s.raiseI p 8 true).doubtInj p 8
      | (true, false, s) => checkerFail (s.raise p 8) p 8
      | (false, _, s) => s
    qLetGo s q)

/-! ### Translation and page requests, for channels (unit c) and queues (unit 64 + q) -/

/-- The first two pages, in the order of the requests, that some untranslated addresses need a translation for (R344): the two
slots are for these. -/
def twoPages (l : List Nat) : List Nat :=
  (((l.filter fun a => targetOf a == .pcie).map (· / 4096)).foldl (fun ps p => if ps.contains p then ps else ps ++ [p]) []).take 2

/-- An address, and the start of the page after it where n more bytes reach so far. -/
def pageSteps (a n : Nat) : List Nat := if (a + n - 1) / 4096 = a / 4096 then [a] else [a, (a / 4096 + 1) * 4096]

/-- The pages whose translations a channel asks for: those of its next read and write, then those that follow. -/
def chWants (s : State) (c : Nat) : List Nat :=
  let k := s.chan c
  let rd := if k.srcMode ≠ 2 ∧ k.rdIss < k.beats then
      pageSteps (k.src k.rdIss) (if k.srcMode = 0 then 64 * (k.beats - k.rdIss) else 64) else []
  let wr := if k.wrDone < k.beats then pageSteps (k.dst k.wrDone) (if k.dstMode = 0 then 64 * (k.beats - k.wrDone) else 64) else []
  let l := rd.take 1 ++ wr.take 1 ++ rd.drop 1 ++ wr.drop 1
  match k.halt with
  | some h => if h.again then twoPages (h.addr :: l) else []
  | none => if k.st ≠ 1 then [] else twoPages l

/-- First and last address of elements n on whose source is known, up to the first that is not. -/
def Pq.sources (k : Pq) (e : Nat) : Nat → Nat → List Nat
  | 0, _ => []
  | f + 1, n =>
    if n < k.elems then
      match k.source e n with
      | .src a => a :: (a + e - 1) :: Pq.sources k e f (n + 1)
      | .zero => Pq.sources k e f (n + 1)
      | _ => []
    else []

/-- The pages whose translations a queue asks for: of the next index line, and of the elements from NEXT_ELEM on. -/
def qWants (s : State) (q : Nat) : List Nat :=
  let k := s.pq q
  let n := s.rd (pgPq q) R.nextElem
  let idx := match k.nextLine with
    | some l => [(k.idxBase + 64 * l) % 2 ^ 64]
    | none => []
  let now := if n < k.elems then (match k.source (qEntry s q) n with
      | .src a => [a + k.off, a + qEntry s q - 1]
      | _ => []) else []
  let rest := if n < k.elems then (match k.source (qEntry s q) n with
      | .src _ => k.sources (qEntry s q) 66 (n + 1)
      | .zero => k.sources (qEntry s q) 66 (n + 1)
      | _ => []) else []
  let l := idx ++ now ++ rest
  match k.halt with
  | some h => if h.again then twoPages (h.addr :: l) else []
  | none => if s.qSt q ≠ qRun ∨ k.desc = [] ∨ k.fetch then [] else twoPages l

/-- The slots after a translation has arrived: it, and another that is still wanted (R344). -/
def keepTrans (ts : List Trans) (wants : List Nat) (t : Trans) : List Trans :=
  (ts.filter fun x => x.page != t.page && wants.contains x.page) ++ [t]

/-- A page is asked for. -/
def wantsPage (wants : List Nat) (page : Nat) : Bool := wants.contains page

/-- PRI_FAIL: the transfer of a unit ends with BUS_ERR (R346). -/
def priFail (s : State) (u code : Nat) : State :=
  if u < 64 then
    let p := pgCh u
    let k := s.chan u
    let (inc, s) := s.logI k.inc { event := 0x13, level := 2, part := s.ownerOf p, init := 0x60 + u, page := p, tag := k.tag,
                                   addr := (k.halt.map (·.addr)).getD 0, d0 := code }
    chAbandon ((s.raise p 12).putChan u { k with inc := inc }) u stBusErr
  else
    let q := u - 64
    let p := pgPq q
    let k := s.pq q
    let (inc, s) := s.logI k.inc { event := 0x13, level := 2, part := s.ownerOf p, init := 0xA0 + q, page := p, tag := k.tag,
                                   addr := (k.halt.map (·.addr)).getD 0, d0 := code }
    qBegin ((s.raise p 11).putPq q { k with inc := inc }) q stBusErr false

/-- A translation arrives for a channel. -/
def chTranslated (s : State) (c : Nat) (t : Trans) : State :=
  let p := pgCh c
  let k := s.chan c
  let wants := chWants s c
  if s.on p R.chAtMode = false ∨ wantsPage wants t.page = false then s
  else match k.halt with
    | some h =>
      if h.addr / 4096 = t.page ∧ (if h.write then t.wr else t.rd) then
        chPump 33 ((s.wr p R.chFaultHalt 0).putChan c { k with halt := none, trans := keepTrans k.trans wants t }) c
      else if h.addr / 4096 = t.page then priFail s c 15 else s.putChan c { k with trans := keepTrans k.trans wants t }
    | none =>
      let s := s.putChan c { k with trans := keepTrans k.trans wants t }
      if k.wrDone < k.beats ∧ k.dst k.wrDone / 4096 = t.page ∧ t.wr = false ∧ targetOf (k.dst k.wrDone) = .pcie then
        chHalt s c true (k.dst k.wrDone)
      else chPump 33 s c

/-- A translation arrives for a queue. -/
def qTranslated (s : State) (q : Nat) (t : Trans) : State :=
  let k := s.pq q
  let wants := qWants s q
  if s.on (pgPq q) R.qAtMode = false ∨ wantsPage wants t.page = false then s
  else match k.halt with
    | some h =>
      let u := s.putPq q { k with trans := keepTrans k.trans wants t }
      if h.addr / 4096 ≠ t.page then u
      else if t.rd then qGo ((u.setQSt q qRun).putPq q { u.pq q with halt := none }) q
      else priFail s (64 + q) 15
    | none => qGo (s.putPq q { k with trans := keepTrans k.trans wants t }) q

/-- TRANSLATION_RESPONSE (R344 to R346): page and translated page are 4 KiB page numbers. -/
def execTranslationResponse (unit page dest : Nat) (rd wr : Bool) (s : State) : Result :=
  .next (
    if unit < 64 then chTranslated s unit ⟨page, dest, rd, wr⟩
    else if unit < 128 then qTranslated s (unit - 64) ⟨page, dest, rd, wr⟩
    else s)

/-- The halt of a unit. -/
def haltOf (s : State) (u : Nat) : Option Halt := if u < 64 then (s.chan u).halt else (s.pq (u - 64)).halt

/-- Change the halt of a unit. -/
def setHalt (s : State) (u : Nat) (h : Halt) : State :=
  if u < 64 then s.putChan u { s.chan u with halt := some h } else s.putPq (u - 64) { s.pq (u - 64) with halt := some h }

/-- The function a unit's page requests are made for: its page's owner. -/
def unitFn (s : State) (u : Nat) : Nat := s.ownerOf (if u < 64 then pgCh u else pgPq (u - 64))

/-- Requests that waited for room in a function's allocation are sent (R345). -/
def sendWaiting (s : State) (fn : Nat) : State :=
  (List.range 128).foldl (fun s u =>
    match haltOf s u with
    | some h =>
      if unitFn s u = fn ∧ h.prg.isNone ∧ h.again = false then
        match sendPrg s fn u h.addr with
        | (some i, s) =>
          let s := if u < 64 then s.wr (pgCh u) R.chPrgIndex i else s.wr (pgPq (u - 64)) R.qPrgIndex i
          setHalt s u { h with prg := some i }
        | (none, s) => s
      else s
    | none => s) s

/-- PAGE_RESPONSE (R346): 0 Success, 1 Invalid Request, 15 Response Failure. -/
def execPageResponse (fn prg code : Nat) (s : State) : Result :=
  .next (
    match s.prgs.find? fun g => g.fn == fn && g.idx == prg with
    | none => s
    | some g =>
      let s := { s with prgs := s.prgs.filter fun x => !(x.fn == fn && x.idx == prg) }
      let u := g.unit
      let s := match haltOf s u with
        | some h =>
          if h.prg = some prg ∧ unitFn s u = fn then
            (if code = 0 then setHalt s u { h with prg := none, again := true } else priFail s u code)
          else if 64 ≤ u then s.bump (pgPq (u - 64)) R.qStaleCnt else s
        | none => if 64 ≤ u then s.bump (pgPq (u - 64)) R.qStaleCnt else s
      sendWaiting s fn)

/-- Page a translation slot holds inside an invalidated range. -/
def inInval (page n x : Nat) : Bool := decide (page ≤ x) && decide (x < page + n)

/-- The name of an invalidation in the requests it has to wait for. -/
def invKey (fn tag : Nat) : Nat := 32 * fn + tag

/-- An invalidation reaches a channel (R347): its translations go, and the beats whose reads are in flight under one are marked. -/
def chInval (s : State) (c key page n : Nat) : State :=
  let k := s.chan c
  let bs := ((List.range k.inflight).map (k.rdDone + ·)).filter fun b =>
    ((k.froms[b - k.wrDone]?).map (·.2)).getD false && inInval page n (k.src b / 4096)
  s.putChan c { k with trans := k.trans.filter fun t => !inInval page n t.page,
                       invs := if bs = [] then k.invs else k.invs ++ [(key, bs)] }

/-- An invalidation reaches a queue, likewise. -/
def qInval (s : State) (q key page n : Nat) : State :=
  let k := s.pq q
  s.putPq q { k with trans := k.trans.filter fun t => !inInval page n t.page,
                     reqs := k.reqs.map fun r => if r.under && inInval page n (r.addr / 4096) then { r with invs := key :: r.invs } else r }

/-- ATS_INVALIDATE (R347): held translations of the function's units go at once; the completion is owed. -/
def execAtsInvalidate (fn addr n tag : Nat) (s : State) : Result :=
  .next (
    let page := addr / 4096
    let key := invKey fn tag
    let s := (List.range 64).foldl (fun s c => if unitFn s c = fn then chInval s c key page n else s) s
    let s := (List.range 64).foldl (fun s q => if unitFn s (64 + q) = fn then qInval s q key page n else s) s
    { (s.bump pgPfq R.invCnt) with invals := s.invals ++ [⟨fn, tag, page, n⟩] })

/-- A request issued under a translation that the invalidation removed is still in flight. -/
def underInval (s : State) (i : Inval) : Bool :=
  let key := invKey i.fn i.tag
  s.chans.any (fun x => x.2.invs.any fun y => y.1 == key && y.2.any fun b => decide (x.2.rdDone ≤ b)) ||
  s.pqs.any fun x => x.2.reqs.any fun r => r.invs.contains key

/-- INVALIDATION_COMPLETE (R347). -/
def execInvalidationComplete (fn tag : Nat) (s : State) : Result :=
  .next (
    match s.invals.find? fun i => i.fn == fn && i.tag == tag with
    | none => s
    | some i =>
      if underInval s i then s
      else { s with invals := s.invals.erase i, outs := s.outs ++ [Out.invalidateDone fn tag] })

end Sys2Proof.Machine
end

