-- ==== Sys2Proof/Machine/Trace.lean ====
section
/-! DEFINITION. The trace unit (R557, R558): packets from the enabled sources, its FIFO, and the drain to the trace port
and to host memory. -/
namespace Sys2Proof.Machine
open Sys2Proof

/-- Packets the 16 KiB FIFO holds. -/
def traceDepth : Nat := 1024

/-- A packet of 16 bytes: SRC, the sequence byte, a reserved u16, device time and the payload. -/
def tracePacket (s : State) (src payload : Nat) : List Byte :=
  leBytes 1 src ++ leBytes 1 s.trace.seq ++ leBytes 2 0 ++ leBytes 4 s.time ++ leBytes 8 payload

/-- Put a packet into the FIFO. -/
def tracePush (s : State) (src payload : Nat) : State :=
  { s with trace := { s.trace with fifo := s.trace.fifo ++ [tracePacket s src payload], seq := (s.trace.seq + 1) % 256 } }

/-- A packet is lost. -/
def traceDrop (s : State) : State :=
  { s.bump pgDbg R.traceDropCnt with trace := { s.trace with lost := s.trace.lost + 1 } }

/-- A source offers a packet (R557): taken when its source is enabled, dropped and counted when the FIFO is full. -/
def tracePkt (s : State) (src payload : Nat) : State :=
  if bitOf (s.rd pgDbg R.traceSrcEn) src = false then s
  else if traceDepth ≤ s.trace.fifo.length then traceDrop s
  else tracePush s src payload

/-- Payload of a node's admission or end: graph, node, which of the two, STATUS and INST. -/
def traceNode (s : State) (g i n : Nat) (fin : Bool) (status : Nat) : State :=
  tracePkt s 9 (g % 256 + 2 ^ 8 * (n % 1024) + 2 ^ 18 * b2n fin + 2 ^ 24 * (status % 256) + 2 ^ 32 * (i % 2 ^ 32))

/-- TRACE_SAMPLE (R557): one counter in turn, every SAMPLE_US µs. -/
def execTraceSample (s : State) : Host.Outcome State Fault Refusal :=
  .next (
    if bitOf (s.rd pgDbg R.traceSrcEn) 11 = false ∨ s.time < s.trace.last + usTicks (s.rd pgDbg R.sampleUs) then s
    else
      let pages := (List.range 0x188).filter fun p => (pageKind p).isSome
      let n := s.trace.next % (4 * pages.length)
      let p := (pages[n / 4]?).getD 0
      let s := tracePkt s 11 (s.rd p R.perf (n % 4))
      { s with trace := { s.trace with next := (n + 1) % (4 * pages.length), last := s.time } })

/-- The ring in host memory has room for a packet: one packet of it always stays free, so that TRACE_WR equal to TRACE_RD
means empty (R558, R562). -/
def traceRoom (s : State) : Bool :=
  let size := s.rd pgDbg R.traceSize
  decide (16 < size) && (s.rd pgDbg R.traceWr + 16) % size != s.rd pgDbg R.traceRd

/-- A packet goes to host memory as a Memory Write of function 0 (R558). -/
def traceHost (s : State) (pkt : List Byte) : State :=
  if (sget {} s.fns 0).bme = false ∨ s.on pgPci R.dlUp = false ∨ traceRoom s = false then traceDrop s
  else
    let w := s.rd pgDbg R.traceWr
    let s := s.store (2 ^ 63 + (s.rd pgDbg R.traceBase + w) % 2 ^ 63) pkt
    s.wr pgDbg R.traceWr ((w + 16) % s.rd pgDbg R.traceSize)

/-- A packet leaves by the trace port. -/
def tracePort (s : State) (pkt : List Byte) : State := { s with outs := s.outs ++ [.trace pkt] }

/-- When room returns, a packet with SRC 0xF carries the number dropped (R557). -/
def traceLost (s : State) : State :=
  if s.trace.lost = 0 ∨ traceDepth ≤ s.trace.fifo.length then s
  else
    let n := s.trace.lost
    tracePush { s with trace := { s.trace with lost := 0 } } 15 n

/-- One tick of the drain (R558): one byte a tick, so a packet leaves after 16 ticks. -/
def traceTick (s : State) : State :=
  match s.trace.fifo with
  | [] => s
  | p :: rest =>
    if s.on pgDbg R.tracePortEn = false ∧ s.on pgDbg R.traceHostEn = false then s
    else if s.trace.sent + 1 < 16 then { s with trace := { s.trace with sent := s.trace.sent + 1 } }
    else
      let s := { s with trace := { s.trace with sent := 0, fifo := rest } }
      let s := if s.on pgDbg R.tracePortEn then tracePort s p else s
      let s := if s.on pgDbg R.traceHostEn then traceHost s p else s
      traceLost s

end Sys2Proof.Machine
end

