-- ==== Sys2Proof/Machine/Graph.lean ====
section
/-! DEFINITION. The frame-graph sequencer: loading and checking graphs, starting instances, admitting and ending nodes,
fused groups, deadlines and cancels, and semaphores (R254 to R280, R524, R526). -/
namespace Sys2Proof.Machine
open Sys2Proof

/-- The sequencer's own reads and writes for a partition (R353, R355). -/
def fgsTag (part : Nat) : Tag := ⟨0x58, part, 1⟩

def nkEngine : Nat := 1
def nkPush : Nat := 2
def nkSmv : Nat := 3
def nkCore : Nat := 4
def nkJoin : Nat := 5

/-! ### Loading (R255 to R258) -/

/-- The valid links among four 16-bit entries. -/
def linksAt (bs : List Byte) (o : Nat) : List Nat :=
  [0, 1, 2, 3].filterMap fun i =>
    let v := fromLe ((bs.drop (o + 2 * i)).take 2)
    if bitOf v 15 then some (v % 512) else none

/-- A node from its 64 bytes (R256). -/
def nodeOf (bs : List Byte) : Node :=
  let w0 := wordAt bs 0
  let w1 := wordAt bs 4
  { kind := w0 % 16, trig := bitOf w0 4, skip := bitOf w0 5, ring := bitOf w0 6, fused := bitOf w0 7, fuseId := bitsOf w0 11 8,
    tag := bitsOf w0 31 16, page := bitsOf w1 13 0, slot := bitsOf w1 18 16, desc := quadAt bs 8, ins := linksAt bs 0x10,
    outs := linksAt bs 0x18, param := wordAt bs 0x20, budget := wordAt bs 0x24, aux := quadAt bs 0x28, cfg := wordAt bs 0x30,
    geom := wordAt bs 0x34, hoBase := quadAt bs 0x38 }

/-- Hand-over fields (R272). -/
def Node.hoEn (n : Node) : Bool := bitOf n.cfg 4
def Node.lb (n : Node) : Nat := bitsOf n.cfg 3 0
def Node.cons (n : Node) : Nat := bitsOf n.cfg 15 6
def Node.stride (n : Node) : Nat := bitsOf n.geom 19 0
def Node.depth (n : Node) : Nat := bitsOf n.geom 31 20

/-- The header's fields, with the number of nodes (R255). -/
def headerOf (bs : List Byte) (x : Graph) : Graph × Nat :=
  let w1 := wordAt bs 4
  let w3 := wordAt bs 0x0C
  ({ x with instMax := bitsOf w1 1 0 + 1, stream := if bitOf w1 4 then some (bitsOf w1 13 8) else none, ringN := bitsOf w1 24 16,
            deadline := wordAt bs 8, tag := bitsOf w3 15 0, cqp := bitsOf w3 19 16, cqEn := bitOf w3 20,
            doneSem := bitsOf w3 30 21, doneEn := bitOf w3 31, statPtr := quadAt bs 0x10, descStep := wordAt bs 0x18 },
   bitsOf (wordAt bs 0) 26 16)

/-- The limits of the header (R255, R258). -/
def headerOk (s : State) (bs : List Byte) (x : Graph) (n : Nat) : Bool :=
  wordAt bs 0 % 65536 == 0x0128 && within 1 1024 n && within 1 256 x.ringN && x.statPtr % 64 == 0 && x.descStep % 64 == 0 &&
    match x.stream with
    | some k => decide (k < 48) && s.ownerOf (pgCtx k) == x.owner && within 1000 100000 x.deadline
    | none => x.deadline == 0 || within 1000 100000 x.deadline

/-- The slots a node may run on: one, or RING_N of them (R262). -/
def nodeSlots (x : Graph) (nd : Node) : List Nat :=
  match pageKind nd.page with
  | some .sta | some .lvu => (List.range (if nd.ring then x.ringN else 1)).map fun k => nd.slot + k
  | _ => [nd.slot]

/-- The target exists, is allowed for the kind, and is no reserved Fawn slot (R257, R258, R280). -/
def targetOk (x : Graph) (nd : Node) : Bool :=
  if nd.kind = nkEngine then
    isEngine nd.page && nd.desc % 64 == 0 && (nodeSlots x nd).all fun n => decide (n < nSlots nd.page) && !isFawn nd.page n
  else if nd.kind = nkPush then al64 [nd.desc, nd.aux]
  else if nd.kind = nkSmv then pageKind nd.page == some .ch && nd.desc % 64 == 0
  else if nd.kind = nkCore then pageKind nd.page == some .cc
  else nd.kind == nkJoin

/-- Link rules: ownership, no pair on both sides, and external links only into CORE and triggered nodes (R258, R270). -/
def linksOk (s : State) (x : Graph) (nd : Node) : Bool :=
  (nd.ins ++ nd.outs).all (fun p => sget 0 s.semOwner p == x.owner) && nd.ins.all (fun p => !nd.outs.contains p) &&
    nd.ins.all fun p => nd.kind == nkCore || nd.trig || x.nodes.any fun m => m.outs.contains p

/-- The members of a fused group, by node index. -/
def Graph.members (x : Graph) (id : Nat) : List Nat :=
  (List.range x.nodes.length).filter fun n => let nd := (x.nodes[n]?).getD {}; nd.fused && nd.fuseId == id

def Graph.node (x : Graph) (n : Nat) : Node := (x.nodes[n]?).getD {}

/-- The rules of a fused member (R271, R272). -/
def fusedOk (x : Graph) (n : Nat) : Bool :=
  let nd := x.node n
  let ms := x.members nd.fuseId
  let c := x.node nd.cons
  if nd.fused = false then nd.kind != nkEngine || !nd.hoEn
  else
    nd.kind == nkEngine && [some .wrp, some .ste, some .hmp].contains (pageKind nd.page) && within 2 4 ms.length &&
      (!nd.hoEn ||
        (ms.contains nd.cons && al64 [nd.hoBase, nd.stride] && decide (nd.depth * nd.stride ≤ 262144) &&
          ((pageKind nd.page == some .wrp && pageKind c.page == some .ste) ||
            (pageKind nd.page == some .ste && pageKind c.page == some .hmp)) &&
          ms.all fun m => m == n || !(x.node m).hoEn || (x.node m).lb != nd.lb))

/-- Every check of one node (R258). -/
def nodeOk (s : State) (x : Graph) (n : Nat) (nd : Node) : Bool := targetOk x nd && linksOk s x nd && fusedOk x n

/-- Nodes of a graph in the node-state store (R254). -/
def Graph.room (x : Graph) : Nat := x.nodes.length * x.instMax

/-- Start a LOAD of an EMPTY entry (R258, R259). -/
def loadGraph (s : State) (g part base : Nat) : State :=
  if (s.graph g).st ≠ gEmpty ∨ s.working pgFgs = false then s.prog pgFgs
  else s.putGraph g { st := gLoading, owner := part, base := base }

/-- A graph operation of the FGS page, or of the port of a core, which reaches its own partition's entries only (R259,
R285). -/
def gop (s : State) (ini : Ini) (off g : Nat) (k : State → State) : State :=
  if 256 ≤ g then s else
  match ini with
  | .core c =>
    if (s.graph g).st = gEmpty ∨ (s.graph g).owner ≠ s.ownerOf (pgCc c) then s.prog (pgCc c) else k s
  | _ => regRow s ini pgFgs off k

/-- LOAD (R258). -/
def execLoad (ini : Ini) (s : State) : Result :=
  .next (regRow s ini pgFgs 0x090 fun s =>
    loadGraph s (s.rd pgFgs R.gtSel) (iniPart s ini) (s.rd pgFgs R.gtBase))

/-- The entry is BAD (R258). -/
def loadBad (s : State) (g : Nat) (x : Graph) : State :=
  ((s.prog pgFgs).raise pgFgs 12).putGraph g { st := gBad, owner := x.owner, base := x.base }

/-- LOAD_DONE (R258): the header and every node are read once and checked. -/
def execLoadDone (g : Nat) (hit : Hit) (host : Cells) (s : State) : Result :=
  .next (
    let x := s.graph g
    if 256 ≤ g ∨ x.st ≠ gLoading then s
    else if x.base % 64 ≠ 0 then loadBad s g x
    else
      let t := fgsTag x.owner
      match readAll s t pgFgs 0 x.base 64 hit host 0 with
      | (.ok hb, _, s) =>
        let (y, n) := headerOf hb x
        if headerOk s hb y n = false then loadBad s g x
        else match readAll s t pgFgs 0 (x.base + 64) (64 * n) (if hit.idx = 0 then cleanHit else { hit with idx := hit.idx - 1 })
            host 0 with
          | (.ok nb, _, s) =>
            let y := { y with nodes := (List.range n).map fun i => nodeOf ((nb.drop (64 * i)).take 64) }
            if (List.range n).all (fun i => nodeOk s y i (y.node i)) ∧ s.rd pgFgs R.stateUsed + y.room ≤ 8192 then
              (s.bump pgFgs R.stateUsed y.room).putGraph g { y with st := gReady }
            else loadBad s g x
          | (_, _, s) => loadBad s g x
      | (_, _, s) => loadBad s g x)

/-- UNLOAD of an entry (R259). -/
def unloadGraph (s : State) (g : Nat) : State :=
  let x := s.graph g
  if x.st = gLoading ∨ x.insts ≠ [] ∨ (x.stream.isNone ∧ x.req ≠ x.started) then s.prog pgFgs
  else (s.wr pgFgs R.stateUsed (s.rd pgFgs R.stateUsed - (if x.st = gReady then x.room else 0))).putGraph g {}

/-- UNLOAD (R259). -/
def execUnload (ini : Ini) (s : State) : Result :=
  .next (regRow s ini pgFgs 0x090 fun s => unloadGraph s (s.rd pgFgs R.gtSel))

/-! ### Starting (R260 to R262) -/

/-- A start request (R260, R261), ignored while the partition departs (R373). -/
def startReq (s : State) (g req : Nat) : State :=
  let x := s.graph g
  if s.rd pgFab R.partState x.owner = 2 then s
  else if x.st ≠ gReady ∨ x.stream.isSome ∨ 0x8000 ≤ (req % 65536 + 65536 - x.started) % 65536 then s.prog pgFgs
  else s.putGraph g { x with req := req % 65536 }

/-- START_DOORBELL (R260): the doorbell of BAR4, or START through a core port with GOP_ARG. -/
def execStartDoorbell (ini : Ini) (g req : Nat) (s : State) : Result :=
  .next (
    if 256 ≤ g then s else
    match ini with
    | .fn n =>
      doorbell s n (if (s.graph g).st = gEmpty then 8 else (s.graph g).owner) (0x3000 + 4 * g) fun s => startReq s g req
    | .core c => gop s ini 0 g fun s => startReq s g (sget {} s.cores c).gopArg
    | _ => s)

/-! ### Links -/

/-- Take a token of each semaphore, all or none (R264). -/
def takeAll (s : State) : List Nat → Option State
  | [] => some s
  | n :: t => if sget 0 s.sems n = 0 then none else takeAll { s with sems := sset 0 s.sems n (sget 0 s.sems n - 1) } t

/-- What a node takes at admission and posts at its end. -/
def Node.takes (nd : Node) : List Nat := nd.ins.map (2 * ·) ++ nd.outs.map (2 * · + 1)
def Node.posts (nd : Node) : List Nat := nd.outs.map (2 * ·) ++ nd.ins.map (2 * · + 1)

/-- A node's posts, which the sequencer issues for the partition of the graph (R263, R370). -/
def postAll (s : State) (part : Nat) (l : List Nat) : State := l.foldl (fun s n => s.semPost 0x58 part n) s

/-- An active instance of some graph names a pair (R263, R286). -/
def pairInUse (s : State) (p : Nat) : Bool :=
  s.graphs.any fun g => !g.2.insts.isEmpty && g.2.nodes.any fun nd => nd.ins.contains p || nd.outs.contains p

/-! ### Admission (R264 to R269, R271, R272) -/

/-- The nodes admitted together with node n: its fused group, or itself. -/
def Graph.group (x : Graph) (n : Nat) : List Nat := if (x.node n).fused then x.members (x.node n).fuseId else [n]

/-- The slot and the descriptor address of a node in an instance (R262). -/
def slotIn (nd : Node) (a : Inst) : Nat :=
  match pageKind nd.page with
  | some .sta | some .lvu => if nd.ring then nd.slot + a.k else nd.slot
  | _ => nd.slot
def descIn (x : Graph) (nd : Node) (a : Inst) : Nat := if nd.ring then nd.desc + a.k * x.descStep else nd.desc

/-- A node that will be skipped: tainted with SKIP_ON_FAIL, or in an instance that is ending (R268, R276). -/
def skips (x : Graph) (a : Inst) (n : Nat) : Bool := a.ending.isSome || ((a.exec n).tainted && (x.node n).skip)

def credit (x : Graph) (n : Nat) : Nat := sget 0 x.credits n

/-- Conditions 2 and 3 of R264. -/
def targetFree (s : State) (x : Graph) (a : Inst) (n : Nat) : Bool :=
  let nd := x.node n
  (!nd.trig || decide (0 < credit x n)) &&
    (if nd.kind = nkEngine then s.slotSt nd.page (slotIn nd a) == slIdle
     else if nd.kind = nkCore then decide ((sget {} s.cores (nd.page - 0xB8)).inbox.length < 16)
     else if nd.kind = nkPush then decide (s.pushes.length < 8)
     else true)

/-- No line buffer of the group is claimed (R272). -/
def lbsFree (s : State) (x : Graph) (ms : List Nat) : Bool :=
  ms.all fun n => !(x.node n).hoEn || !(x.node n).fused || (sfind s.lbs (x.node n).lb).isNone

/-- Conditions 1 to 4 of R264 for a node with its fused group; a group that is skipped waits for neither its targets nor
its triggers (R269). -/
def eligible (s : State) (x : Graph) (a : Inst) (n : Nat) : Bool :=
  let ms := x.group n
  ms.all (fun m => (a.exec m).st == 0) && (takeAll s (ms.flatMap fun m => (x.node m).takes)).isSome &&
    decide (s.rd pgFgs R.fgsInflight + ms.length ≤ 256) &&
    (ms.any (skips x a) || (ms.all (targetFree s x a) && lbsFree s x ms))

/-- The first member of a node's group, which names the group. -/
def Graph.lead (x : Graph) (n : Nat) : Nat := (x.group n).headD n

/-- The groups eligible now, by graph, then by node index, then by the age of the instance. -/
def eligNow (s : State) : List Nat :=
  s.graphs.flatMap fun (g, x) =>
    if x.st ≠ gReady then []
    else (List.range x.nodes.length).flatMap fun n =>
      if x.lead n ≠ n then []
      else (x.insts.filter fun a => eligible s x a n).map fun a => execKey g a.num n

/-- The sequencer notes which groups have become eligible, behind those that were, and drops those that no longer are
(R264). -/
def noteElig (s : State) : State :=
  let now := eligNow s
  let old := s.elig.filter fun k => now.contains k
  { s with elig := old ++ now.filter fun k => !old.contains k }

/-- INSTANCE_START (R260). -/
def execInstanceStart (g : Nat) (s : State) : Result :=
  .next (
    let x := s.graph g
    if 256 ≤ g ∨ x.st ≠ gReady ∨ x.stream.isSome ∨ x.req = x.started ∨ x.instMax ≤ x.insts.length ∨ s.working pgFgs = false then s
    else noteElig (startInst s g 0))

/-- A message enters a core's inbox (R283). -/
def pushInbox (s : State) (c : Nat) (m : List Nat) : State :=
  let k := sget {} s.cores c
  coreWake { s with cores := sset {} s.cores c { k with inbox := k.inbox ++ [m] } } c

/-- The message of a CORE node (R283). -/
def nodeMsg (s : State) (g : Nat) (a : Inst) (n : Nat) (nd : Node) (desc : Nat) : List Nat :=
  [g + n * 2 ^ 8, a.num, nd.param, a.k, desc % 2 ^ 32, desc / 2 ^ 32 % 2 ^ 32, s.time % 2 ^ 32, s.time / 2 ^ 32 % 2 ^ 32]

/-- Arm every enabled plane slot with PARAM (R275). -/
def armAll (nd : Node) : List Nat → State → Bool × List (Nat × Nat) × State
  | [], s => (true, [], s)
  | a :: t, s =>
    let b := bitsOf nd.cfg (8 * a + 7) (8 * a)
    if bitOf b 7 = false then armAll nd t s
    else
      let p := pgSta a
      let n := b % 32
      match armPlane (s.wr p R.planeId nd.param n) p n with
      | (true, s) =>
        let (ok, l, s) := armAll nd t s
        (ok, (a, n) :: l, s)
      | (false, _) => (false, [], s.prog p)

/-- Dispatch an ENGINE execution: JOB_PTR and START are written internally (R125, R265). -/
def dispatchEngine (s : State) (key part : Nat) (page slot ptr tries : Nat) : State :=
  if slotPartOf s page slot ≠ part ∨ s.working page = false ∨ s.slotSt page slot ≠ slIdle ∨ isFawn page slot then
    finishExec (s.prog page) key (if s.fenced page then stFenced else stProg)
  else
    let s := modExec (s.wr page (slotF page R.jobPtr) ptr slot) key fun e => { e with tries := tries }
    enqueue s page slot { ptr := ptr, part := part, node := some key }

/-- Dispatch a node that was read again and checked (R259, R265). -/
def dispatchNode (s : State) (g : Nat) (x : Graph) (a : Inst) (n : Nat) (nd : Node) : State :=
  let key := execKey g a.num n
  let ptr := descIn x nd a
  if nd.kind = nkEngine then dispatchEngine s key x.owner nd.page (slotIn nd a) ptr 0
  else if nd.kind = nkPush then
    match armAll nd [0, 1, 2, 3] s with
    | (true, arms, s) => queuePush s { src := ptr, dig := nd.aux, part := x.owner, node := some key, arms := arms }
    | (false, _, s) => finishExec s key stProg
  else if nd.kind = nkSmv then
    match smvDispatch s key x.owner nd.page ptr with
    | some s => s
    | none => finishExec (s.prog nd.page) key stProg
  else if nd.kind = nkCore then pushInbox s (nd.page - 0xB8) (nodeMsg s g a n nd ptr)
  else finishExec s key stOk

/-- Read a node again and dispatch it (R259). -/
def fetchNode (s : State) (g i n : Nat) (hit : Hit) (host : Cells) : State :=
  let x := s.graph g
  match x.inst i with
  | none => s
  | some a =>
    let key := execKey g i n
    match readAll s (fgsTag x.owner) pgFgs 0 (x.base + 64 * (n + 1)) 64 hit host a.inc with
    | (.ok bs, _, s) =>
      let nd := nodeOf bs
      if nodeOk s x n nd then dispatchNode s g x a n nd else finishExec (s.prog pgFgs) key stProg
    | (r, _, s) => finishExec s key (failStatus r)

/-- Mark a node admitted (R264, R267, R269). -/
def admitOne (s : State) (g i n : Nat) (skip : Bool) : State :=
  let x := s.graph g
  match x.inst i with
  | none => s
  | some a =>
    let nd := x.node n
    let b := if nd.budget = 0 then 2000 else nd.budget
    let e := a.exec n
    let e := if skip then { e with st := 3, status := stSkipped } else { e with st := 1, start := s.time, budget := b }
    let c := credit x n
    let x := if 0 < c then { x with credits := sset 0 x.credits n (c - 1) } else x
    let a := { a.setExec n e with first := some (a.first.getD s.time) }
    traceNode ((s.bump pgFgs R.fgsInflight).putGraph g (x.setInst a)) g i n false 0

/-- LB_BUSY shows the line buffers claimed. -/
def showLbs (s : State) : State := s.wr pgFgs R.lbBusy ((s.lbs.map fun b => 2 ^ b.1).sum)

/-- Claim the line buffer of a producing member (R272). -/
def claimLb (s : State) (g i n : Nat) : State :=
  let nd := (s.graph g).node n
  if nd.hoEn ∧ nd.fused then
    let b : LineBuf :=
      { prod := execKey g i n, cons := execKey g i nd.cons, base := nd.hoBase, stride := nd.stride, lines := nd.aux % 2 ^ 14,
        depth := nd.depth, back := bitsOf nd.cfg 23 16, mirror := bitOf nd.cfg 5 }
    showLbs { s with lbs := sput s.lbs nd.lb b }
  else s

/-- A group whose turn it is takes its tokens and is dispatched or skipped (R264, R265, R269, R271). -/
def admitGroup (s : State) (g : Nat) (x : Graph) (a : Inst) (n : Nat) (hit : Hit) (host : Cells) : State :=
  let ms := x.group n
  let skip := ms.any (skips x a)
  match takeAll s (ms.flatMap fun m => (x.node m).takes) with
  | none => s
  | some s =>
    let s := ms.foldl (fun s m => admitOne s g a.num m skip) { s with elig := s.elig.drop 1 }
    if skip then s
    else
      let s := ms.foldl (fun s m => claimLb s g a.num m) s
      ms.foldl (fun s m => fetchNode s g a.num m (if m = n then hit else cleanHit) host) s

/-- NODE_ADMIT (R264, R265, R269, R271): of the groups eligible, the one that became so first is admitted; the command names
it by any member. -/
def execNodeAdmit (g i n : Nat) (hit : Hit) (host : Cells) (s : State) : Result :=
  .next (
    let x := s.graph g
    match x.inst i with
    | none => s
    | some a =>
      if 256 ≤ g ∨ x.st ≠ gReady ∨ x.nodes.length ≤ n ∨ (s.working pgFgs = false ∧ s.rd pgFgs R.pstate ≠ psDraining) then s
      else
        let s := noteElig s
        if s.elig.head? = some (execKey g a.num (x.lead n)) then admitGroup s g x a n hit host else s)

/-- REDISPATCH (R524): the same descriptor goes to the same slot once more, when it is IDLE. -/
def execRedispatch (g i n : Nat) (s : State) : Result :=
  .next (
    let x := s.graph g
    match x.inst i with
    | none => s
    | some a =>
      let nd := x.node n
      let e := a.exec n
      if e.st ≠ 1 ∨ e.again = false ∨ s.slotSt nd.page (slotIn nd a) ≠ slIdle then s
      else
        let key := execKey g i n
        let s := modExec (s.perf pgFgs 0x0C) key fun e => { e with again := false }
        dispatchEngine s key x.owner nd.page (slotIn nd a) (descIn x nd a) 1)

/-! ### Ends -/

/-- The slot in which a job of an execution stands. -/
def jobOf (s : State) (key : Nat) : Option (Nat × Nat) :=
  (s.jobs.find? fun j => j.2.node == some key).map fun j => (j.1 / 8, j.1 % 8)

/-- Cancel a running execution (R276, R278). -/
def cancelExec (s : State) (g i n : Nat) : State :=
  let key := execKey g i n
  let nd := (s.graph g).node n
  match execOf s key with
  | none => s
  | some e =>
    if e.st ≠ 1 then s
    else
      let s := modExec s key fun e => { e with cancelled := true }
      if nd.kind = nkEngine then
        if e.again then finishExec s key stCancelled
        else match jobOf s key with
          | some (p, m) => cancelSlot s p m
          | none => s
      else if nd.kind = nkCore then finishExec s key stCancelled
      else if nd.kind = nkSmv then cancelNode s (nd.page - 0x100)
      else s

/-- An instance ends early: running executions are cancelled, the others will be skipped (R276, R278). -/
def endInst (s : State) (g i st : Nat) : State :=
  let x := s.graph g
  match x.inst i with
  | none => s
  | some a =>
    if a.ending.isSome then s
    else
      let s := s.putGraph g (x.setInst { a with ending := some st })
      (List.range x.nodes.length).foldl (fun s n => cancelExec s g i n) s

/-- The nodes of the same instance that take an ended node's OUT links are tainted (R268). -/
def taint (x : Graph) (a : Inst) (n : Nat) : Inst :=
  (List.range x.nodes.length).foldl (fun a m =>
    if (a.exec m).st = 0 ∧ (x.node m).ins.any (fun p => (x.node n).outs.contains p) then
      a.setExec m { a.exec m with tainted := true } else a) a

/-- Release the line buffers of a group (R272). -/
def dropLbs (s : State) (g i : Nat) (ms : List Nat) : State :=
  showLbs { s with lbs := s.lbs.filter fun b => !ms.any fun m => b.2.prod == execKey g i m }

/-- The status entry of an execution (R266). -/
def statusEntry (s : State) (a : Inst) (nd : Node) (st : Nat) : List Byte :=
  leBytes 4 a.num ++ leBytes 1 st ++ leBytes 1 nd.kind ++ leBytes 2 nd.tag ++ leBytes 8 s.time

/-- An execution ends: status entry, posts, taint, and the other members of its group (R266, R268, R271). -/
def endExec (s : State) (g i n : Nat) (hit : Hit) : State :=
  let x := s.graph g
  match x.inst i with
  | none => s
  | some a =>
    let nd := x.node n
    let st := (a.exec n).status
    let s := (writeAll s (fgsTag x.owner) pgFgs nd.tag (x.statPtr + 16 * n) (statusEntry s a nd st) hit a.inc).2.2.2
    let s := modExec s (execKey g i n) fun e => { e with st := 2 }
    let s := (s.wr pgFgs R.fgsInflight (s.rd pgFgs R.fgsInflight - 1)).perf pgFgs 0x04
    let s := traceNode (if st = stOk then s else s.perf pgFgs 0x05) g i n true st
    let s := if st = stOk then s else
      let x := s.graph g
      match x.inst i with
      | some a => s.putGraph g (x.setInst (taint x a n))
      | none => s
    let ms := x.group n
    let gone := ms.all fun m => ((execOf s (execKey g i m)).map (·.st)) == some 2
    if gone then postAll (dropLbs s g i ms) x.owner (ms.flatMap fun m => (x.node m).posts)
    else if st = stOk ∨ st = stSkipped then s
    else ms.foldl (fun s m => cancelExec s g i m) s

/-- NODE_END (R257, R266): an execution that has finished ends, or the budget of a CORE or SMV execution expires. -/
def execNodeEnd (g i n : Nat) (hit : Hit) (s : State) : Result :=
  .next (
    let key := execKey g i n
    let nd := (s.graph g).node n
    if 256 ≤ g ∨ (s.graph g).nodes.length ≤ n then s else
    match execOf s key with
    | none => s
    | some e =>
      if e.st = 3 then noteElig (endExec s g i n hit)
      else if e.st = 1 ∧ e.start + usTicks e.budget ≤ s.time ∧ e.force.isNone then
        if nd.kind = nkCore then noteElig (endExec (finishExec s key stTimeout) g i n hit)
        else if nd.kind = nkSmv then
          cancelNode (modExec s key fun e => { e with force := some stTimeout }) (nd.page - 0x100)
        else s
      else s)

/-- The status of an instance (R279). -/
def instStatus (x : Graph) (a : Inst) : Nat :=
  match a.ending with
  | some st => st
  | none => (((List.range x.nodes.length).find? fun n => (a.exec n).status != stOk).map fun n => (a.exec n).status).getD stOk

/-- INSTANCE_END (R279, R414, R526): every node has ended, and the record finds room. -/
def execInstanceEnd (g i : Nat) (hit : Hit) (s : State) : Result :=
  .next (
    let x := s.graph g
    match x.inst i with
    | none => s
    | some a =>
      let n := x.owner
      if 256 ≤ g ∨ (List.range x.nodes.length).any (fun m => (a.exec m).st != 2) then s
      else if x.cqEn ∧ s.rd (pgHq n) R.qpState x.cqp = qpActive ∧ cqRoom s n x.cqp = false then s
      else
        let skipped := (List.range x.nodes.length).any fun m => (a.exec m).status == stSkipped
        let s := if x.cqEn then
            cqWrite s n x.cqp (instStatus x a * 2 ^ 4 + b2n skipped * 2 ^ 8 + x.tag * 2 ^ 16) a.num (s.time % 2 ^ 32)
              (s.time / 2 ^ 32 % 2 ^ 32) hit a.inc
          else s
        let s := if x.doneEn then s.semPost 0x58 n x.doneSem else s
        let late := a.ending == some stTimeout
        let s := s.putGraph g { x with insts := x.insts.filter (fun b => b.num != i), dlRun := if late then x.dlRun + 1 else 0 }
        let s := s.settle pgFgs (s.graphs.any fun y => !y.2.insts.isEmpty)
        if late ∧ 1 ≤ x.dlRun then wdExpire s n a.inc else s)

/-- INSTANCE_DEADLINE (R276, R526). -/
def execInstanceDeadline (g i : Nat) (s : State) : Result :=
  .next (
    let x := s.graph g
    match x.inst i with
    | none => s
    | some a =>
      match a.first with
      | none => s
      | some t =>
        if 256 ≤ g ∨ x.deadline = 0 ∨ a.ending.isSome ∨ s.time < t + usTicks x.deadline ∨
            (List.range x.nodes.length).all (fun m => (a.exec m).st == 2) then s
        else
          let (inc, s) := s.logI a.inc { event := 0x23, level := 3, cls := if 1 ≤ x.dlRun then 2 else 0, part := x.owner,
                                         page := pgFgs, tag := x.tag, d0 := g, d1 := a.num }
          let s := (s.bump pgFgs R.deadlineCnt).raise pgFgs 9
          let s := s.doubt (.part x.owner) inc
          endInst (s.putGraph g ((s.graph g).setInst { a with inc := inc })) g i stTimeout)

/-! ### Triggers, cancels, deadlock -/

/-- Add a trigger credit (R267): whether it was added. -/
def trigNode (s : State) (g n : Nat) : Bool × State :=
  let x := s.graph g
  if x.st ≠ gReady ∨ x.nodes.length ≤ n ∨ (x.node n).trig = false ∨ 15 ≤ credit x n then (false, s.prog pgFgs)
  else (true, s.putGraph g { x with credits := sset 0 x.credits n (credit x n + 1) })

/-- A trigger that initiator port `init` issues for a partition (R267, R370): whether it was added. -/
def trigOnce (s : State) (init part g n : Nat) : Bool × State :=
  let (r, s) := s.once init part pgFgs fun s => let (ok, s) := trigNode s g n; (b2n ok, s)
  (r == 1, s)

/-- TRIG (R267, R370). -/
def execTrig (ini : Ini) (g n : Nat) (s : State) : Result :=
  .next (gop s ini 0x0A4 g fun s => (trigOnce s (iniId ini) (iniPart s ini) g n).2)

/-- CANCEL (R278): on the page the entry GT_SEL addresses and the instance CANCEL_INST names (R286), at a core port the
entry of the command and the instance GOP_ARG names (R285). -/
def execCancel (ini : Ini) (g : Nat) (s : State) : Result :=
  .next (
    match ini with
    | .core c => gop s ini 0 g fun s => endInst s g (sget {} s.cores c).gopArg stCancelled
    | _ => regRow s ini pgFgs 0x090 fun s => endInst s (s.rd pgFgs R.gtSel) (s.rd pgFgs R.cancelInst) stCancelled)

/-- Cancel every active instance and drop pending starts (R278). -/
def cancelAll (s : State) (g : Nat) : State :=
  let s := (s.graph g).insts.foldl (fun s a => endInst s g a.num stCancelled) s
  s.putGraph g { s.graph g with req := (s.graph g).started }

/-- CANCEL_ALL (R278): on the page of the entry GT_SEL addresses (R286). -/
def execCancelAll (ini : Ini) (g : Nat) (s : State) : Result :=
  .next (
    match ini with
    | .core _ => gop s ini 0 g fun s => cancelAll s g
    | _ => regRow s ini pgFgs 0x090 fun s => cancelAll s (s.rd pgFgs R.gtSel))

/-- The oldest running execution of a node. -/
def oldestRun (s : State) (g n : Nat) : Option Nat :=
  ((s.graph g).insts.find? fun a => (a.exec n).st == 1).map fun a => a.num

/-- NODE_CANCEL (R278). -/
def execNodeCancel (ini : Ini) (g n : Nat) (s : State) : Result :=
  .next (gop s ini 0x0A0 g fun s =>
    match oldestRun s g n with
    | some i => cancelExec s g i n
    | none => s)

/-- A member's job waits under R272: its unit can neither read nor write. -/
def memberWaits (s : State) (key : Nat) : Bool :=
  match jobOf s key with
  | none => false
  | some (p, n) =>
    match s.job p n with
    | none => false
    | some j =>
      let c := jcOf p n j cleanHit []
      inUnit s p n && match unitRun p c { job := j, s := s } with
        | .wait => true
        | .fail _ _ => false
        | .ok ws x => match jfold (fun _ w => jwrite c w) ws () x with
          | .wait => true
          | _ => false

/-- HO_DEADLOCK (R273): every unfinished member of the group waits. -/
def execHoDeadlock (g i fuse : Nat) (s : State) : Result :=
  .next (
    let x := s.graph g
    match x.inst i with
    | none => s
    | some a =>
      let run := (x.members fuse).filter fun m => (a.exec m).st == 1
      if 256 ≤ g ∨ run = [] ∨ run.all (fun m => memberWaits s (execKey g i m)) = false then s
      else run.foldl (fun s m =>
        cancelExec (modExec s (execKey g i m) fun e => { e with force := some stProg }) g i m) (s.raise pgFgs 10))

/-! ### Semaphores (R263, R285, R286) -/

/-- A TRY_TAKE that reaches its semaphore (R263): whether it took one. -/
def semTake (s : State) (n : Nat) : Bool × State :=
  let c := sget 0 s.sems n
  if c = 0 then (false, s) else (true, { s with sems := sset 0 s.sems n (c - 1) })

/-- A semaphore operation of initiator port `init` for a partition, 1 POST, 2 TRY_TAKE, 3 READ, 4 SET: its success.  POST and
TRY_TAKE are non-idempotent (R370). -/
def semDo (s : State) (init part op n v : Nat) : Bool × State :=
  if op = 1 then s.semPostI init part n
  else if op = 2 then
    let (r, s) := s.once init part pgFgs fun s => let (ok, s) := semTake s n; (b2n ok, s)
    (r == 1, s)
  else if op = 4 then
    if pairInUse s (n / 2) then (false, s.prog pgFgs) else (true, { s with sems := sset 0 s.sems n (v % 2 ^ 32) })
  else (false, s)

/-- SEM_RES of an operation. -/
def semResOf (op n : Nat) (ok : Bool) : Nat := n % 1024 + op * 2 ^ 12 + b2n ok * 2 ^ 15

/-- SEM_OP through a core port or through the FGS page. -/
def semRow (s : State) (ini : Ini) (op n : Nat) : State :=
  if 1024 ≤ n then s else
  match ini with
  | .core c =>
    if sget 0 s.semOwner (n / 2) ≠ s.ownerOf (pgCc c) then s.prog (pgCc c)
    else
      let (ok, s) := semDo s (0x10 + c) (s.ownerOf (pgCc c)) op n (sget {} s.cores c).semVal
      { s with cores := sset {} s.cores c { sget {} s.cores c with semRes := semResOf op n ok, semCount := sget 0 s.sems n } }
  | _ => regRow s ini pgFgs 0x0A8 fun s =>
    let (ok, s) := semDo s (iniId ini) (iniPart s ini) op n (s.rd pgFgs R.semVal)
    { s with semIfs := sset (0, 0) s.semIfs (iniId ini) (semResOf op n ok, sget 0 s.sems n) }

/-- POST (R263). -/
def execPost (ini : Ini) (sem : Nat) (s : State) : Result := .next (semRow s ini 1 sem)

/-- TRY_TAKE (R263). -/
def execTryTake (ini : Ini) (sem : Nat) (s : State) : Result := .next (semRow s ini 2 sem)

/-- READ (R285). -/
def execRead (ini : Ini) (sem : Nat) (s : State) : Result := .next (semRow s ini 3 sem)

/-- SET (R263). -/
def execSet (ini : Ini) (sem : Nat) (s : State) : Result := .next (semRow s ini 4 sem)

/-- SEM_OWN (R286). -/
def execSemOwn (ini : Ini) (pair part : Nat) (s : State) : Result :=
  .next (if 512 ≤ pair ∨ 8 ≤ part then s else regRow s ini pgFgs 0x0B8 fun s =>
    if pairInUse s pair then s.prog pgFgs else { s with semOwner := sset 0 s.semOwner pair part })

end Sys2Proof.Machine
end

