-- ==== Sys2Proof/Machine/Cores.lean ====
section
/-! DEFINITION. The control cores: running and halting, tightly coupled memory, inboxes, traps and the timer (R281 to
R287, R543, R544). -/
namespace Sys2Proof.Machine
open Sys2Proof

def State.core (s : State) (c : Nat) : Core := sget {} s.cores c
def State.putCore (s : State) (c : Nat) (k : Core) : State := { s with cores := sset {} s.cores c k }
def State.coreSt (s : State) (c : Nat) : Nat := s.rd (pgCc c) R.ccState

def tcmSize : Nat := 262144

/-- Bytes of a core's memory (R281). -/
def tcmBytes (s : State) (c a n : Nat) : List Byte := (List.range n).map fun i => sget memDefault s.tcm (c * tcmSize + a + i)

/-- Store into a core's memory; a whole word is good again. -/
def tcmStore (s : State) (c a : Nat) (bs : List Byte) : State :=
  { s with tcm := memPuts s.tcm (c * tcmSize + a) bs,
           tcmBad := s.tcmBad.filter fun w => !(decide (c * tcmSize + a ≤ w) && decide (w + 4 ≤ c * tcmSize + a + bs.length)) }

/-- The core is being loaded by the image loader (R543). -/
def coreLoading (s : State) (c : Nat) : Bool := s.rd pgSec R.ldStat == 1 && s.rd pgSec R.ldCore == c

/-- A core starts from RESET_PC (R287). -/
def startCore (s : State) (c : Nat) : State :=
  let p := pgCc c
  ((s.wr p R.ccState 1).settle p true).putCore c { s.core c with pc := 2 * s.rd p R.resetPc, flen := 0, halting := false }

/-- The page of a core can take a RUN = 1. -/
def coreCanRun (s : State) (c : Nat) : Bool :=
  let st := s.rd (pgCc c) R.pstate
  !coreLoading s c && st != psFenced && st != psSelftest && st != psResetting

/-- RUN (R287, R543). -/
def execRun (ini : Ini) (c : Nat) (on : Bool) (s : State) : Result :=
  .next (if 8 ≤ c then s else regRow s ini (pgCc c) 0x080 fun s =>
    let p := pgCc c
    if on then
      if coreCanRun s c = false then s.prog p
      else
        let s := s.wr p R.ccRun 1
        if s.coreSt c = 0 then startCore s c else s
    else
      let s := s.wr p R.ccRun 0
      if s.coreSt c = 0 then s else s.putCore c { s.core c with halting := true })

/-- CORE_HALTED (R287): a core that RUN starts again meanwhile begins from RESET_PC. -/
def execCoreHalted (c : Nat) (s : State) : Result :=
  .next (
    if 8 ≤ c ∨ (s.core c).halting = false ∨ s.coreSt c = 0 then s
    else
      let p := pgCc c
      let s := ((s.wr p R.ccState 0).settle p false).putCore c { s.core c with halting := false }
      if s.on p R.ccRun ∧ coreCanRun s c then startCore s c else s)

/-- TCM_DATA (R287, R544). -/
def execTcmData (ini : Ini) (c value : Nat) (s : State) : Result :=
  .next (if 8 ≤ c then s else regRow s ini (pgCc c) 0x094 fun s =>
    if s.coreSt c ≠ 0 then s.prog (pgCc c)
    else
      let i := 16 * (2 + c)
      (tcmStore s c (4 * s.rd (pgCc c) R.tcmAddr) (leBytes 4 value)).wr pgSec R.imageEntry
        (setBit (s.rd pgSec R.imageEntry i) 16) i)

/-- CORE_TRAP (R282, R287). -/
def execCoreTrap (c cause pc : Nat) (s : State) : Result :=
  .next (if 8 ≤ c ∨ s.coreSt c = 0 then s else (s.wr (pgCc c) R.trapCause cause).wr (pgCc c) R.trapPc pc)

/-- CORE_TIMER (R285). -/
def execCoreTimer (c : Nat) (s : State) : Result :=
  .next (
    if 8 ≤ c ∨ s.time < (s.core c).timerCmp then s
    else coreWake (s.putCore c { s.core c with pendTimer := true }) c)

/-- The message in MBX_IN, with SRC = 1 and the time of its delivery (R283). -/
def mbxMsg (s : State) (c : Nat) : List Nat :=
  (List.range 8).map fun i =>
    let v := s.rd (pgCc c) R.mbxIn i
    if i = 0 then setBit v 31 else if i = 6 then s.time % 2 ^ 32 else if i = 7 then s.time / 2 ^ 32 % 2 ^ 32 else v

/-- A message pushed at its inbox (R283): 1 when it found room. -/
def pushMsg (s : State) (c : Nat) : Nat × State :=
  if 16 ≤ (s.core c).inbox.length then (0, s.putCore c { s.core c with mbxOvf := true })
  else (1, pushInbox s c (mbxMsg s c))

/-- The oldest message of an inbox is popped (R285). -/
def popMsg (s : State) (c : Nat) : Nat × State :=
  (1, s.putCore c { s.core c with inbox := (s.core c).inbox.drop 1 })

/-- MBX_PUSH (R283, R287, R370). -/
def execMbxPush (ini : Ini) (c : Nat) (s : State) : Result :=
  .next (if 8 ≤ c then s else regRow s ini (pgCc c) 0x0C0 fun s =>
    (s.once (iniId ini) (iniPart s ini) (pgCc c) fun s => pushMsg s c).2)

/-- MBX_POP (R285, R370). -/
def execMbxPop (c : Nat) (s : State) : Result :=
  .next (if 8 ≤ c then s else (s.once (0x10 + c) (s.ownerOf (pgCc c)) (pgCc c) fun s => popMsg s c).2)

/-- NODE_DONE (R284): the running CORE execution of that core that matches ends. -/
def execNodeDone (c g n status : Nat) (s : State) : Result :=
  .next (
    if 8 ≤ c then s
    else if 6 < status then s.prog (pgCc c)
    else
      let key := execKey g (s.core c).doneInst n
      let nd := (s.graph g).node n
      let run := match execOf s key with
        | some e => decide (e.st = 1) && nd.kind == nkCore && nd.page == pgCc c
        | none => false
      if run then
        let s := (finishExec s key status).perf (pgCc c) 0x04
        if status = stOk then s else s.perf (pgCc c) 0x05
      else s.bump pgFgs R.fgsStaleCnt)

end Sys2Proof.Machine
end

