-- ==== Sys2Proof/Machine/Transactions.lean ====
section
/-! DEFINITION. Single fabric transactions: arrival at the target, the transaction timer, epochs and stale responses, and
the de-duplication of non-idempotent operations (R351 to R371). -/
namespace Sys2Proof.Machine
open Sys2Proof

/-- Initiator IDs that exist (R353). -/
def initExists (i : Nat) : Bool :=
  decide (i < 8) || within 0x10 0x18 i || within 0x20 0x2B i || within 0x30 0x33 i || within 0x40 0x4C i || within 0x50 0x55 i ||
    i == 0x58 || within 0x60 0xE1 i || i == 0xE8 || i == 0xF0

/-- The tag the port sets (R355).  `sub` names the job slot of an engine's transaction, the stream of a pipe's or, less 4 × the
receiver, of a receiver's, and the graph entry of the sequencer's; a slot that holds no job issues nothing. -/
def tagOf (s : State) (i sub : Nat) : Option Tag :=
  if i < 8 then some ⟨i, i, 2⟩
  else if within 0x10 0x17 i then some ⟨i, s.ownerOf (pgCc (i - 0x10)), 2⟩
  else if i = 0x18 then some tagIsland
  else if within 0x20 0x2B i then some ⟨i, s.ownerOf (pgCtx (4 * (i - 0x20) + sub % 4)), 1⟩
  else if within 0x30 0x33 i then some ⟨i, s.ownerOf (pgCtx (sub % 48)), 1⟩
  else if i = 0x58 then some ⟨i, (s.graph (sub % 256)).owner, 1⟩
  else if within 0x60 0x9F i then some (chTag s (i - 0x60))
  else if within 0xA0 0xDF i then some (qTag s (i - 0xA0))
  else if 0xE0 ≤ i then some ⟨i, 0, 0⟩
  else match pageOfInit i with
    | some p => (s.job p (sub % 8)).map fun j => jobTag p j
    | none => none

def opCode : FabOp → Nat
  | .read => opRead | .write => opWrite | .post => opPost | .take => opTake | .count => opCount

/-! ### Non-idempotent operations (R370, R371) -/

/-- The page of a core whose port lies at address a of the core's own map: MBX_POP is written there (R281, R285). -/
def popAddr (a : Nat) : Option Nat :=
  if a % 4096 = 0x004 ∧ 0x04000000 ≤ a ∧ a < 0x04008000 then some (pgCc ((a - 0x04000000) / 4096)) else none

/-- The page of the unit that applies an operation: the sequencer for semaphores and triggers, the page addressed
otherwise. -/
def countTarget (op : FabOp) (a : Nat) : Nat :=
  match op with
  | .count => (popAddr a).getD (a / 4096)
  | _ => pgFgs

/-- What a COUNT operation on a register does (R370): a trigger, a message pushed or popped, a job start or a push
order.  The value is what the operation is answered with. -/
def countDo (s : State) (t : Tag) (a v : Nat) : Nat × State :=
  let p := a / 4096
  let off := a % 4096
  match popAddr a with
  | some q => popMsg s (q - pgCc 0)
  | none =>
    if p = pgFgs ∧ off = 0x0A4 then
      let (ok, s) := trigNode s (v % 256) (bitsOf v 25 16)
      (b2n ok, s)
    else if pageKind p = some .cc ∧ off = 0x0C0 then pushMsg s (p - pgCc 0)
    else if p = pgSta 0 ∧ off = 0x110 then pushOrder s t.part
    else if isEngine p then
      match (List.range (nSlots p)).find? fun n => (slotF p R.slotStart).off + 0x40 * n == off with
      | some n => startSlot s p n t.part
      | none => (0, s)
    else (0, s)

/-- Apply a non-idempotent operation: the result it is answered with. -/
def applyOnce (s : State) (t : Tag) (op : FabOp) (a v : Nat) : Nat × State :=
  match op with
  | .post =>
    let (ok, s) := s.semPostB (a % 1024)
    (b2n ok, s)
  | .take =>
    let (ok, s) := semTake s (a % 1024)
    (b2n ok, s)
  | _ => countDo s t a v

/-- A port that sends number q has numbered its operations up to q (R370). -/
def portNumbered (s : State) (init q : Nat) : State :=
  if seqDelta q (sget 1 s.seqs init) ≤ 0x7FFF then { s with seqs := sset 1 s.seqs init (nextSeq (q % 65536)) } else s

/-- A non-idempotent operation with an address of memory is judged like a write and has no effect there (R357); one without
goes to the unit that applies it, once (R371). -/
def serveOnce (s : State) (t : Tag) (op : FabOp) (a n v seq : Nat) (clash : Bool) (inc : Nat) : Nat × Nat × State :=
  if n = 0 then (portNumbered s t.init seq).deliver t.init t.part (countTarget op a) seq fun s => applyOnce s t op a v
  else match passes s t (opCode op) a n clash inc with
    | (true, _, s) => (0, 0, s)
    | (false, _, s) => (0, 5, s)

/-! ### Arrival, response, timeout -/

/-- The value of a byte string, as the reply carries it. -/
def answer (v : FabResp) : Nat × Nat :=
  match v with
  | .ok bs => (fromLe bs, 0)
  | .denied _ => (0, 5)
  | .uncorr _ => (0, 4)
  | .timeout _ => (0, 7)

/-- The target serves a transaction: what it answers, none while a re-read is in progress (R392). -/
def serveTxn (s : State) (t : Tag) (key : Nat) (op : FabOp) (a n : Nat) (data : List Nat) (seq : Nat) (ecc : Ecc) (clash : Bool)
    (host : Cells) (inc : Nat) : Option (Nat × Nat) × State :=
  match op with
  | .read =>
    if targetOf a = .ext ∧ ecc = .uncorr ∧ clash = false ∧ judge s t opRead a n = .pass ∧ (firstPoison s a n).isNone then
      (none, { s with rereads := s.rereads ++ [(⟨a / 64 * 64, s.bytes a n, t.init, t.part, some key⟩ : Reread)] })
    else
      let (v, s) := fabRead s t a n ecc host clash inc
      (some (answer v), s)
  | .write =>
    let (v, s) := fabWrite s t a ((data.take n).map (BitVec.ofNat 8)) ecc clash inc
    (some (answer v), s)
  | _ =>
    let (v, st, s) := serveOnce s t op a n (data.headD 0) seq clash inc
    (some (v, st), s)

/-- The issue of a transaction counts on the page of its port (R46). -/
def issued (s : State) (init : Nat) (op : FabOp) (a n : Nat) : State :=
  match pageOfInit init with
  | none => s
  | some p =>
    match op with
    | .read => s.perf p 0x06
    | .write => (s.perf p 0x07).perf p 0x09 (linePieces a n).length
    | _ => s.perf p 0x07

/-- Read data that a port receives counts on its page (R46). -/
def received (s : State) (init : Nat) (op : FabOp) (a n status : Nat) : State :=
  match pageOfInit init, op with
  | some p, .read => if status = 0 then s.perf p 0x08 (linePieces a n).length else s
  | _, _ => s

/-- TRANSACTION_ARRIVAL (R351 to R371): judged, then served or denied, and answered later.  `clash` says that the two
evaluators disagree (R359). -/
def execTransactionArrival (init tid sub : Nat) (op : FabOp) (addr len : Nat) (data : List Nat) (seq : Nat) (ecc : Ecc)
    (clash : Bool) (host : Cells) (s : State) : Result :=
  .next (
    match tagOf s init sub with
    | none => s
    | some t =>
    let x := s.txn init tid
    let posted := op == .write && targetOf addr == .pcie
    let mem := op == .read || op == .write
    if initExists init = false ∨ 64 ≤ tid ∨ x.busy ∨ slotHeld x then s
    else if mem ∧ (len = 0 ∨ 512 < len ∨ addr / 4096 ≠ (addr + len - 1) / 4096 ∨ (op = .write ∧ data.length < len)) then s
    else if op = .write ∧ s.rereads.any (fun r => r.line == addr / 64 * 64) then s
    else
      let lim := if mem then txnLimit s t.part addr else 400
      let inc := if mem then txnInc s init addr 0 else 0
      let y : Txn := { x with busy := true, addr := addr, part := t.part, remote := mem && isRemote init addr, issued := s.time,
                              limit := lim, inc := inc, ready := false }
      let s := issued s init op addr len
      let s := if posted then s else s.putTxn init tid y
      let (r, s) := serveTxn s t (txnKey init tid) op addr len data seq ecc clash host inc
      match r with
      | none => s
      | some (v, st) =>
        let s := received s init op addr len st
        if posted then { s with reply := ⟨v, st⟩ } else s.putTxn init tid { y with ready := true, value := v, status := st })

/-- A response whose epoch is not its slot's current one is discarded (R367). -/
def staleResponse (s : State) (init tid epoch : Nat) : State :=
  let x := s.txn init tid
  let s := ((s.bump pgFab R.staleCnt).raise pgFab 9).putTxn init tid { x with old := x.old.erase epoch }
  s.log { event := 0x03, level := 1, part := x.part, init := init, page := pgFab, d0 := tid, d1 := epoch } x.inc

/-- RESPONSE_ARRIVAL (R367): delivered to its initiator, or discarded as stale; from the moment of its expiry on, the expiry
comes first. -/
def execResponseArrival (init tid epoch : Nat) (s : State) : Result :=
  .next (
    let x := s.txn init tid
    if x.busy ∧ x.epoch = epoch then
      if s.time < x.issued + x.limit then
        (if x.ready then { (s.putTxn init tid { epoch := x.epoch, old := x.old }) with reply := ⟨x.value, x.status⟩ } else s)
      else staleResponse { (expire s init tid x).2 with reply := ⟨0, 7⟩ } init tid epoch
    else if x.epoch = epoch then s
    else staleResponse s init tid epoch)

/-- FABRIC_TIMEOUT (R365 to R369, R404). -/
def execFabricTimeout (init tid : Nat) (s : State) : Result :=
  .next (
    let x := s.txn init tid
    if x.busy = false ∨ s.time < x.issued + x.limit then s else { (expire s init tid x).2 with reply := ⟨0, 7⟩ })

/-- A transaction of partition n awaits a response at some port (R373, R375). -/
def outstanding (s : State) (n : Nat) : Bool :=
  s.txns.any (fun t => t.2.busy && t.2.part == n) ||
    (List.range 64).any (fun c => s.ownerOf (pgCh c) == n && decide (0 < (s.chan c).inflight)) ||
    (List.range 64).any fun q => s.ownerOf (pgPq q) == n && !(s.pq q).reqs.isEmpty

/-! ### Regions -/

/-- REG_PERM (R361, R375): EN takes effect at once; the masks and SC3W change only while the region is disabled. -/
def execRegPerm (ini : Ini) (value : Nat) (s : State) : Result :=
  .next (regRow0 s ini pgFab 0x094 fun s =>
    if unlocked s pgFab = false then s
    else
      let i := regIx (s.rd pgFab R.fwSel) (s.rd pgFab R.regionSel)
      let same := s.rd pgFab R.regRd i == value % 256 && s.rd pgFab R.regWr i == bitsOf value 15 8 &&
        s.rd pgFab R.regSc3w i == bitsOf value 16 16
      let s := if s.on pgFab R.regEn i then (if same then s else s.prog pgFab)
        else ((s.wr pgFab R.regRd (value % 256) i).wr pgFab R.regWr (bitsOf value 15 8) i).wr pgFab R.regSc3w (bitsOf value 16 16) i
      s.wr pgFab R.regEn (bitsOf value 31 31) i)

end Sys2Proof.Machine
end

