-- ==== Sys2Proof/Machine/Memories.lean ====
section
/-! DEFINITION. External memory: training, filling, patrol and re-reads; bank flags (R380, R387 to R397). -/
namespace Sys2Proof.Machine
open Sys2Proof

/-- States of a controller (R401). -/
def lpOff : Nat := 0
def lpTraining : Nat := 1
def lpFilling : Nat := 2
def lpReady : Nat := 3
def lpSelfRefresh : Nat := 4
def lpDeepSleep : Nat := 5
def lpFailed : Nat := 6

def lpcs : List Nat := [0, 1, 2, 3]
def State.lpc (s : State) (i : Nat) : Nat := s.rd (pgLpc i) R.lpcState

/-- Capacity, rank count and data rate agree on all four pages (R388). -/
def lpcSame (s : State) : Bool :=
  lpcs.all fun i => s.rd (pgLpc i) R.lpcCap == s.rd (pgLpc 0) R.lpcCap && s.rd (pgLpc i) R.lpcRate == s.rd (pgLpc 0) R.lpcRate &&
    s.rd (pgLpc i) R.lpcRanks == s.rd (pgLpc 0) R.lpcRanks

/-- INIT (R388, R395, R607). -/
def execInit (ini : Ini) (i : Nat) (s : State) : Result :=
  .next (if 4 ≤ i then s else regRow s ini (pgLpc i) 0x084 fun s =>
    if s.lpc i ≠ lpOff then s
    else
      let s := s.wr (pgLpc i) R.lpcState lpTraining
      if lpcs.all (fun k => s.lpc k == lpTraining) ∧ lpcSame s = false then lpcs.foldl (fun s k => s.prog (pgLpc k)) s else s)

/-- TRAINING_DONE (R395): `fail` is 0, or one more than the step of R387 that failed. -/
def execTrainingDone (i fail : Nat) (s : State) : Result :=
  .next (
    if 4 ≤ i ∨ s.lpc i ≠ lpTraining ∨ lpcs.any (fun k => s.lpc k == lpOff) ∨ lpcSame s = false then s
    else if fail = 0 then s.wr (pgLpc i) R.lpcState lpFilling
    else
      let s := ((s.wr (pgLpc i) R.lpcState lpFailed).wr (pgLpc i) R.failStep (fail - 1)).raise (pgLpc i) 8
      raiseFault s 5)

/-- External memory is lost: its contents and the poisoned-line lists (R385, R393). -/
def extLost (s : State) : State :=
  let s := { s with mem := s.mem.filter fun c => targetOf c.1 != .ext, poisoned := [], rereads := [] }
  lpcs.foldl (fun s i => s.wr (pgLpc i) R.poisonUsed 0) s

/-- FILL_DONE (R395): the usable range holds zeros, and the four controllers are READY together. -/
def execFillDone (s : State) : Result :=
  .next (
    if lpcs.any (fun i => s.lpc i != lpFilling) then s
    else lpcs.foldl (fun s i => s.wr (pgLpc i) R.lpcState lpReady) (extLost s))

/-- PATROL_READ (R397): the line at PATROL_POS, handled as any read; an uncorrectable one is read again. -/
def execPatrolRead (ecc : Ecc) (s : State) : Result :=
  .next (
    if s.on pgScr R.patrolEn = false ∨ extReady s = false ∨ s.on pgScr R.zfActive then s
    else
      let a := extBase + s.rd pgScr R.patrolPos
      let t : Tag := ⟨0xE1, 0, 0⟩
      let s := match ecc, firstPoison s a 64 with
        | .uncorr, none => { s with rereads := s.rereads ++ [(⟨a, s.bytes a 64, t.init, t.part, none⟩ : Reread)] }
        | e, _ => (serveRead s t a 64 e []).2
      let next := s.rd pgScr R.patrolPos + 64
      if usableBytes s ≤ next then (s.wr pgScr R.patrolPos 0).bump pgScr R.passCnt else s.wr pgScr R.patrolPos next)

/-- DRAM_REREAD (R392): the re-read of a line ends, clean, corrected or uncorrectable again. -/
def execDramReread (line : Nat) (res : Ecc) (s : State) : Result :=
  .next (
    match s.rereads.find? fun r => r.line == line with
    | none => s
    | some r =>
      let s := { s with rereads := s.rereads.erase r }
      let t : Tag := ⟨r.init, r.part, 0⟩
      let lost := decide (res = .uncorr)
      let s := if lost then (extPoison s t line).2 else extTransient s t line
      match r.key with
      | none => s
      | some k =>
        let x := sget {} s.txns k
        let v := if lost then 0 else fromLe r.bytes
        { s with txns := sset {} s.txns k { x with ready := true, value := v, status := if lost then 4 else 0 } })

/-- BANK_INH (R380). -/
def execBankInh (ini : Ini) (mask : Nat) (s : State) : Result :=
  .next (regRow s ini pgSvm 0x080 fun s => s.wr pgSvm R.bankInh (clrMask 48 (s.rd pgSvm R.bankInh) mask))

/-- MR4_READ (R387). -/
def execMr4Read (i rate : Nat) (s : State) : Result :=
  .next (if 4 ≤ i ∨ (s.lpc i ≠ lpReady ∧ s.lpc i ≠ lpFilling) then s else s.wr (pgLpc i) R.mr4Rate rate)

end Sys2Proof.Machine
end

