-- ==== Sys2Proof/Machine/HostQueues.lean ====
section
/-! DEFINITION. The PCIe endpoint and the host queues: configuration space, function resets and the link, queue pairs,
doorbells, commands, their records and condition records (R403 to R428, R518, R528). -/
namespace Sys2Proof.Machine
open Sys2Proof

def fnOf (s : State) (n : Nat) : FnCfg := sget {} s.fns n
def putFn (s : State) (n : Nat) (c : FnCfg) : State := { s with fns := sset {} s.fns n c }

/-! ### Configuration space, resets, link -/

/-- The remote timeout in µs of a Completion Timeout Value (R366). -/
def cplToUs (v : Nat) : Option Nat :=
  [(0, 75000), (1, 150), (2, 15000), (5, 82500), (6, 315000), (9, 1350000), (10, 5250000), (13, 19500000), (14, 96000000)].lookup v

/-- PRI Enable = 0 ends every transfer of the partition in FAULT_HALT (R405). -/
def priOff (s : State) (n : Nat) : State :=
  (List.range 128).foldl (fun s u => if unitFn s u = n ∧ (haltOf s u).isSome then priFail s u 15 else s) s

/-- The configuration space of a function returns to its reset values (R408). -/
def resetFnCfg (s : State) (n : Nat) : State := priOff ((putFn s n {}).wr pgFab R.remoteTo 75000 n) n

/-- The HQ page has commands in flight, or a pair that waits for its own (R37). -/
def hqBusy (s : State) (n : Nat) : Bool :=
  (List.range 16).any fun q => !(s.qp n q).cmds.isEmpty || s.rd (pgHq n) R.qpState q == qpDeleting

def hqSettle (s : State) (n : Nat) : State := s.settle (pgHq n) (hqBusy s n)

/-- Every queue pair of a function is deleted without waiting (R408). -/
def dropPairs (s : State) (n : Nat) (link : Bool) : State :=
  let s := (List.range 16).foldl (fun s q =>
    let p := pgHq n
    let s := if link ∧ s.rd p R.qpState q = qpActive then (s.wr p R.errCause 3 q).raise p 9 else s
    ((s.wr p R.qpState qpOff q).wr p R.qpInflight 0 q).putQp n q {}) s
  hqSettle s n

/-- A Function Level Reset (R408). -/
def flrOne (s : State) (n : Nat) (link : Bool) : State := resetFnCfg (dropPairs s n link) n

/-- FLR (R408): the physical function's reset clears VF Enable, which resets the others too. -/
def execFlr (n : Nat) (s : State) : Result :=
  .next (
    if 8 ≤ n then s
    else if n = 0 ∧ (fnOf s 0).vfEn then (List.range 8).foldl (fun s k => flrOne s k false) s
    else flrOne s n false)

/-- CONFIG_WRITE (R366, R403 to R407). -/
def execConfigWrite (n : Nat) (field : CfgField) (value : Nat) (s : State) : Result :=
  .next (
    if 8 ≤ n ∨ (n ≠ 0 ∧ (fnOf s 0).vfEn = false) then s
    else
      let c := fnOf s n
      let b := bitOf value 0
      match field with
      | .memEn => putFn s n { c with memEn := b }
      | .bme => msixFlush (putFn s n { c with bme := b }) n
      | .msixEn => msixFlush (putFn s n { c with msixEn := b }) n
      | .msixMask => msixFlush (putFn s n { c with msixMask := b }) n
      | .atsEn => putFn s n { c with atsEn := b }
      | .priEn =>
        let s := putFn s n { c with priEn := b }
        if b then s else priOff s n
      | .priAlloc => sendWaiting (putFn s n { c with priAlloc := value % 2 ^ 32 }) n
      | .cplTo =>
        match cplToUs (value % 16) with
        | some us => (putFn s n { c with cplTo := value % 16 }).wr pgFab R.remoteTo us n
        | none => s
      | .cplDis => putFn s n { c with cplDis := b }
      | .vfEn =>
        if n ≠ 0 then s
        else
          let s := putFn s 0 { c with vfEn := b }
          if b then s else (List.range 7).foldl (fun s k => flrOne s (k + 1) false) s)

/-- A LINK event takes an incident and attaches it to every outstanding remote transaction without one (R528). -/
def linkEvent (s : State) (r : LogRec) : Nat × State :=
  let (inc, s) := s.logI s.linkInc r
  (inc, { s with txns := s.txns.map fun t =>
    (t.1, if t.2.busy ∧ t.2.remote ∧ t.2.inc = 0 then { t.2 with inc := inc } else t.2) })

/-- The link goes down (R408): DL_Down, a hot reset, PERST_N, or a deep rung (R572). -/
def linkDown (s : State) (hot : Bool) : State :=
  if s.on pgPci R.dlUp = false then s
  else
    let s := (linkEvent s { event := 0x0A, level := 0, page := pgPci }).2
    let s := (((s.wr pgPci R.dlUp 0).wr pgPci R.linkWidth 0).wr pgPci R.linkRate 0).wr pgPci R.ltssm (if hot then 7 else 0)
    let s := ((s.wr pgPci R.reversed 0).bump pgPci R.dlDownCnt).raise pgPci 8
    (List.range 8).foldl (fun s n => flrOne s n true) { s with linkInc := 0 }

/-- LINK_DOWN (R408). -/
def execLinkDown (hot : Bool) (s : State) : Result := .next (linkDown s hot)

/-- DL_UP (R403, R428): the link trains, to no more than RATE_CAP. -/
def execDlUp (width rate : Nat) (rev : Bool) (s : State) : Result :=
  .next (
    if s.on pgPci R.dlUp ∨ [1, 2, 4, 8].contains width = false ∨ rate = 0 ∨ s.rd pgPci R.rateCap < rate then s
    else
      let s := ((s.wr pgPci R.linkWidth width).wr pgPci R.linkRate rate).wr pgPci R.reversed (b2n rev)
      (s.wr pgPci R.ltssm 3).wr pgPci R.dlUp 1)

/-- RETRAIN (R428). -/
def execRetrain (ini : Ini) (s : State) : Result :=
  .next (regRow s ini pgPci 0x084 fun s =>
    if s.on pgPci R.dlUp = false then s
    else if s.rd pgPci R.ltssm = 4 then s
    else (s.wr pgPci R.ltssm 4).bump pgPci R.recoveryCnt)

/-- LINK_RECOVERY (R428, R528): the link enters Recovery on errors, or returns to L0 after `us` µs. -/
def execLinkRecovery (back : Bool) (us width rate : Nat) (s : State) : Result :=
  .next (
    if s.on pgPci R.dlUp = false then s
    else if back then
      if s.rd pgPci R.ltssm ≠ 4 ∨ [1, 2, 4, 8].contains width = false ∨ rate = 0 ∨ s.rd pgPci R.rateCap < rate then s
      else
        let s := (linkEvent s { event := 0x09, level := 0, page := pgPci, d0 := us }).2
        { ((s.wr pgPci R.ltssm 3).wr pgPci R.linkWidth width).wr pgPci R.linkRate rate with linkInc := 0 }
    else if s.rd pgPci R.ltssm = 4 then s
    else
      let (inc, s) := s.newInc
      let ts := s.txns.map fun (t : Nat × Txn) =>
        (t.1, if t.2.busy ∧ t.2.remote ∧ t.2.inc = 0 then { t.2 with inc := inc } else t.2)
      let s := { s with linkInc := inc, txns := ts }
      ((s.wr pgPci R.ltssm 4).bump pgPci R.recoveryCnt).bump pgPci R.rxErrCnt)

/-- LINK_REPLAY (R518, R528): n replays. -/
def execLinkReplay (n : Nat) (s : State) : Result :=
  .next (
    if s.on pgPci R.dlUp = false ∨ n = 0 then s
    else (linkEvent (s.bump pgPci R.replayCnt n) { event := 0x08, level := 0, page := pgPci, count := n }).2)

/-- ASPM_L1 (R403). -/
def execAspmL1 (on : Bool) (s : State) : Result :=
  .next (
    if s.on pgPci R.dlUp = false then s
    else if on then (if s.rd pgPci R.ltssm = 3 then s.wr pgPci R.ltssm 5 else s)
    else if s.rd pgPci R.ltssm = 5 then s.wr pgPci R.ltssm 3 else s)

/-! ### Queue pairs -/

def pairOk (n q : Nat) : Bool := decide (n < 8) && decide (q < 16)

/-- Sizes of R410. -/
def qpSizeOk (v : Nat) : Bool := within 4 4096 v && v % 4 == 0

/-- QUEUE_PAIR_CREATE (R410). -/
def execQueuePairCreate (ini : Ini) (n q : Nat) (s : State) : Result :=
  .next (if pairOk n q = false then s else regRow s ini (pgHq n) (0x118 + 0x40 * q) fun s =>
    let p := pgHq n
    if s.rd p R.qpState q = qpOff ∧ al64 [s.rd p R.sqBase q, s.rd p R.hqCqBase q] ∧ qpSizeOk (s.rd p R.sqSize q) ∧
        qpSizeOk (s.rd p R.hqCqSize q) then
      let s := (((s.wr p R.sqHead 0 q).wr p R.sqTail 0 q).wr p R.cqTail 0 q).wr p R.cqHead 0 q
      let s := (((s.wr p R.errCause 0 q).wr p R.noticePend 0 q).wr p R.qpInflight 0 q).wr p R.qpState qpActive q
      s.putQp n q { cond := (condNoNotice s n).code }
    else s.prog p)

/-- Deletion begins (R426). -/
def deletePair (s : State) (n q : Nat) : State :=
  let st := s.rd (pgHq n) R.qpState q
  if st = qpActive ∨ st = qpError then s.wr (pgHq n) R.qpState qpDeleting q else s

/-- DELETE (R426). -/
def execDelete (ini : Ini) (n q : Nat) (s : State) : Result :=
  .next (if pairOk n q = false then s else regRow s ini (pgHq n) (0x118 + 0x40 * q) fun s => hqSettle (deletePair s n q) n)

/-- DELETE_DONE (R426). -/
def execDeleteDone (n q : Nat) (s : State) : Result :=
  .next (
    if pairOk n q = false ∨ s.rd (pgHq n) R.qpState q ≠ qpDeleting ∨ (s.qp n q).cmds ≠ [] then s
    else hqSettle ((s.wr (pgHq n) R.qpState qpOff q).putQp n q {}) n)

/-- SQ_TAIL_DOORBELL (R411). -/
def execSqTailDoorbell (n q value : Nat) (s : State) : Result :=
  .next (if pairOk n q = false then s else doorbell s n (s.ownerOf (pgHq n)) (8 * q) fun s =>
    let p := pgHq n
    let v := value % 131072
    let head := s.rd p R.sqHead q
    let held := if ixPh v = ixPh head then decide (ixIdx head ≤ ixIdx v) else decide (ixIdx v ≤ ixIdx head)
    if s.rd p R.qpState q ≠ qpActive ∨ s.rd p R.sqSize q ≤ ixIdx v ∨ held = false then s.raise p 8
    else s.wr p R.sqTail v q)

/-- The record at a CQ position has been released. -/
def cqReleased (s : State) (n q pos : Nat) : Bool :=
  let sz := s.rd (pgHq n) R.hqCqSize q
  let head := s.rd (pgHq n) R.cqHead q
  decide (cqUsed s n q ≤ ringUsed sz pos head) || ringOkRd sz pos head == false

/-- CQ_HEAD_DOORBELL (R412, R419, R422). -/
def execCqHeadDoorbell (n q value : Nat) (s : State) : Result :=
  .next (if pairOk n q = false then s else doorbell s n (s.ownerOf (pgHq n)) (8 * q + 4) fun s =>
    let p := pgHq n
    let v := value % 131072
    let head := s.rd p R.cqHead q
    if ringBetween (s.rd p R.hqCqSize q) (s.rd p R.cqTail q) head v = false then s.raise p 8
    else if v = head then s
    else
      let s := s.wr p R.cqHead v q
      let k := s.qp n q
      let s := match k.condAt with
        | some pos => if cqReleased s n q pos then s.putQp n q { k with condAt := none } else s
        | none => s
      if 0 < cqUsed s n q ∧ s.on p R.hqIrqEn q then s.msix n (s.rd p R.hqVec q) else s)

/-! ### Commands -/

/-- The command in 64 bytes (R415); `bad` for an unknown opcode or a reserved field that is not zero (R416). -/
def cmdOf (bs : List Byte) : HCmd :=
  let w0 := wordAt bs 0
  let w2 := wordAt bs 8
  let w6 := wordAt bs 0x18
  let rest := fromLe (bs.drop 0x1C)
  { tag := wordAt bs 4, op := w0 % 256, fence := bitOf w0 8, graph := w2 % 256, node := bitsOf w2 25 16, semop := bitsOf w2 30 28,
    arg := wordAt bs 0x0C, addr := quadAt bs 0x10, sem := w6 % 1024,
    bad := decide (9 < w0 % 256) || bitsOf w0 31 9 != 0 || bitsOf w2 15 8 != 0 || bitsOf w2 27 26 != 0 || bitOf w2 31 ||
      bitsOf w6 31 10 != 0 || rest != 0 }

/-- A fetched command meets the tag window (R423). -/
def takeCmd (s : State) (n q : Nat) (c : HCmd) : State :=
  let p := pgHq n
  let k := s.qp n q
  match k.window.find? fun w => w.1 == c.tag with
  | some (_, none) => s.bump p R.hqDupCnt 1 q
  | some (_, some (st, r)) =>
    let d : HCmd := { c with dup := true, st := 2, status := st, result := r }
    ((s.bump p R.hqDupCnt 1 q).bump p R.qpInflight 1 q).putQp n q { k with cmds := k.cmds ++ [d] }
  | none =>
    (s.bump p R.qpInflight 1 q).putQp n q { k with cmds := k.cmds ++ [c], window := ((c.tag, none) :: k.window).take 256 }

/-- COMMAND_FETCH (R413, R414, R423, R425). -/
def execCommandFetch (n q : Nat) (hit : Hit) (host : Cells) (s : State) : Result :=
  .next (
    let p := pgHq n
    if pairOk n q = false then s else
    let head := s.rd p R.sqHead q
    let k := s.qp n q
    if s.working p = false ∨ s.rd p R.qpState q ≠ qpActive ∨ head = s.rd p R.sqTail q ∨ 64 ≤ k.cmds.length ∨
        s.rd p R.hqCqSize q ≤ cqUsed s n q + k.cmds.length + 1 then s
    else match readAll s (hqTag n) p 0 (s.rd p R.sqBase q + 64 * ixIdx head) 64 hit host 0 with
      | (.ok bs, re, s) =>
        let s := (s.wr p R.sqHead (ringNext (s.rd p R.sqSize q) head) q).bump p R.cmdCnt 1 q
        hqSettle (takeCmd s n q { cmdOf bs with retried := re }) n
      | (_, _, s) => qpFail s n q 1)

/-- GT_STAT of an entry (R286). -/
def gtStat (s : State) (g : Nat) : Nat :=
  let x := s.graph g
  x.st + x.owner * 2 ^ 2 + x.insts.length * 2 ^ 5 + x.started * 2 ^ 16

/-- Put the command at position i back. -/
def setCmd (s : State) (n q i : Nat) (c : HCmd) : State :=
  let k := s.qp n q
  s.putQp n q { k with cmds := k.cmds.set i c }

/-- A command is complete with a status and a result. -/
def HCmd.fin (c : HCmd) (st r : Nat) : HCmd := { c with st := 2, status := st, result := r % 2 ^ 32 }

/-- The command whose turn it is to start: the first of the pair that has not, once a fence lets it (R413). -/
def nextCmd (s : State) (n q : Nat) : Option (Nat × HCmd) :=
  match (s.qp n q).cmds.findIdx? fun c => c.st == 0 with
  | none => none
  | some i =>
    let c := ((s.qp n q).cmds[i]?).getD { tag := 0, op := 0 }
    if c.fence ∧ i ≠ 0 then none else some (i, c)

/-- Perform the command whose turn it is, if its opcode is `op` and its fields keep R415 (R413, R416). -/
def perform (s : State) (n q op : Nat) (f : HCmd → State → HCmd × State) : State :=
  if pairOk n q = false then s else
  match nextCmd s n q with
  | none => s
  | some (i, c) =>
    if c.op ≠ op ∨ c.bad then s
    else
      let (c, s) := f c s
      setCmd s n q i c

/-- A command on a graph entry of the pair's partition; any other entry is PROG (R416). -/
def onGraph (n : Nat) (f : HCmd → State → HCmd × State) (c : HCmd) (s : State) : HCmd × State :=
  if (s.graph c.graph).st = gEmpty ∨ (s.graph c.graph).owner ≠ n then (c.fin stProg 0, s) else f c s

/-- NOP (R416). -/
def execNop (n q : Nat) (s : State) : Result := .next (perform s n q 0 fun c s => (c.fin stOk 0, s))

/-- GRAPH_LOAD (R258, R416). -/
def execGraphLoad (n q : Nat) (s : State) : Result :=
  .next (perform s n q 1 fun c s =>
    if (s.graph c.graph).st ≠ gEmpty ∨ s.working pgFgs = false then (c.fin stProg (gtStat s c.graph), s.prog pgFgs)
    else ({ c with st := 1 }, loadGraph s c.graph n c.addr))

/-- GRAPH_UNLOAD (R259, R416). -/
def execGraphUnload (n q : Nat) (s : State) : Result :=
  .next (perform s n q 2 (onGraph n fun c s =>
    let t := unloadGraph s c.graph
    (c.fin (if (t.graph c.graph).st = gEmpty then stOk else stProg) 0, t)))

/-- GRAPH_START (R260, R416). -/
def execGraphStart (n q : Nat) (s : State) : Result :=
  .next (perform s n q 3 (onGraph n fun c s =>
    let x := s.graph c.graph
    let t := startReq s c.graph (c.arg % 65536)
    let ok := x.st = gReady ∧ x.stream.isNone ∧ (c.arg % 65536 + 65536 - x.started) % 65536 < 0x8000
    (c.fin (if ok then stOk else stProg) x.started, t)))

/-- GRAPH_CANCEL (R278, R416). -/
def execGraphCancel (n q : Nat) (s : State) : Result :=
  .next (perform s n q 4 (onGraph n fun c s => ({ c with st := 1, insts := [c.arg] }, endInst s c.graph c.arg stCancelled)))

/-- GRAPH_CANCEL_ALL (R278, R416). -/
def execGraphCancelAll (n q : Nat) (s : State) : Result :=
  .next (perform s n q 5 (onGraph n fun c s =>
    ({ c with st := 1, insts := (s.graph c.graph).insts.map (·.num) }, cancelAll s c.graph)))

/-- NODE_TRIG (R267, R416). -/
def execNodeTrig (n q : Nat) (s : State) : Result :=
  .next (perform s n q 6 (onGraph n fun c s =>
    let (ok, s) := trigOnce s n n c.graph c.node
    (c.fin (if ok then stOk else stProg) (credit (s.graph c.graph) c.node), s)))

/-- NODE_CANCEL as a host command (R278, R416). -/
def execNodeCancelCommand (n q : Nat) (s : State) : Result :=
  .next (perform s n q 7 (onGraph n fun c s =>
    match oldestRun s c.graph c.node with
    | some i => ({ c with st := 1, key := some (execKey c.graph i c.node) }, cancelExec s c.graph i c.node)
    | none => (c.fin stOk 0, s)))

/-- SEM_OP as a host command (R263, R416). -/
def execSemOp (n q : Nat) (s : State) : Result :=
  .next (perform s n q 8 fun c s =>
    if sget 0 s.semOwner (c.sem / 2) ≠ n ∨ c.semop = 0 ∨ 4 < c.semop then (c.fin stProg 0, s)
    else
      let (ok, s) := semDo s n n c.semop c.sem c.arg
      let r := sget 0 s.sems c.sem
      if ok ∨ c.semop = 3 then (c.fin stOk r, s) else (c.fin (if c.semop = 2 then stOk else stProg) (setBit r 31), s))

/-- The status and result of a command that awaited an end, once it has come (R416). -/
def awaited (s : State) (c : HCmd) : Option (Nat × Nat) :=
  let x := s.graph c.graph
  if c.st = 2 then some (c.status, c.result)
  else if c.st = 0 then none
  else if c.op = 1 then
    (if x.st = gReady then some (stOk, gtStat s c.graph) else if x.st = gLoading then none else some (stProg, gtStat s c.graph))
  else if c.op = 9 then none
  else match c.key with
    | some key =>
      (match execOf s key with
       | some e => if e.st = 2 then some (stOk, 0) else none
       | none => some (stOk, 0))
    | none =>
      if c.insts.any fun i => (x.inst i).isSome then none else some (stOk, if c.op = 5 then x.started else 0)

/-- The status and result of the command at position i, once it is complete; a malformed one is so in its turn (R413, R416). -/
def completed (s : State) (n q i : Nat) (c : HCmd) : Option (Nat × Nat) :=
  if c.bad ∧ c.dup = false then (if (nextCmd s n q).map (·.1) = some i then some (stProg, 0) else none) else awaited s c

/-- COMMAND_COMPLETE (R417, R423, R425, R426): the record of the command at position i. -/
def execCommandComplete (n q i : Nat) (hit : Hit) (s : State) : Result :=
  .next (
    let p := pgHq n
    if pairOk n q = false then s else
    let k := s.qp n q
    match k.cmds[i]? with
    | none => s
    | some c =>
      match completed s n q i c with
      | none => s
      | some (st, r) =>
        let k := { k with cmds := k.cmds.eraseIdx i,
                          window := if c.dup then k.window else k.window.map fun w => if w.1 = c.tag then (w.1, some (st, r)) else w }
        let s := (s.wr p R.qpInflight (k.cmds.length) q).putQp n q k
        let s := if c.dup then s else s.perf p 0x04
        let s := hqSettle (if c.dup ∨ st = stOk then s else s.perf p 0x05) n
        if s.rd p R.qpState q = qpDeleting then s
        else cqWrite s n q (st * 2 ^ 4 + b2n c.dup * 2 ^ 8 + b2n c.retried * 2 ^ 9 + 2 ^ 14 + ixIdx (s.rd p R.sqHead q) * 2 ^ 16)
          c.tag r q hit)

/-- CONDITION_RECORD (R414, R417, R422): into an ACTIVE pair; one destined for a pair in DELETING or in ERROR is dropped and
counted (R425, R426). -/
def execConditionRecord (n q : Nat) (hit : Hit) (s : State) : Result :=
  .next (
    let p := pgHq n
    if pairOk n q = false then s else
    let k := s.qp n q
    let c := (condNoNotice s n).code
    let st := s.rd p R.qpState q
    if st = qpOff ∨ s.on p R.condEvt q = false ∨ k.condAt.isSome ∨ k.cond = c then s
    else if st ≠ qpActive then (s.putQp n q { k with cond := c }).bump p R.lostRec 1 q
    else if cqRoom s n q = false then s
    else
      let s := s.putQp n q { k with cond := c, condAt := some (s.rd p R.cqTail q) }
      cqWrite s n q (2 ^ 12 + 2 ^ 14) 0 (s.time % 2 ^ 32) (s.time / 2 ^ 32 % 2 ^ 32) hit)

end Sys2Proof.Machine
end

