-- ==== Sys2Proof/Machine/Island.lean ====
section
/-! DEFINITION. The safety island: doubts and their continuation (R484 to R489), watchdogs and clock monitors (R481,
R482, R497, R529), return from fallback (R495, R577), the checker rotation (R505 to R508) and UNFENCE (R531). -/
namespace Sys2Proof.Machine
open Sys2Proof

/-- The island is out of reset and not off or asleep (R579). -/
def islandRuns (s : State) : Bool := decide (s.rst.ph < 3) && decide (s.rd pgPwr R.rung ≤ 2)

/-! ### Doubts -/

/-- DOUBT_REPORT (R487, R488): the oldest report reaches the island; an injected one is never applied. -/
def execDoubtReport (s : State) : Result :=
  .next (
    match s.doubtQ with
    | [] => s
    | d :: rest =>
      let s := { s with doubtQ := rest }
      if d.injected then s
      else
        let s := applyScope (s.bump pgSaf R.doubtCnt) d.scope d.inc
        match d.scope with
        | .frame k e0 _ =>
          if d.cont ∧ (sfind s.conts k).isNone then { s with conts := sput s.conts k e0 } else s
        | _ => s)

/-- The current count of the encoder of stream k. -/
def streamCount (s : State) (k : Nat) : Nat := s.rd pgLio R.encCnt (s.rd (pgCtx k) R.encSel)

/-- The stream is RUNNING again with TEST_DOUBT = 0 (R487). -/
def streamSound (s : State) (k : Nat) : Bool := s.rd (pgCtx k) R.stream == 2 && !s.on (pgCtx k) R.testDoubt

/-- A SAFE stream that is not RUNNING starts a continued scope (R484). -/
def downStreams (s : State) : State :=
  (List.range 48).foldl (fun s k =>
    if s.on pgSaf R.camSafe k ∧ s.rd (pgCtx k) R.stream ≠ 2 ∧ (sfind s.conts k).isNone then
      { s with conts := sput s.conts k (streamCount s k) }
    else s) s

/-- DOUBT_REEVALUATE (R484, R487): continued scopes reach up to the current count, and end with a sound stream. -/
def execDoubtReevaluate (s : State) : Result :=
  .next (
    if islandRuns s = false then s else
    let s := { s with conts := s.conts.filter fun x => !streamSound s x.1 }
    let s := downStreams s
    s.conts.foldl (fun s x => doubtFrame s x.1 x.2 (streamCount s x.1)) s)

/-- DOUBT_REQ (R483, R485): a write acts for the writer's own partition, on a line that it maps to. -/
def execDoubtReq (ini : Ini) (tag line : Nat) (s : State) : Result :=
  .next (regRow s ini pgSaf 0x088 fun s =>
    if 4 ≤ line ∨ lineOn s line = false ∨ mapsTo s (iniPart s ini) line = false then s
    else s.doubt (tagScope s line (tag % 65536)))

/-- FINAL_CONFIRM (R489, R491, R494): a held request is stored once its entry is confirmed. -/
def execFinalConfirm (id : Nat) (s : State) : Result :=
  .next (
    let e := s.entry id
    match lineOfId s id, e.held with
    | some l, some h =>
      if confirmed s l e = false ∨ s.on pgSaf R.fault ∨ e.poisoned ∨ islandRuns s = false then s else storeFinal s l id e h
    | _, _ => s)

/-! ### Watchdogs, lockstep and clocks -/

/-- The least interval of a watchdog in ticks: n ms of an oscillator up to 2 % fast (R638). -/
def wdTicks (n : Nat) : Nat := n * 98000

def State.wd (s : State) (p : Nat) : Wd := sget {} s.wds p
def State.putWd (s : State) (p : Nat) (w : Wd) : State := { s with wds := sset {} s.wds p w }

/-- WD_EN (R529): a bit newly set starts its watchdog, a cleared one stops it. -/
def wdEnabled (s : State) (old : Nat) : State :=
  (List.range 8).foldl (fun s p =>
    let new := bitOf (s.rd pgSaf R.wdEn) p
    if new ∧ bitOf old p = false then s.putWd p { s.wd p with on := true, last := s.time }
    else if new = false then s.putWd p { s.wd p with on := false }
    else s) s

/-- WD_KICK (R483, R497, R529): it restarts the watchdog of the writer's partition. -/
def execWdKick (ini : Ini) (s : State) : Result :=
  .next (regRow s ini pgSaf 0x08C fun s =>
    let p := iniPart s ini
    s.putWd p { on := bitOf (s.rd pgSaf R.wdEn) p, last := s.time, expired := false })

/-- WD_EXPIRED (R529): 250 ms of the island's oscillator without a kick; the timer restarts at the next kick. -/
def execWdExpired (p : Nat) (s : State) : Result :=
  .next (
    let w := s.wd p
    if 8 ≤ p ∨ w.on = false ∨ w.expired ∨ s.time < w.last + wdTicks 250 ∨ islandRuns s = false ∨ s.on pgPwr R.entering then s
    else wdExpire s p)

/-- ISLAND_FIRMWARE_KICK (R481, R521, R608). -/
def execIslandFirmwareKick (s : State) : Result :=
  .next (
    if s.on pgRst R.romDone = false ∨ s.isl.halted ∨ islandRuns s = false ∨ s.on pgPwr R.entering then s
    else { s with isl := { s.isl with lastKick := s.time, wdOn := true, kicked := true } })

/-- DEVICE_WD_EXPIRY (R481). -/
def execDeviceWdExpiry (s : State) : Result :=
  .next (
    if s.isl.wdOn = false ∨ s.time < s.isl.lastKick + wdTicks 500 ∨ islandRuns s = false ∨ s.on pgPwr R.entering then s
    else raiseFault { s with isl := { s.isl with wdOn := false } } 3)

/-- LOCKSTEP_MISMATCH (R481). -/
def execLockstepMismatch (s : State) : Result := .next (if islandRuns s then raiseFault s 1 else s)

/-- ISLAND_TCM_ECC (R496). -/
def execIslandTcmEcc (s : State) : Result := .next (if islandRuns s then raiseFault s 7 else s)

/-- Nominal frequencies in kHz: FAB, ARR, VIS, CTL, SLOW and the reference (R563). -/
def nominalKhz : List Nat := [1200000, 800000, 600000, 400000, 100000, 100000]

/-- A clock deviates by more than 2 % or has stopped. -/
def clockBad (khz nominal : Nat) : Bool := decide (khz * 100 < nominal * 98) || decide (nominal * 102 < khz * 100)

/-- CLOCK_WINDOW_END (R482, R590): the island's measurements of a window of 10 µs. -/
def execClockWindowEnd (khz : List Nat) (s : State) : Result :=
  .next (
    if islandRuns s = false ∨ s.on pgPwr R.entering ∨ s.on pgPwr R.exiting ∨ s.on pgClk R.pllLock = false then s else
    let s := (List.range 5).foldl (fun s i => s.wr pgClk R.clkKhz ((khz[i]?).getD 0) i) s
    let s := s.wr pgClk R.refKhz ((khz[5]?).getD 0)
    if (List.range 6).any fun i => clockBad ((khz[i]?).getD 0) ((nominalKhz[i]?).getD 0) then raiseFault s 2 else s)

/-! ### Return from fallback -/

/-- Each class of the class table is no smaller than the one before it in all three limits (R504). -/
def classesRise (s : State) : Bool :=
  (List.range 14).all fun c =>
    decide (s.rd pgSaf R.clsLmax c ≤ s.rd pgSaf R.clsLmax (c + 1)) &&
    decide (s.rd pgSaf R.clsWmax c ≤ s.rd pgSaf R.clsWmax (c + 1)) &&
    decide (s.rd pgSaf R.clsHmax c ≤ s.rd pgSaf R.clsHmax (c + 1))

/-- The conditions of R495 and R504 for a set of lines. -/
def mayResume (s : State) (ls : List Nat) : Bool :=
  (match s.isl.cleanEnd with | some t => decide (s.fbCauseTime < t) | none => false) &&
  ls.all (fun l => (partsOf s l).all fun p => !(s.wd p).expired) && !s.on pgSaf R.fault && classesRise s

/-- RESUME (R495, R504). -/
def execResume (ini : Ini) (value : Nat) (s : State) : Result :=
  .next (regRow0 s ini pgSaf 0x084 fun s =>
    let all := bitOf value 4
    let ls := (List.range 4).filter fun l => bitOf value l || (all && lineOn s l)
    if value % 32 = 0 then s
    else if mayResume s ls = false then s.prog pgSaf
    else
      let s := s.wr pgSaf R.lineFb (clrMask 4 (s.rd pgSaf R.lineFb) (value % 16))
      let s := if all then setFallbackAll { s with fbAllRaised := false } else s
      ls.foldl (fun s l => moveOpen s l false) s)

/-- The sleep cause of FALLBACK_ALL clears (R577). -/
def clearSleep (s : State) : State :=
  if s.fbSleep = false then s
  else (List.range 4).foldl (fun s l => moveOpen s l false) (setFallbackAll { s with fbSleep := false })

/-! ### The checker rotation -/

/-- A checker: page, BIT and turn. -/
abbrev Checker := Nat × Nat × Nat

/-- Pages whose residue checkers the rotation exercises (R505). -/
def residuePages : List Nat :=
  [0x30, 0x31, 0x32, 0x33, 0x80, 0x81, 0x84, 0x85, 0x86, 0x87, 0x88, 0x8C, 0x8D, 0x90, 0x91, 0x94, 0x95, 0xA8, 0xA9]

/-- A stream whose test-block comparator is in use: SAFE, in processing, with test blocks and a golden table. -/
def tbInUse (s : State) (k : Nat) : Bool :=
  s.on pgSaf R.camSafe k && s.on (pgCtx k) R.ctxEn && s.on (pgCtx k) R.testEn && s.on (pgCtx k) R.inEn

/-- Every checker of every enabled unit (R505), except on pages that are FENCED. -/
def rotItems (s : State) : List Checker :=
  let sta := ([0, 1, 2, 3].map pgSta).filter s.working
  let res := residuePages.filter s.working
  let ctx := ((List.range 48).filter (tbInUse s)).map pgCtx
  let lpc := [0, 1, 2, 3].filter fun i => s.rd (pgLpc i) R.lpcState == 3
  let pfq := ((List.range 64).map pgPq).filter fun p => s.rd p R.qState == 2
  let l : List Checker :=
    sta.map (fun p => (p, 6, 0)) ++ res.map (fun p => (p, 6, 0)) ++ ctx.map (fun p => (p, 6, 0)) ++
    [0, 1].flatMap (fun t => [(pgSvm, 2, t), (pgSvm, 3, t)]) ++
    sta.flatMap (fun p => [(p, 2, 0), (p, 3, 0)]) ++
    (List.range 8).flatMap (fun c => [(pgCc c, 2, 0), (pgCc c, 3, 0)]) ++
    lpc.flatMap (fun i => [(pgLpc i, 2, 0), (pgLpc i, 3, 0)]) ++
    [0, 1, 2, 3].map (fun f => (pgFab, 12, f)) ++ pfq.map (fun p => (p, 8, 0)) ++
    [1, 2, 3].map (fun b => (pgSaf, b, 0))
  l.filter fun x => !s.fenced x.1

/-- The checker's opportunity lies in real work now: it is armed and waits (R505). -/
def workPending (s : State) (x : Checker) : Bool :=
  match pageKind x.1 with
  | some .ctx => true
  | some .pq => true
  | some .isp => x.2.1 == 6 && (sfind s.ispRuns (x.1 - 0x30)).isSome
  | some .pyr | some .wrp | some .hmp | some .ste | some .flw | some .fea | some .sta | some .lvu =>
    x.2.1 == 6 && engBusy s x.1
  | _ => false

/-- Arm the page's injection without DEBUG_TOUCHED (R42). -/
def rotArm (s : State) (p bit : Nat) : State := (s.wr p R.injBit bit).wr p R.injArm 1

/-- Record a checker as exercised. -/
def rotMark (s : State) (x : Checker) : State := { s with isl := { s.isl with rotDone := s.isl.rotDone ++ [x] } }

/-- A rotation ends (R505, R517); the sleep cause may clear with it (R577). -/
def rotEnd (s : State) : State :=
  let s := (((s.wr pgChk R.lastRotEnd s.time).wr pgChk R.lastRotMs (min 65535 ((s.time - s.isl.rotStart) / 100000))).bump
    pgChk R.rotCnt)
  let s := { s with isl := { s.isl with rotOn := false, rotDone := [], rotSince := true,
                                        cleanEnd := if s.isl.rotClean then some s.time else s.isl.cleanEnd } }
  if s.rd pgPwr R.rung = 0 ∧ s.on pgPwr R.exiting = false ∧ s.on pgRst R.starting = false then clearSleep s else s

/-- Confirmed injections leave; with ROT_EN = 0 the rotation is given up; it ends when every checker has had its turn. -/
def rotSweep (s : State) : State :=
  let seen : List Checker := (s.injections.filter (·.confirmed)).map fun j => (j.page, j.bit, j.turn)
  let s := { s with isl := { s.isl with rotDone := s.isl.rotDone ++ seen } }
  let s := { s with injections := s.injections.filter fun j => !j.confirmed }
  if s.isl.rotOn = false then s
  else if s.on pgChk R.rotEn = false then { s with isl := { s.isl with rotOn := false, rotDone := [] } }
  else if s.injections = [] ∧ (rotItems s).all fun x => s.isl.rotDone.contains x then rotEnd s else s

/-- A rotation begins with its first injection. -/
def rotBegin (s : State) : State :=
  if s.isl.rotOn then s
  else { s.wr pgChk R.checkers (rotItems s).length with
         isl := { s.isl with rotOn := true, rotStart := s.time, rotDone := [], rotClean := true } }

/-- The checker is due: it belongs to the rotation and has not had its turn, and ECC_UNCORR follows ECC_CORR (R505). -/
def rotDue (s : State) (x : Checker) : Bool :=
  (rotItems s).contains x && !(s.isl.rotOn && s.isl.rotDone.contains x) &&
    (x.2.1 != 3 || x.1 == pgSaf || (s.isl.rotOn && s.isl.rotDone.contains (x.1, 2, x.2.2)))

/-- The island's test read, check cycle, test transaction or built-in test (R505): when the detection is seen, the flag
sets with INJECTED and the checker is confirmed; else the injection stays unconfirmed. -/
def rotTest (s : State) (x : Checker) (seen : Bool) : State :=
  let s := { s with injections := s.injections ++ [(⟨x.1, x.2.1, x.2.2, s.time, some s.time, false⟩ : Injection)] }
  if seen = false then s
  else if x.1 = pgSaf then
    { s with injections := s.injections.map fun j => if j.page = x.1 ∧ j.bit = x.2.1 then { j with confirmed := true } else j }
  else s.raiseI x.1 x.2.1 true

/-- CHECKER_INJECTION (R505, R506): the next checker due.  On a busy unit the injection waits for its opportunity; `seen`
says whether an immediate test detected it. -/
def execCheckerInjection (page bit turn : Nat) (seen : Bool) (s : State) : Result :=
  .next (
    let x : Checker := (page, bit, turn)
    if s.on pgChk R.rotEn = false ∨ s.on pgRst R.romDone = false ∨ s.rst.ph ≠ 0 ∨ islandRuns s = false then s
    else if s.injections.any fun j => j.page = page then
      -- an armed injection whose unit has meanwhile become idle takes a check cycle
      if workPending s x = false ∧ s.injections.any (fun j => j.page = page ∧ j.bit = bit ∧ j.turn = turn ∧ j.taken = none) then
        rotSweep (rotTest (({ s with injections := s.injections.filter fun j => j.page != page } : State).wr page R.injArm 0) x seen)
      else s
    else if 8 ≤ s.injections.length ∨ rotDue s x = false then s
    else
      let s := rotBegin s
      if workPending s x then
        let s := rotArm { s with injections := s.injections ++ [(⟨page, bit, turn, s.time, none, false⟩ : Injection)] } page bit
        if pageKind page = some .pq then
          (s.wr page R.snapValid 0).putPq (page - 0x140) { s.pq (page - 0x140) with snap := true }
        else s
      else rotSweep (rotTest s x seen))

/-- CHECKER_TIMEOUT (R506): an injection without its outcome 2 ms after its opportunity, or without an opportunity
within 1 ms, is a checker self-test failure.  A test-block comparator that met no compared block within ROT_PERIOD is
passed over. -/
def execCheckerTimeout (page : Nat) (s : State) : Result :=
  .next (
    match s.injections.find? fun j => j.page == page with
    | none => s
    | some j =>
      let s1 := ({ s with injections := s.injections.filter fun k => k.page != page } : State).wr page R.injArm 0
      let x : Checker := (j.page, j.bit, j.turn)
      let failed := checkerFail (rotMark { s1 with isl := { s1.isl with rotClean := false } } x) page j.bit
      match j.taken with
      | some t => if j.confirmed ∨ s.time < t + msTicks 2 then s else rotSweep failed
      | none =>
        if pageKind page = some .ctx then
          (if s.time < j.armed + msTicks (s.rd pgChk R.rotPeriod) then s else rotSweep (rotMark s1 x))
        else if s.time < j.armed + msTicks 1 then s else rotSweep failed)

/-! ### UNFENCE -/

/-- Pages that return to service only at warm reset (R531). -/
def noUnfence (p : Nat) : Bool := p == pgHmp0 || p == pgSte1 || p == pgLvu1 || pageKind p == some .lpc

/-- The pattern a self-test with code sel writes into buffer b of page p (R220, domain 7). -/
def selftestDraw (p sel b : Nat) : Draw :=
  let id := match pageKind p with
    | some k => pageTypeCode k * 2 ^ 24 + (p - firstPage k) * 2 ^ 16 + 2 ^ 8
    | none => 0
  ⟨0, id, sel, b, 0, domSelftest⟩

/-- The internal buffers of a page are overwritten by its self-test (R43). -/
def selftestFill (s : State) (p sel : Nat) : State := { s with filled := sput s.filled p sel }

/-- The 16-byte word i that the latest self-test left in internal buffer b of a page (R224). -/
def State.bufferWord (s : State) (p b i : Nat) : Option Nat :=
  (sfind s.filled p).map fun sel => (selftestDraw p sel b).block i

/-- UNFENCE (R531): the page's full self-test starts. -/
def execUnfence (ini : Ini) (page : Nat) (s : State) : Result :=
  .next (regRow0 s ini pgErl 0x0A0 fun s =>
    if pageKind page = none ∨ s.fenced page = false ∨ s.unfence.isSome ∨ noUnfence page then s.prog pgErl
    else
      let s := (s.wr pgErl R.unfenceState 1).wr pgErl R.unfencePage page
      { selftestFill (((s.wr page R.pstate psSelftest).wr page R.stDone 0).wr page R.stPass 0) page 0 with
        unfence := some page })

/-- The self-test of an UNFENCE ends (R531): `pass` none when a soft reset abandoned it. -/
def unfenceEnd (s : State) (page : Nat) (pass : Option Bool) : State :=
  let s := { s with unfence := none }
  let entry : LogRec := { event := 0x1D, part := s.ownerOf page, page := page }
  match pass with
  | some true =>
    let s := ((s.wr page R.pstate psOff).wr page R.enable 0).wr pgErl R.unfenceState 2
    let runs : List (Nat × Nat) := s.toRuns.filter fun e => e.1 / 8 != page
    ({ s with toRuns := runs } : State).log entry
  | some false => (((s.wr page R.pstate psFenced).wr pgErl R.unfenceState 3).raise pgErl 9).log { entry with cls := 2 }
  | none => ((s.wr page R.pstate psFenced).wr pgErl R.unfenceState 3).log { entry with cls := 3 }

end Sys2Proof.Machine
end

