-- ==== Sys2Proof/Machine/VerdictPort.lean ====
section
/-! DEFINITION. The Verdict Port and the lines it serves: reads and writes of the line controller (R430 to R436, R446),
photo-eye events and announcements (R438 to R442), the deadline of R20, staging requests (R443) and the lines'
configuration (R437). -/
namespace Sys2Proof.Machine
open Sys2Proof

/-- PAGE_ERR bits of the VPT page (R456). -/
def vpParity : Nat := 8
def vpBadOp : Nat := 9
def vpUnpaired : Nat := 10
def vpMissed : Nat := 11

/-- The line-I/O units run: the device is in RUN, HOLD or NAP and is not entering a sleep rung (R572, R579). -/
def awake (s : State) : Bool := decide (s.rd pgPwr R.rung ≤ 2) && s.rd pgPwr R.entering == 0

/-- The port drives replies and takes writes: out of reset, or up to 10 µs after a warm-reset request (R594, R598). -/
def vpUp (s : State) : Bool := s.rst.ph == 0 || s.rst.ph == 1

/-- A VP_CLK cycle passes (R456). -/
def vpEdge (s : State) : State := { s.wr pgVpt R.clkActive 1 with vpLast := s.time }

/-- Unwrapped position of an encoder. -/
def encPosOf (s : State) (e : Nat) : Int := sget 0 s.encPos e

/-- The encoder of line l: its position and its count. -/
def linePos (s : State) (l : Nat) : Int := encPosOf s (s.rd pgVpt R.lineEnc l)
def lineCnt (s : State) (l : Nat) : Nat := s.rd pgLio R.encCnt (s.rd pgVpt R.lineEnc l)

/-! ### Reads -/

/-- The Verdict Port's own tag in an error report: no initiator, and the partition of the entry's line (R533). -/
def tagVp (s : State) (id : Nat) : Tag := ⟨0xFF, ((lineOfId s id).map (linePart s)).getD 0, 0⟩

/-- What the port finds of the word of an entry (R384): whether it is poisoned, and the state after the error
reports. -/
def vpLook (s : State) (id : Nat) (ecc : Ecc) : Bool × State :=
  let a := vtBase + 4 * id
  if (s.entry id).poisoned then (true, (svmUncorr s (tagVp s id) a true).2)
  else match ecc with
    | .ok => (false, s)
    | .uncorr => (true, (svmUncorr (s.putEntry id { s.entry id with poisoned := true }) (tagVp s id) a true).2)
    | _ => (false, svmCorr s (tagVp s id) a true)

/-- The reply that the port drives: VP_D, and VP_DP at bit 32, which makes the number of ones odd (R429). -/
def vpReply (w : Nat) : Reply := ⟨w + 2 ^ 32 * (1 - ((List.range 32).filter (bitOf w)).length % 2), 0⟩

/-- A reply word of R446: LANE 0xFF, DIMCLASS 0xF and SEQ 0. -/
def badReply (st flag cond : Nat) : Nat :=
  entryWord { st := st, seq := 0, lane := 0xFF, dim := 0xF, flags := 2 ^ flag } cond

/-- VP_READ (R430, R446): the reply carries the entry and the conditions as they stand. -/
def execVpRead (id : Nat) (apOk : Bool) (ecc : Ecc) (s : State) : Result :=
  .next (
    if vpUp s = false then { s with reply := ⟨0xFFFFFFFF, 8⟩ }
    else if 65536 ≤ id then s
    else
      let s := ((vpEdge s).bump pgVpt R.vpReadCnt).perf pgVpt 0x04
      if apOk = false then
        let w := badReply 6 5 (condEvery s)
        { ((s.bump pgVpt R.vpParityCnt).raise pgVpt vpParity).perf pgVpt 0x05 with reply := vpReply w }
      else
        let c := condId s id
        let (bad, s) := vpLook s id ecc
        if bad then { s with reply := vpReply (badReply 7 6 c) }
        else { s with reply := vpReply (entryWord (s.entry id) c) })

/-! ### Photo-eye events and announcements -/

/-- Signed 24-bit value. -/
def s24 (x : Int) : Int := sgn 24 (x % 16777216).toNat

/-- Distance between an announcement and an event of count c on line l (R440). -/
def annDist (s : State) (l pos c : Nat) : Nat :=
  (s24 ((pos : Int) - (c + s.rd pgVpt R.encOfs l : Nat))).natAbs

def annMatches (s : State) (l pos c : Nat) : Bool := decide (annDist s l pos c ≤ s.rd pgVpt R.matchTol l)

/-- The element of least key, the first one of several. -/
def leastBy {α : Type} (key : α → Nat) : List α → Option α
  | [] => none
  | a :: t => match leastBy key t with
    | none => some a
    | some b => if key b < key a then some b else some a

/-- Events that no announcement has paired, oldest first. -/
def listedOf (s : State) (l : Nat) : List Parcel := s.parcels.filter fun q => q.line == l && q.listed

def sameEvent (q r : Parcel) : Bool := q.line == r.line && q.c == r.c && q.time == r.time

/-- Change one event. -/
def modParcel (s : State) (q : Parcel) (f : Parcel → Parcel) : State :=
  { s with parcels := s.parcels.map fun r => if sameEvent q r then f r else r }

/-- Events whose work is done leave the device: unlisted, evaluated by the Fawn pipeline, trailing edge seen. -/
def sweepParcels (s : State) : State :=
  { s with parcels := s.parcels.filter fun q => q.listed || !q.done || q.trail.isNone }

/-- Pair an entry with an event (R440): the event's count is its origin, and a doubtful event passes its doubt on
(R486). -/
def pair (s : State) (id : Nat) (q : Parcel) : State :=
  let e := s.entry id
  let s := s.putEntry id { e with origin := some q.c, trail := q.trail, epos := q.pos }
  let s := sweepParcels (modParcel s q fun r => { r with listed := false, id := some id })
  if q.doubtful then doubtEntry s id else s

/-- An announced entry of line l still waits for its event: no origin, and not unpaired (R440, R441). -/
def waiting (s : State) (l : Nat) (x : Nat × Entry) : Bool :=
  x.2.st != vEmpty && x.2.origin.isNone && x.2.pos.isSome && !bitOf x.2.flags fUnpaired && lineOfId s x.1 == some l

/-- An unpaired event is counted, flagged and logged (R439, R441). -/
def unpairedEvent (s : State) (q : Parcel) : State :=
  let s := sweepParcels (modParcel s q fun r => { r with listed := false })
  ((s.bump pgVpt R.unpairedEvtCnt (i := q.line)).raise pgVpt vpUnpaired).log
    { event := 0x28, part := linePart s q.line, page := pgVpt, d0 := q.line, d1 := q.c }

/-- A leading edge on the photo-eye of line l (R438 to R440). -/
def recordEvent (s : State) (l : Nat) : State :=
  let c := lineCnt s l
  let q : Parcel := { line := l, c := c, time := s.time, pos := linePos s l, done := !s.on pgSaf R.fawnEn l }
  let s := s.bump pgVpt R.evtCnt (i := l)
  let cands := (s.vt.filter fun x => waiting s l x && annMatches s l (x.2.pos.getD 0) c).map fun x =>
    (x.1, annDist s l (x.2.pos.getD 0) c, x.2.since)
  match leastBy (fun x => x.2.1 * 2 ^ 64 + x.2.2) cands with
  | some x => pair { s with parcels := s.parcels ++ [q] } x.1 q
  | none =>
    let s := if 64 ≤ (listedOf s l).length then
        match listedOf s l with
        | o :: _ => (unpairedEvent s o).bump pgVpt R.evtOvfCnt (i := l)
        | [] => s
      else s
    { s with parcels := s.parcels ++ [q] }

/-- The latest event of line l, if its trailing edge has not been seen. -/
def openEvent (s : State) (l : Nat) : Option Parcel :=
  match (s.parcels.filter fun q => q.line == l).getLast? with
  | some q => if q.trail.isNone then some q else none
  | none => none

/-- A trailing edge on the photo-eye of line l (R438). -/
def recordTrail (s : State) (l : Nat) : State :=
  match openEvent s l with
  | none => s
  | some q =>
    let c := lineCnt s l
    let p := linePos s l
    let s := match q.id with
      | some id => if (s.entry id).origin = some q.c then s.putEntry id { s.entry id with trail := some c } else s
      | none => s
    sweepParcels (modParcel s q fun r => { r with trail := some c, tpos := p })

/-- The photo-eye pin of line l works: EYE with UNIT = l, settled, and the lower-numbered of two (R437, R448). -/
def eyeWorks (s : State) (l p : Nat) : Bool :=
  lineOn s l && s.rd pgVpt R.eyePin l == p && s.rd pgLio R.pinFunc p == 5 && s.rd pgLio R.pinUnit p == l &&
    (List.range p).all fun r => !(s.rd pgLio R.pinFunc r == 5 && s.rd pgLio R.pinUnit r == l && (sget {} s.pins r).sw.isNone)

/-- An accepted edge on pin p, an EYE pin (R438): events are recorded while the line I/O runs. -/
def eyeEdge (s : State) (p : Nat) (rise : Bool) : State :=
  let l := s.rd pgLio R.pinUnit p
  if awake s = false ∨ eyeWorks s l p = false then s
  else if rise then recordEvent s l else recordTrail s l

/-- An edge that the filter of the eye pin of line l accepts. -/
def eyeRow (s : State) (l : Nat) (rise : Bool) : State :=
  let p := s.rd pgVpt R.eyePin l
  let x := sget {} s.pins p
  if 4 ≤ l ∨ x.sw.isSome ∨ s.rd pgLio R.pinFunc p ≠ 5 ∨ x.level ≠ some (!rise) then s
  else eyeEdge { s with pins := sset {} s.pins p { x with level := some rise } } p rise

/-- EYE_LEADING_EDGE (R438). -/
def execEyeLeadingEdge (line : Nat) (s : State) : Result := .next (eyeRow s line true)

/-- EYE_TRAILING_EDGE (R438). -/
def execEyeTrailingEdge (line : Nat) (s : State) : Result := .next (eyeRow s line false)

/-- UNPAIRED_EVT (R441): the oldest event whose encoder has advanced ANN_WAIT counts past it. -/
def execUnpairedEvt (line : Nat) (s : State) : Result :=
  .next (
    if lineOn s line = false then s
    else match (listedOf s line).find? fun q => decide (q.pos + (s.rd pgVpt R.annWait line : Nat) ≤ linePos s line) with
      | none => s
      | some q => unpairedEvent s q)

/-- UNPAIRED_ANN (R441). -/
def execUnpairedAnn (id : Nat) (s : State) : Result :=
  .next (
    match lineOfId s id with
    | none => s
    | some l =>
      let e := s.entry id
      if waiting s l (id, e) = false ∨ e.poisoned ∨ linePos s l < e.epos + (s.rd pgVpt R.annWait l : Nat) then s
      else
        let s := (s.chgEntry id { e with flags := setBit e.flags fUnpaired }).bump pgVpt R.unpairedAnnCnt (i := l)
        (s.raise pgVpt vpUnpaired).log { event := 0x29, part := linePart s l, page := pgVpt, d0 := l, d1 := id })

/-- MISSED (R20): the deadline of an entry with an origin. -/
def execMissed (id : Nat) (s : State) : Result :=
  .next (
    match lineOfId s id with
    | none => s
    | some l =>
      let e := s.entry id
      if e.origin.isNone ∨ (e.st ≠ vAnnounced ∧ e.st ≠ vPending) ∨ e.poisoned ∨
          linePos s l < e.epos + (s.rd pgVpt R.divertDist l : Nat) then s
      else
        let s := ((missEntry s id).bump pgVpt R.missedCnt (i := l)).raise pgVpt vpMissed
        let s := s.log { event := 0x2B, part := linePart s l, page := pgVpt, d0 := l, d1 := id }
        (partsOf s l).foldl (fun s p => s.noticeOn p) s)

/-! ### Writes -/

/-- ANNOUNCE to an EMPTY entry (R440). -/
def announce (s : State) (l id pos : Nat) : State :=
  let ofs : Int := s24 ((pos : Int) - (lineCnt s l + s.rd pgVpt R.encOfs l : Nat))
  let e := s.entry id
  let s := s.chgEntry id { st := vAnnounced, seq := e.seq, lane := 0xFF, dim := 0xF, flags := 0, pos := some pos,
                           epos := linePos s l + ofs, since := s.time }
  match leastBy (fun q => annDist s l pos q.c) ((listedOf s l).filter fun q => annMatches s l pos q.c) with
  | some q => pair s id q
  | none => s

/-- An accepted ANNOUNCE (R440, R442): a poisoned word is left as it is (R378). -/
def vpAnnounce (s : State) (l id pos : Nat) (ecc : Ecc) : State :=
  let (bad, s) := vpLook s id ecc
  let e := s.entry id
  if bad then s
  else if e.st = vEmpty then announce s l id pos
  else if e.pos = some pos then s
  else (s.bump pgVpt R.annBusyCnt (i := l)).log
    { event := 0x2A, part := linePart s l, page := pgVpt, d0 := l, d1 := id }

/-- An accepted ACK (R435, R446). -/
def vpAck (s : State) (id seq : Nat) (ecc : Ecc) : State :=
  let (bad, s) := vpLook s id ecc
  let e := s.entry id
  if bad then
    if seq = 0 then s.putEntry id { seq := 1 } else s.bump pgVpt R.ackStaleCnt
  else if e.st = vEmpty then s
  else if e.seq ≠ seq then s.bump pgVpt R.ackStaleCnt
  else s.chgEntry id { st := vEmpty, seq := e.seq }

/-- A write with a damaged parity (R436). -/
def vpParityErr (s : State) : State := ((s.bump pgVpt R.vpParityCnt).raise pgVpt vpParity).perf pgVpt 0x05

/-- A word that is neither command, or to no enabled line (R434). -/
def vpBad (s : State) : State := ((s.bump pgVpt R.badOpCnt).raise pgVpt vpBadOp).perf pgVpt 0x05

/-- A write cycle (R434 to R436). -/
def vpWrite (s : State) (id word : Nat) (parityOk : Bool) (ecc : Ecc) : State :=
  if vpUp s = false ∨ 65536 ≤ id ∨ 2 ^ 32 ≤ word then s
  else
    let s := ((vpEdge s).bump pgVpt R.vpWriteCnt).perf pgVpt 0x04
    if parityOk = false then vpParityErr s
    else match lineOfId s id with
      | none => vpBad s
      | some l =>
        if bitsOf word 31 28 = 1 ∧ bitsOf word 27 24 = 0 then vpAnnounce s l id (bitsOf word 23 0) ecc
        else if bitsOf word 31 28 = 2 ∧ bitsOf word 23 0 = 0 then vpAck s id (bitsOf word 27 24) ecc
        else vpBad s

/-- ANNOUNCE (R440). -/
def execAnnounce (id pos : Nat) (ecc : Ecc) (s : State) : Result :=
  .next (if 2 ^ 24 ≤ pos then s else vpWrite s id (0x10000000 + pos) true ecc)

/-- ACK (R435). -/
def execAck (id seq : Nat) (ecc : Ecc) (s : State) : Result :=
  .next (if 16 ≤ seq then s else vpWrite s id (0x20000000 + seq * 2 ^ 24) true ecc)

/-- The word is one of the two commands of R434. -/
def vpGood (word : Nat) : Bool :=
  (bitsOf word 31 28 == 1 && bitsOf word 27 24 == 0) || (bitsOf word 31 28 == 2 && bitsOf word 23 0 == 0)

/-- BAD_WRITE (R434, R436): a good word with good parity to an enabled line is not this command. -/
def execBadWrite (id word : Nat) (parityOk : Bool) (s : State) : Result :=
  .next (if parityOk = true ∧ vpGood word = true ∧ (lineOfId s id).isSome = true then s else vpWrite s id word parityOk .ok)

/-- VP_CLK_STOP (R456): 10 µs without an edge. -/
def execVpClkStop (s : State) : Result :=
  .next (if s.on pgVpt R.clkActive ∧ s.vpLast + usTicks 10 ≤ s.time then s.wr pgVpt R.clkActive 0 else s)

/-- STAGING_REQUEST (R443): a fabric write of the entry's word, under FW1. -/
def execStagingRequest (ini : Ini) (id word : Nat) (s : State) : Result :=
  .next (
    if 65536 ≤ id ∨ (ini = Ini.island ∧ s.on pgSaf R.fault = true) then s
    else
      let t := tagIni s ini
      let (r, s) := tryWrite s t (vtBase + 4 * id) (leBytes 4 word) .ok
      let s := match pageOfInit t.init with | some p => perfWr s p | none => s
      let denied := match r with | .denied _ => true | _ => false
      if ini = Ini.island ∧ denied = true then raiseFault s 9 else s)

/-! ### The lines' configuration (R437) -/

/-- The line's block obeys R437. -/
def lineOkCfg (s : State) (l : Nat) : Bool :=
  let p := s.rd pgVpt R.eyePin l
  decide (s.rd pgVpt R.idLo l ≤ s.rd pgVpt R.idHi l) && decide (p < 24) &&
    s.rd pgLio R.pinFunc p == 5 && s.rd pgLio R.pinUnit p == l &&
    (List.range 4).all fun m => m == l || !lineOn s m ||
      decide (s.rd pgVpt R.idHi m < s.rd pgVpt R.idLo l) || decide (s.rd pgVpt R.idHi l < s.rd pgVpt R.idLo m)

/-- A write of one register of line l's block. -/
def lineFields (s : State) (l off v : Nat) : State :=
  if off = 0 then
    (((s.wr pgVpt R.lineEn (bitsOf v 0 0) l).wr pgVpt R.lineEnc (bitsOf v 2 1) l).wr pgVpt R.eyePin (bitsOf v 12 8) l).wr
      pgVpt R.lineParts (bitsOf v 23 16) l
  else if off = 4 then (s.wr pgVpt R.idLo (bitsOf v 15 0) l).wr pgVpt R.idHi (bitsOf v 31 16) l
  else if off = 8 then s.wr pgVpt R.divertDist v l
  else if off = 0xC then s.wr pgVpt R.matchTol v l
  else if off = 0x10 then s.wr pgVpt R.annWait v l
  else s.wr pgVpt R.encOfs v l

/-- LINE_CFG (R437): while the line is, or would be, enabled, a write that breaks its rules is ignored whole. -/
def execLineCfg (ini : Ini) (line off value : Nat) (s : State) : Result :=
  .next (
    if 4 ≤ line ∨ 2 ^ 32 ≤ value ∨ [0, 4, 8, 0xC, 0x10, 0x14].contains off = false then s
    else regRow s ini pgVpt (0x100 + 0x40 * line + off) fun s =>
      if unlocked s pgVpt = false then s
      else
        let s' := lineFields s line off value
        if s'.on pgVpt R.lineEn line ∧ lineOkCfg s' line = false then s.prog pgVpt else s')

end Sys2Proof.Machine
end

