-- ==== Sys2Proof/Machine/I3c.lean ====
section
/-! DEFINITION. The camera-control controllers (R453, R454, R459). -/
namespace Sys2Proof.Machine
open Sys2Proof

def State.i3c (s : State) (i : Nat) : I3c := sget {} s.i3cs i
def State.putI3c (s : State) (i : Nat) (x : I3c) : State := { s with i3cs := sset {} s.i3cs i x }

def cmdType (c : Nat × Nat) : Nat := bitsOf c.1 1 0

/-- Data bytes of a command (R459): none for a CCC without data. -/
def cmdLen (c : Nat × Nat) : Nat := if cmdType c = 2 ∧ bitOf c.2 9 = false then 0 else bitsOf c.1 23 16 + 1

/-- The command's data come from the target: a read, or a direct CCC that reads (R459). -/
def cmdReads (c : Nat × Nat) : Bool := cmdType c == 1 || (cmdType c == 2 && bitOf c.2 8 && bitOf c.2 9 && bitOf c.2 10)

/-- CMD (R459): the command takes CMD_ARG as it then stands. -/
def execCmd (ini : Ini) (i value : Nat) (s : State) : Result :=
  .next (
    if 12 ≤ i ∨ 2 ^ 32 ≤ value then s
    else regRow s ini (pgI3c i) 0x084 fun s =>
      let p := pgI3c i
      let x := s.i3c i
      let arg := s.rd p R.cmdTid + 256 * s.rd p R.cmdDirect + 512 * s.rd p R.cmdCccData + 1024 * s.rd p R.cmdCccRd
      if value % 4 = 3 ∨ 16 ≤ x.cmds.length then s.prog p
      else s.putI3c i { x with cmds := x.cmds ++ [(value, arg)] })

/-- CMD_START (R459): bytes, room and a place for the response are there. -/
def execCmdStart (i : Nat) (s : State) : Result :=
  .next (
    let p := pgI3c i
    let x := s.i3c i
    match x.cmds with
    | [] => s
    | c :: _ =>
      let fits := if cmdReads c then decide (cmdLen c + x.rx.length ≤ 256) else decide (cmdLen c ≤ x.tx.length)
      if 12 ≤ i ∨ x.run ∨ s.on p R.i3cHalted ∨ s.working p = false ∨ awake s = false ∨ 16 ≤ x.resp.length ∨ fits = false then s
      else (s.putI3c i { x with run := true }).settle p true)

/-- CMD_DONE (R454, R459): `status` as RESP gives it, `data` the bytes transferred.  A first NACK repeats the command, a
second one stops the queue. -/
def execCmdDone (i status : Nat) (data : List Nat) (s : State) : Result :=
  .next (
    let p := pgI3c i
    let x := s.i3c i
    match x.cmds with
    | [] => s
    | c :: rest =>
      if 12 ≤ i ∨ x.run = false ∨ 5 ≤ status ∨ (status = 2 ∧ cmdReads c = false) then s
      else if status = 1 ∧ x.nacked = false then (s.putI3c i { x with nacked := true }).perf p 0x0C
      else
        let got := data.take (cmdLen c)
        let r := c.2 % 256 + 256 * status + 65536 * got.length + 2 ^ 31
        let s := s.putI3c i { x with cmds := rest, run := false, nacked := false, resp := x.resp ++ [r],
                                     tx := if cmdReads c then x.tx else x.tx.drop (cmdLen c),
                                     rx := if cmdReads c then x.rx ++ got.map (· % 256) else x.rx }
        let s := if status = 1 then (s.raise p 8).wr p R.i3cHalted 1
          else if status = 3 then s.raise p 9 else if status = 4 then s.raise p 10 else s
        let s := s.perf p 0x04
        let s := if status = 0 then s else s.perf p 0x05
        s.settle p false)

/-- Push bytes into the TX FIFO; bytes that find no room are dropped with PROG. -/
def txPush (s : State) (i : Nat) (bs : List Nat) : State :=
  let x := s.i3c i
  if 256 < x.tx.length + bs.length then s.prog (pgI3c i) else s.putI3c i { x with tx := x.tx ++ bs }

/-- TX_DATA (R459). -/
def execTxData (ini : Ini) (i value : Nat) (s : State) : Result :=
  .next (if 12 ≤ i then s else regRow s ini (pgI3c i) 0x090 fun s => txPush s i [value % 256])

/-- TX_DATA4 (R459): byte 0 lowest. -/
def execTxData4 (ini : Ini) (i value : Nat) (s : State) : Result :=
  .next (if 12 ≤ i then s else regRow s ini (pgI3c i) 0x08C fun s => txPush s i ((leBytes 4 value).map (·.toNat)))

/-- RX_DATA (R459). -/
def execRxData (ini : Ini) (i : Nat) (s : State) : Result :=
  .next (
    if 12 ≤ i then s
    else popRow s ini (pgI3c i) 0x094 fun s =>
      match (s.i3c i).rx with
      | [] => (0, s)
      | b :: r => (b + 256, s.putI3c i { s.i3c i with rx := r }))

/-- RESP (R459). -/
def execResp (ini : Ini) (i : Nat) (s : State) : Result :=
  .next (
    if 12 ≤ i then s
    else popRow s ini (pgI3c i) 0x098 fun s =>
      match (s.i3c i).resp with
      | [] => (0, s)
      | b :: r => (b, s.putI3c i { s.i3c i with resp := r }))

/-- IBI_ARRIVAL (R453, R459): Hot-Join, address 2, is NACKed. -/
def execIbiArrival (i addr : Nat) (data : List Nat) (s : State) : Result :=
  .next (
    let p := pgI3c i
    let x := s.i3c i
    if 12 ≤ i ∨ s.working p = false ∨ s.rd p R.i3cMode ≠ 0 ∨ addr = 2 ∨ 128 ≤ addr ∨ 4 < data.length ∨ awake s = false then s
    else if 8 ≤ x.ibis.length then s.raise p 11
    else s.putI3c i { x with ibis := x.ibis ++ [(addr, data.map (· % 256))] })

/-- IBI (R459): pops the oldest in-band interrupt; IBI_DATA holds its payload bytes 1 to 3. -/
def execIbi (ini : Ini) (i : Nat) (s : State) : Result :=
  .next (
    if 12 ≤ i then s
    else popRow s ini (pgI3c i) 0x0A0 fun s =>
      match (s.i3c i).ibis with
      | [] => (0, s)
      | (a, d) :: r =>
        let b (k : Nat) : Nat := (d[k]?).getD 0
        let v := a + 256 * d.length + 2 ^ 15 + 65536 * b 0
        (v, (s.wr (pgI3c i) R.ibiData (b 1 + 256 * b 2 + 65536 * b 3)).putI3c i { s.i3c i with ibis := r }))

/-- HALT_CLR (R454). -/
def execHaltClr (ini : Ini) (i : Nat) (s : State) : Result :=
  .next (if 12 ≤ i then s else regRow s ini (pgI3c i) 0x0A4 fun s => s.wr (pgI3c i) R.i3cHalted 0)

end Sys2Proof.Machine
end

