-- ==== Sys2Proof/Machine/Images.lean ====
section
/-! DEFINITION. Firmware images: their format, the checks, and the image entries (R540 to R543, R547), and the views of the
SEC and FUS pages that reports also carry (R551, R560, R561). -/
namespace Sys2Proof.Machine
open Sys2Proof

/-! ### Fuses -/

/-- RB_COUNT: the highest blown fuse plus 1 (R547). -/
def rbCountOf (s : State) : Nat := ((List.range 64).foldl (fun n i => if bitOf s.fuses i then i + 1 else n) 0)

/-- A fuse below the highest blown one does not read as blown (R547). -/
def fuseFaultOf (s : State) : Bool := s.fuses % 2 ^ rbCountOf s != 2 ^ rbCountOf s - 1

/-- ROTPK_HASH, byte 0 first. -/
def rotpkBytes (s : State) : List Byte := leBytes 48 s.rotpk

/-! ### Images (R540 to R542) -/

def imMagic (h : List Byte) : Nat := wordAt h 0
def imType (h : List Byte) : Nat := wordAt h 4 % 256
def imSvn (h : List Byte) : Nat := bitsOf (wordAt h 4) 15 8
def imLen (h : List Byte) : Nat := wordAt h 8
def imEntry (h : List Byte) : Nat := wordAt h 0x0C
def imDigest (h : List Byte) : List Byte := (h.drop 0x10).take 48
def imKey (h : List Byte) : List Byte := (h.drop 0x40).take 96
def imSig (h : List Byte) : List Byte := (h.drop 0xA0).take 96

/-- IMAGE_DIGEST (R542). -/
def imMeasure (h : List Byte) : List Byte := shaBytes (h.take 0xA0)

/-- The longest body of an image type (R540). -/
def imMax (ty : Nat) : Nat := if ty = 1 then 131072 else if ty = 2 then 4096 else 262144

/-- Statuses of a load (R561). -/
def ldBusy : Nat := 1
def ldOk : Nat := 2
def ldFormat : Nat := 3
def ldKey : Nat := 4
def ldSig : Nat := 5
def ldDigest : Nat := 6
def ldRollback : Nat := 7
def ldBusErr : Nat := 8

/-- Check 1 of R541. -/
def imFormatOk (ty : Nat) (h : List Byte) : Bool :=
  imMagic h == 0xDA0DE101 && imType h == ty && decide (imSvn h ≤ 64) && bitsOf (wordAt h 4) 31 16 == 0 &&
    imLen h % 64 == 0 && decide (imLen h ≤ imMax ty) && imEntry h % 2 == 0 && decide (imEntry h < imLen h)

/-- The checks of R541 that the header alone decides: the first failure, or none. -/
def imHeaderFail (s : State) (ty : Nat) (h : List Byte) : Option Nat :=
  if imFormatOk ty h = false then some ldFormat
  else if s.rotpk ≠ 0 ∧ rotpkBytes s ≠ shaBytes (imKey h) then some ldKey
  else if Config.ecdsaVerify (imKey h) (Config.sha384 (h.take 0xA0)) (imSig h) = false then some ldSig
  else none

/-- The checks of R541 that remain: the status. -/
def imBodyStatus (s : State) (h body : List Byte) : Nat :=
  if shaBytes body ≠ imDigest h then ldDigest
  else if imSvn h < rbCountOf s then ldRollback
  else ldOk

/-- Word w of image entry e (R551). -/
def imWord (s : State) (e w : Nat) : Nat := s.rd pgSec R.imageEntry (16 * e + w)

/-- Write an accepted image into entry e: TYPE, SVN, VALID, LOADS and the digest; UNMEASURED clears (R543). -/
def recordImage (s : State) (e loads : Nat) (h : List Byte) : State :=
  let s := s.wr pgSec R.imageEntry (imType h + imSvn h * 2 ^ 8 + 2 * 2 ^ 16) (16 * e)
  let s := s.wr pgSec R.imageEntry loads (16 * e + 1)
  (List.range 12).foldl (fun s i => s.wr pgSec R.imageEntry (wordAt (imMeasure h) (4 * i)) (16 * e + 2 + i)) s

/-- Clear image entry e (R559, R605). -/
def clearImage (s : State) (e : Nat) : State := (List.range 16).foldl (fun s w => s.wr pgSec R.imageEntry 0 (16 * e + w)) s

/-- An entry holds an image: VALID. -/
def imValid (s : State) (e : Nat) : Bool := bitOf (imWord s e 0) 17

/-! ### Partition entries -/

/-- Present pages owned by partition p. -/
def pagesOwned (s : State) (p : Nat) : Nat :=
  ((List.range 0x188).filter fun g => (pageKind g).isSome && s.ownerOf g == p).length

/-- An enabled FW0 region grants partition p RD or WR over some part of bank b (R551). -/
def bankGranted (s : State) (p b : Nat) : Bool :=
  (List.range 32).any fun r =>
    s.on pgFab R.regEn r && (bitOf (s.rd pgFab R.regRd r) p || bitOf (s.rd pgFab R.regWr r) p) &&
      decide (s.rd pgFab R.regBase r ≤ 512 * b + 511) && decide (512 * b ≤ s.rd pgFab R.regLimit r)

def svmBanks (s : State) (p : Nat) : Nat := ((List.range 48).map fun b => if bankGranted s p b then 2 ^ b else 0).sum

/-- Word w of partition entry p (R551): STATE, FLAGS and PAGES, PLANES, SVM_BANKS, MD. -/
def partWord (s : State) (p w : Nat) : Nat :=
  if w = 0 then s.rd pgFab R.partState p + b2n (partCondOf s p .updating) * 2 ^ 8 + pagesOwned s p * 2 ^ 16
  else if w = 2 then svmBanks s p % 2 ^ 32
  else if w = 3 then svmBanks s p / 2 ^ 32
  else s.rd pgSec R.partEntry (16 * p + w)

/-- Word i of AK_PUB (R538, R561). -/
def akWord (i : Nat) : Nat := wordAt Config.akPub (4 * i)

end Sys2Proof.Machine
end

