-- ==== Sys2Proof/Machine/Intake.lean ====
section
/-! DEFINITION. Sensor intake (R59 to R92): packets, frames, the raw ring, test blocks, stream loss. -/
namespace Sys2Proof.Machine
open Sys2Proof

def State.intake (s : State) (k : Nat) : Intake := sget {} s.intakes k

def State.putIntake (s : State) (k : Nat) (i : Intake) : State := { s with intakes := sset {} s.intakes k i }

/-- The virtual channel in effect for stream k (R90): its slot's reset value until a write takes effect. -/
def effVc (s : State) (k : Nat) : Nat := (s.intake k).vc.getD (k % 4)

/-- The slot of stream k accepts packets (R62): intake enabled, and its page neither under test nor resetting. -/
def accepting (s : State) (k : Nat) : Bool :=
  s.on (pgCtx k) R.inEn && s.rd (pgCtx k) R.pstate != psSelftest && s.rd (pgCtx k) R.pstate != psResetting

/-- The stream that a virtual channel of a port reaches: the lowest enabled slot that selects it (R62, R63). -/
def routeVc (s : State) (port vc : Nat) : Option Nat :=
  ([0, 1, 2, 3].map (4 * port + ·)).find? fun k => accepting s k && effVc s k == vc

/-- Two enabled slots of a port select one virtual channel (R63). -/
def slotClash (s : State) (port : Nat) : Bool :=
  [1, 2, 3].any fun j => accepting s (4 * port + j) &&
    (List.range j).any fun i => accepting s (4 * port + i) && effVc s (4 * port + i) == effVc s (4 * port + j)

def clashProg (s : State) (port : Nat) : State := if slotClash s port then s.prog (pgCsi port) else s

/-- A slot's settings written since its last Frame Start differ from those in effect. -/
def slotPending (s : State) (port j : Nat) : Bool :=
  let i := s.intake (4 * port + j)
  decide (effVc s (4 * port + j) ≠ s.rd (pgCsi port) R.csiVc j) || decide (i.dt ≠ s.rd (pgCsi port) R.csiDt j) ||
    decide (i.emb ≠ s.on (pgCsi port) R.csiEmbEn j)

/-- The settings of slot j take effect (R90). -/
def slotTake (s : State) (port j : Nat) : State :=
  s.putIntake (4 * port + j) { s.intake (4 * port + j) with
    vc := some (s.rd (pgCsi port) R.csiVc j), dt := s.rd (pgCsi port) R.csiDt j, emb := s.on (pgCsi port) R.csiEmbEn j }

/-- At a Frame Start of a virtual channel that a slot selects or is set to select, its settings take effect (R90). -/
def applySlots (s : State) (port vc : Nat) : State :=
  let js := [0, 1, 2, 3].filter fun j => accepting s (4 * port + j) && slotPending s port j &&
    (effVc s (4 * port + j) == vc || s.rd (pgCsi port) R.csiVc j == vc)
  if js = [] then s else clashProg (js.foldl (fun s j => slotTake s port j) s) port

/-- The tag of a receiver's writes (R355). -/
def csiTag (s : State) (k : Nat) : Tag := ⟨0x20 + k / 4, s.ownerOf (pgCtx k), 1⟩

/-- A receiver write: a denial or failure sets FRAME_ERR and damages the frame (R358). -/
def landBytes (s : State) (k : Nat) (f : Frm) (a : Nat) (bs : List Byte) : Frm × State :=
  let (bad, s) := writeOnce s (csiTag s k) (pgCsi (k / 4)) a bs
  if bad then ({ f with bad := true }, s.raise (pgCtx k) 10) else (f, s)

/-- The header's ECC finding (R61): the Bools say whether the packet is discarded, with CNT_ECC1 and CNT_ECC2 kept. -/
def headerCheck (s : State) (port : Nat) (h : Hdr) : Bool × State :=
  let p := pgCsi port
  let (two, i2, s) := s.hit p 9 (h == .bad)
  if two then (true, (s.bump p R.cntEcc2).raiseI p 9 i2)
  else
    let (one, i1, s) := s.hit p 8 (h == .one)
    (false, if one then (s.bump p R.cntEcc1).raiseI p 8 i1 else s)

/-- The port has a frame in progress or awaiting publication. -/
def csiBusy (s : State) (port : Nat) : Bool :=
  [0, 1, 2, 3].any fun j =>
    let i := s.intake (4 * port + j)
    (match i.cur with | some f => !f.dropped | none => false) || !i.closed.isEmpty

def csiSettle (s : State) (port : Nat) : State := s.settle (pgCsi port) (csiBusy s port)

/-- Intake of a stream goes off (R92). -/
def intakeOff (s : State) (k : Nat) : State :=
  let s := s.putIntake k { s.intake k with cur := none, pendOff := false }
  (s.wr (pgCtx k) R.inEn 0).wr (pgCtx k) R.stream 0

/-- Offset of the test area in a slot (R64). -/
def Frm.testOff (f : Frm) : Nat := 64 + (f.embMax + f.h) * f.stride

/-- Skip the block of a frame: SKIP_CNT and TEST_SKIP (R78). -/
def skipBlock (s : State) (k : Nat) (f : Frm) : Frm × State :=
  ({ f with tb := 3 }, (s.bump (pgCtx k) R.skipCnt).raise (pgCtx k) 11)

/-- Close the frame in progress as TRUNCATED (R66, R78). -/
def truncateFrame (s : State) (k : Nat) (f : Frm) : State :=
  let f := { f with feTime := s.time, flags := setBit f.flags 4 }
  let (f, s) := if s.on (pgCtx k) R.testEn then skipBlock s k f else (f, s)
  let i := s.intake k
  s.putIntake k { i with cur := none, closed := i.closed ++ [f], prevFe := some s.time }

/-- Abandon the block being written (R79): `issued` of its 32 writes were issued and complete. -/
def abandonBlock (s : State) (k issued : Nat) : State :=
  let i := s.intake k
  match i.closed.find? fun f => f.tb == 1 with
  | none => s
  | some f =>
    let (g, s) := landBytes s k f (f.base + f.testOff) (testArea f.seed (f.cnt % 16) f.dt (64 * min issued 32))
    let g := { g with tb := 4 }
    let i := s.intake k
    (s.putIntake k { i with closed := i.closed.map fun x => if x.tb = 1 then g else x }).bump (pgCtx k) R.skipCnt

/-- Producer index after the frames awaiting publication; one whose ring was emptied meanwhile has no place in it (R70). -/
def effWr (s : State) (k : Nat) : Nat :=
  ((s.intake k).closed.filter (·.held)).foldl (fun w _ => ringNext (s.rd (pgCtx k) R.slotCount) w) (s.rd (pgCtx k) R.wrIdx)

/-- A Frame Start of an accepting stream (R66, R69, R71, R77, R79, R83).  DESIGN CHOICE (log 141): the one that ends a
frame for which IN_EN = 0 waits is itself discarded and counted nowhere. -/
def frameStart (s : State) (k fn issued : Nat) : State :=
  let p := pgCtx k
  let s := match (s.intake k).cur with
    | some f => if f.dropped then s.putIntake k { s.intake k with cur := none } else truncateFrame s k f
    | none => abandonBlock s k issued
  if (s.intake k).pendOff then intakeOff s k else
  let i := s.intake k
  let s := if i.seedWr || i.lastDt != i.dt then s.wr p R.goldValid 0 else s
  let cnt := s.rd p R.frameCnt
  let s := s.wr p R.frameCnt (cnt + 1)
  let i := { i with seedWr := false, lastDt := i.dt }
  let n := s.rd p R.slotCount
  let wr := effWr s k
  if ringFull n wr (s.rd p R.rdIdx) then
    let s := (s.bump p R.dropCnt).raise p 8
    s.putIntake k { i with cur := some { cnt := cnt, dropped := true }, drops := i.drops + 1 }
  else
    let f : Frm := { base := s.rd p R.ringBase + ixIdx wr * s.rd p R.slotSize, cnt := cnt, csiFn := fn % 65536,
                     drops := i.drops, fsTime := s.time, encFs := s.rd pgLio R.encCnt (s.rd p R.encSel),
                     vc := effVc s k, dt := i.dt, seed := s.rd p R.testSeed, w := s.rd p R.width, h := s.rd p R.height,
                     embMax := s.rd p R.embLines, stride := s.rd p R.stride }
    s.putIntake k { i with cur := some f, drops := 0 }

/-- FRAME_START (R60, R61, R69). -/
def execFrameStart (port vc fn issued : Nat) (hdr : Hdr) (s : State) : Result :=
  .next (
    if ¬ port < 12 ∨ s.working (pgCsi port) = false then s else
    let (gone, s) := headerCheck s port hdr
    if gone then s else
    let s := applySlots s port vc
    match routeVc s port vc with
    | none => s.bump (pgCsi port) R.cntUnmatched
    | some k => csiSettle (frameStart s k fn issued) port)

/-- A Frame End of an accepting stream (R66, R72, R78, R92).  DESIGN CHOICE (log 141): with no frame in progress it is
discarded and counted nowhere. -/
def frameEnd (s : State) (k : Nat) : State :=
  let p := pgCtx k
  let i := s.intake k
  match i.cur with
  | none => s
  | some f =>
    let s :=
      if f.dropped then s.putIntake k { i with cur := none, prevFe := some s.time }
      else
        let f := { f with feTime := s.time, flags := if f.lines < f.h then setBit f.flags 2 else f.flags }
        let (f, s) :=
          if s.on p R.testEn = false then (f, s)
          else match i.prevFe with
            | none => ({ f with tb := 1 }, s)
            | some t =>
              let s := s.wr p R.lastGap (min (f.fsTime - t) 0xFFFFFFFF)
              if f.fsTime - t < s.rd p R.blankMin then skipBlock s k f else ({ f with tb := 1 }, s)
        s.putIntake k { i with cur := none, closed := i.closed ++ [f], prevFe := some s.time }
    if (s.intake k).pendOff then intakeOff s k else s

/-- FRAME_END (R60, R61, R78). -/
def execFrameEnd (port vc : Nat) (hdr : Hdr) (s : State) : Result :=
  .next (
    if ¬ port < 12 ∨ s.working (pgCsi port) = false then s else
    let (gone, s) := headerCheck s port hdr
    if gone then s else
    match routeVc s port vc with
    | none => s.bump (pgCsi port) R.cntUnmatched
    | some k => csiSettle (frameEnd s k) port)

/-- TEST_BLOCK_WRITE_DONE (R79): the block is in the test area. -/
def execTestBlockWriteDone (stream : Nat) (s : State) : Result :=
  .next (
    let i := s.intake stream
    match i.closed.find? fun f => f.tb == 1 with
    | none => s
    | some f =>
      let (g, s) := landBytes s stream { f with bad := false } (f.base + f.testOff) (testArea f.seed (f.cnt % 16) f.dt 2048)
      let g := { g with tb := if g.bad then 0 else 2, bad := f.bad || g.bad }
      let i := s.intake stream
      s.putIntake stream { i with closed := i.closed.map fun x => if x.tb = 1 then g else x })

/-- A line lost to header ECC or buffer overflow (R61, R89). -/
def lostLine (s : State) (k : Nat) : State :=
  match (s.intake k).cur with
  | some f => if f.dropped then s else s.putIntake k { s.intake k with cur := some { f with lost := f.lost + 1 } }
  | none => s

/-- The bytes of an image line (R64, R66): short lines are filled with zero pixels, long ones cut. -/
def lineBytes (w bits : Nat) (px : List Nat) : List Byte :=
  (List.range (2 * w)).map fun i => BitVec.ofNat 8 ((px[i / 2]?).getD 0 % 2 ^ bits / 256 ^ (i % 2))

/-- An image line of the frame in progress (R64, R66).  DESIGN CHOICE (log 141): its place is the number of image lines
received before it, so that after a lost line (R61) the later ones move up one place. -/
def imageLine (s : State) (k : Nat) (f : Frm) (crcBad : Bool) (px : List Nat) : State :=
  let n := f.lines
  let f := { f with lines := n + 1 }
  if f.h ≤ n then s.putIntake k { s.intake k with cur := some { f with flags := setBit f.flags 3 } }
  else
    let f := { f with crcLines := f.crcLines + b2n crcBad,
                      flags := if px.length < f.w then setBit f.flags 5
                               else if f.w < px.length then setBit f.flags 6 else f.flags }
    let (f, s) := landBytes s k f (f.base + 64 + (f.embMax + n) * f.stride) (lineBytes f.w (dtBits f.dt) px)
    s.putIntake k { s.intake k with cur := some f }

/-- An embedded-data line of the frame in progress (R64, R66). -/
def embLine (s : State) (k : Nat) (f : Frm) (crcBad : Bool) (px : List Nat) : State :=
  let n := f.emb
  let f := { f with emb := n + 1 }
  if f.embMax ≤ n then s.putIntake k { s.intake k with cur := some { f with flags := setBit f.flags 7 } }
  else
    let f := { f with crcLines := f.crcLines + b2n crcBad }
    let (f, s) := landBytes s k f (f.base + 64 + n * f.stride) ((px.take f.stride).map fun x => BitVec.ofNat 8 x)
    s.putIntake k { s.intake k with cur := some f }

/-- The stream a long packet of a virtual channel and data type reaches (R62): image or embedded data. -/
def routeLong (s : State) (port vc dt : Nat) : Option Nat :=
  match routeVc s port vc with
  | some k => if dt = (s.intake k).dt ∨ (dt = 0x12 ∧ (s.intake k).emb) then some k else none
  | none => none

/-- A long packet whose header stands (R60, R61, R62, R89).  DESIGN CHOICE (log 141): with no frame in progress it is
discarded and counted nowhere. -/
def longPacket (s : State) (port vc dt : Nat) (crcBad ovf : Bool) (px : List Nat) : State :=
  let p := pgCsi port
  match routeLong s port vc dt with
  | none => s.bump p R.cntUnmatched
  | some k =>
    let (full, io, s) := s.hit p 12 ovf
    if full then lostLine (s.raiseI p 12 io) k
    else
      let (bad, ic, s) := s.hit p 10 crcBad
      let s := if bad then (s.bump p R.cntCrc).raiseI p 10 ic else s
      match (s.intake k).cur with
      | none => s
      | some f =>
        if f.dropped then s
        else if dt = (s.intake k).dt then imageLine s k f bad px else embLine s k f bad px

/-- LONG_PACKET (R60 to R62).  `px` holds the pixels of an image line, or the bytes of an embedded-data line. -/
def execLongPacket (port vc dt : Nat) (hdr : Hdr) (crcBad ovf : Bool) (px : List Nat) (s : State) : Result :=
  .next (
    if ¬ port < 12 ∨ s.working (pgCsi port) = false then s else
    let (gone, s) := headerCheck s port hdr
    if gone then (match routeLong s port vc dt with | some k => lostLine s k | none => s)
    else longPacket s port vc dt crcBad ovf px)

/-- SOT_ERROR (R89): the burst is discarded. -/
def execSotError (port : Nat) (s : State) : Result :=
  .next (
    if ¬ port < 12 ∨ s.working (pgCsi port) = false then s else
    let (_, i, s) := s.hit (pgCsi port) 11 true
    (s.bump (pgCsi port) R.cntSot).raiseI (pgCsi port) 11 i)

def sat16 (n : Nat) : Nat := min n 0xFFFF

/-- FLAGS of a frame header (R66). -/
def frameFlags (f : Frm) (afterLoss : Bool) : Nat :=
  let x := if f.crcLines = 0 then f.flags else setBit f.flags 0
  let x := if f.lost = 0 then x else setBit x 1
  if afterLoss then setBit x 8 else x

/-- Word 0x28 of a frame header: TB_INDEX and the block's outcome (R66). -/
def tbWord (f : Frm) : Nat :=
  f.cnt % 16 + (if f.tb = 2 then 16 else if f.tb = 3 then 32 else if f.tb = 4 then 64 else 0)

/-- The frame header (R66). -/
def headerBytes (f : Frm) (afterLoss : Bool) : List Byte :=
  leBytes 4 f.cnt ++ leBytes 4 (f.csiFn + sat16 f.drops * 65536) ++ leBytes 8 f.fsTime ++ leBytes 8 f.feTime ++
  leBytes 4 f.encFs ++ leBytes 4 (sat16 f.lines + sat16 f.emb * 65536) ++ leBytes 4 (frameFlags f afterLoss) ++
  leBytes 4 (f.w % 65536 + f.dt % 64 * 65536 + f.vc % 16 * 2 ^ 24) ++ leBytes 4 (tbWord f) ++
  leBytes 4 (sat16 f.crcLines + sat16 f.lost * 65536) ++ leBytes 16 0

/-- A frame with a Frame Start, a Frame End and flags 2 to 4 clear (R73). -/
def Frm.complete (f : Frm) : Bool := f.flags / 4 % 8 == 0

/-- The frame is the first written after its stream left LOST (R66, R74): one that leaves the stream LOST is not. -/
def firstAfterLoss (s : State) (k : Nat) (f : Frm) : Bool :=
  (s.intake k).afterLoss && (s.rd (pgCtx k) R.stream != 3 || f.complete)

/-- Publish the oldest closed frame of a stream (R66, R67, R73, R74, R261). -/
def publishSlot (s : State) (k : Nat) (f : Frm) (rest : List Frm) : State :=
  let p := pgCtx k
  let i := s.intake k
  let first := firstAfterLoss s k f
  let flags := frameFlags f first
  let (f, s) := landBytes s k f f.base (headerBytes f first)
  let s := if f.held then s.wr p R.wrIdx (ringNext (s.rd p R.slotCount) (s.rd p R.wrIdx)) else s
  let damaged := flags % 256 != 0 || f.bad
  let s := if damaged then s.raise p 10 else s
  let s := s.perf (pgCsi (k / 4)) 0x04
  let s := if damaged then s.perf (pgCsi (k / 4)) 0x05 else s
  let st := s.rd p R.stream
  let s := if f.complete ∧ (st = 1 ∨ st = 3) then s.wr p R.stream 2 else s
  let s := s.putIntake k { i with closed := rest, afterLoss := i.afterLoss && !first, lastWr := s.time, lastCnt := f.cnt,
                                  afterPass := some (i.afterPass.getD f.encFs), cov := ((f.cnt, false) :: i.cov).take 16 }
  let s := { s with encHist := sput s.encHist k (((f.cnt, f.encFs) :: sget [] s.encHist k).take 256) }
  csiSettle (if f.held then streamFrame s k f.cnt f.encFs else s) (k / 4)

/-- SLOT_PUBLISH (R67): the header of the oldest frame whose data writes are complete. -/
def execSlotPublish (stream : Nat) (s : State) : Result :=
  .next (
    match (s.intake stream).closed with
    | f :: rest => if f.tb = 1 then s else publishSlot s stream f rest
    | [] => s)

/-- LOSS_TIMEOUT (R73, R74): a stream whose IN_EN = 0 waits for the frame in progress is being disabled, and is not lost
(R76). -/
def execLossTimeout (stream : Nat) (s : State) : Result :=
  .next (
    let p := pgCtx stream
    let i := s.intake stream
    let t := s.rd p R.lossTimeout
    if ¬ stream < 48 ∨ s.rd p R.stream ≠ 2 ∨ i.pendOff ∨ t = 0 ∨ s.time < i.lastWr + 1000 * t then s else
    let s := ((s.wr p R.stream 3).raise p 9).bump p R.lossCnt
    let s := s.putIntake stream { i with afterLoss := true }
    let (inc, s) := s.logI 0 { event := 0x20, part := s.ownerOf p, page := p, d0 := stream, d1 := i.lastCnt }
    let e0 := sget 0 (sget [] s.encHist stream) i.lastCnt
    s.doubt (.frame stream e0 (s.rd pgLio R.encCnt (s.rd p R.encSel))) inc true)

/-- The ring rules of R65. -/
def ringRulesOk (s : State) (k : Nat) : Bool :=
  let p := pgCtx k
  s.rd p R.ringBase % 64 == 0 && s.rd p R.stride % 64 == 0 && s.rd p R.slotSize % 64 == 0 &&
    decide (2 * s.rd p R.width ≤ s.rd p R.stride) &&
    decide (64 + (s.rd p R.embLines + s.rd p R.height) * s.rd p R.stride + 2048 ≤ s.rd p R.slotSize)

/-- Intake of a stream is enabled from OFF (R71, R73).  What the next frame's header and the next doubt report depend on
(DROPS_BEFORE, FIRST_AFTER_LOSS, the last passing block) stays. -/
def intakeOn (s : State) (k : Nat) : State :=
  let p := pgCtx k
  let s := ((s.wr p R.inEn 1).wr p R.stream 1).wr p R.frameCnt 0
  let i := s.intake k
  clashProg (s.putIntake k { i with cur := none, pendOff := false, prevFe := none, cov := [], lastWr := s.time }) (k / 4)

/-- IN_EN (R65, R92): a write of 0 waits for the frame in progress, dropped or not; until it acts the bit reads 1, and a
write of 1 takes it back (log 37). -/
def execInEn (ini : Ini) (stream : Nat) (on : Bool) (s : State) : Result :=
  .next (
    if ¬ stream < 48 then s else
    regRow s ini (pgCtx stream) 0x080 fun s =>
      if on then
        (if s.on (pgCtx stream) R.inEn then s.putIntake stream { s.intake stream with pendOff := false }
         else if ringRulesOk s stream then intakeOn s stream else s.prog (pgCtx stream))
      else if s.on (pgCtx stream) R.inEn = false then s
      else match (s.intake stream).cur with
        | some _ => s.putIntake stream { s.intake stream with pendOff := true }
        | none => intakeOff s stream)

/-- CAL clears when GOLD_VALID reads 0xFFFF (R83). -/
def calDone (s : State) (p : Nat) : State := if s.rd p R.goldValid = 0xFFFF then s.wr p R.cal 0 else s

/-- CAL (R83). -/
def execCal (ini : Ini) (stream : Nat) (s : State) : Result :=
  .next (
    if ¬ stream < 48 then s
    else regRow s ini (pgCtx stream) 0x080 fun s => calDone (s.wr (pgCtx stream) R.cal 1) (pgCtx stream))

/-- ULPS (R59, R89): lanes 0 to 3 are data lanes, 4 the clock lane. -/
def execUlps (port lane : Nat) (enter : Bool) (s : State) : Result :=
  .next (
    let p := pgCsi port
    if ¬ port < 12 then s
    else if lane < 4 then (s.wrBit p R.csiUlps lane enter).wrBit p R.csiStop lane (!enter)
    else if lane = 4 then (s.wr p R.csiClkUlps (b2n enter)).wr p R.csiClkStop (b2n (!enter))
    else s)

/-- SKEW_CALIBRATION (R59, R89): a sequence completes on an enabled port. -/
def execSkewCalibration (port : Nat) (s : State) : Result :=
  .next (if port < 12 ∧ s.working (pgCsi port) then s.wr (pgCsi port) R.csiDeskew 1 else s)

end Sys2Proof.Machine
end

