-- ==== Sys2Proof/Machine/Isp.lean ====
section
/-! DEFINITION. ISP pipes and contexts (R93 to R123), with the comparison and classification of test blocks
(R80 to R88). -/
namespace Sys2Proof.Machine
open Sys2Proof

def State.ispCtx (s : State) (k : Nat) : IspCtx := sget {} s.ispCtxs k
def State.putIspCtx (s : State) (k : Nat) (c : IspCtx) : State := { s with ispCtxs := sset {} s.ispCtxs k c }

/-- The registers a frame of stream k is processed with: the working set for 0x108 to 0x1FF (R118). -/
def ispPar (s : State) (k : Nat) : Par := fun f i =>
  if 0x108 ≤ f.off ∧ f.off < 0x200 then sget (rstAt f i) (s.ispCtx k).work (cellKey (pgCtx k) f i)
  else s.rd (pgCtx k) f i

/-- Copy the shadows to the working set (R118). -/
def latchShadows (s : State) (k : Nat) : State :=
  let lo := pgCtx k * 1048576 + 0x108 * 8
  let hi := pgCtx k * 1048576 + 0x200 * 8
  let s := s.putIspCtx k { s.ispCtx k with work := s.regs.filter fun c => decide (lo ≤ c.1) && decide (c.1 < hi) }
  (s.wr (pgCtx k) R.ctxCommit 0).bump (pgCtx k) R.paramGen

/-- Where a tone-table entry is kept. -/
def toneKey (k bank c e : Nat) : Nat := ((2 * k + bank) * 3 + c) * 257 + e

def toneEntry (s : State) (k bank c e : Nat) : Nat := sget 0 s.tones (toneKey k bank c e)

/-- The oldest unprocessed slot: never behind RD_IDX (R68, R94). -/
def procIx (s : State) (k : Nat) : Nat :=
  let p := pgCtx k
  let n := s.rd p R.slotCount
  let wr := s.rd p R.wrIdx
  let rd := s.rd p R.rdIdx
  let c := (s.ispCtx k).proc
  if ringBetween n wr rd c then c else rd

/-- Some pipe is serving the context (R93). -/
def ctxServed (s : State) (k : Nat) : Bool := s.ispRuns.any fun r => r.2.stream == k

/-- Width and height of output o (R107): output 4 is unscaled. -/
def outSize (s : State) (k o : Nat) : Nat × Nat :=
  if o = 4 then (s.rd (pgCtx k) R.width, s.rd (pgCtx k) R.height)
  else (s.rd (pgCtx k) R.outW (o - 1), s.rd (pgCtx k) R.outH (o - 1))

/-- A format code that output o may carry (R108, R122). -/
def fmtOk (o fmt : Nat) : Bool :=
  if o = 1 then fmt == fmtRgb || fmt == fmtRgba else if o = 2 then fmt == fmtNv12 || fmt == fmtP010
  else if o = 3 then fmt == fmtY16 else fmt == fmtRaw16

def outStep (s : State) (k o : Nat) : Nat × Nat :=
  let (ow, oh) := outSize s k o
  (s.rd (pgCtx k) R.width * 65536 / ow, s.rd (pgCtx k) R.height * 65536 / oh)

/-- Size of the test block in output o (R117). -/
def outTbSize (s : State) (k o fmt : Nat) : Nat × Nat :=
  if o = 4 then (64, 16)
  else
    let (sx, sy) := outStep s k o
    (tbSize fmt 64 sx, tbSize fmt 16 sy)

/-- Line pitch of plane p of the test block (R117). -/
def tbPitch (fmt p w : Nat) : Nat := cdiv (outLineBytes fmt p w) 64 * 64

/-- Two byte ranges (start, length) do not overlap. -/
def apart (a b : Nat × Nat) : Bool := decide (a.1 + a.2 ≤ b.1) || decide (b.1 + b.2 ≤ a.1)

/-- The parts of an output slot: header, planes and test area (R112, R117). -/
def outParts (s : State) (k o : Nat) : List (Nat × Nat) :=
  let p := pgCtx k
  let fmt := s.rd p R.outFmt (o - 1)
  let ir := s.on p R.irEn
  let (_, oh) := outSize s k o
  let (tw, th) := outTbSize s k o fmt
  let two := outPlaneCount fmt ir == 2
  let test := tbPitch fmt 0 tw * th + (if two then tbPitch fmt 1 tw * outLines fmt 1 th else 0)
  [(0, 64), (64, oh * s.rd p R.outStride0 (o - 1))] ++
  (if two then [(s.rd p R.plane1Off (o - 1), outLines fmt 1 oh * s.rd p R.outStride1 (o - 1))] else []) ++
  [(s.rd p R.testOff (o - 1), test)]

def pairwiseApart : List (Nat × Nat) → Bool
  | [] => true
  | a :: t => t.all (apart a) && pairwiseApart t

/-- The scaler and ring rules of output o (R107, R112, R122). -/
def outRulesOk (s : State) (k o : Nat) : Bool :=
  let p := pgCtx k
  let i := o - 1
  let fmt := s.rd p R.outFmt i
  let (ow, oh) := outSize s k o
  let w := s.rd p R.width
  let h := s.rd p R.height
  let two := outPlaneCount fmt (s.on p R.irEn) == 2
  fmtOk o fmt &&
  (o == 4 || (decide (w ≤ 4 * ow) && decide (ow ≤ w) && decide (h ≤ 4 * oh) && decide (oh ≤ h))) &&
  ((fmt != fmtNv12 && fmt != fmtP010) || (ow % 2 == 0 && oh % 2 == 0)) &&
  [s.rd p R.outStride0 i, s.rd p R.outStride1 i, s.rd p R.plane1Off i, s.rd p R.testOff i, s.rd p R.outBase i,
    s.rd p R.outSlotSize i].all (fun v => v % 64 == 0) &&
  decide (outLineBytes fmt 0 ow ≤ s.rd p R.outStride0 i) &&
  (!two || decide (outLineBytes fmt 1 ow ≤ s.rd p R.outStride1 i)) &&
  (outParts s k o).all (fun a => decide (a.1 + a.2 ≤ s.rd p R.outSlotSize i)) && pairwiseApart (outParts s k o)

/-- The outputs OUT_EN enables. -/
def outsOf (s : State) (k : Nat) : List Nat := [1, 2, 3, 4].filter fun o => bitOf (s.rd (pgCtx k) R.outEn) (o - 1)

def outFull (s : State) (k o : Nat) : Bool :=
  ringFull (s.rd (pgCtx k) R.outSlotCount (o - 1)) (s.rd (pgCtx k) R.outWrIdx (o - 1)) (s.rd (pgCtx k) R.outRdIdx (o - 1))

def outDrops (s : State) (k o : Nat) : Bool := bitOf (s.rd (pgCtx k) R.dropIfFull) (o - 1)

/-- A context is ready (R94). -/
def ctxReady (s : State) (k : Nat) : Bool :=
  let p := pgCtx k
  let st := s.rd p R.pstate
  s.on p R.ctxEn && st != psFenced && st != psSelftest && st != psResetting &&
  decide (procIx s k ≠ s.rd p R.wrIdx) && !ctxServed s k && (outsOf s k).all fun o => outDrops s k o || !outFull s k o

/-- FS_TIME in the header of the oldest unprocessed slot. -/
def oldestFs (s : State) (k : Nat) : Nat :=
  quadAt (s.bytes (s.rd (pgCtx k) R.ringBase + ixIdx (procIx s k) * s.rd (pgCtx k) R.slotSize) 16) 8

/-- Whether context a goes before context b (R94). -/
def ctxBefore (s : State) (a b : Nat) : Bool :=
  let pa := s.rd (pgCtx a) R.ctxPrio
  let pb := s.rd (pgCtx b) R.ctxPrio
  if pa ≠ pb then decide (pb < pa)
  else if oldestFs s a ≠ oldestFs s b then decide (oldestFs s a < oldestFs s b) else decide (a < b)

/-- The context a free pipe takes (R94). -/
def chooseCtx (s : State) (pipe : Nat) : Option Nat :=
  ((List.range 48).filter fun k => ctxReady s k && bitOf (s.rd (pgCtx k) R.pipeMask) pipe).foldl
    (fun best k => match best with
      | none => some k
      | some b => if ctxBefore s k b then some k else some b) none

def ispTag (s : State) (pipe k : Nat) : Tag := ⟨0x30 + pipe, s.ownerOf (pgCtx k), 1⟩

/-- A denied or failed access of a pipe sets FRAME_ERR in the stream's page, and the frame is damaged (R358). -/
def frameErr (s : State) (k : Nat) (bad : Bool) : State :=
  if bad then
    let rs : List (Nat × IspRun) := s.ispRuns.map fun r => if r.2.stream = k then (r.1, { r.2 with damaged := true }) else r
    ({ s with ispRuns := rs } : State).raise (pgCtx k) 10
  else s

/-- An output that DROP_IF_FULL lets go is skipped for the frame (R114). -/
def skipOut (s : State) (k o : Nat) : State := (s.bump (pgCtx k) R.outSkipCnt 1 (o - 1)).raise (pgCtx k) 16

/-- Start the oldest frame of context k on a pipe (R93, R114, R118). -/
def ispStart (s : State) (pipe k : Nat) : State :=
  let p := pgCtx k
  let s := if s.on p R.ctxCommit then latchShadows s k else s
  let ix := procIx s k
  let base := s.rd p R.ringBase + ixIdx ix * s.rd p R.slotSize
  let (hdr, bad, s) := readOnce s (ispTag s pipe k) (pgIsp pipe) base 64
  let s := frameErr s k bad
  let fit := (outsOf s k).filter fun o => outRulesOk s k o
  let s := if fit.length < (outsOf s k).length then s.prog p else s
  let full := fit.filter fun o => outFull s k o
  let s := full.foldl (fun s o => skipOut s k o) s
  let run : IspRun := { stream := k, slot := ix, base := base, hdr := hdr, outs := fit.filter fun o => !outFull s k o,
                        skipped := full != [], damaged := bad }
  let s := ((s.wr (pgIsp pipe) R.pipeCtx k).wr (pgIsp pipe) R.pipeCtxValid 1)
  (({ s with ispRuns := sput s.ispRuns pipe run }).settle (pgIsp pipe) true).settle p true

/-- ISP_DISPATCH (R94). -/
def execIspDispatch (pipe : Nat) (s : State) : Result :=
  .next (
    if ¬ pipe < 4 ∨ s.working (pgIsp pipe) = false ∨ (sfind s.ispRuns pipe).isSome then s
    else match chooseCtx s pipe with
      | some k => ispStart s pipe k
      | none => s)

/-- Bytes a faulty datapath gave in place of the right ones, by device address. -/
def overlay (z : Cells) (a : Nat) (bs : List Byte) : List Byte :=
  bs.mapIdx fun i b => match z.find? fun c => c.1 == a + i with
    | some c => BitVec.ofNat 8 c.2
    | none => b

/-- Write the lines of a plane; answers the bytes written, in order. -/
def writePlane (s : State) (t : Tag) (pipe k : Nat) (sp : Spot) (z : Cells) (a pitch : Nat) (lines : List (List Byte)) :
    List Byte × State :=
  (lines.zipIdx).foldl (fun (acc, s) (l, y) =>
    let l := overlay z (a + y * pitch) l
    let (bad, s) := writeOnce s t (pgIsp pipe) (a + y * pitch) l sp
    (acc ++ l, frameErr s k bad)) ([], s)

/-- The image lines of a slot as stored; missing ones of a SHORT_FRAME read as zero (R115). -/
def readRows (s : State) (t : Tag) (pipe k : Nat) (sp : Spot) (base stride w h lines : Nat) : Array Byte × State :=
  (List.range h).foldl (fun (acc, s) y =>
    if lines ≤ y then (acc ++ (Array.replicate (2 * w) (0 : Byte)), s)
    else
      let (bs, bad, s) := readOnce s t (pgIsp pipe) (base + y * stride) (2 * w) sp
      (acc ++ bs.toArray, frameErr s k bad)) (#[], s)

def outSlotBase (s : State) (k o : Nat) : Nat :=
  s.rd (pgCtx k) R.outBase (o - 1) + ixIdx (s.rd (pgCtx k) R.outWrIdx (o - 1)) * s.rd (pgCtx k) R.outSlotSize (o - 1)

/-- Write the planes of output o of an image whose stages are given. -/
def writeOutput (s : State) (t : Tag) (pipe k : Nat) (sp : Spot) (z : Cells) (st : Stages) (o : Nat) : State :=
  let p := pgCtx k
  let fmt := s.rd p R.outFmt (o - 1)
  let (ow, oh) := outSize s k o
  let (sx, sy) := outStep s k o
  let planes := outPlanes (ispPar s k) fmt (s.on p R.irEn) (s.rd p R.tapSel) st sx sy ow oh
  let b := outSlotBase s k o
  (planes.zipIdx).foldl (fun s (pl, i) =>
    (writePlane s t pipe k sp z (b + (if i = 0 then 64 else s.rd p R.plane1Off (o - 1)))
      (if i = 0 then s.rd p R.outStride0 (o - 1) else s.rd p R.outStride1 (o - 1)) pl).2) s

/-- Write the test block's planes of output o and answer its signature (R80, R117). -/
def writeTestOutput (s : State) (t : Tag) (pipe k : Nat) (sp : Spot) (z : Cells) (st : Stages) (o : Nat) : Nat × State :=
  let p := pgCtx k
  let fmt := s.rd p R.outFmt (o - 1)
  let (tw, th) := outTbSize s k o fmt
  let (sx, sy) := outStep s k o
  let planes := outPlanes (ispPar s k) fmt (s.on p R.irEn) (s.rd p R.tapSel) st sx sy tw th
  let b := outSlotBase s k o + s.rd p R.testOff (o - 1)
  let (bs, s) := (planes.zipIdx).foldl (fun (acc, s) (pl, i) =>
    let a := if i = 0 then b else b + tbPitch fmt 0 tw * th
    let (x, s) := writePlane s t pipe k sp z a (tbPitch fmt i tw) pl
    (acc ++ x, s)) ([], s)
  (crc32 bs, s)

/-- IN_FLAGS, TB_PRESENT and the data type in a raw header (R66). -/
def hdrFlags (h : List Byte) : Nat := wordAt h 0x20
def hdrTb (h : List Byte) : Bool := bitOf (wordAt h 0x28) 4
def hdrCnt (h : List Byte) : Nat := wordAt h 0
def hdrEnc (h : List Byte) : Nat := wordAt h 0x18

/-- Bits per pixel of a raw header; a header that names no image type counts as 16. -/
def hdrBits (h : List Byte) : Nat :=
  let n := dtBits (bitsOf (wordAt h 0x24) 21 16)
  if n = 0 then 16 else n

/-- Process the frame of a run and its test block (R93, R115, R117): the outputs are written, and the signature of
each output slot is answered, with whether a residue check missed (R110, R111). -/
def ispProcess (s : State) (pipe : Nat) (r : IspRun) (m : IspFind) (z : Cells) : List (Nat × Nat) × Bool × State :=
  let k := r.stream
  let p := pgCtx k
  let t := ispTag s pipe k
  let w := s.rd p R.width
  let h := s.rd p R.height
  let stride := s.rd p R.stride
  let e := s.rd p R.embLines
  let g := ispPar s k
  let tone := toneEntry s k (g R.toneBank 0)
  let lines := if bitOf (hdrFlags r.hdr) 2 then wordAt r.hdr 0x1C % 65536 else h
  let (rows, s) := readRows s t pipe k m.spot (r.base + 64 + e * stride) stride w h lines
  let st := stagesOf g tone (hdrBits r.hdr) (rawImg w h (2 * w) rows)
  let miss := (m.sums.filter (!·.block)).any (sumMisses g st)
  let s := r.outs.foldl (fun s o => writeOutput s t pipe k m.spot z st o) s
  if hdrTb r.hdr then
    let (area, bad, s) := readOnce s t (pgIsp pipe) (r.base + 64 + (e + h) * stride) 2048 m.spot
    let s := frameErr s k bad
    let st := stagesOf g tone (hdrBits r.hdr) (rawImg 64 16 128 area.toArray)
    let (sigs, s) := r.outs.foldl (fun (acc, s) o =>
      let (c, s) := writeTestOutput s t pipe k m.spot z st o
      (acc ++ [(o, c)], s)) ([(0, crc32 area)], s)
    (sigs, miss || (m.sums.filter (·.block)).any (sumMisses g st), s)
  else ([], miss, s)

/-- What the comparison of a test block found (R82, R83). -/
inductive TestOutcome
  | absent
  | calibrated
  | uncovered
  | passed
  | missed (slots : Nat)
deriving DecidableEq, Repr

/-- Compare the signatures with the golden table, or write them to it under CAL (R81 to R83). -/
def testCompare (s : State) (pipe : Nat) (r : IspRun) (sp : Spot) (sigs : List (Nat × Nat)) : TestOutcome × State :=
  let k := r.stream
  let p := pgCtx k
  let t := ispTag s pipe k
  let b := hdrCnt r.hdr % 16
  let gold := s.rd p R.goldBase + 32 * b
  if hdrTb r.hdr = false then (.absent, s)
  else if s.on p R.cal then
    let s := sigs.foldl (fun s (o, c) =>
      let (bad, s) := writeOnce s t (pgIsp pipe) (gold + 4 * o) (leBytes 4 c) sp
      frameErr s k bad) s
    let s := s.wrBit p R.goldValid b true
    (.calibrated, calDone s p)
  else if bitOf (s.rd p R.goldValid) b = false then (.uncovered, s)
  else
    let (slots, s) := sigs.foldl (fun (acc, s) (o, c) =>
      let (bs, bad, s) := readOnce s t (pgIsp pipe) (gold + 4 * o) 4 sp
      (if bad || fromLe bs != c then setBit acc o else acc, frameErr s k bad)) (0, s)
    (if slots = 0 then .passed else .missed slots, s)

/-- The block of frame `cnt` was compared (R87). -/
def covCompared (s : State) (k cnt : Nat) : State :=
  let i := s.intake k
  s.putIntake k { i with cov := i.cov.map fun c => if c.1 = cnt then (cnt, true) else c }

/-- ENC_FS of the frame written after the one with this count and ENC_FS, if one was. -/
def nextFs (s : State) (k cnt enc : Nat) : Option Nat :=
  let l : List (Nat × Nat) := sget [] s.encHist k
  ((l.takeWhile fun e => !(e.1 == cnt && e.2 == enc)).getLast?).map (·.2)

/-- A compared block passes (R86, R489). -/
def testPass (s : State) (k cnt enc : Nat) : State :=
  let p := pgCtx k
  let s := covCompared s k cnt
  let s := if s.on p R.testDoubt then s else { s with confE := sput s.confE k enc }
  let i := s.intake k
  let s := match i.miss with
    | some (inc, d0, d1, d2, inj) =>
      s.log { event := 0x21, level := 2, cls := 1, inj := inj, part := s.ownerOf p, page := p, d0 := d0, d1 := d1, d2 := d2 } inc
    | none => s
  (s.putIntake k { i with miss := none, lastPass := some cnt, afterPass := nextFs s k cnt enc }).wr p R.testDoubt 0

/-- ENC_FS of the oldest frame in doubt: the first written after the one with the last passing block (R85, R484). -/
def doubtFrom (s : State) (k enc : Nat) : Nat := (s.intake k).afterPass.getD enc

/-- A compared block mismatches (R85, R86). -/
def testMiss (s : State) (k cnt enc slots : Nat) (inj : Bool) : State :=
  let p := pgCtx k
  let s := covCompared s k cnt
  let s := ((s.bump p R.mismatchCnt).raiseI p eResidue inj).wr p R.testDoubt 1
  let i := s.intake k
  let d0 := k + 256 * (cnt % 16) + 65536 * slots
  let d2 := i.lastPass.getD 0xFFFFFFFF
  let rec0 : LogRec := { event := 0x21, level := 2, inj := inj, part := s.ownerOf p, page := p, d0 := d0, d1 := cnt, d2 := d2 }
  let (lasting, inc, s) := match i.miss with
    | some (inc, _) => (true, inc, s.log { rec0 with cls := 2 } inc)
    | none => let (inc, s) := s.logI 0 rec0; (false, inc, s)
  let s := s.putIntake k { s.intake k with miss := if lasting then none else some (inc, d0, cnt, d2, inj) }
  let s := if inj then s.doubtInj p eResidue else s.doubt (.frame k (doubtFrom s k enc) enc) inc true
  if lasting then fencePage s p inc else s

/-- The outcome of a block acts on the stream; an armed injection on the context page makes a compared block mismatch. -/
def testResult (s : State) (r : IspRun) (o : TestOutcome) : TestOutcome × State :=
  let k := r.stream
  let cnt := hdrCnt r.hdr
  let enc := hdrEnc r.hdr
  match o with
  | .absent => (.absent, s)
  | .calibrated => (.calibrated, s)
  | .uncovered => (.uncovered, s)
  | .missed m =>
    let (_, inj, s) := s.hit (pgCtx k) eResidue true
    (.missed m, testMiss s k cnt enc m inj)
  | .passed =>
    let (bad, inj, s) := s.hit (pgCtx k) eResidue false
    if bad then (.missed 1, testMiss s k cnt enc 1 inj) else (.passed, testPass s k cnt enc)

/-- ISP_FLAGS (R113).  DESIGN CHOICE (log 143): a block processed under CAL is neither compared nor uncovered, whatever its
GOLD_VALID bit was. -/
def ispFlags (r : IspRun) (o : TestOutcome) (lasting retried : Bool) : Nat :=
  b2n lasting + 2 * b2n retried +
  (match o with | .passed => 12 | .missed _ => 4 | .uncovered => 16 | .absent => 0 | .calibrated => 0) +
  32 * b2n (bitOf (hdrFlags r.hdr) 2) + 64 * b2n r.skipped

/-- The output header (R113).  DESIGN CHOICE (log 143): bytes 0x04 to 0x07, which its table does not list, are zero. -/
def outHeader (s : State) (pipe : Nat) (r : IspRun) (flags sig o : Nat) : List Byte :=
  let p := pgCtx r.stream
  let (ow, oh) := outSize s r.stream o
  (r.hdr.take 4) ++ leBytes 4 0 ++ (r.hdr.drop 8).take 20 ++ leBytes 4 (hdrFlags r.hdr) ++ leBytes 4 flags ++
  leBytes 4 (ow % 65536 + oh % 65536 * 65536) ++
  leBytes 4 (s.rd p R.outFmt (o - 1) + 16 * pipe + 256 * (wordAt r.hdr 0x28 % 16)) ++ leBytes 4 (s.rd p R.paramGen) ++
  leBytes 4 sig ++ leBytes 12 0

/-- Publish one output: the header, then OUT_WR_IDX (R113). -/
def publishOut (s : State) (pipe : Nat) (r : IspRun) (sp : Spot) (flags sig o : Nat) : State :=
  let p := pgCtx r.stream
  let (bad, s) := writeOnce s (ispTag s pipe r.stream) (pgIsp pipe) (outSlotBase s r.stream o) (outHeader s pipe r flags sig o) sp
  (frameErr s r.stream bad).wr p R.outWrIdx
    (ringNext (s.rd p R.outSlotCount (o - 1)) (s.rd p R.outWrIdx (o - 1))) (o - 1)

/-- The context goes on: its next slot, AUTO_RELEASE (R68, R116), a waiting CTX_EN = 0 (R120).  A slot whose ring was
emptied meanwhile is no slot of the ring (R70). -/
def ispFinish (s : State) (pipe : Nat) (r : IspRun) : State :=
  let k := r.stream
  let p := pgCtx k
  let n := s.rd p R.slotCount
  let c := s.ispCtx k
  let nx := ringNext n r.slot
  let (held, damaged) := match sfind s.ispRuns pipe with
    | some x => (x.held, x.damaged)
    | none => (r.held, r.damaged)
  let s := s.putIspCtx k { c with proc := if held then nx else c.proc, pendOff := false }
  let s := if held ∧ s.on p R.autoRelease ∧ ringBetween n (s.rd p R.wrIdx) (s.rd p R.rdIdx) nx then s.wr p R.rdIdx nx else s
  let s := if c.pendOff then s.wr p R.ctxEn 0 else s
  let s := { s with ispRuns := serase s.ispRuns pipe }
  let s := (s.wr (pgIsp pipe) R.pipeCtxValid 0).bump (pgIsp pipe) R.pipeFrames
  let s := ((s.settle (pgIsp pipe) false).settle p false).perf p 0x04
  if damaged then s.perf p 0x05 else s

/-- Publish a frame (R111, R113, R116). -/
def ispPublish (s : State) (pipe : Nat) (r : IspRun) (sp : Spot) (sigs : List (Nat × Nat)) (lasting retried : Bool) : State :=
  let (o, s) := testCompare s pipe r sp sigs
  let (o, s) := testResult s r o
  let flags := ispFlags r o lasting retried
  let s := r.outs.foldl (fun s x => publishOut s pipe r sp flags (sget 0 sigs x) x) s
  ispFinish s pipe r

/-- The run in a pipe starts its second attempt (R111). -/
def retryRun (s : State) (pipe : Nat) (inj : Bool) : State :=
  let rs : List (Nat × IspRun) :=
    s.ispRuns.map fun r => if r.1 = pipe then (r.1, { r.2 with second := true, inj := inj }) else r
  { s with ispRuns := rs }

/-- ISP_FRAME_DONE (R110, R111, R113).  `find`: the sums that came out wrong, and trouble of an access; `noise`: bytes the
pipe got wrong. -/
def execIspFrameDone (pipe : Nat) (find : IspFind) (noise : Cells) (s : State) : Result :=
  .next (
    match sfind s.ispRuns pipe with
    | none => s
    | some r =>
      if r.second then s else
      let p := pgIsp pipe
      let (sigs, miss, s) := ispProcess s pipe r find noise
      let (bad, inj, s) := s.hit p eResidue miss
      let s := s.perf p 0x04
      if bad then
        let s := (((s.raiseI p eResidue inj).bump p R.pipeResMiss).bump p R.pipeRetry).perf p 0x05
        retryRun (s.perf p 0x0C) pipe inj
      else ispPublish s pipe r find.spot sigs false false)

/-- The record of a residue miss of the ISP (R111, R534). -/
def ispResidueRec (s : State) (pipe : Nat) (r : IspRun) (cls : Nat) (inj : Bool) : Nat × State :=
  s.logI r.inc { event := 0x1A, level := 2, cls := cls, inj := inj, part := s.ownerOf (pgCtx r.stream), page := pgIsp pipe }

/-- SECOND_ATTEMPT_DONE (R111). -/
def execSecondAttemptDone (pipe : Nat) (find : IspFind) (noise : Cells) (s : State) : Result :=
  .next (
    match sfind s.ispRuns pipe with
    | none => s
    | some r =>
      if r.second = false then s else
      let p := pgIsp pipe
      let (sigs, miss, s) := ispProcess s pipe r find noise
      let (bad, inj, s) := s.hit p eResidue miss
      let s := s.perf p 0x04
      if bad then
        let s := ((s.raiseI p eResidue inj).bump p R.pipeResMiss).perf p 0x05
        let (inc, s) := ispResidueRec s pipe r 2 inj
        let s := if inj then s.doubtInj p eResidue
                 else s.doubt (.frame r.stream (hdrEnc r.hdr) (hdrEnc r.hdr)) inc
        fencePage (ispPublish s pipe r find.spot sigs true false) p inc
      else
        let (_, s) := ispResidueRec s pipe r 1 r.inj
        ispPublish s pipe r find.spot sigs false true)

/-- A cell of the CFA descriptor holds a reserved code (R99). -/
def cfaBad (s : State) (k : Nat) : Bool :=
  (List.range 8).any fun j => decide (4 < bitsOf (s.rd (pgCtx k) R.cfaLo) (3 * j + 2) (3 * j)) ||
    decide (4 < bitsOf (s.rd (pgCtx k) R.cfaHi) (3 * j + 2) (3 * j))

/-- COMMIT (R99, R118). -/
def execCommit (ini : Ini) (stream : Nat) (s : State) : Result :=
  .next (
    if ¬ stream < 48 then s else
    regRow s ini (pgCtx stream) 0x100 fun s =>
      if cfaBad s stream then s.prog (pgCtx stream) else s.wr (pgCtx stream) R.ctxCommit 1)

/-- The table and entry of a half-word of the tone window (R122); none for a reserved one. -/
def toneAt (off : Nat) : Option (Nat × Nat) :=
  let x := off - 0x400
  if off < 0x400 ∨ 0xA40 ≤ off then none
  else if x / 0x210 < 3 ∧ x % 0x210 / 2 < 257 then some (x / 0x210, x % 0x210 / 2) else none

def toneStore (s : State) (k bank off v : Nat) : State :=
  match toneAt off with
  | some (c, e) => { s with tones := sset 0 s.tones (toneKey k bank c e) (v % 65536) }
  | none => s

/-- TONE_WINDOW_WRITE (R119): one word, two entries. -/
def execToneWindowWrite (ini : Ini) (stream off value : Nat) (s : State) : Result :=
  .next (
    if ¬ stream < 48 ∨ off % 4 ≠ 0 ∨ off < 0x400 ∨ 0xA40 ≤ off then s else
    let p := pgCtx stream
    regRow s ini p off fun s =>
      if (toneAt off).isNone then s.raise p eAccess
      else
        let bank := s.rd p R.toneWrBank
        if bank = ispPar s stream R.toneBank 0 then s.prog p
        else toneStore (toneStore s stream bank off value) stream bank (off + 2) (value / 65536))

/-- CTX_EN (R107, R112, R120): a write of 0 waits for the frame in progress; until it acts the bit reads 1, and a write of
1 takes it back (log 37). -/
def execCtxEn (ini : Ini) (stream : Nat) (on : Bool) (s : State) : Result :=
  .next (
    if ¬ stream < 48 then s else
    let p := pgCtx stream
    regRow s ini p 0x100 fun s =>
      if on then
        (if s.on p R.ctxEn then s.putIspCtx stream { s.ispCtx stream with pendOff := false }
         else if (outsOf s stream).all fun o => outRulesOk s stream o then noPipes (s.wr p R.ctxEn 1)
         else s.prog p)
      else if ctxServed s stream then s.putIspCtx stream { s.ispCtx stream with pendOff := true }
      else s.wr p R.ctxEn 0)

end Sys2Proof.Machine
end

