-- ==== Sys2Proof/Machine/Lio.lean ====
section
/-! DEFINITION. Line I/O (R448 to R452, R457, R458): pins and their switches, encoders, timing generators, PWMs and
UARTs. -/
namespace Sys2Proof.Machine
open Sys2Proof

/-! ### Pins -/

def State.pin (s : State) (p : Nat) : Pin := sget {} s.pins p
def State.putPin (s : State) (p : Nat) (x : Pin) : State := { s with pins := sset {} s.pins p x }

def pinFn (s : State) (p : Nat) : Nat := s.rd pgLio R.pinFunc p
def pinUn (s : State) (p : Nat) : Nat := s.rd pgLio R.pinUnit p

/-- Functions that sample the pin (R457). -/
def isInput (f : Nat) : Bool := f == 1 || f == 3 || f == 4 || f == 5 || f == 9

/-- Units that exist for a function (R448); functions without a unit take any. -/
def unitsFor (f : Nat) : Nat :=
  if f = 3 ∨ f = 4 ∨ f = 5 ∨ f = 10 then 4 else if f = 8 ∨ f = 9 then 2 else 8

/-- The pin that serves an input function and unit: the lower-numbered of two, and none while it switches (R448). -/
def serving (s : State) (f u : Nat) : Option Nat :=
  (List.range 24).find? fun p => pinFn s p == f && pinUn s p == u && (s.pin p).sw.isNone

/-- PIN_CFG (R448, R449): a write of the pin's configuration.  e0 is the next SLOW_CLK edge. -/
def execPinCfg (ini : Ini) (p value : Nat) (s : State) : Result :=
  .next (
    if 24 ≤ p then s
    else regRow s ini pgLio (0x100 + 4 * p) fun s =>
      let x := s.pin p
      let free := unlocked s pgLio
      let f := if free then bitsOf value 3 0 else pinFn s p
      let u := if free then bitsOf value 6 4 else pinUn s p
      let inv := if free then bitsOf value 7 7 else s.rd pgLio R.pinInv p
      let od := if free then bitsOf value 8 8 else s.rd pgLio R.pinOd p
      if x.sw.isSome ∨ 10 < f ∨ unitsFor f ≤ u then s.prog pgLio
      else
        let same := f == pinFn s p && u == pinUn s p && inv == s.rd pgLio R.pinInv p && od == s.rd pgLio R.pinOd p
        let twice := isInput f && f != 1 && (List.range 24).any fun q => q != p && pinFn s q == f && pinUn s q == u
        let s := if twice then s.prog pgLio else s
        let s := (((((s.wr pgLio R.pinFunc f p).wr pgLio R.pinUnit u p).wr pgLio R.pinInv inv p).wr pgLio R.pinOd od p).wr
          pgLio R.pinFilt (bitsOf value 23 16) p)
        if same then s else s.putPin p { x with sw := some (s.time + 6) })

/-- A board level, 0 or 1, after INV; any other value means that nothing drives the pin. -/
def boardLevel (s : State) (p level : Nat) : Option Bool :=
  if level = 0 then some (s.on pgLio R.pinInv p) else if level = 1 then some (!s.on pgLio R.pinInv p) else none

/-- PIN_SWITCH_END (R449): at e0 + 5 the first counted sample of a new input becomes its initial level. -/
def execPinSwitchEnd (p sample : Nat) (s : State) : Result :=
  .next (
    match (s.pin p).sw with
    | none => s
    | some t =>
      if 24 ≤ p ∨ s.time < t then s
      else s.putPin p { level := if isInput (pinFn s p) then boardLevel s p sample else none, sw := none })

/-! ### Encoders -/

/-- An edge on one input of encoder e, with the levels of A and B after it (R450). -/
def encEdge (s : State) (e : Nat) (onA a b : Bool) : State :=
  if s.on pgLio R.encEn e = false then s
  else
    let up := (if onA then a != b else a == b) != s.on pgLio R.encRev e
    let d : Int := if up then 1 else -1
    let n := encPosOf s e + d
    { s.wr pgLio R.encCnt (unsgn 32 n) e with encPos := sset 0 s.encPos e n }

/-- Both inputs of encoder e changed in one sample (R450). -/
def encIllegal (s : State) (e : Nat) : State :=
  if s.on pgLio R.encEn e = false then s else (s.bump pgLio R.encErrCnt (i := e)).raise pgLio 8

/-- An edge on pin p, if it serves an encoder whose other input has a known level. -/
def pinEncoder (s : State) (p : Nat) (v : Bool) : State :=
  let e := pinUn s p
  let onA := pinFn s p == 3
  if serving s (pinFn s p) e ≠ some p then s
  else match serving s (if onA then 4 else 3) e with
    | none => s
    | some q =>
      match (s.pin q).level with
      | none => s
      | some w => if onA then encEdge s e true v w else encEdge s e false w v

/-- INPUT_ACCEPT (R448, R450, R438): a level accepted on pin p, or no driver on it. -/
def execInputAccept (p level : Nat) (s : State) : Result :=
  .next (
    let x := s.pin p
    if 24 ≤ p ∨ x.sw.isSome ∨ isInput (pinFn s p) = false ∨ 2 ≤ s.rst.ph then s
    else
      let v := boardLevel s p level
      let s' := s.putPin p { x with level := v }
      match x.level, v with
      | some o, some n =>
        if o = n then s
        else if pinFn s p = 3 ∨ pinFn s p = 4 then pinEncoder s' p n
        else if pinFn s p = 5 then eyeEdge s' p n
        else s'
      | _, _ => s')

/-- ENCODER_EDGE (R450): levels accepted in one sample on the two pins that serve encoder e. -/
def execEncoderEdge (e a b : Nat) (s : State) : Result :=
  .next (
    match serving s 3 e, serving s 4 e with
    | some p, some q =>
      match (s.pin p).level, (s.pin q).level, boardLevel s p a, boardLevel s q b with
      | some oa, some ob, some na, some nb =>
        if 4 ≤ e ∨ 2 ≤ s.rst.ph then s
        else
          let s := (s.putPin p { level := some na }).putPin q { level := some nb }
          if oa ≠ na ∧ ob ≠ nb then encIllegal s e
          else if oa ≠ na then encEdge s e true na nb
          else if ob ≠ nb then encEdge s e false na nb
          else s
      | _, _, _, _ => s
    | _, _ => s)

/-! ### Timing generators -/

def State.tg (s : State) (t : Nat) : Tg := sget {} s.tgs t
def State.putTg (s : State) (t : Nat) (g : Tg) : State := { s with tgs := sset {} s.tgs t g }

/-- The first tick from n on whose low 32 bits are `phase`. -/
def nextPhase (n phase : Nat) : Nat := n + (phase + 2 ^ 32 - n % 2 ^ 32) % 2 ^ 32

/-- Anchor a generator afresh (R451); one that is off or has PERIOD 0 fires nothing, a trigger that waits included. -/
def anchor (s : State) (t : Nat) : State :=
  let g := if s.rd pgLio R.tgMode t = 0 ∨ s.rd pgLio R.tgPeriod t = 0 then { s.tg t with wait := none } else s.tg t
  if s.rd pgLio R.tgMode t = 1 then s.putTg t { g with hi := encPosOf s (s.rd pgLio R.tgEnc t) }
  else s.putTg t { g with next := nextPhase (s.time + 1) (s.rd pgLio R.tgPhase t) }

/-- TG_CFG (R451): a write of MODE and ENC, of PERIOD or of PHASE. -/
def execTgCfg (ini : Ini) (t off value : Nat) (s : State) : Result :=
  .next (
    if 8 ≤ t ∨ [0, 4, 8].contains off = false ∨ 2 ^ 32 ≤ value then s
    else regRow s ini pgLio (0x280 + 0x20 * t + off) fun s =>
      if off = 0 ∧ bitsOf value 1 0 = 3 then s.prog pgLio
      else
        let s := if off = 0 then (s.wr pgLio R.tgMode (bitsOf value 1 0) t).wr pgLio R.tgEnc (bitsOf value 3 2) t
          else if off = 4 then s.wr pgLio R.tgPeriod value t else s.wr pgLio R.tgPhase value t
        anchor s t)

/-- The later of two ends. -/
def maxEnd (o : Option Nat) (n : Nat) : Option Nat := some (match o with | some a => max a n | none => n)

/-- A trigger starts at tick `st` (R451). -/
def fireTrigger (s : State) (t st : Nat) : State :=
  let g := s.tg t
  let w := s.rd pgLio R.tgWidth t
  let s := s.bump pgLio R.trigCnt (i := t)
  s.putTg t { g with last := some st, wait := none,
                     trigEnd := if w = 0 then g.trigEnd else maxEnd g.trigEnd (st + w),
                     strobes := if s.rd pgLio R.strobeWidth t = 0 then g.strobes
                                else g.strobes ++ [st + s.rd pgLio R.strobeDelay t] }

/-- A generator's cause has fallen due: the generator after it, or none (R451). -/
def causeDue (s : State) (t : Nat) : Option Tg :=
  let g := s.tg t
  let per := s.rd pgLio R.tgPeriod t
  if per = 0 then none
  else if s.rd pgLio R.tgMode t = 1 then
    let e := s.rd pgLio R.tgEnc t
    if g.hi < encPosOf s e ∧ s.rd pgLio R.encCnt e % per = s.rd pgLio R.tgPhase t % per then
      some { g with hi := encPosOf s e }
    else none
  else if s.rd pgLio R.tgMode t = 2 then
    if g.next ≤ s.time then some { g with next := g.next + per * ((s.time - g.next) / per + 1) } else none
  else none

/-- TRIGGER (R451). -/
def execTrigger (t : Nat) (s : State) : Result :=
  .next (
    if 8 ≤ t ∨ awake s = false ∨ s.rst.ph ≠ 0 then s
    else match causeDue s t with
      | none => s
      | some g =>
        let s := s.putTg t g
        let st := s.time + 1
        let gap := s.rd pgLio R.minGap t
        if g.wait.isSome then s.bump pgLio R.trigDrop (i := t)
        else match g.last with
          | some l => if st < l + gap then s.putTg t { g with wait := some (l + gap) } else fireTrigger s t st
          | none => fireTrigger s t st)

/-- TRIGGER_LATE (R451): MIN_GAP has passed and the waiting trigger fires. -/
def execTriggerLate (t : Nat) (s : State) : Result :=
  .next (
    match (s.tg t).wait with
    | none => s
    | some w =>
      if 8 ≤ t ∨ s.time < w then s
      else fireTrigger ((s.bump pgLio R.trigLate (i := t)).raise pgLio 9) t w)

/-- STROBE_START (R451). -/
def execStrobeStart (t : Nat) (s : State) : Result :=
  .next (
    let g := s.tg t
    match g.strobes with
    | [] => s
    | a :: r =>
      if 8 ≤ t ∨ s.time < a then s
      else s.putTg t { g with strobes := r, strobeEnd := maxEnd g.strobeEnd (a + s.rd pgLio R.strobeWidth t) })

/-- PULSE_END (R451): the TRIG or the STROBE pins return inactive. -/
def execPulseEnd (t : Nat) (strobe : Bool) (s : State) : Result :=
  .next (
    let g := s.tg t
    match (if strobe then g.strobeEnd else g.trigEnd) with
    | none => s
    | some e =>
      if 8 ≤ t ∨ s.time < e then s
      else s.putTg t (if strobe then { g with strobeEnd := none } else { g with trigEnd := none }))

/-! ### PWM -/

def State.pwm (s : State) (k : Nat) : Pwm := sget {} s.pwms k
def State.putPwm (s : State) (k : Nat) (x : Pwm) : State := { s with pwms := sset {} s.pwms k x }

/-- A write of PERIOD or HIGH: a stopped PWM with PERIOD not 0 starts at the next tick (R452). -/
def pwmWritten (s : State) (k : Nat) : State :=
  if (s.pwm k).next.isNone ∧ s.rd pgLio R.pwmPeriod k ≠ 0 then s.putPwm k { next := some (s.time + 1), fall := none } else s

/-- PWM_PERIOD_START (R452): the pair is taken and checked. -/
def execPwmPeriodStart (k : Nat) (s : State) : Result :=
  .next (
    match (s.pwm k).next with
    | none => s
    | some t =>
      let per := s.rd pgLio R.pwmPeriod k
      let high := s.rd pgLio R.pwmHigh k
      if 4 ≤ k ∨ s.time < t then s
      else if per = 0 then s.putPwm k {}
      else if per = 1 ∨ per < high then (s.prog pgLio).putPwm k { next := some (t + per), fall := none }
      else s.putPwm k { next := some (t + per), fall := if high = 0 then none else some (t + high) })

/-- PWM_HIGH_END (R452): after HIGH ticks the pins return inactive. -/
def execPwmHighEnd (k : Nat) (s : State) : Result :=
  .next (
    match (s.pwm k).fall with
    | none => s
    | some t => if 4 ≤ k ∨ s.time < t then s else s.putPwm k { s.pwm k with fall := none })

/-! ### What the output pins show -/

/-- The level of an output function before INV, its inactive level in a sleep rung and from a warm-reset request on
(R451, R452, R579, R594).  The bits inside a UART character are left out: UART_TX shows mark. -/
def funcLevel (s : State) (p : Nat) : Bool :=
  let u := pinUn s p
  let runs := awake s && s.rst.ph == 0
  if pinFn s p = 2 then s.on pgLio R.outVal p
  else if pinFn s p = 6 then
    runs && match (s.tg u).trigEnd, (s.tg u).last with | some e, some l => decide (l ≤ s.time) && decide (s.time < e) | _, _ => false
  else if pinFn s p = 7 then runs && match (s.tg u).strobeEnd with | some e => decide (s.time < e) | none => false
  else if pinFn s p = 10 then runs && (s.pwm u).fall.isSome
  else true

/-- What the device drives on LIO pin p, if anything (R448, R449, R592, R594). -/
def pinDrive (s : State) (p : Nat) : Option Bool :=
  let f := pinFn s p
  let on := match (s.pin p).sw with | some t => decide (t ≤ s.time + 2) | none => true
  if 2 ≤ s.rst.ph ∨ on = false ∨ f = 0 ∨ isInput f then none
  else
    let v := funcLevel s p != s.on pgLio R.pinInv p
    if s.on pgLio R.pinOd p ∧ v then none else some v

/-! ### UARTs -/

def State.uart (s : State) (u : Nat) : Uart := sget {} s.uarts u
def State.putUart (s : State) (u : Nat) (x : Uart) : State := { s with uarts := sset {} s.uarts u x }

/-- EN = 0 empties the FIFOs (R458). -/
def uartOff (s : State) (u : Nat) : State := if s.on pgLio R.uartEn u then s else s.putUart u {}

/-- UART_TX (R458). -/
def execUartTx (ini : Ini) (u value : Nat) (s : State) : Result :=
  .next (
    if 2 ≤ u then s
    else regRow s ini pgLio (0x384 + 0x20 * u) fun s =>
      let x := s.uart u
      let b := value % 256
      if s.on pgLio R.uartEn u = false then s
      else if x.sending.isNone then s.putUart u { x with sending := some b }
      else if 64 ≤ x.tx.length then (s.wr pgLio R.uartTxOvf 1 u).raise pgLio 10
      else s.putUart u { x with tx := x.tx ++ [b] })

/-- UART_RX (R458). -/
def execUartRx (ini : Ini) (u : Nat) (s : State) : Result :=
  .next (
    if 2 ≤ u then s
    else popRow s ini pgLio (0x388 + 0x20 * u) fun s =>
      match (s.uart u).rx with
      | [] => (0, s)
      | b :: r => (b + 2 ^ 15, s.putUart u { s.uart u with rx := r }))

/-- UART_BYTE_RECEIVED (R452, R458): a character on the pin that serves UART_RX. -/
def execUartByteReceived (u value : Nat) (perr ferr : Bool) (s : State) : Result :=
  .next (
    if 2 ≤ u ∨ s.on pgLio R.uartEn u = false ∨ (serving s 9 u).isNone ∨ awake s = false then s
    else
      let x := s.uart u
      let p := perr && s.rd pgLio R.uartParity u != 0
      let s := if ferr then s.wr pgLio R.uartFrame 1 u else s
      let s := if p then s.wr pgLio R.uartParityE 1 u else s
      let full := decide (64 ≤ x.rx.length)
      let s := if full then s.wr pgLio R.uartOverrun 1 u
        else s.putUart u { x with rx := x.rx ++ [value % 256 + 256 * b2n p + 512 * b2n ferr] }
      (s.found pgLio 10 (ferr || p || full)).2)

/-- UART_BYTE_SENT (R452). -/
def execUartByteSent (u : Nat) (s : State) : Result :=
  .next (
    let x := s.uart u
    match x.sending with
    | none => s
    | some b =>
      let s := { s with outs := s.outs ++ [Out.uart u b] }
      match x.tx with
      | [] => s.putUart u { x with sending := none }
      | n :: r => s.putUart u { x with sending := some n, tx := r })

end Sys2Proof.Machine
end

