-- ==== Sys2Proof/Machine/Monitor.lean ====
section
/-! DEFINITION. The monitor compositor and the DisplayPort transmitter (R460 to R479). -/
namespace Sys2Proof.Machine
open Sys2Proof

/-! ### Timing (R469, R470) -/

/-- The shadows. -/
def shadows (s : State) : Timing where
  hActive := s.rd pgMon R.hActive
  hFp := s.rd pgMon R.hFp
  hSync := s.rd pgMon R.hSync
  hBp := s.rd pgMon R.hBp
  vActive := s.rd pgMon R.vActive
  vFp := s.rd pgMon R.vFp
  vSync := s.rd pgMon R.vSync
  vBp := s.rd pgMon R.vBp
  hPol := s.rd pgMon R.hsyncPol
  vPol := s.rd pgMon R.vsyncPol
  pixN := s.rd pgMon R.pixN
  pixDiv := s.rd pgMon R.pixDiv
  rate := s.rd pgDp R.dpRate
  lanes := s.rd pgDp R.dpLanes
  ssc := s.rd pgDp R.dpSsc

def Timing.hTotal (t : Timing) : Nat := t.hActive + t.hFp + t.hSync + t.hBp
def Timing.vBlank (t : Timing) : Nat := t.vFp + t.vSync + t.vBp
def Timing.vTotal (t : Timing) : Nat := t.vActive + t.vBlank

/-- Lane rates in Mb/s (R472). -/
def laneRate (r : Nat) : Nat := if r = 0 then 1620 else if r = 1 then 2700 else if r = 2 then 5400 else 8100

/-- The limits of R469. -/
def Timing.ok (t : Timing) : Bool :=
  decide (640 ≤ t.hActive) && decide (t.hActive ≤ 3840) && t.hActive % 2 == 0 &&
  decide (480 ≤ t.vActive) && decide (t.vActive ≤ 2160) && decide (t.hTotal ≤ 8191) && decide (t.vTotal ≤ 4095) &&
  decide (3 ≤ t.vBlank) && decide (1200 ≤ t.pixN) && decide (t.pixN ≤ 2400) && decide (2 ≤ t.pixDiv) &&
  decide (t.pixDiv ≤ 48) && decide (25 * t.pixDiv ≤ t.pixN) && decide (t.pixN ≤ 600 * t.pixDiv) && decide (t.lanes ≤ 2) &&
  decide (24 * t.pixN * 10000 ≤ 2 ^ t.lanes * laneRate t.rate * 8 * t.pixDiv * (if t.ssc = 1 then 995 else 1000))

/-- Pixel-clock cycles in n ticks, as a fraction of pixDiv × 100. -/
def pixCycles (t : Timing) (n : Nat) : Nat := n * t.pixN

/-- A whole frame has passed since the latest latch point (R463). -/
def frameDone (s : State) : Bool :=
  let t := s.disp.work
  decide (t.hTotal * t.vTotal * (100 * t.pixDiv) ≤ pixCycles t (s.time + 1 - s.disp.latch))

/-- Lines scanned since the latest latch point. -/
def monRow (s : State) : Nat :=
  let t := s.disp.work
  if t.pixDiv = 0 ∨ t.hTotal = 0 then 0 else pixCycles t (s.time - s.disp.latch) / (100 * t.pixDiv) / t.hTotal

/-- MON_STAT.VBLANK. -/
def vblankView (s : State) : Nat := b2n (s.disp.gen && decide (monRow s < s.disp.work.vBlank))

/-- MON_STAT.LINE: active lines count from 0, the lines of the blanking follow them. -/
def monLineView (s : State) : Nat :=
  let t := s.disp.work
  if s.disp.gen = false ∨ t.vTotal = 0 then 0 else (t.vActive + monRow s) % t.vTotal

/-- Link states (R479). -/
def dpOff : Nat := 0
def dpTraining : Nat := 1
def dpVideo : Nat := 2
def dpIdle : Nat := 3
def dpFailed : Nat := 4
def dpUnplugged : Nat := 5

def State.link (s : State) : Nat := s.rd pgDp R.dpState
def State.setLink (s : State) (v : Nat) : State := s.wr pgDp R.dpState v

/-- A timing commit at a latch point (R470). -/
def applyTiming (s : State) : State :=
  let o := s.disp.work
  let t := shadows s
  let s := ({ s with disp := { s.disp with work := t } }.wr pgMon R.tcommit 0).bump pgMon R.timingGen
  let pix := o.pixN != t.pixN || o.pixDiv != t.pixDiv
  let cfg := o.rate != t.rate || o.lanes != t.lanes || o.ssc != t.ssc
  let s := if pix then { s with disp := { s.disp with pll := true } } else s
  if cfg ∧ s.link ≠ dpOff ∧ s.link ≠ dpUnplugged then s.setLink dpTraining
  else if pix ∧ s.link = dpVideo then s.setLink dpIdle
  else s

/-! ### Planes and slots (R461 to R464) -/

def slotFld (n : Nat) : Fld :=
  if n = 0 then R.plSlotState0 else if n = 1 then R.plSlotState1 else if n = 2 then R.plSlotState2 else R.plSlotState3

def slFree : Nat := 0
def slCommitted : Nat := 1
def slShown : Nat := 2
def slReleasing : Nat := 3

def State.plSlot (s : State) (k n : Nat) : Nat := s.rd pgMon (slotFld n) k
def State.setPlSlot (s : State) (k n v : Nat) : State := s.wr pgMon (slotFld n) v k

/-- Bytes of a source pixel in its first plane. -/
def fmtBytes (f : Nat) : Nat := if f = 1 then 3 else if f = 2 then 4 else if f = 3 then 1 else if f = 4 then 2 else 0

/-- The slot keeps the rules of R461. -/
def slotOk (s : State) (k n : Nat) : Bool :=
  let i := 4 * k + n
  let f := s.rd pgMon R.plFmt k
  let w := s.rd pgMon R.slW i
  s.rd pgMon R.slBase i % 64 == 0 && s.rd pgMon R.slCOff i % 64 == 0 && s.rd pgMon R.slPitch i % 64 == 0 &&
    decide (fmtBytes f * w ≤ s.rd pgMon R.slPitch i) && (f != 3 || (w % 2 == 0 && s.rd pgMon R.slH i % 2 == 0))

/-- PLANE_COMMIT (R462). -/
def execPlaneCommit (ini : Ini) (plane slot : Nat) (s : State) : Result :=
  .next (
    if 4 ≤ plane ∨ 4 ≤ slot then s
    else regRow s ini pgMon (0x110 + 0x100 * plane) fun s =>
      if s.plSlot plane slot ≠ slFree ∨ slotOk s plane slot = false then s.prog pgMon
      else
        let l := sget [] s.disp.commits plane
        (({ s with disp := { s.disp with commits := sset [] s.disp.commits plane (l ++ [slot]) } } : State).setPlSlot plane slot
          slCommitted))

/-- RELEASE (R462). -/
def execRelease (ini : Ini) (plane : Nat) (s : State) : Result :=
  .next (
    if 4 ≤ plane then s
    else regRow s ini pgMon (0x110 + 0x100 * plane) fun s =>
      match (List.range 4).find? fun n => s.plSlot plane n == slShown with
      | some n => s.setPlSlot plane n slReleasing
      | none => s)

/-- Free the slots of plane k that a test selects, with LAST_FREED. -/
def freeSlots (s : State) (k : Nat) (test : Nat → Bool) : State :=
  let l := (List.range 4).filter fun n => s.plSlot k n != slFree && test n
  let m := l.foldl (fun m n => setBit m n) 0
  (l.foldl (fun s n => s.setPlSlot k n slFree) s).wr pgMon R.lastFreed m k

/-- An enabled plane that shows nothing in the coming frame. -/
def planeMiss (s : State) (k : Nat) : State := (s.bump pgMon R.planeMissCnt (i := k)).event pgMon evMon (8 + k)

/-- What plane k does at a latch point (R464). -/
def latchPlane (s : State) (k : Nat) : State :=
  let l := sget [] s.disp.commits k
  let s := { s with disp := { s.disp with commits := serase s.disp.commits k } }
  if s.on pgMon R.plEn k = false then freeSlots s k fun _ => true
  else match l.getLast? with
    | some n =>
      let s := (freeSlots s k fun m => m != n).setPlSlot k n slShown
      (s.bump pgMon R.plSkipCnt (l.length - 1) k).event pgMon evMon (4 + k)
    | none =>
      if (List.range 4).any fun n => s.plSlot k n == slShown then (freeSlots s k fun _ => false).bump pgMon R.repeatCnt (i := k)
      else planeMiss (freeSlots s k fun _ => true) k

/-- A latch point (R463, R464, R471): the pending timing, then each plane, then a stop that waits. -/
def latchPoint (s : State) : State :=
  let s := ((s.bump pgMon R.monFrameCnt).event pgMon evMon 0).perf pgMon 0x04
  let s := if s.disp.resume ∧ s.link = dpIdle then s.setLink dpVideo else s
  let s := { s with disp := { s.disp with latch := s.time, resume := s.disp.resume && s.link != dpVideo, under := [] } }
  let s := if s.on pgMon R.tcommit then applyTiming s else s
  let s := [0, 1, 2, 3].foldl latchPlane s
  if s.on pgMon R.monRun then s
  else
    let s := { s with disp := { s.disp with gen := false, pll := false, resume := false } }
    (if s.link = dpVideo then s.setLink dpIdle else s).settle pgMon false

/-- LATCH_POINT (R463, R464). -/
def execLatchPoint (s : State) : Result :=
  .next (if s.disp.gen = false ∨ s.disp.pll ∨ frameDone s = false then s else latchPoint s)

/-- TCOMMIT (R469). -/
def execTcommit (ini : Ini) (s : State) : Result :=
  .next (regRow s ini pgMon 0x080 fun s => if (shadows s).ok then s.wr pgMon R.tcommit 1 else s.prog pgMon)

/-- MON_RUN (R471): an accepted start is a latch point, at which the link acts as R470 lays down: a trained link goes from
its idle pattern to video unless the pixel PLL must lock or the link is retrained.  A stop waits for the next latch point. -/
def execMonRun (ini : Ini) (on : Bool) (s : State) : Result :=
  .next (regRow s ini pgMon 0x080 fun s =>
    if on = false then s.wr pgMon R.monRun 0
    else if s.on pgMon R.monRun then s
    else if s.on pgMon R.tcommit = false ∧ s.disp.work.ok = false then s.prog pgMon
    else if s.disp.gen then s.wr pgMon R.monRun 1
    else
      let s := { s.wr pgMon R.monRun 1 with disp := { s.disp with gen := true, resume := false } }
      let s := latchPoint s
      (if s.disp.pll = false ∧ s.link = dpIdle then s.setLink dpVideo else s).settle pgMon true)

/-- PIXEL_PLL_LOCK (R470): the new timing starts at its vertical blanking, a latch point; video resumes after one whole
frame. -/
def execPixelPllLock (s : State) : Result :=
  .next (
    if s.disp.gen = false ∨ s.disp.pll = false then s
    else
      let s := latchPoint { s with disp := { s.disp with pll := false, resume := false } }
      { s with disp := { s.disp with resume := s.disp.gen } })

/-! ### Fetch (R466) -/

/-- The slot plane k scans out. -/
def shownSlot (s : State) (k : Nat) : Option Nat :=
  (List.range 4).find? fun n => s.plSlot k n == slShown || s.plSlot k n == slReleasing

/-- An underrun of plane k on a source line of w pixels: from a pixel that the spec leaves open to the end of its first scan
line the plane shows FILL (R466). -/
def underrun (s : State) (k line w : Nat) : State :=
  let (x, s) := s.free 32
  let s := { s with disp := { s.disp with under := s.disp.under ++ [(k, line, x % (w * 2 ^ s.rd pgMon R.plScale k))] } }
  (s.bump pgMon R.underrunCnt (i := k)).event pgMon evMon (12 + k)

/-- UNDERRUN (R466): the fetch of a source line of the SHOWN slot comes late, or fails. -/
def execUnderrun (plane line : Nat) (late : Bool) (ecc : Ecc) (s : State) : Result :=
  .next (
    match shownSlot s plane with
    | none => s
    | some n =>
      let i := 4 * plane + n
      if 4 ≤ plane ∨ s.disp.gen = false ∨ s.rd pgMon R.slH i ≤ line then s
      else
        let len := max 1 (fmtBytes (s.rd pgMon R.plFmt plane) * s.rd pgMon R.slW i)
        let a := s.rd pgMon R.slBase i + line * s.rd pgMon R.slPitch i
        let (_, bad, s) := readOnce s ⟨0xE0, 0, 0⟩ pgMon a len ⟨a, ofEcc ecc⟩
        let (err, s) := s.found pgMon 9 bad
        let (under, s) := s.found pgMon 8 (late || err)
        let s := if under then underrun s plane line (s.rd pgMon R.slW i) else s
        if err then s.bump pgMon R.fetchErrCnt (i := plane) else s)

/-! ### What the screen shows (R461, R467, R468) -/

/-- A colour of three components. -/
structure Rgb where
  r : Nat
  g : Nat
  b : Nat
deriving DecidableEq, Repr

def rgbOf (w : Nat) : Rgb := ⟨bitsOf w 23 16, bitsOf w 15 8, bitsOf w 7 0⟩

def div255 (x : Nat) : Nat := (x + 128 + (x + 128) / 256) / 256

def clamp255 (x : Int) : Nat := (max 0 (min 255 x)).toNat

/-- BT.709 limited range to RGB (R467). -/
def nv12Rgb (y cb cr : Nat) : Rgb :=
  let y : Int := y - 16
  let u : Int := cb - 128
  let v : Int := cr - 128
  ⟨clamp255 ((298 * y + 459 * v + 128) / 256), clamp255 ((298 * y - 55 * u - 136 * v + 128) / 256),
   clamp255 ((298 * y + 541 * u + 128) / 256)⟩

/-- Palette index of a Y16 sample on plane k (R467). -/
def palIndex (s : State) (k x : Nat) : Nat :=
  clamp255 (((x : Int) - (s.rd pgMon R.palLo k : Nat)) * (s.rd pgMon R.palGain k : Nat) / 65536)

/-- The source pixel (x, y) of slot n of plane k, before blending: colour and pixel alpha. -/
def sourcePixel (s : State) (k n x y : Nat) : Rgb × Nat :=
  let i := 4 * k + n
  let a := s.rd pgMon R.slBase i
  let p := s.rd pgMon R.slPitch i
  let b (o : Nat) : Nat := (s.byte o).toNat
  let f := s.rd pgMon R.plFmt k
  if f = 1 then (⟨b (a + y * p + 3 * x), b (a + y * p + 3 * x + 1), b (a + y * p + 3 * x + 2)⟩, 255)
  else if f = 2 then
    (⟨b (a + y * p + 4 * x), b (a + y * p + 4 * x + 1), b (a + y * p + 4 * x + 2)⟩, b (a + y * p + 4 * x + 3))
  else if f = 3 then
    let c := a + s.rd pgMon R.slCOff i + y / 2 * p + x / 2 * 2
    (nv12Rgb (b (a + y * p + x)) (b c) (b (c + 1)), 255)
  else
    let v := b (a + y * p + 2 * x) + 256 * b (a + y * p + 2 * x + 1)
    (rgbOf (s.rd pgMon R.palette (palIndex s k v)), 255)

/-- One channel of a blend (R468). -/
def blend1 (src dst al : Nat) : Nat := div255 (src * al + dst * (255 - al))

/-- The plane shows FILL at x places into its scan line y: an underrun began at or before it (R466). -/
def filled (s : State) (k x y z : Nat) : Bool :=
  s.disp.under.any fun u => u.1 == k && u.2.1 * z == y && decide (u.2.2 ≤ x)

/-- Plane k over what lies below it at screen position (x, y) (R464, R466, R468): an EN = 0 shows from the next latch point
on. -/
def overPlane (s : State) (x y : Nat) (d : Rgb) (k : Nat) : Rgb :=
  match shownSlot s k with
  | none => d
  | some n =>
    let z := 2 ^ s.rd pgMon R.plScale k
    let px := s.rd pgMon R.plX k
    let py := s.rd pgMon R.plY k
    if x < px ∨ y < py then d
    else
      let sx := (x - px) / z
      let sy := (y - py) / z
      if s.rd pgMon R.slW (4 * k + n) ≤ sx ∨ s.rd pgMon R.slH (4 * k + n) ≤ sy then d
      else
        let c := if filled s k (x - px) (y - py) z then (rgbOf (s.rd pgMon R.plFill k), 255) else sourcePixel s k n sx sy
        let al := div255 (c.2 * s.rd pgMon R.plGalpha k)
        ⟨blend1 c.1.r d.r al, blend1 c.1.g d.g al, blend1 c.1.b d.b al⟩

/-- The pixel (x, y) of the active area: the planes in order over BG (R468). -/
def screenPixel (s : State) (x y : Nat) : Rgb := [0, 1, 2, 3].foldl (overPlane s x y) (rgbOf (s.rd pgMon R.monBg))

/-! ### DisplayPort (R472 to R477) -/

/-- TRAIN (R474). -/
def execTrain (ini : Ini) (s : State) : Result :=
  .next (regRow s ini pgDp 0x084 fun s =>
    if s.link = dpUnplugged then s.prog pgDp else { s.setLink dpTraining with dp := { s.dp with retry := false } })

/-- TRAIN_DONE (R474, R475). -/
def execTrainDone (ok : Bool) (failStep swing pre : Nat) (s : State) : Result :=
  .next (
    if s.link ≠ dpTraining ∨ 4 ≤ swing ∨ 4 ≤ pre then s
    else
      let s := (s.wr pgDp R.dpSwing swing).wr pgDp R.dpPreemph pre
      let retry := s.dp.retry
      let s := { s with dp := { s.dp with retry := false } }
      if ok then
        let s := ((s.wr pgDp R.rateTrained (s.rd pgDp R.dpRate)).wr pgDp R.lanesTrained (s.rd pgDp R.dpLanes)).wr
          pgDp R.dpFailStep 0
        let s := if retry then s.bump pgDp R.linkRetryCnt else s
        let s := { s.setLink dpIdle with disp := { s.disp with resume := s.disp.gen && !s.disp.pll } }
        s.event pgDp evDp 3
      else (((s.setLink dpFailed).wr pgDp R.dpFailStep failStep).raise pgDp 8).event pgDp evDp 3)

/-- LINK_OFF (R479). -/
def execLinkOff (ini : Ini) (s : State) : Result :=
  .next (regRow s ini pgDp 0x084 fun s => if s.link = dpUnplugged then s else s.setLink dpOff)

/-- IRQ_HPD (R475): `lost` says that a trained lane has lost lock or alignment. -/
def execIrqHpd (lost : Bool) (s : State) : Result :=
  .next (
    if s.on pgDp R.hpd = false then s
    else if lost ∧ (s.link = dpVideo ∨ s.link = dpIdle) then
      let s := ((s.raise pgDp 10).event pgDp evDp 4).setLink dpTraining
      { s with dp := { s.dp with retry := true } }
    else s.event pgDp evDp 2)

/-- HPD_UNPLUG (R476). -/
def execHpdUnplug (s : State) : Result :=
  .next (if s.on pgDp R.hpd = false then s else ((s.wr pgDp R.hpd 0).setLink dpUnplugged).event pgDp evDp 1)

/-- HPD_PLUG (R476). -/
def execHpdPlug (s : State) : Result :=
  .next (if s.on pgDp R.hpd then s else ((s.wr pgDp R.hpd 1).setLink dpOff).event pgDp evDp 0)

/-- AUX_GO (R477). -/
def execAuxGo (ini : Ini) (s : State) : Result :=
  .next (regRow s ini pgDp 0x08C fun s =>
    if s.on pgDp R.auxBusy then s.prog pgDp
    else ({ s.wr pgDp R.auxBusy 1 with dp := { s.dp with defers := 0, timeouts := 0, sent := s.time } } : State).settle pgDp true)

/-- The AUX transaction ends with a result, 2 of which is TIMEOUT and sets its flag (R477). -/
def auxEnd (s : State) (res n : Nat) : State :=
  let (late, s) := s.found pgDp 9 (res == 2)
  let res := if late then 2 else res
  let n := if late then 0 else n
  let s := (((s.wr pgDp R.auxBusy 0).wr pgDp R.auxResult res).wr pgDp R.auxBytes n).perf pgDp 0x04
  (if res = 0 then s else s.perf pgDp 0x05).settle pgDp false

/-- AUX_REPLY (R477): `kind` 0 ACK, 1 NACK, 2 DEFER.  After 7 repeats a DEFER ends the transaction, with NACK or
TIMEOUT, which of the two being open. -/
def execAuxReply (kind : Nat) (data : List Nat) (s : State) : Result :=
  .next (
    if s.on pgDp R.auxBusy = false then s
    else if kind = 0 then
      let len := s.rd pgDp R.auxLen + 1
      if s.rd pgDp R.auxType % 2 = 1 then
        let bs := data.take len
        auxEnd ((List.range bs.length).foldl (fun s i => s.wr pgDp R.auxData ((bs[i]?).getD 0) i) s) 0 bs.length
      else auxEnd s 0 len
    else if kind = 1 then auxEnd s 1 0
    else if kind = 2 then
      if s.dp.defers < 7 then { s.perf pgDp 0x0C with dp := { s.dp with defers := s.dp.defers + 1, sent := s.time } }
      else
        let (f, s) := s.free 1
        auxEnd s (1 + f) 0
    else s)

/-- AUX_TIMEOUT (R477): 400 µs without a reply. -/
def execAuxTimeout (s : State) : Result :=
  .next (
    if s.on pgDp R.auxBusy = false ∨ s.time < s.dp.sent + usTicks 400 then s
    else if s.dp.timeouts = 0 then { s.perf pgDp 0x0C with dp := { s.dp with timeouts := 1, sent := s.time } }
    else auxEnd s 2 0)

end Sys2Proof.Machine
end

