-- ==== Sys2Proof/Machine/RegView.lean ====
section
/-! DEFINITION. What a register read returns: the parameter words (R36), the fields that are views of other state, the
fields of one word, and 64-bit registers with their read snapshots (R53, R54). -/
namespace Sys2Proof.Machine
open Sys2Proof

/-! ### Parameter words -/

/-- PAGE_PARAM0[23:0] (R36). -/
def param0 (p : Nat) : Nat :=
  match pageKind p with
  | some .csi => 4 + 4 * 2 ^ 4 + 4500 * 2 ^ 8
  | some .ctx => p - pgCtx 0
  | some .isp => 4 + 48 * 2 ^ 8
  | some .pyr => 4 + 8 * 2 ^ 8
  | some .wrp => 4 + 4 * 2 ^ 8
  | some .hmp => 4 + 2 * 2 ^ 8
  | some .ste => 4 + 8 * 2 ^ 8
  | some .flw => 4 + 8 * 2 ^ 8
  | some .fea => 4 + 4 * 2 ^ 8
  | some .sta => 512 + 512 * 2 ^ 10 + 8 * 2 ^ 20
  | some .lvu => 64 + 8 * 2 ^ 8
  | some .fgs => 1024 + 256 * 2 ^ 12
  | some .smv => 64 + 1 * 2 ^ 8
  | some .pfq => 64
  | some .fab => 4 + 32 * 2 ^ 8 + 64 * 2 ^ 16
  | some .svm => 48 + 2 * 2 ^ 8
  | some .lpc => 8533 + 2 * 2 ^ 16
  | some .pci => 8 + 5 * 2 ^ 4 + 8 * 2 ^ 8
  | some .hq => 16 + 64 * 2 ^ 8
  | some .vpt => 4 + 64 * 2 ^ 8
  | some .i3c => 16 + 8 * 2 ^ 8
  | some .mon => 4 + 4 * 2 ^ 4
  | some .dptx => 4 + 3 * 2 ^ 4
  | some .saf => 4 + 256 * 2 ^ 8
  | some .erl => 64
  | some .pwr => 5 + 8 * 2 ^ 8
  | some .clk => 100
  | some .ch => (p - pgCh 0) + 32 * 2 ^ 8
  | some .pq => (p - pgPq 0) + 64 * 2 ^ 8
  | _ => 0

/-- PAGE_PARAM1 (R36). -/
def param1 (p : Nat) : Nat :=
  match pageKind p with
  | some .flw => 2
  | some .sta => 32 + 32 * 2 ^ 8 + 63 * 2 ^ 16
  | some .lvu => 4096 + 64 * 2 ^ 16 + 15 * 2 ^ 24
  | some .fgs => 256 + 512 * 2 ^ 9 + 16 * 2 ^ 19 + 128 * 2 ^ 24
  | some .fab => 400
  | some .svm => 16
  | some .hq => 256
  | some .mon => 3840
  | some .clk => 480
  | some .ch => 8192
  | some .pq => 1024 + 64 * 2 ^ 16
  | _ => 0

/-! ### Views -/

/-- PAGE_STAT.ATTN (R40). -/
def attnOf (s : State) (p : Nat) : Bool :=
  (List.range 32).any fun b => bitOf (s.rd p R.pageErr) b && !bitOf (s.rd p R.pageErrMask) b

/-- PAGE_STAT.BUSY (R37). -/
def busyOf (s : State) (p : Nat) : Bool :=
  let st := s.rd p R.pstate
  st == psActive || st == psDraining || st == psResetting || st == psSelftest

/-- The graph entry that GT_SEL selects. -/
def selGraph (s : State) : Graph := s.graph (s.rd pgFgs R.gtSel)

/-- A bit per element of a list that meets a test. -/
def bitMap (n : Nat) (f : Nat → Bool) : Nat := ((List.range n).map fun i => if f i then 2 ^ i else 0).sum

/-- An entry of a list as a number, with a mark in bit `v` when it is there. -/
def headOr (l : List Nat) : Nat := l.headD 0

/-- An entry of the tone window (R119, R122). -/
def toneView (s : State) (p c e : Nat) : Nat := toneEntry s (p - pgCtx 0) (s.rd p R.toneWrBank) c e

/-- Instance i of a view field on page p, as initiator `ini` reads it; `none` for a field that has a cell. -/
def liveVal (s : State) (ini : Ini) (p i : Nat) : Live → Option Nat
  | .stored => none
  | .akPub => some (akWord i)
  | .attn => some (b2n (attnOf s p))
  | .bme => some (b2n (sget {} s.fns (p - pgHq 0)).bme)
  | .busy => some (b2n (busyOf s p))
  | .cover => some (b2n (coverNow s (p - pgCtx 0)))
  | .fawn => some (b2n (isFawn p i))
  | .fuseFault => some (b2n (fuseFaultOf s))
  | .gtActive => some (selGraph s).insts.length
  | .gtOwner => some (selGraph s).owner
  | .gtReq => some (selGraph s).req
  | .gtStarted => some (selGraph s).started
  | .gtState => some (selGraph s).st
  | .i3cCmdLevel => some (s.i3c (p - pgI3c 0)).cmds.length
  | .i3cIbi => some (match (s.i3c (p - pgI3c 0)).ibis with | [] => 0 | x :: _ => x.1)
  | .i3cResp => some (headOr (s.i3c (p - pgI3c 0)).resp)
  | .i3cRespLevel => some (s.i3c (p - pgI3c 0)).resp.length
  | .i3cRx => some (headOr (s.i3c (p - pgI3c 0)).rx)
  | .i3cRxLevel => some (s.i3c (p - pgI3c 0)).rx.length
  | .i3cTxLevel => some (s.i3c (p - pgI3c 0)).tx.length
  | .inLvl => some (b2n ((s.pin i).level.getD false))
  | .inst => some (match pageKind p with | some k => p - firstPage k | none => 0)
  | .lineCond => some (condLine s i)
  | .linkUp => some (s.rd pgPci R.dlUp)
  | .locked => some (s.rd p R.lock)
  | .lvuFawn => some (if p = pgLvu1 then 0x80 else 0)
  | .monLine => some (monLineView s)
  | .npOut => some (s.txns.filter fun t => t.2.busy && t.2.remote).length
  | .outstanding => some (b2n (outstanding s (s.rd pgFab R.partSel)))
  | .param0 => some (param0 p)
  | .param1 => some (param1 p)
  | .partEntry => some (partWord s (i / 16) (i % 16))
  | .pfqActive => some (bitMap 64 fun q => let st := s.qSt q; st == qRun || st == qHaltd || st == qDrain)
  | .qFree => some (qFreeOf s (p - pgPq 0))
  | .rbCount => some (rbCountOf s)
  | .rbExhausted => some (b2n (rbCountOf s == 64))
  | .rom => some (exp2 (s.rd p R.romIdx))
  | .rotpk => some (wordAt (rotpkBytes s) (4 * i))
  | .rotpkSet => some (b2n (s.rotpk != 0))
  | .semRes => some (sget (0, 0) s.semIfs (iniId ini)).1
  | .semResCount => some (sget (0, 0) s.semIfs (iniId ini)).2
  | .smvActive => some (bitMap 64 fun c => let st := s.chSt c; st != cOff && st != cIdle)
  | .step => some Config.step.toNat
  | .switchBusy => some (b2n (s.pin i).sw.isSome)
  | .tcmData => some (if s.rd p R.ccState = 0 then fromLe (tcmBytes s (p - pgCc 0) (4 * s.rd p R.tcmAddr) 4) else 0)
  | .time => some s.time
  | .toneB => some (toneView s p 2 i)
  | .toneG => some (toneView s p 1 i)
  | .toneR => some (toneView s p 0 i)
  | .type => some (match pageKind p with | some k => pageTypeCode k | none => 0)
  | .uartRx => some (match (s.uart i).rx with | [] => 0 | b :: _ => b + 2 ^ 15)
  | .uartRxLevel => some (s.uart i).rx.length
  | .uartTxLevel => some (s.uart i).tx.length
  | .uid => some (Config.uid i).toNat
  | .vblank => some (vblankView s)

/-- What instance i of a field reads as: zero for WO fields, a view, or its cell (R8). -/
def fieldVal (s : State) (ini : Ini) (p : Nat) (f : Fld) (i : Nat) : Nat :=
  if f.acc = .wo ∨ f.acc = .ws then 0 else ((liveVal s ini p i f.live).getD (s.rd p f i)) % 2 ^ f.w

/-! ### The fields of a word -/

/-- Bit address of instance i of a field in its page; a windowed field has one place. -/
def addrPos (f : Fld) (i : Nat) : Nat :=
  f.off * 8 + f.lo + (if f.win then 0 else if f.inner = 0 then i * f.str else i / f.inner * f.ostr + i % f.inner * f.str)

/-- The instance of a windowed field that its select register names. -/
def winIx (s : State) (f : Fld) : Nat :=
  if f.home < 0x4000 then regIx (s.rd pgFab R.fwSel) (s.rd pgFab R.regionSel) else s.rd pgFab R.partSel

/-- Instances of a field that may lie in the word at byte offset off. -/
def nearIxs (s : State) (f : Fld) (off : Nat) : List Nat :=
  if f.win then [winIx s f]
  else if f.cnt = 1 then [0]
  else
    let d := 8 * off + 31 - (f.off * 8 + f.lo)
    if f.inner = 0 then
      let a := d / f.str
      (List.range (96 / f.str + 2)).filterMap fun k => if k ≤ a ∧ a - k < f.cnt then some (a - k) else none
    else
      let o := d / f.ostr
      ((List.range f.inner).map fun j => o * f.inner + j).filter fun i => decide (i < f.cnt)

/-- The byte offset of the (low) word of instance i. -/
def loWord (f : Fld) (i : Nat) : Nat := addrPos f i / 32 * 4

/-- The fields with a part in the word at byte offset off of page p. -/
def wordFields (s : State) (p off : Nat) : List (Fld × Nat) :=
  match pageKind p with
  | none => []
  | some k => (fieldsOf k).flatMap fun f =>
      ((nearIxs s f off).filter fun i => loWord f i == off || (f.q && loWord f i + 4 == off)).map fun i => (f, i)

/-- The LO offset of the 64-bit register that the word belongs to. -/
def quadOf (s : State) (p off : Nat) : Option Nat :=
  ((wordFields s p off).find? fun x => x.1.q).map fun x => loWord x.1 x.2

/-- The 64-bit value of the register at LO offset lo, or the 32-bit one of a word with no 64-bit field. -/
def regVal (s : State) (ini : Ini) (p lo : Nat) : Nat :=
  ((wordFields s p lo).map fun x => fieldVal s ini p x.1 x.2 * 2 ^ (addrPos x.1 x.2 % 32)).sum

/-- What a 4-byte read of a word returns (R53, R54), but for its effects. -/
def wordVal (s : State) (ini : Ini) (p off : Nat) : Nat :=
  match quadOf s p off with
  | some lo => if lo = off then regVal s ini p lo % 2 ^ 32 else regVal s ini p lo / 2 ^ 32
  | none => regVal s ini p off

/-! ### Reads of 64-bit registers -/

/-- The registers captured by a read of LO at `lo`: its own, or with BYTES_RD its whole group (R54, R294). -/
def captured (s : State) (ini : Ini) (p lo : Nat) : List (Nat × Nat) :=
  if lo = 0x0E8 ∧ (wordFields s p lo).any fun x => x.1.grp then
    [0x0E8, 0x0F0, 0x0F8, 0x100].map fun o => (o, regVal s ini p o)
  else [(lo, regVal s ini p lo)]

/-- Drop the snapshot of an initiator on a page. -/
def dropSnap (s : State) (ini : Ini) (p : Nat) : State :=
  { s with snaps := s.snaps.filter fun x => !(x.page == p && x.ini == ini) }

/-- Take a snapshot. -/
def takeSnap (s : State) (ini : Ini) (p lo : Nat) : State :=
  let v := captured s ini p lo
  let s := dropSnap s ini p
  { s with snaps := s.snaps ++ [(⟨p, ini, v⟩ : Snap)] }

/-- The captured value of the register at `lo`, if the initiator's snapshot names it. -/
def snapVal (s : State) (ini : Ini) (p lo : Nat) : Option Nat :=
  ((s.snaps.find? fun x => x.page == p && x.ini == ini).bind fun x => x.vals.find? fun v => v.1 == lo).map fun v => v.2

/-- A read of the TCM_DATA of a core that is not HALTED is refused (R287). -/
def tcmShut (s : State) (p off : Nat) : Bool :=
  decide (s.rd p R.ccState ≠ 0) && (wordFields s p off).any fun x => x.1.live == .tcmData

/-- A 4-byte read of a word: LO takes a snapshot, HI uses one, and a reserved word sets ACCESS (R39, R54). -/
def readWord (s : State) (ini : Ini) (p off : Nat) : Nat × State :=
  if (wordFields s p off).isEmpty then (0, s.raise p eAccess)
  else if tcmShut s p off then (0, s.prog p)
  else match quadOf s p off with
    | none =>
      -- BYTES_BUF belongs to a captured group although it is one word
      (match snapVal s ini p off with
       | some v => (v % 2 ^ 32, s)
       | none => (wordVal s ini p off, s))
    | some lo =>
      -- another member of a captured group reads from the snapshot (R294)
      let member := lo != 0x0E8 && ((wordFields s p lo).any fun x => x.1.grp) && (snapVal s ini p 0x0E8).isSome
      if lo = off then
        let s := if member then s else takeSnap s ini p lo
        ((snapVal s ini p lo).getD 0 % 2 ^ 32, s)
      else ((((snapVal s ini p lo).getD (regVal s ini p lo)) / 2 ^ 32), s)

end Sys2Proof.Machine
end

