-- ==== Sys2Proof/Machine/Security.lean ====
section
/-! DEFINITION. Measured loads, the UPDATING marks, the anti-rollback fuses and attestation reports (R543 to R552, R560,
R561). -/
namespace Sys2Proof.Machine
open Sys2Proof

/-! ### Loads -/

/-- LD_GO (R543). -/
def execLdGo (ini : Ini) (s : State) : Result :=
  .next (regRow s ini pgSec 0x0EC fun s =>
    let c := s.rd pgSec R.ldCore
    let p := iniPart s ini
    if (p ≠ 0 ∧ s.ownerOf (pgCc c) ≠ p) ∨ s.coreSt c ≠ 0 ∨ s.load.isSome then s.prog pgSec
    else { s.wr pgSec R.ldStat ldBusy with load := some { src := s.rd pgSec R.ldSrc, core := c } })

/-- The loader's own reads (R353, R543, R601). -/
def tagLoader : Tag := ⟨0xF0, 0, 0⟩

/-- A load ends without effect. -/
def loadFail (s : State) (st : Nat) : State := ({ s with load := none } : State).wr pgSec R.ldStat st |>.raise pgSec 8

/-- An accepted image reaches its core (R543). -/
def loadInto (s : State) (c : Nat) (h body : List Byte) (loads : Nat) : State :=
  recordImage ((tcmStore s c 0 body).wr (pgCc c) R.resetPc (imEntry h / 2)) (2 + c) loads h

/-- IMAGE_LOAD_DONE (R541, R543). -/
def execImageLoadDone (hit : Hit) (host : Cells) (s : State) : Result :=
  .next (
    match s.load with
    | none => s
    | some d =>
      match readAll s tagLoader pgSec 0 d.src 256 hit host 0 with
      | (.ok h, _, s) =>
        (match imHeaderFail s 3 h with
        | some st => loadFail s st
        | none =>
          match readAll s tagLoader pgSec 0 (d.src + 256) (imLen h) ⟨hit.idx - 4, if hit.idx < 4 then .ok else hit.r1, if hit.idx < 4 then .ok else hit.r2⟩ host 0 with
          | (.ok body, _, s) =>
            let st := imBodyStatus s h body
            if st = ldOk then
              loadInto (({ s with load := none } : State).wr pgSec R.ldStat ldOk) d.core h body (imWord s (2 + d.core) 1 + 1)
            else loadFail s st
          | (_, _, s) => loadFail s ldBusErr)
      | (_, _, s) => loadFail s ldBusErr)

/-- UPD_MARK (R545): a write acts on the bit of the writer's partition. -/
def execUpdMark (ini : Ini) (value : Nat) (s : State) : Result :=
  .next (regRow s ini pgSec 0x0F4 fun s => s.wrBit pgSec R.updMark (iniPart s ini) (bitOf value (iniPart s ini)))

/-! ### Fuses -/

/-- Every recorded image entry carries an SVN of at least v (R548). -/
def svnsAtLeast (s : State) (v : Nat) : Bool :=
  (List.range 10).all fun e => !imValid s e || decide (v ≤ bitsOf (imWord s e 0) 15 8)

/-- RB_GO (R548, R549). -/
def execRbGo (ini : Ini) (s : State) : Result :=
  .next (regRow0 s ini pgFus 0x088 fun s =>
    let v := s.rd pgFus R.rbTarget
    if s.rd pgFus R.rbState = 1 then s.prog pgFus
    else if rbCountOf s < v ∧ v ≤ 64 ∧ svnsAtLeast s v then { s.wr pgFus R.rbState 1 with blowTo := v }
    else
      let s := (s.prog pgFus).wr pgFus R.rbState 3
      if rbCountOf s = 64 then s.raise pgFus 8 else s)

/-- FUSE_BLOW_DONE (R548): fuses RB_COUNT to v − 1 are blown and read back. -/
def execFuseBlowDone (s : State) : Result :=
  .next (
    if s.rd pgFus R.rbState ≠ 1 then s
    else
      let m := (List.range 64).foldl (fun m i => if rbCountOf s ≤ i ∧ i < s.blowTo then setBit m i else m) s.fuses
      let s := { s with fuses := m, blowTo := 0 }
      (if fuseFaultOf s then s.raise pgFus 9 else s).wr pgFus R.rbState 2)

/-- ROTPK_GO (R560): the hash is programmed once. -/
def execRotpkGo (ini : Ini) (s : State) : Result :=
  .next (regRow0 s ini pgFus 0x0F0 fun s =>
    if s.rotpk ≠ 0 then s.prog pgFus
    else { s with rotpk := ((List.range 12).map fun i => s.rd pgFus R.rotpkProg i * 2 ^ (32 * i)).sum })

/-! ### Attestation -/

/-- The region table of LAYOUT_DIGEST (R552). -/
def layoutRegions (s : State) : List Byte :=
  (List.range 128).flatMap fun r =>
    leBytes 8 (s.rd pgFab R.regBase r * 4096) ++ leBytes 8 (s.rd pgFab R.regLimit r * 4096 + 4095) ++
    leBytes 1 (s.rd pgFab R.regRd r) ++ leBytes 1 (s.rd pgFab R.regWr r) ++
    leBytes 1 (s.rd pgFab R.regSc3w r + 128 * s.rd pgFab R.regEn r) ++ leBytes 13 0

/-- The page table of LAYOUT_DIGEST (R552). -/
def layoutPages (s : State) : List Byte :=
  (List.range 0x4000).map fun p =>
    if (pageKind p).isSome then BitVec.ofNat 8 (s.ownerOf p + 8 * s.rd p R.lock + 128) else 0

def layoutDigest (s : State) : List Byte := shaBytes (layoutRegions s ++ layoutPages s)

/-- SYS_FAM0 to SYS_FAM4 (R57). -/
def famBytes : List Byte :=
  leBytes 4 (4 + Config.step.toNat * 2 ^ 8 + 4 * 2 ^ 16 + 512 * 2 ^ 20) ++
  leBytes 4 (12 + 4 * 2 ^ 4 + 48 * 2 ^ 8 + 4 * 2 ^ 16 + 2 * 2 ^ 20 + 8 * 2 ^ 24 + 8 * 2 ^ 28) ++
  leBytes 4 (2 + 4 * 2 ^ 4 + 1 * 2 ^ 8 + 2 * 2 ^ 12 + 2 * 2 ^ 16 + 2 * 2 ^ 20 + 13 * 2 ^ 24) ++
  leBytes 4 (16 + 48 * 2 ^ 8 + 2 * 2 ^ 16 + 64 * 2 ^ 24) ++ leBytes 4 (64 + 4 * 2 ^ 8 + 32 * 2 ^ 16 + 16 * 2 ^ 24)

/-- The signed part of a report (R551), bytes 0x000 to 0x4FF. -/
def reportBody (s : State) (a : Attest) : List Byte :=
  leBytes 2 1 ++ leBytes 2 1408 ++ leBytes 4 a.nonce ++ leBytes 8 s.time ++ leBytes 4 (s.rd pgSec R.reportSeq) ++
  leBytes 1 a.fn ++ leBytes 1 (condEvery s) ++ leBytes 1 (s.rd pgErl R.autoResetCnt) ++ leBytes 9 0 ++
  (List.range 4).flatMap (fun i => leBytes 4 (Config.uid i).toNat) ++ famBytes ++ leBytes 12 0 ++
  leBytes 1 (rbCountOf s) ++ leBytes 1 (b2n (rbCountOf s == 64) + 2 * b2n (fuseFaultOf s) + 4 * b2n (s.rotpk != 0)) ++
  leBytes 6 0 ++ rotpkBytes s ++ leBytes 8 0 ++ leBytes 4 (s.rd pgDbg R.debugFlags) ++ leBytes 4 0 ++
  leBytes 8 (s.rd pgDbg R.debugTime) ++
  (List.range 10).flatMap (fun e => (List.range 14).flatMap fun w => leBytes 4 (imWord s e w)) ++
  layoutDigest s ++ (List.range 8).flatMap (fun p => (List.range 16).flatMap fun w => leBytes 4 (partWord s p w))

/-- The report that reaches the front is captured (R550). -/
def attestFront (s : State) : State :=
  match s.attests with
  | [] => s
  | a :: rest =>
    if a.report.isSome then s
    else
      let s := s.bump pgSec R.reportSeq
      let body := reportBody s a
      let sig := Config.ecdsaSign (Config.sha384 body)
      { s with attests := { a with report := some (body ++ (List.range 96).map (fun i => (sig[i]?).getD 0) ++ leBytes 32 0) } :: rest }

/-- ATTEST (R416, R550). -/
def execAttest (n q : Nat) (s : State) : Result :=
  .next (perform s n q 9 fun c s =>
    if c.addr % 64 ≠ 0 then (c.fin stProg 0, s)
    else ({ c with st := 1 },
      attestFront { s with attests := s.attests ++ [({ fn := n, qp := q, tag := c.tag, addr := c.addr, nonce := c.arg } : Attest)] }))

/-- ATTEST_SIGNED (R550): the report is written through the requesting function's port. -/
def execAttestSigned (hit : Hit) (s : State) : Result :=
  .next (
    match s.attests with
    | [] => s
    | a :: rest =>
      match a.report with
      | none => s
      | some bs =>
        let s := { s with attests := rest }
        match (s.qp a.fn a.qp).cmds.findIdx? fun c => c.op == 9 && c.st == 1 && c.tag == a.tag with
        | none => attestFront s
        | some i =>
          let c := ((s.qp a.fn a.qp).cmds[i]?).getD { tag := 0, op := 0 }
          match writeAll s (hqTag a.fn) (pgHq a.fn) c.tag a.addr bs hit 0 with
          | (.ok _, _, _, s) => attestFront (setCmd s a.fn a.qp i (c.fin stOk 1408))
          | (_, _, _, s) => attestFront (setCmd s a.fn a.qp i (c.fin stBusErr 0)))

end Sys2Proof.Machine
end

