-- ==== Sys2Proof/Machine/RegPage.lean ====
section
/-! DEFINITION. Writes of register fields that have no command of their own, under their access codes and guards (R8,
R640), writes of 64-bit registers (R55), and accesses of a width or place that R53 refuses. -/
namespace Sys2Proof.Machine
open Sys2Proof

/-! ### What a field accepts -/

/-- The value lies within what the field's description allows (R640). -/
def okVal : Ok → Nat → Bool
  | .any, _ => true
  | .range lo hi, v => decide (lo ≤ v) && decide (v ≤ hi)
  | .codes l, v => l.contains v
  | .align n, v => v % n == 0

/-- The valid codes of output field i+1 (R107). -/
def outCodes (i v : Nat) : Bool :=
  if i = 0 then v == 1 || v == 2 else if i = 1 then v == 3 || v == 4 else if i = 2 then v == 5 else v == 6

/-- The condition a chapter sets on a write of v to instance i of a field; `word` is the word or 64-bit value written. -/
def guardOk (s : State) (ini : Ini) (p i v word : Nat) (f : Fld) : Bool :=
  match f.guard with
  | .free => true
  | .perfSel => true
  | .bind => v == 0 || (List.range 8).all fun n => !mapsTo s n i || (List.range 4).all fun m => m == i || !mapsTo s n m
  | .fawnEn => v == 0 || (decide (0 < s.rd p R.fExit i) && decide (s.rd p R.fExit i < s.rd pgVpt R.divertDist i))
  | .chIdleOff => let c := s.chSt (p - pgCh 0); c == cIdle || c == cOff
  | .chOff => s.chSt (p - pgCh 0) == cOff
  | .qIdleOff => let c := s.qSt (p - pgPq 0); c == qIdle || c == qOff
  | .qOff => s.qSt (p - pgPq 0) == qOff
  | .ctxEn0 => !s.on p R.ctxEn
  | .inEn0 => !s.on p R.inEn
  | .outFmt => !s.on p R.ctxEn && outCodes i v
  | .pageOff => !s.on p R.enable
  | .pairOff => s.rd p R.qpState i == 0
  | .planeId => let st := s.rd p R.planeState i; st == 0 || st == 5 || (st == 3 && s.rd p R.planeRef i == 0)
  | .plFmt => v == 0 || (decide (1 ≤ bitsOf word 3 1) && decide (bitsOf word 3 1 ≤ 4))
  | .regionEn0 => !s.on p R.regEn i
  | .sclass => v == 0 || ini == .island || (v != 3 && isPart ini && iniPart s ini == 0)
  | .slotFree => s.plSlot (i / 4) (i % 4) == slFree
  | .slotIdle => s.rd p (slotF p R.slotState) i == slIdle
  | .sta0 => p == pgSta 0
  | .ld => s.load.isNone
  | .logRing =>
    let en := if f = R.logEn then v else s.rd p R.logEn
    let base := if f = R.logBase then v else s.rd p R.logBase
    en == 0 || decide (base + 64 * s.rd p R.logCount ≤ 2 ^ 64)

/-- Fields guarded by a state of their page that share their word with fields which may always be written: a write of the
word that leaves such a field as it is breaks no rule. -/
def sharesWord (f : Fld) : Bool := [R.autoRelease, R.pipeMask, R.tapSel, R.irEn, R.chMode, R.bind].contains f

/-- Instance i of a field is a register of a reserved Fawn slot, which ignores every write (R124, R154, R249). -/
def fawnReg (p i : Nat) (f : Fld) : Bool := isFawn p i && (R.tblSlot.map (slotF p)).contains f

/-- With AT_MODE = 0 a channel or queue holds no translation (R344). -/
def atModeWritten (s : State) (p : Nat) (f : Fld) : State :=
  if s.on p f then s
  else if pageKind p = some .ch then s.putChan (p - pgCh 0) { s.chan (p - pgCh 0) with trans := [] }
  else s.putPq (p - pgPq 0) { s.pq (p - pgPq 0) with trans := [] }

/-- What a write of instance i of a field brings about at once; `old` is the value before it. -/
def fieldHook (s : State) (p i old : Nat) (f : Fld) : State :=
  match f.hook with
  | .none => s
  | .msix => msixFlush s (p - pgHq 0)
  | .pwm => pwmWritten s i
  | .seed => s.putIntake (p - pgCtx 0) { s.intake (p - pgCtx 0) with seedWr := true }
  | .gold => calDone s p
  | .uartEn => uartOff s i
  | .wdEn => wdEnabled s old
  | .atMode => atModeWritten s p f

/-- A write of v to instance i of a field under its access code (R8, R47, R50, R639, R640): a refused value leaves the
field and sets PROG. -/
def writeField (s : State) (ini : Ini) (p : Nat) (f : Fld) (i v word : Nat) : State :=
  let old := s.rd p f i
  let v := if f.off = 0x018 then Nat.land v (errMask p) else v
  if f.own ∨ fawnReg p i f then s
  else match f.acc with
    | .ro => s
    | .wo => s
    | .rc => s
    | .w1c => s.wr p f (clrMask f.w old v) i
    | .w1s => s.wr p f (Nat.lor old v) i
    | _ =>
      if f.acc = .rwl ∧ unlocked s p = false then s
      else if ini = .island ∧ 0x100 ≤ p ∧ f.off = 0x080 ∧ f.guard ≠ .sclass then s
      else
        let rule := f.p0 && !p0Ok s ini || !okVal f.ok v
        let same := sharesWord f && v == old
        let free := guardOk s ini p i v word f
        let (bad, s) := if f.off < 0x080 ∧ rule = false then (false, s) else s.found p eProg (rule || (!free && !same))
        if bad ∨ free = false then s else
        let s := fieldHook (s.wr p f v i) p i old f
        if f.guard = .perfSel ∧ 0x0C < v then s.prog p else s

/-! ### Words and 64-bit registers -/

/-- The part of a word that belongs to instance i of a field. -/
def partOf (f : Fld) (i word : Nat) : Nat := word / 2 ^ (addrPos f i % 32) % 2 ^ f.w

/-- A field that takes part in the write hold: RW or RWL, 64 bits wide (R55). -/
def heldField (f : Fld) : Bool := f.q && (f.acc == .rw || f.acc == .rwl)

/-- Both halves of the 64-bit register at LO offset lo are written. -/
def writeQuad (s : State) (ini : Ini) (p lo v : Nat) : State :=
  ((wordFields s p lo).filter fun x => heldField x.1 && loWord x.1 x.2 == lo).foldl
    (fun s x => writeField s ini p x.1 x.2 (partOf x.1 x.2 v) v) s

def dropHold (s : State) (ini : Ini) (p : Nat) : State :=
  { s with holds := s.holds.filter fun h => !(h.page == p && h.ini == ini) }

/-- The low word of a 64-bit field is held (R55). -/
def putHold (s : State) (ini : Ini) (p off v : Nat) : State :=
  let s := dropHold s ini p
  { s with holds := s.holds ++ [(⟨p, ini, off, v⟩ : Hold)] }

/-- The LO offset of the RW or RWL 64-bit register that the word at off belongs to. -/
def heldQuad (s : State) (p off : Nat) : Option Nat :=
  ((wordFields s p off).find? fun x => heldField x.1).map fun x => loWord x.1 x.2

/-- A write of HI commits what the hold names, and is dropped with ACCESS otherwise (R55). -/
def writeHi (s : State) (ini : Ini) (p lo v : Nat) : State :=
  match s.holds.find? fun h => h.page == p && h.ini == ini && h.off == lo with
  | some h => writeQuad (dropHold s ini p) ini p lo (h.lo + v % 2 ^ 32 * 2 ^ 32)
  | none => s.raise p eAccess

/-- Pacing values outside the limits refuse the whole write (R295). -/
def paceBad (p off v : Nat) : Bool :=
  pageKind p == some .ch && off == 0x084 && bitOf v 16 &&
    !(decide (1 ≤ bitsOf v 5 0) && decide (bitsOf v 5 0 < bitsOf v 13 8) && decide (bitsOf v 13 8 ≤ 32))

/-- A channel or queue whose limits were rewritten issues what it now may (R295, R332). -/
def writeAfter (s : State) (p off : Nat) : State :=
  match pageKind p with
  | some .ch => if off = 0x080 ∨ off = 0x084 then chPump 33 s (p - pgCh 0) else s
  | some .pq => if off = 0x080 ∧ s.qSt (p - pgPq 0) = qRun then qGo s (p - pgPq 0) else s
  | _ => s

/-- The words of STA1 to STA3 at the place of STA0's push registers (R214): they read zero, and a write sets PROG. -/
def staHole (p off : Nat) : Bool :=
  pageKind p == some .sta && p != pgSta 0 && decide (0x100 ≤ off) && decide (off < 0x118)

/-- A write of one word: what its fields without a command of their own make of it (R8, R39, R42, R55). -/
def writeWord (s : State) (ini : Ini) (p off v : Nat) : State :=
  let s := if off = 0x020 ∧ ini ≠ .rotation then debugTouch s else s
  let fs := wordFields s p off
  if fs.isEmpty then s.raise p eAccess
  else if staHole p off then s.prog p
  else if paceBad p off v then s.prog p
  else match heldQuad s p off with
    | some lo => if lo = off then putHold s ini p lo (v % 2 ^ 32) else writeHi s ini p lo v
    | none =>
      writeAfter ((fs.filter fun x => !x.1.q).foldl (fun s x => writeField s ini p x.1 x.2 (partOf x.1 x.2 v) v) s) p off

/-- REGISTER_WRITE (R8, R55): `wide` is a write of 8 bytes, of both halves of a 64-bit register or of two words. -/
def execRegisterWrite (ini : Ini) (page off value : Nat) (wide : Bool) (s : State) : Result :=
  .next (
    if off % 4 ≠ 0 ∨ 4096 ≤ off ∨ (wide ∧ off % 8 ≠ 0) then s
    else if wide then
      match heldQuad s page off with
      | some lo =>
        if lo = off then regRow s ini page off fun s => writeQuad s ini page lo (value % 2 ^ 64)
        else
          let s := regRow s ini page off fun s => writeWord s ini page off (value % 2 ^ 32)
          regRow s ini page (off + 4) fun s => writeWord s ini page (off + 4) (value / 2 ^ 32 % 2 ^ 32)
      | none =>
        let s := regRow s ini page off fun s => writeWord s ini page off (value % 2 ^ 32)
        regRow s ini page (off + 4) fun s => writeWord s ini page (off + 4) (value / 2 ^ 32 % 2 ^ 32)
    else regRow s ini page off fun s => writeWord s ini page off (value % 2 ^ 32))

/-- WRITE_LO_HOLD (R55). -/
def execWriteLoHold (ini : Ini) (page off value : Nat) (s : State) : Result :=
  .next (
    if off % 4 ≠ 0 ∨ heldQuad s page off ≠ some off then s
    else regRow s ini page off fun s => if staHole page off then s.prog page else putHold s ini page off (value % 2 ^ 32))

/-- WRITE_HI_COMMIT (R55). -/
def execWriteHiCommit (ini : Ini) (page off value : Nat) (s : State) : Result :=
  .next (
    match heldQuad s page off with
    | some lo => if off % 4 = 0 ∧ lo + 4 = off then
        regRow s ini page off fun s => if staHole page off then s.prog page else writeHi s ini page lo value
      else s
    | none => s)

/-! ### Refused widths -/

def isFn : Ini → Bool
  | .fn _ => true
  | _ => false

/-- A transfer longer than 8 bytes or over the end of a page: Completer Abort, and ACCESS or a refused access (R53). -/
def completerAbort (s : State) (ini : Ini) (p off op : Nat) : State :=
  let s := if mayWrite s ini p (off / 4 * 4) then s.raise p eAccess else denyPage s ini p off op
  { s with reply := ⟨0, 1⟩ }

/-- A poisoned write to a BAR is dropped, and logged through AER (R409). -/
def poisonedTlp (s : State) : Ini → State
  | .fn n => (putFn s n { fnOf s n with aerPoison := true }).raise pgPci 10
  | _ => s

/-- ACCESS_FAULT (R53, R409): n bytes at byte offset off of a page; `poison` marks a poisoned write of any width. -/
def execAccessFault (ini : Ini) (page off n : Nat) (write poison : Bool) (s : State) : Result :=
  .next (
    if n = 0 ∨ 4096 ≤ off ∨ (poison = false ∧ (n = 4 ∨ n = 8) ∧ off % n = 0) then s
    else if busOk s ini = false then { s with reply := ⟨0, 2⟩ }
    else if poison then (if write ∧ isFn ini then { poisonedTlp (hostWake s ini) ini with reply := ⟨0, 3⟩ } else s)
    else if 8 < n ∨ 4096 < off + n then
      (if pageKind page = none then { s with reply := ⟨0, 1⟩ }
       else completerAbort (hostWake s ini) ini page off (if write then opWrite else opRead))
    else if write then
      regRow s ini page (off / 4 * 4) fun s => s.raise page eAccess
    else
      readRow s ini page (off / 4 * 4) fun s =>
        let v := if n < 4 ∧ off % 4 + n ≤ 4 then wordVal s ini page (off / 4 * 4) / 2 ^ (8 * (off % 4)) % 2 ^ (8 * n) else 0
        (v, s.raise page eAccess))

/-! ### BAR2 -/

/-- The pieces of a write are judged and served one by one; the first meets response r, and the answer is the status
of the last that failed. -/
def barWrites (t : Tag) : List (Nat × List Byte) → State → Resp → Nat → Nat × State
  | [], s, _, st => (st, s)
  | (a, bs) :: rest, s, r, st =>
    match tryWrite s t a bs r with
    | (.ok _, s) => barWrites t rest (perfWr s (pgHq t.init)) .ok st
    | (.denied _, s) => barWrites t rest (perfWr s (pgHq t.init)) .ok 3
    | (.timeout _, s) => barWrites t rest (perfWr s (pgHq t.init)) .ok 1
    | (.uncorr _, s) => barWrites t rest (perfWr s (pgHq t.init)) .ok 4

/-- The pieces of a read, likewise; a refused piece reads zero. -/
def barReads (t : Tag) : List (Nat × Nat) → State → Resp → List Byte → Nat × List Byte × State
  | [], s, _, acc => (0, acc, s)
  | (a, n) :: rest, s, r, acc =>
    match tryRead s t a n r [] with
    | (.ok bs, s) => barReads t rest (perfRd s (pgHq t.init) true) .ok (acc ++ bs)
    | (.denied _, s) => barReads t rest (perfRd s (pgHq t.init) false) .ok (acc ++ List.replicate n 0)
    | (.timeout _, s) => (1, acc, perfRd s (pgHq t.init) false)
    | (.uncorr _, s) => (4, acc, perfRd s (pgHq t.init) false)

/-- The bytes of a write, in pieces of at most one 64-byte line. -/
def bytePieces (a : Nat) (bs : List Byte) : List (Nat × List Byte) :=
  (linePieces a bs.length).map fun x => (x.1, (bs.drop (x.1 - a)).take x.2)

/-- BAR2_ACCESS (R28, R30, R31, R352, R409): up to 512 bytes; what the firewall refuses, a reserved offset among it, reads
zero or is dropped, and an access that the fabric abandons is completed with Completer Abort. -/
def execBar2Access (n : Nat) (write : Bool) (off len : Nat) (data : List Nat) (r : Resp) (poison : Bool) (s : State) :
    Result :=
  .next (
    if 8 ≤ n ∨ len = 0 ∨ 512 < len ∨ 0x10000000 < off + len then s
    else if busOk s (.fn n) = false then { s with reply := ⟨0, 2⟩ }
    else
      let s := hostWake s (.fn n)
      let t := tagIni s (.fn n)
      if poison ∧ write then { poisonedTlp s (.fn n) with reply := ⟨0, 3⟩ }
      else if write then
        let bs : List Byte := (List.range len).map fun i => BitVec.ofNat 8 (data.getD i 0)
        let (st, s) := barWrites t (bytePieces off bs) s r 0
        { s with reply := ⟨0, st⟩ }
      else
        let (st, bs, s) := barReads t (linePieces off len) s r []
        { s with reply := ⟨if st = 0 then fromLe bs else 0, st⟩ })

end Sys2Proof.Machine
end

