-- ==== Sys2Proof/Machine/Rings.lean ====
section
/-! DEFINITION. Register writes that act on a page's rings and event registers (R68, R70, R301), and the end of a NOTICE
(R641). -/
namespace Sys2Proof.Machine
open Sys2Proof

/-- A ring of a page: its count, producer and consumer fields, the counts it accepts, and the condition on a write of
the count (R65, R92, R112, R127, R300, R305, R322, R342, R535). -/
structure Ring where
  cnt : Fld
  wr : Fld
  rd : Fld
  lo : Nat
  hi : Nat
  mult : Nat
  idle : State → Nat → Nat → Bool

/-- Whether a log ring of n records would lie below 2^64 while LOG_EN = 1 (R535). -/
def logCountOk (s : State) (n : Nat) : Bool :=
  s.rd pgErl R.logEn == 0 || decide (s.rd pgErl R.logBase + 64 * n ≤ 2 ^ 64)

def slotRing' (p : Nat) : Ring :=
  { cnt := slotF p R.cqCount, wr := slotF p R.cqWrIdx, rd := slotF p R.cqRdIdx, lo := 4, hi := 256, mult := 4,
    idle := fun s p i => s.rd p (slotF p R.slotState) i == slIdle }

/-- The rings of page p that have a consumer index software writes, and those whose count it sets. -/
def ringsOf (p : Nat) : List Ring :=
  if isEngine p then [slotRing' p]
  else match pageKind p with
    | some .ctx =>
      [{ cnt := R.slotCount, wr := R.wrIdx, rd := R.rdIdx, lo := 2, hi := 256, mult := 1, idle := fun s p _ => !s.on p R.inEn },
       { cnt := R.outSlotCount, wr := R.outWrIdx, rd := R.outRdIdx, lo := 2, hi := 256, mult := 1,
         idle := fun s p _ => !s.on p R.ctxEn }]
    | some .ch =>
      [{ cnt := R.chCrCount, wr := R.chCrWrIdx, rd := R.chCrRdIdx, lo := 4, hi := 4096, mult := 4, idle := fun _ _ _ => true },
       { cnt := R.chRingCount, wr := R.chRingTail, rd := R.chRingHead, lo := 2, hi := 32768, mult := 1,
         idle := fun _ _ _ => true }]
    | some .pq =>
      [{ cnt := R.qCrCount, wr := R.qCrWrIdx, rd := R.qCrRdIdx, lo := 4, hi := 4096, mult := 4, idle := fun _ _ _ => true },
       { cnt := R.qCap, wr := R.prodIdx, rd := R.consIdx, lo := 0, hi := 2047, mult := 1,
         idle := fun s p _ => s.qSt (p - pgPq 0) == qOff }]
    | some .erl =>
      [{ cnt := R.logCount, wr := R.logWrIdx, rd := R.logRdIdx, lo := 4, hi := 4096, mult := 4, idle := fun _ _ _ => true }]
    | _ => []

/-- Instances of a field, by the word it lies in. -/
def ixOfWord (f : Fld) (off : Nat) : Option Nat := (List.range f.cnt).find? fun i => loWord f i == off

/-- The ring, with its instance, whose field chosen by `sel` lies in the word at off. -/
def ringAt (p off : Nat) (sel : Ring → Fld) : Option (Ring × Nat) :=
  ((ringsOf p).filterMap fun r => (ixOfWord (sel r) off).map fun i => (r, i)).head?

/-- A queue that waits for room in its completion ring writes the record that is due (R342). -/
def ringFreed (s : State) (p : Nat) : State :=
  match pageKind p with
  | some .pq =>
    let q := p - pgPq 0
    if s.qSt q = qCqWait ∧ qCrFull s q = false then
      match (s.pq q).due with
      | some (st, n) => qWriteRec s q st n
      | none => s
    else s
  | _ => s

/-- The raw ring of stream k was emptied (R70, R94): the context goes on at slot 0, and neither a frame still being written
nor one being processed has a place in the new ring. -/
def rawEmptied (s : State) (k : Nat) : State :=
  let s := s.putIntake k { s.intake k with closed := (s.intake k).closed.map fun f => { f with held := false } }
  let s := s.putIspCtx k { s.ispCtx k with proc := 0 }
  let rs : List (Nat × IspRun) := s.ispRuns.map fun r => if r.2.stream = k then (r.1, { r.2 with held := false }) else r
  { s with ispRuns := rs }

/-- A ring was emptied by a change of its count (R70): what its unit had in hand is no longer held. -/
def ringEmptied (s : State) (p : Nat) (cnt : Fld) : State :=
  if cnt = R.chRingCount then chEmptied s (p - pgCh 0)
  else if cnt = R.slotCount then rawEmptied s (p - pgCtx 0)
  else s

/-- A write of a ring's consumer index (R70). -/
def writeRd (s : State) (p : Nat) (r : Ring) (i v : Nat) : State :=
  if fawnReg p i r.rd then s
  else if ringOkRd (s.rd p r.cnt i) (s.rd p r.wr i) v then ringFreed (s.wr p r.rd v i) p else s.prog p

/-- CONSUMER_INDEX_WRITE (R70). -/
def execConsumerIndexWrite (ini : Ini) (page off value : Nat) (s : State) : Result :=
  .next (
    match ringAt page off (·.rd) with
    | some (r, i) =>
      if r.rd.own then regRow s ini page off fun s => writeRd s page r i (value % 2 ^ r.rd.w) else s
    | none => s)

/-- A write of a ring's slot count (R70, R640): a change empties the ring. -/
def writeCount (s : State) (p : Nat) (r : Ring) (i v : Nat) : State :=
  let old := s.rd p r.cnt i
  if fawnReg p i r.cnt ∨ (r.cnt.acc = .rwl ∧ unlocked s p = false) then s
  else if v < r.lo ∨ r.hi < v ∨ v % r.mult ≠ 0 then s.prog p
  else if r.idle s p i = false ∨ (p = pgErl ∧ logCountOk s v = false) then s.prog p
  else if v = old then s
  else ringFreed (ringEmptied (((s.wr p r.cnt v i).wr p r.wr 0 i).wr p r.rd 0 i) p r.cnt) p

/-- RING_COUNT_CHANGE (R70). -/
def execRingCountChange (ini : Ini) (page off value : Nat) (s : State) : Result :=
  .next (
    match ringAt page off (·.cnt) with
    | some (r, i) => regRow s ini page off fun s => writeCount s page r i (value % 2 ^ r.cnt.w)
    | none => s)

/-- The event registers of a page (R301, R320, R348, R478, R479, R535). -/
def evtRegs (p : Nat) : Option EvtRegs :=
  match pageKind p with
  | some .ch => some evCh
  | some .pq => some evPq
  | some .erl => some evErl
  | some .mon => some evMon
  | some .dptx => some evDp
  | _ => none

/-- EVT_CLEAR (R301): bits written 1 clear, but for the events `again` that set in the same cycle: those stay set, and
send as though the bit had gone from 0 to 1. -/
def execEvtClear (ini : Ini) (page mask again : Nat) (s : State) : Result :=
  .next (
    match evtRegs page with
    | none => s
    | some e => regRow s ini page e.evt.off fun s =>
      let s := s.wr page e.evt (clrMask e.evt.w (s.rd page e.evt) mask)
      (List.range e.evt.w).foldl (fun s b => if bitOf mask b && bitOf again b then s.event page e b else s) s)

/-- NOTICE_HOLD_EXPIRY (R641). -/
def execNoticeHoldExpiry (part : Nat) (s : State) : Result :=
  .next (
    match sfind s.notice part with
    | some t => if t + msTicks (s.rd pgVpt R.noticeHold) ≤ s.time then { s with notice := serase s.notice part } else s
    | none => s)

end Sys2Proof.Machine
end

