-- ==== Sys2Proof/Machine/PageCtl.lean ====
section
/-! DEFINITION. The common page header's commands: ENABLE, soft reset, LOCK, counters, error flags, injection, self-test
and ownership (R37 to R45, R50 to R52, R217, R531). -/
namespace Sys2Proof.Machine
open Sys2Proof

/-! ### ENABLE (R37, R38) -/

/-- A disabled page with work in progress drains, and is OFF otherwise (R37). -/
def turnOff (s : State) (p : Nat) : State :=
  let s := s.wr p R.enable 0
  let st := s.rd p R.pstate
  if st = psActive then s.wr p R.pstate psDraining
  else if st = psIdle then s.wr p R.pstate psOff
  else s

/-- A CSI-2 port is disabled: its open frames end as truncated, which lets a waiting IN_EN = 0 act (R92), and the page
drains until they are published. -/
def csiOff (s : State) (port : Nat) : State :=
  let s := turnOff s (pgCsi port)
  let s := [0, 1, 2, 3].foldl (fun s j =>
    let k := 4 * port + j
    let s := match (s.intake k).cur with
      | some f => if f.dropped then s.putIntake k { s.intake k with cur := none } else truncateFrame s k f
      | none => s
    if (s.intake k).pendOff then intakeOff s k else s) s
  csiSettle s port

/-- A CSI-2 port is enabled (R89). -/
def csiOn (s : State) (p : Nat) : State :=
  let s := s.wr p R.csiDeskew 0
  if [1, 2, 4].contains (s.rd p R.csiLanes) then s else s.prog p

/-- ENABLE takes effect on a page that is not under test (R37, R294, R322). -/
def setEnable (s : State) (p : Nat) (on : Bool) : State :=
  let st := s.rd p R.pstate
  match pageKind p with
  | some .ch =>
    if on = false then
      (if s.chSt (p - pgCh 0) = cOff then turnOff s p else disableChan s (p - pgCh 0))
    else if st = psOff then enableChan ((s.wr p R.enable 1).wr p R.pstate psIdle) (p - pgCh 0)
    else s
  | some .pq =>
    if on = false then
      (if s.qSt (p - pgPq 0) = qOff then turnOff s p else disableQueue s (p - pgPq 0))
    else if st = psOff then
      let s := enableQueue s (p - pgPq 0)
      if s.on p R.enable then s.wr p R.pstate psIdle else s
    else s
  | k =>
    if on = false then (if k = some .csi then csiOff s (p - pgCsi 0) else turnOff s p)
    else if st = psOff then
      let s := (s.wr p R.enable 1).wr p R.pstate psIdle
      if k = some .csi then csiOn s p
      else if k = some .cc then s.settle p (s.coreSt (p - pgCc 0) != 0)
      else s
    else if st = psDraining then
      let s := (s.wr p R.enable 1).wr p R.pstate psActive
      if k = some .csi then csiOn s p else s
    else s.wr p R.enable 1

/-- A write of ENABLE: 1 has no effect on a FENCED page, and during a self-test or a soft reset the bit is only stored
(R38, R43, R52). -/
def writeEnable (s : State) (p : Nat) (on : Bool) : State :=
  let st := s.rd p R.pstate
  if st = psSelftest ∨ st = psResetting then s.wr p R.enable (b2n on)
  else if st = psFenced ∧ on then s
  else setEnable s p on

/-- ENABLE (R38). -/
def execEnable (ini : Ini) (page : Nat) (on : Bool) (s : State) : Result :=
  .next (regRow s ini page 0x00C fun s => writeEnable s page on)

/-! ### Soft reset (R52) -/

/-- The execution of a job that a soft reset abandons ends CANCELLED. -/
def abandonJob (s : State) (p n : Nat) : State :=
  match s.job p n with
  | none => s
  | some j =>
    let s := dropPlanes ({ s with jobs := serase s.jobs (jobKey p n) } : State) p j
    match j.node with
    | some key => finishExec s key stCancelled
    | none => s

/-- A node of an abandoned push order ends CANCELLED. -/
def abandonPush (s : State) (o : Push) : State :=
  match o.node with
  | some key => finishExec s key stCancelled
  | none => s

/-- The frame in a pipe is abandoned; its context may be served again. -/
def abandonRun (s : State) (pipe : Nat) : State :=
  match sfind s.ispRuns pipe with
  | none => s
  | some r =>
    let s := ({ s with ispRuns := serase s.ispRuns pipe } : State).wr (pgIsp pipe) R.pipeCtxValid 0
    (s.settle (pgIsp pipe) false).settle (pgCtx r.stream) false

/-- The frames a stream's receiver was writing are abandoned, and a waiting IN_EN = 0 acts. -/
def abandonIntake (s : State) (k : Nat) : State :=
  let off := (s.intake k).pendOff
  let s := s.putIntake k { s.intake k with cur := none, closed := [], pendOff := false }
  if off then intakeOff s k else s

/-- Work in progress of page p is abandoned, and nothing more is written on its behalf (R52, R318, R426, R452). -/
def abandonWork (s : State) (p : Nat) : State :=
  match pageKind p with
  | some .csi => [0, 1, 2, 3].foldl (fun s j => abandonIntake s (4 * (p - pgCsi 0) + j)) s
  | some .isp => abandonRun s (p - pgIsp 0)
  | some .ctx =>
    let k := p - pgCtx 0
    let s := abandonIntake s k
    let s := [0, 1, 2, 3].foldl (fun s i =>
      if (sfind s.ispRuns i).any fun r => r.stream == k then abandonRun s i else s) s
    csiSettle s (k / 4)
  | some .sta =>
    let s := (List.range 8).foldl (fun s n => abandonJob s p n) s
    if p = pgSta 0 then
      let os := s.pushes ++ s.transits.map (·.order)
      os.foldl abandonPush { s with pushes := [], transits := [] }
    else s
  | some .pyr | some .wrp | some .hmp | some .ste | some .flw | some .fea | some .lvu =>
    (List.range 8).foldl (fun s n => abandonJob s p n) s
  | some .fgs =>
    let gs : List (Nat × Graph) := s.graphs.map fun x =>
      (x.1, { x.2 with insts := [], st := if x.2.st = gLoading then gEmpty else x.2.st, req := x.2.started })
    { s with graphs := gs, lbs := [], elig := [] }
  | some .cc =>
    let c := p - pgCc 0
    s.putCore c { s.core c with halting := false, dbg := false, inbox := [], mbxOvf := false }
  | some .lpc => if s.rd p R.lpcState = lpTraining ∨ s.rd p R.lpcState = lpFilling then s.wr p R.lpcState lpOff else s
  | some .sec => if s.load.isSome then { s with load := none } else s
  | some .lio => { s with pwms := [] }
  | some .i3c => { s with i3cs := serase s.i3cs (p - pgI3c 0) }
  | some .mon => { s with disp := {} }
  | some .dptx => { s with dp := {} }
  | some .chk => { s with isl := { s.isl with rotOn := false, rotDone := [] } }
  | some .saf => { s with fawnRun := none }
  | some .ch => if s.chSt (p - pgCh 0) = cOff then s else disableChan s (p - pgCh 0)
  | some .pq => if s.qSt (p - pgPq 0) = qOff then s else disableQueue s (p - pgPq 0)
  | some .hq => (List.range 16).foldl (fun s q => deletePair s (p - pgHq 0) q) s
  | _ => s

/-- A soft reset of page p begins (R52): in RESETTING it is ignored; a self-test in progress is abandoned (R43, R531). -/
def beginReset (s : State) (p : Nat) : State :=
  let st := s.rd p R.pstate
  if st = psResetting then s
  else
    let s := if st = psSelftest ∧ s.unfence = some p then unfenceEnd s p none else s
    let fenced := s.rd p R.pstate == psFenced
    let s := abandonWork s p
    let s := (s.wr p R.stDone 0).wr p R.stPass 0
    { s.wr p R.pstate psResetting with fencedReset := if fenced then s.fencedReset ++ [p] else s.fencedReset }

/-- SOFT_RESET (R52). -/
def execSoftReset (ini : Ini) (page : Nat) (s : State) : Result :=
  .next (regRow s ini page 0x00C fun s => beginReset s page)

/-- A field has an instance at bit position `pos` of its page's cells. -/
def holdsPos (f : Fld) (pos : Nat) : Bool :=
  let base := (if f.win then f.home else f.off) * 8 + f.lo
  decide (base ≤ pos) &&
    (let d := pos - base
     if f.cnt = 1 then d == 0
     else if f.inner = 0 then d % f.str == 0 && decide (d / f.str < f.cnt)
     else d % f.ostr % f.str == 0 && decide (d % f.ostr / f.str < f.inner) &&
       decide (d / f.ostr * f.inner + d % f.ostr / f.str < f.cnt))

/-- The field whose cell lies at a position of page p. -/
def fieldAt (p pos : Nat) : Option Fld :=
  match pageKind p with
  | some k => (fieldsOf k).find? fun f => holdsPos f pos
  | none => none

/-- RO fields that take the value of an idle page: producer indices, and what reports work in progress (R52). -/
def idleFields (p : Nat) : List Fld :=
  match pageKind p with
  | some .csi => [R.csiHs]
  | some .isp => [R.pipeCtx, R.pipeCtxValid]
  | some .ctx => [R.stream, R.wrIdx, R.outWrIdx]
  | some .sta => [R.pushQ, R.chainBusy, R.planeRef, slotF p R.slotState, slotF p R.cqWrIdx]
  | some .pyr | some .wrp | some .hmp | some .ste | some .flw | some .fea | some .lvu =>
    [slotF p R.slotState, slotF p R.cqWrIdx]
  | some .fgs => [R.fgsInflight, R.lbBusy]
  | some .cc => [R.ccState]
  | some .ch => [R.chState, R.chPaused, R.extPend, R.chFaultHalt, R.chRingTail, R.chCrWrIdx, R.chStarted, R.bytesBuf]
  | some .pq => [R.qState, R.prodIdx, R.consIdx, R.qReserved, R.qOccupied, R.qDraining, R.qReturning, R.qCrWrIdx]
  | some .erl => [R.logWrIdx]
  | some .saf => [R.fResIdx]
  | some .dbg => [R.traceWr]
  | some .sec => [R.ldStat]
  | some .fus => [R.rbState]
  | some .hq => [R.qpInflight, R.sqHead, R.sqTail, R.cqTail, R.cqHead, R.flrActive]
  | some .i3c => [R.i3cHalted]
  | some .mon => [R.plSlotState0, R.plSlotState1, R.plSlotState2, R.plSlotState3]
  | some .dptx => [R.auxBusy]
  | _ => []

/-- Whether a soft reset keeps the cell of a field (R52, R318, R406, R589, R610). -/
def softKeeps (s : State) (p : Nat) (f : Fld) : Bool :=
  if f.off < 0x080 then
    !([R.enable, R.pageErr, R.errFirstBit, R.errFirstValid, R.pageErrMask, R.injBit, R.injArm, R.injCont, R.stDone,
      R.stPass].contains f)
  else
    let k := pageKind p
    if (k = some .pwr ∧ 0x088 ≤ f.off) ∨ (k = some .rst ∧ 0x084 ≤ f.off) ∨ (k = some .hq ∧ 0x800 ≤ f.off) then true
    else match f.acc with
      | .ro => !(idleFields p).contains f
      | .rwl => !unlocked s p
      | _ => false

/-- The plane slots of an array: READY and BAD slots keep their weights, the others become EMPTY (R52). -/
def softPlanes (s : State) (p : Nat) : State :=
  if isSta p then
    (List.range 32).foldl (fun s n =>
      let st := s.rd p R.planeState n
      if st = 1 ∨ st = 2 ∨ st = 4 then s.wr p R.planeState 0 n else s) s
  else s

/-- Pins whose configuration a soft reset of the LIO page changes switch (R449). -/
def softPins (s : State) : State :=
  if unlocked s pgLio then
    (List.range 24).foldl (fun s p =>
      if s.on pgLio R.pinFunc p || s.on pgLio R.pinUnit p || s.on pgLio R.pinInv p || s.on pgLio R.pinOd p then
        s.putPin p { s.pin p with sw := some (s.time + 6) }
      else s) s
  else s

/-- What a unit keeps beside its registers returns to its idle state. -/
def softUnit (s : State) (p : Nat) : State :=
  match pageKind p with
  | some .csi => [0, 1, 2, 3].foldl (fun s j =>
      s.putIntake (4 * (p - pgCsi 0) + j) { s.intake (4 * (p - pgCsi 0) + j) with vc := none, dt := 0x2B, emb := false }) s
  | some .ctx =>
    let k := p - pgCtx 0
    let i := s.intake k
    let s := { s with tones := s.tones.filter fun e => decide (e.1 / 1542 ≠ k) }
    (s.putIntake k { i with cur := none, closed := [], pendOff := false, prevFe := none, cov := [], seedWr := false }).putIspCtx k {}
  | some .lio => { softPins s with tgs := [], uarts := [] }
  | some .dptx => s.setLink (if s.on pgDp R.hpd then dpOff else dpUnplugged)
  | some .ch => s.putChan (p - pgCh 0) { node := (s.chan (p - pgCh 0)).node, nodeSt := (s.chan (p - pgCh 0)).nodeSt }
  | some .pq => s.putPq (p - pgPq 0) {}
  | some .hq => { s with qps := s.qps.filter fun x => decide (x.1 / 16 ≠ p - pgHq 0) }
  | some .dbg => { s with trace := {} }
  | some .saf => if unlocked s p then { s with wds := [] } else s
  | _ => softPlanes s p

/-- Every cell of page p that a soft reset does not keep returns to its reset value (R52). -/
def softCells (s : State) (p : Nat) : State :=
  { s with regs := s.regs.filter fun c =>
      decide (c.1 / 1048576 ≠ p) || (match fieldAt p (c.1 % 1048576) with | some f => softKeeps s p f | none => true) }

/-- No read of the page is outstanding: none at its initiator's port, and its channel, queue or queue pairs have drained
(R52, R318, R343, R426). -/
def resetReady (s : State) (p : Nat) : Bool :=
  (s.txns.all fun t => !(t.2.busy && pageOfInit (t.1 / 64) == some p)) &&
    match pageKind p with
    | some .hq => (List.range 16).all fun q => s.rd p R.qpState q == 0
    | some .ch => s.chSt (p - pgCh 0) == cOff
    | some .pq => s.qSt (p - pgPq 0) == qOff
    | _ => true

/-- SOFT_RESET_DONE (R52).  The port of the page is reset with it: every target forgets what it applied for that port, whose
numbering restarts (R371, log 75). -/
def execSoftResetDone (page : Nat) (s : State) : Result :=
  .next (
    if pageKind page = none ∨ s.rd page R.pstate ≠ psResetting ∨ resetReady s page = false then s
    else
      let s := softCells (softUnit s page) page
      let s := { s with snaps := s.snaps.filter (fun x => x.page != page), holds := s.holds.filter (fun x => x.page != page),
                        dedups := s.dedups.filter (fun d => pageOfInit (d.1 % 256) != some page),
                        seqs := s.seqs.filter fun x => pageOfInit x.1 != some page }
      let fenced := s.fencedReset.contains page
      { s.wr page R.pstate (if fenced then psFenced else psOff) with fencedReset := s.fencedReset.filter (· != page) })

/-! ### LOCK, counters, flags, injection -/

/-- LOCK (R50): the island's bit has no effect. -/
def execLock (ini : Ini) (page : Nat) (s : State) : Result :=
  .next (regRow s ini page 0x00C fun s => if ini = .island then s else s.wr page R.lock 1)

/-- PERF_CLEAR (R45). -/
def execPerfClear (ini : Ini) (page : Nat) (s : State) : Result :=
  .next (regRow s ini page 0x00C fun s => [0, 1, 2, 3].foldl (fun s k => s.wr page R.perf 0 k) s)

/-- PAGE_ERR_CLEAR (R39, R41). -/
def execPageErrClear (ini : Ini) (page value : Nat) (s : State) : Result :=
  .next (regRow s ini page 0x014 fun s =>
    let e := clrMask 32 (s.rd page R.pageErr) value
    let s := s.wr page R.pageErr e
    if e = 0 then s.wr page R.errFirstValid 0 else s)

/-- INJECT_ARM (R42): a write of PAGE_INJ. -/
def execInjectArm (ini : Ini) (page value : Nat) (s : State) : Result :=
  .next (regRow s ini page 0x020 fun s =>
    let s := if ini = .rotation then s else debugTouch s
    let s := (s.wr page R.injBit (bitsOf value 4 0)).wr page R.injCont (bitsOf value 6 6)
    if bitOf value 5 then s.wr page R.injArm 1 else s)

/-! ### Self-test (R43) -/

/-- The pages that hold CBG-128 cores, whose known-answer test has code 0x10 (R217). -/
def hasCbg (p : Nat) : Bool :=
  match pageKind p with
  | some .sta | some .lvu | some .csi => true
  | _ => false

/-- SELFTEST_START (R43, R217): START with SEL. -/
def execSelftestStart (ini : Ini) (page sel : Nat) (s : State) : Result :=
  .next (regRow s ini page 0x024 fun s =>
    let st := s.rd page R.pstate
    if (st = psOff ∨ st = psIdle) ∧ (sel % 256 = 0 ∨ (sel % 256 = 0x10 ∧ hasCbg page)) then
      selftestFill ((((s.wr page R.stSel (sel % 256)).wr page R.stDone 0).wr page R.stPass 0).wr page R.pstate psSelftest)
        page (sel % 256)
    else s.prog page)

/-- The page leaves its test: the ENABLE that it reads acts now (R43). -/
def afterTest (s : State) (p : Nat) : State :=
  let on := s.on p R.enable
  let was : Bool := match pageKind p with
    | some .ch => s.chSt (p - pgCh 0) != cOff
    | some .pq => s.qSt (p - pgPq 0) != qOff
    | _ => false
  if on ∧ was then s.wr p R.pstate psIdle
  else if on then setEnable ((s.wr p R.enable 0).wr p R.pstate psOff) p true
  else if was then setEnable (s.wr p R.pstate psIdle) p false
  else s.wr p R.pstate psOff

/-- SELFTEST_DONE (R43, R217, R531): the test took `us` µs and `pass` says that no fault of the hardware disturbed what
it computed; the known-answer test moreover compares the rows of the generator with the table. -/
def execSelftestDone (page us : Nat) (pass : Bool) (s : State) : Result :=
  .next (
    if pageKind page = none ∨ s.rd page R.pstate ≠ psSelftest then s
    else
      let ok := pass && (s.unfence == some page || s.rd page R.stSel != 0x10 || katPass)
      let (bad, inj, s) := s.hit page eSelftest (!ok)
      let s := ((s.wr page R.stDone 1).wr page R.stPass (b2n (!bad))).wr page R.stTime (min us 0xFFFF)
      let s := if bad then s.raiseI page eSelftest inj else s
      if s.unfence = some page then unfenceEnd s page (some (!bad)) else afterTest s page)

/-! ### Ownership (R44) -/

/-- PAGE_OWNER (R44): partition 0 gives an OFF page away, and the page is soft-reset. -/
def execPageOwner (ini : Ini) (page part : Nat) (s : State) : Result :=
  .next (regRow0 s ini page 0x028 fun s =>
    if unlocked s page = false ∨ part % 8 = s.ownerOf page then s
    else if s.rd page R.pstate ≠ psOff then s.prog page
    else beginReset (s.wr page R.owner (part % 8)) page)

end Sys2Proof.Machine
end

