-- ==== Sys2Proof/Machine/Partition.lean ====
section
/-! DEFINITION. Creating and tearing down partitions (R372, R373, R379, R398, R559). -/
namespace Sys2Proof.Machine
open Sys2Proof

/-- Partition states (R372). -/
def ptFree : Nat := 0
def ptActive : Nat := 1
def ptTearing : Nat := 2

/-- The partition that PART_SEL addresses, in a given state; a write that names any other is refused (R372). -/
def onPart (s : State) (st : Nat) (k : Nat → State) : State :=
  let n := s.rd pgFab R.partSel
  if n ≠ 0 ∧ s.rd pgFab R.partState n = st then k n else s.prog pgFab

/-- CREATE (R372). -/
def execCreate (ini : Ini) (s : State) : Result :=
  .next (regRow0 s ini pgFab 0x0A4 fun s => onPart s ptFree fun n => s.wr pgFab R.partState ptActive n)

/-- The regions of firewall f that are enabled and name partition n in RD or WR. -/
def regionsOf (s : State) (f n : Nat) : List Nat :=
  ((List.range 32).map (regIx f)).filter fun i =>
    s.on pgFab R.regEn i && (bitOf (s.rd pgFab R.regRd i) n || bitOf (s.rd pgFab R.regWr i) n)

/-- The first byte and the length of region i. -/
def regionSpan (s : State) (i : Nat) : Nat × Nat :=
  (s.rd pgFab R.regBase i * 4096, (s.rd pgFab R.regLimit i + 1) * 4096 - s.rd pgFab R.regBase i * 4096)

/-- The region names partition n alone (R398). -/
def namesOnly (s : State) (n i : Nat) : Bool :=
  (List.range 8).all fun m => m == n || (!bitOf (s.rd pgFab R.regRd i) m && !bitOf (s.rd pgFab R.regWr i) m)

/-- What a teardown will fill, list and mark, as the regions stand at its start (R379, R398). -/
def tearOf (s : State) (n : Nat) : Tear :=
  let l := regionsOf s 2 n
  { part := n, fills := (l.filter (namesOnly s n)).map (regionSpan s),
    shared := (l.filter fun i => !namesOnly s n i).map (regionSpan s), banks := svmBanks s n }

/-- The graph entries of partition n. -/
def graphsOf (s : State) (n : Nat) : List Nat :=
  (s.graphs.filter fun x => x.2.st != gEmpty && x.2.owner == n).map (·.1)

/-- The present pages owned by partition n. -/
def pagesOf (s : State) (n : Nat) : List Nat := (List.range 0x188).filter fun p => (pageKind p).isSome && s.ownerOf p == n

/-- TEARDOWN (R373 steps 1 and 2). -/
def execTeardown (ini : Ini) (s : State) : Result :=
  .next (regRow0 s ini pgFab 0x0A4 fun s => onPart s ptActive fun n =>
    let t := tearOf s n
    let ps := pagesOf s n
    let s := (graphsOf s n).foldl cancelAll (s.wr pgFab R.partState ptTearing n)
    let s := ps.foldl beginReset s
    { s with tears := s.tears ++ [t] })

/-- Step 4 on a core's image entry and a page: LOCK clears, and the page goes to partition 0. -/
def releasePage (s : State) (p : Nat) : State :=
  let s := if pageKind p = some .cc then clearImage s (2 + (p - pgCc 0)) else s
  (s.wr p R.lock 0).wr p R.owner 0

/-- Step 4 on a graph entry: it is unloaded, with what is left of its instances. -/
def dropGraph (s : State) (g : Nat) : State :=
  let x := s.graph g
  let run := (x.insts.map fun a => (a.execs.filter fun e => e.2.st == 1 || e.2.st == 3).length).sum
  let s := s.wr pgFgs R.fgsInflight (s.rd pgFgs R.fgsInflight - run)
  let s := s.wr pgFgs R.stateUsed (s.rd pgFgs R.stateUsed - (if x.st = gReady then x.room else 0))
  let lbs : List (Nat × LineBuf) := s.lbs.filter fun b => keyGraph b.2.prod != g
  showLbs (({ s with lbs := lbs } : State).putGraph g {})

/-- Step 4 on the semaphore pairs of partition n: they pass to partition 0 with their counts 0. -/
def dropSems (s : State) (n : Nat) : State :=
  { s with sems := s.sems.filter (fun x => sget 0 s.semOwner (x.1 / 2) != n),
           semOwner := s.semOwner.filter fun x => x.2 != n }

/-- Step 4 on the plane slots that partition n's push orders filled (R559). -/
def dropPlaneSlots (s : State) (n : Nat) : State :=
  s.planes.foldl (fun s x =>
    let p := pgSta (x.1 / 32)
    let k := x.1 % 32
    let st := s.rd p R.planeState k
    if x.2.part = n ∧ (st = 3 ∨ st = 5) then s.wr p R.planeState (if s.rd p R.planeRef k = 0 then 0 else 4) k else s) s

/-- Step 5: the masks of every region lose n; one that names nobody any more is disabled. -/
def dropMasks (s : State) (n : Nat) : State :=
  (List.range 128).foldl (fun s i =>
    let rd := clrBit (s.rd pgFab R.regRd i) n
    let wr := clrBit (s.rd pgFab R.regWr i) n
    if rd = s.rd pgFab R.regRd i ∧ wr = s.rd pgFab R.regWr i then s
    else
      let s := (s.wr pgFab R.regRd rd i).wr pgFab R.regWr wr i
      if rd = 0 ∧ wr = 0 then s.wr pgFab R.regEn 0 i else s) s

/-- The fill in progress, as ZF_STAT and ZF_LEFT show it (R398). -/
def showFill (s : State) : State :=
  match s.tears.find? (·.filling) with
  | some t =>
    ((s.wr pgScr R.zfActive 1).wr pgScr R.zfPart t.part).wr pgScr R.zfLeft ((t.fills.map (·.2)).sum)
  | none => ((s.wr pgScr R.zfActive 0).wr pgScr R.zfPart 0).wr pgScr R.zfLeft 0

/-- Step 7: FREE, TEARDOWN_DONE and the records (R373, R398, R534, R559). -/
def endTeardown (s : State) (t : Tear) : State :=
  let n := t.part
  let s := (s.wr pgFab R.partState ptFree n).wr pgFab R.teardownDone 1 n
  let s := setMd (s.wr pgSec R.partEntry 0 (16 * n + 1)) n (List.replicate 48 0)
  let (inc, s) := s.logI 0 { event := 0x33, part := n, page := pgFab, count := t.shared.length }
  t.shared.foldl (fun s r =>
    let top := r.1 + r.2 - 1
    s.log { event := 0x34, part := n, page := pgFab, addr := r.1, d0 := top % 2 ^ 32, d1 := top / 2 ^ 32 } inc) s

/-- TEARDOWN_DRAINED (R373 steps 3 to 6): nothing of the partition is outstanding, and its pages have been reset. -/
def execTeardownDrained (part : Nat) (s : State) : Result :=
  .next (
    match s.tears.find? fun t => t.part == part && !t.filling with
    | none => s
    | some t =>
      let ps := pagesOf s part
      if outstanding s part ∨ (ps.any fun p => s.rd p R.pstate == psResetting) then s
      else
        let s := ps.foldl releasePage s
        let s := (graphsOf s part).foldl dropGraph s
        let s := dropMasks (dropPlaneSlots (dropSems s part) part) part
        let s := s.wr pgSvm R.bankInh (Nat.lor (s.rd pgSvm R.bankInh) t.banks)
        let rest : List Tear := s.tears.filter fun u => u.part != part
        if t.fills = [] then endTeardown { s with tears := rest } t
        else showFill { s with tears := rest ++ [{ t with filling := true }] })

/-- A byte lies in one of some ranges. -/
def inRanges (l : List (Nat × Nat)) (a : Nat) : Bool := l.any fun r => decide (r.1 ≤ a) && decide (a < r.1 + r.2)

/-- ZERO_FILL_DONE (R398): the oldest fill ends; filled lines are good again, and the next fill starts. -/
def execZeroFillDone (s : State) : Result :=
  .next (
    match s.tears.find? (·.filling) with
    | none => s
    | some t =>
      let s := { s with mem := s.mem.filter (fun c => !(targetOf c.1 == Target.ext && inRanges t.fills c.1)),
                        poisoned := s.poisoned.filter (fun x => !inRanges t.fills x.1),
                        tears := s.tears.filter fun u => u.part != t.part }
      let s := lpcs.foldl (fun s i => s.wr (pgLpc i) R.poisonUsed (poisonOf s i)) s
      showFill (endTeardown s t))

end Sys2Proof.Machine
end

