-- ==== Sys2Proof/Machine/Power.lean ====
section
/-! DEFINITION. The power ladder (R568 to R582) and the temperature sensors with throttling (R583 to R589). -/
namespace Sys2Proof.Machine
open Sys2Proof

/-! ### HOLD and NAP -/

/-- Pages of the compute domains (R568). -/
def computePages : List Nat := [0xA0, 0xA1, 0xA2, 0xA3] ++ residuePages

/-- Every compute page is OFF, IDLE or FENCED (R569). -/
def computeAtRest (s : State) : Bool :=
  computePages.all fun p => let st := s.rd p R.pstate; st == psOff || st == psIdle || st == psFenced

/-- No entry or exit is in progress. -/
def rungSettled (s : State) : Bool := !s.on pgPwr R.entering && !s.on pgPwr R.exiting

/-- HOLD_ENTRY (R569). -/
def execHoldEntry (s : State) : Result :=
  .next (
    if s.rd pgPwr R.autoFloor = 0 ∨ s.rd pgPwr R.rung ≠ 0 ∨ rungSettled s = false ∨ 3 ≤ s.rst.ph ∨ computeAtRest s = false ∨
        s.pw.idle < s.rd pgPwr R.idleHold then s
    else (s.wr pgPwr R.rung 1).bump pgPwr R.holdCnt)

/-- NAP_ENTRY (R569). -/
def execNapEntry (s : State) : Result :=
  .next (
    if s.rd pgPwr R.autoFloor ≠ 2 ∨ s.rd pgPwr R.rung ≠ 1 ∨ rungSettled s = false ∨ computeAtRest s = false ∨
        s.pw.idle < s.rd pgPwr R.idleHold + s.rd pgPwr R.idleNap then s
    else (s.wr pgPwr R.rung 2).bump pgPwr R.napCnt)

/-- COMPUTE_REQUEST_WAKE (R569): a request that needs a compute domain; before entry it cancels the entry. -/
def execComputeRequestWake (s : State) : Result :=
  .next (
    let r := s.rd pgPwr R.rung
    let s := { s with pw := { s.pw with idle := 0 } }
    if (r = 1 ∨ r = 2) ∧ rungSettled s then { s.wr pgPwr R.exiting 1 with pw := { s.pw with since := s.time } } else s)

/-! ### Entry to DOZE, REST and DORMANT -/

/-- Every job slot and LVU context is idle or on a FENCED page, and no graph has an active instance or a pending start. -/
def jobsQuiet (s : State) : Bool :=
  ((List.range 0xAA).all fun p => !isEngine p || s.fenced p ||
    (List.range (nSlots p)).all fun n => s.slotSt p n == slIdle) &&
  s.graphs.all fun g => g.2.insts.isEmpty && (g.2.stream.isSome || g.2.started == g.2.req)

/-- Every channel and prefetch queue is OFF, IDLE or PARKED. -/
def moversQuiet (s : State) : Bool :=
  (List.range 64).all fun c =>
    let st := s.rd (pgCh c) R.chState
    let q := s.rd (pgPq c) R.qState
    (st == cOff || st == cIdle || st == cParked) && (q == qOff || q == qIdle)

/-- The first cause for which a request for rung r is refused (R571); 0 for none. -/
def sleepRefusal (s : State) (r : Nat) : Nat :=
  if (List.range 48).any fun k => s.on (pgCtx k) R.inEn then 1
  else if jobsQuiet s = false then 2
  else if moversQuiet s = false then 3
  else if s.load.isSome ∨ s.pushes ≠ [] ∨ s.transits ≠ [] ∨ s.rd pgFus R.rbState = 1 then 4
  else if 2 < s.rd pgPwr R.rung ∨ rungSettled s = false then 5
  else if r = 3 ∧ (List.range 128).any fun k => s.rd (pgHq (k / 16)) R.qpInflight (k % 16) != 0 then 6
  else if r < 3 ∨ 5 < r then 7
  else 0

/-- Steps 1 and 2 of R572. -/
def enterSleep (s : State) (r : Nat) : State :=
  let s := setFallbackAll { s.wr pgPwr R.entering 1 with fbSleep := true }
  let s := (List.range 4).foldl (fun s l => moveOpen s l false) s
  let s := (s.wr pgSaf R.devOk 0).wr pgPwr R.wakeCause 0
  { s with isl := { s.isl with pausedAt := s.time },
           parcels := s.parcels.filter fun q => !q.listed,
           pw := { s.pw with target := r, back := false, idle := 0 } }

/-- SLEEP_GO (R571, R572): a write of SLEEP with GO. -/
def execSleepGo (ini : Ini) (rung : Nat) (s : State) : Result :=
  .next (regRow0 s ini pgPwr 0x080 fun s =>
    let s := s.wr pgPwr R.sleepReq rung
    let r := s.rd pgPwr R.sleepReq
    match sleepRefusal s r with
    | 0 => enterSleep s r
    | c => (((s.prog pgPwr).raise pgPwr 8).wr pgPwr R.refuseCause c))

/-- Step 3 of R572: the line I/O units and the monitor enter their sleep states (R579). -/
def sleepIo (s : State) : State :=
  let s := { s with disp := { s.disp with gen := false, pll := false, resume := false } }
  let s := if s.link = dpUnplugged then s else s.setLink dpOff
  let s := (List.range 12).foldl (fun s i => s.settle (pgI3c i) false) (s.settle pgMon false)
  let tgs := s.tgs.map fun (t : Nat × Tg) =>
    (t.1, { t.2 with wait := none, trigEnd := none, strobes := [], strobeEnd := none })
  let pwms := s.pwms.map fun (t : Nat × Pwm) => (t.1, { t.2 with fall := none })
  { s with uarts := [], i3cs := [], tgs := tgs, pwms := pwms }

/-- Step 4 of R572: external memory (R385, R396). -/
def sleepExt (s : State) (r : Nat) : State :=
  lpcs.foldl (fun s i =>
    let st := s.lpc i
    if r = 3 then (if st = lpReady then s.wr (pgLpc i) R.lpcState lpSelfRefresh else s)
    else if r = 4 then
      (if st = lpReady ∨ st = lpFilling ∨ st = lpTraining then s.wr (pgLpc i) R.lpcState lpDeepSleep else s)
    else s.wr (pgLpc i) R.lpcState lpOff) s

/-- PREQ of a rung as CORE, IO, DRAM from the top (R581). -/
def preqOf (r : Nat) : Nat := if r = 5 then 0 else if r = 4 then 5 else 7

/-- RUNG_ENTRY_DONE (R572, R574): steps 3 to 6; a wake during entry ends it after step 3, and the device turns back. -/
def execRungEntryDone (s : State) : Result :=
  .next (
    if s.on pgPwr R.entering = false then s
    else
      let s := sleepIo (s.wr pgPwr R.entering 0)
      if s.pw.back then { s.wr pgPwr R.exiting 1 with pw := { s.pw with since := s.time } }
      else
        let r := s.pw.target
        let s := (sleepExt s r).wr pgClk R.pllLock 0
        let s := s.wr pgClk R.slowFromRef 1
        let s := if r = 3 then s else linkDown s false
        let s := (s.wr pgPwr R.preq (preqOf r)).wr pgPwr R.rung r
        { s with pw := { s.pw with encAt := s.rd pgLio R.encCnt (s.rd pgPwr R.wakeEnc) } })

/-! ### Wake -/

/-- Wake source `src` of R573 acts: it is enabled, works in the rung, and its condition holds. -/
def wakeActs (s : State) (src : Nat) : Bool :=
  bitOf (s.rd pgPwr R.wakeEn) src && decide (src < 6) && (asleepIn s 3 || asleepIn s 4 || asleepIn s 5) &&
  (if src = 1 then asleepIn s 3
   else if src = 2 then (List.range 24).any fun p => bitOf (s.rd pgPwr R.wakePins) p && (pinFn s p == 1 || pinFn s p == 5)
   else if src = 4 then decide (s.isl.pausedAt < s.rd pgPwr R.wakeTime) && decide (s.rd pgPwr R.wakeTime ≤ s.time)
   else if src = 5 then
     !s.on pgPwr R.entering && decide ((s.rd pgPwr R.wakeCounts : Int) ≤ diff32 (s.rd pgLio R.encCnt (s.rd pgPwr R.wakeEnc)) s.pw.encAt)
   else true)

/-- WAKE (R573, R574). -/
def execWake (src : Nat) (s : State) : Result := .next (if wakeActs s src then wakeUp s src else s)

/-! ### Exit -/

/-- Watchdogs resume where they paused (R572, R575). -/
def resumeWatchdogs (s : State) : State :=
  let d := s.time - s.isl.pausedAt
  let wds := s.wds.map fun (w : Nat × Wd) => (w.1, { w.2 with last := w.2.last + d })
  { s with wds := wds, isl := { s.isl with lastKick := s.isl.lastKick + d, exitAt := s.time } }

/-- A timing generator resumes: causes that passed meanwhile are not made up for (R579). -/
def resumeTg (s : State) (t : Nat) : State :=
  let g := s.tg t
  let per := s.rd pgLio R.tgPeriod t
  if s.rd pgLio R.tgMode t = 1 then s.putTg t { g with hi := encPosOf s (s.rd pgLio R.tgEnc t) }
  else if s.rd pgLio R.tgMode t = 2 ∧ per ≠ 0 ∧ g.next ≤ s.time then
    s.putTg t { g with next := g.next + per * ((s.time - g.next) / per + 1) }
  else s

/-- The line I/O units and the monitor leave their sleep states (R575, R579). -/
def resumeIo (s : State) : State :=
  let s := (List.range 8).foldl resumeTg s
  let pwms := s.pwms.map fun (t : Nat × Pwm) => (t.1, { t.2 with next := t.2.next.map fun _ => s.time + 1 })
  let s := { s with pwms := pwms }
  if s.on pgMon R.monRun then (latchPoint { s with disp := { s.disp with gen := true } }).settle pgMon true else s

/-- DEV_OK_N is driven low again where R455 allows it. -/
def mayBeOk (s : State) : State :=
  if s.on pgSaf R.fault ∨ s.on pgRst R.starting ∨ 2 < s.rd pgPwr R.rung ∨ s.rst.ph ≠ 0 then s else s.wr pgSaf R.devOk 1

/-- The device is back in RUN from DOZE, or from an entry that turned back (R574, R575, R577). -/
def exitDoze (s : State) : State :=
  let s := ((s.wr pgPwr R.exiting 0).wr pgPwr R.rung 0).wr pgClk R.pllLock 1
  let s := s.wr pgClk R.slowFromRef 0
  let s := lpcs.foldl (fun s i => if s.lpc i = lpSelfRefresh then s.wr (pgLpc i) R.lpcState lpReady else s) s
  let s := mayBeOk (resumeIo (resumeWatchdogs { s with pw := { s.pw with target := 0, back := false, idle := 0 } }))
  if s.on pgChk R.rotEn then s else clearSleep s

/-- A register cell that the always-on domain holds (R578): the PWR, RST, VPT and LIO pages, DEBUG_FLAGS and DEBUG_TIME,
FAULT and FAULT_CAUSE, and AUTO_RESET_CNT. -/
def alwaysOn (key : Nat) : Bool :=
  [pgPwr, pgRst, pgVpt, pgLio].contains (key / 1048576) ||
  [cellKey pgDbg R.debugFlags 0, cellKey pgDbg R.debugTime 0, cellKey pgSaf R.fault 0, cellKey pgSaf R.faultCause 0,
   cellKey pgErl R.autoResetCnt 0].contains key

/-- Memory bytes kept across REST or DORMANT (R385): the context area in REST; and host memory, which is not the
device's. -/
def restKeeps (dormant : Bool) (a : Nat) : Bool := targetOf a == .pcie || (!dormant && decide (a < 0x100000))

/-- What R578 keeps across REST and DORMANT; everything else takes its cold-reset value (R575). -/
def restState (s : State) (dormant : Bool) : State :=
  { State.reset with
    pending := s.pending
    time := s.time
    freeCtr := s.freeCtr
    outs := s.outs
    reply := s.reply
    regs := s.regs.filter fun c => alwaysOn c.1
    mem := s.mem.filter fun c => restKeeps dormant c.1
    eccBad := s.eccBad.filter fun a => restKeeps dormant a
    vt := s.vt.map fun x => (x.1, { x.2 with held := none })
    pins := s.pins
    encPos := s.encPos
    tgs := s.tgs
    pwms := s.pwms
    vpLast := s.vpLast
    faultTime := s.faultTime
    fbCauseTime := s.fbCauseTime
    fbSleep := true
    fuses := s.fuses
    rotpk := s.rotpk
    pw := { s.pw with target := 0, back := false, idle := 0 }
    tap := s.tap }

/-- The state at the end of an exit from REST or DORMANT (R575, R576): STARTING applies and the boot resumes. -/
def exitRest (s : State) (dormant : Bool) : State :=
  let t := restState s dormant
  let t := setFallbackAll ((t.wr pgPwr R.exiting 0).wr pgPwr R.rung 0)
  let t := ((t.wr pgRst R.starting 1).wr pgRst R.romDone 0).wr pgRst R.bootFail 0
  let t := (t.wr pgRst R.bootStep 0).wr pgRst R.bootStatus 0
  let t := if dormant then t else lpcs.foldl (fun t i =>
    if s.lpc i = lpDeepSleep then
      let t := ((t.wr (pgLpc i) R.lpcRate (s.rd (pgLpc i) R.lpcRate)).wr (pgLpc i) R.lpcCap (s.rd (pgLpc i) R.lpcCap)).wr
        (pgLpc i) R.lpcRanks (s.rd (pgLpc i) R.lpcRanks)
      let t := (t.wr (pgLpc i) R.byteSwapA (s.rd (pgLpc i) R.byteSwapA)).wr (pgLpc i) R.byteSwapB (s.rd (pgLpc i) R.byteSwapB)
      t.wr (pgLpc i) R.lpcState lpTraining
    else t) t
  resumeIo t

/-- RUNG_EXIT_DONE (R575, R577). -/
def execRungExitDone (s : State) : Result :=
  .next (
    if s.on pgPwr R.exiting = false then s
    else
      let r := s.rd pgPwr R.rung
      if r = 1 ∨ r = 2 then (s.wr pgPwr R.exiting 0).wr pgPwr R.rung 0
      else if r = 5 then
        (if s.time < s.pw.since + usTicks (s.rd pgPwr R.railWait) then s else exitRest s true)
      else if r = 4 then exitRest s false
      else exitDoze s)

/-! ### Temperature -/

def sensors : List Nat := [0, 1, 2, 3, 4, 5, 6, 7]

def sensorFailed (s : State) (k : Nat) : Bool := bitOf (s.rd pgPwr R.sensFail) k

/-- Twice the median of a list (R586). -/
def median2 (l : List Int) : Int :=
  let r := sortInt l
  let n := r.length
  (r[(n - 1) / 2]?).getD 0 + (r[n / 2]?).getD 0

/-- Sensor k fails (R586). -/
def sensorFail (s : State) (k : Nat) : State :=
  let s := (s.wrBit pgPwr R.sensFail k true).wr pgPwr R.temp 0x800 k
  (s.raise pgPwr 10).log { event := 0x36, page := pgPwr, d0 := k, d1 := unsgn 32 ((s.pw.last[k]?).getD 0) }

/-- Take the new readings: age and last reading of each sensor. -/
def takeReadings (s : State) (temps : List (Option Int)) : State :=
  let ages := sensors.map fun k => if ((temps[k]?).getD none).isSome then 0 else (s.pw.age[k]?).getD 0 + 1
  let lasts := sensors.map fun k => ((temps[k]?).getD none).getD ((s.pw.last[k]?).getD 0)
  { s with pw := { s.pw with age := ages, last := lasts } }

/-- First stage: not updated for 3 ms, or outside −50 °C to 150 °C. -/
def failsFirst (s : State) (k : Nat) : Bool :=
  let v := (s.pw.last[k]?).getD 0
  decide (3 ≤ (s.pw.age[k]?).getD 0) || decide (v < -400) || decide (1200 < v)

/-- Readings of the sensors that have not failed. -/
def goodReadings (s : State) : List Int := (sensors.filter fun k => !sensorFailed s k).map fun k => (s.pw.last[k]?).getD 0

/-- The highest reading of a list. -/
def hottest (l : List Int) : Option Int := l.foldl (fun m x => some (match m with | none => x | some y => max x y)) none

/-- The throttle level after an update (R584, R586). -/
def nextLevel (s : State) (hot : Option Int) : Nat :=
  let l := s.rd pgPwr R.thermLevel
  let l := match hot with
    | none => l
    | some t => if 840 < t then 7 else if 760 < t then min 7 (l + 1) else if 744 < t then l else l - 1
  let l := if [0, 1, 2, 3].any (sensorFailed s) then max 2 l else l
  if 4 ≤ (sensors.filter (sensorFailed s)).length then 7 else l

/-- An update of the sensors (R583 to R586). -/
def tempUpdate (s : State) (temps : List (Option Int)) : State :=
  let s := takeReadings { s with pw := { s.pw with upd := s.time + 1 } } temps
  let first := sensors.filter fun k => !sensorFailed s k && failsFirst s k
  let s := first.foldl sensorFail s
  let m := median2 (goodReadings s)
  let second := sensors.filter fun k => !sensorFailed s k && decide (480 < (2 * (s.pw.last[k]?).getD 0 - m).natAbs)
  let s := second.foldl sensorFail s
  let s := (sensors.filter fun k => !sensorFailed s k).foldl
    (fun s k => s.wr pgPwr R.temp (unsgn 12 ((s.pw.last[k]?).getD 0)) k) s
  let hot := hottest (goodReadings s)
  let s := s.wr pgPwr R.thermLevel (nextLevel s hot)
  let s := s.wr pgPwr R.thermHot (match hot with | some t => b2n (decide (760 < t)) | none => 0)
  let s : State := match hot with
    | some t =>
      let s := if 840 < t then s.raise pgPwr 9 else s
      if sgn 12 (s.rd pgPwr R.tPeak) < t then s.wr pgPwr R.tPeak (unsgn 12 t) else s
    | none => s
  if s.rd pgPwr R.thermLevel = 0 then s else s.bump pgPwr R.throttleMs

/-- TEMP_UPDATE (R583 to R586): the sensors' readings in 1/8 °C, none where a sensor delivers no new one. -/
def execTempUpdate (temps : List (Option Int)) (s : State) : Result :=
  .next (
    if s.time % 100000 ≠ 0 ∨ s.pw.upd = s.time + 1 ∨ 3 ≤ s.rst.ph ∨ 3 < s.rd pgPwr R.rung then s else tempUpdate s temps)

/-- T_PEAK (R589). -/
def execTPeak (ini : Ini) (s : State) : Result :=
  .next (popRow s ini pgPwr 0x0D4 fun s => (s.rd pgPwr R.tPeak, s.wr pgPwr R.tPeak 0))

end Sys2Proof.Machine
end

