-- ==== Sys2Proof/Machine/Reset.lean ====
section
/-! DEFINITION. Cold and warm reset (R530, R591 to R598, R605 to R607), and the end of STARTING (R608). -/
namespace Sys2Proof.Machine
open Sys2Proof

/-! ### Cold reset -/

/-- The state a cold reset leaves (R605): fuses, host memory, the queue and what has left the device are no state of
the device that it clears; the strap value stays as latched. -/
def coldState (s : State) (cause : Nat) : State :=
  let t := { State.reset with
    pending := s.pending
    freeCtr := s.freeCtr
    outs := s.outs
    mem := s.mem.filter fun c => targetOf c.1 == Target.pcie
    fuses := s.fuses
    rotpk := s.rotpk }
  (t.wr pgRst R.rstCause cause).wr pgRst R.bootMode (s.rd pgRst R.bootMode)

/-- POR_ASSERT (R595): every output is released at once, and the device stays in cold reset. -/
def execPorAssert (s : State) : Result := .next { coldState s 1 with rst := { ph := 4 } }

/-- POR (R597, R598): POR_N is released; tick 0 of device time, with the straps latched. -/
def execPor (mode : Nat) (s : State) : Result :=
  .next (if s.rst.ph ≠ 4 then s else (coldState s 1).wr pgRst R.bootMode mode)

/-- COLD (R591, R610): a write of COLD with KEY. -/
def execCold (ini : Ini) (key : Nat) (s : State) : Result :=
  .next (regRow s ini pgRst 0x080 fun s => if key % 256 = 0xA5 then coldState s 3 else s.prog pgRst)

/-! ### Warm reset -/

/-- A warm reset is requested (R594 t0, R591): STARTING applies, DEV_OK_N is released, outstanding transactions are
abandoned and external memory enters self-refresh.  A request in a rung or on its way there overrides it. -/
def requestWarm (s : State) (cause : Nat) : State :=
  if s.rst.ph ≠ 0 then s
  else
    let ready := lpcs.map fun i => s.lpc i == lpReady
    let deep := s.rd pgPwr R.rung
    let s := (s.wr pgRst R.starting 1).wr pgSaf R.devOk 0
    let s := if 4 ≤ deep then
        { s with mem := s.mem.filter (fun c => restKeeps (deep == 5) c.1), eccBad := s.eccBad.filter fun a => restKeeps (deep == 5) a }
      else s
    let s := ((s.wr pgPwr R.entering 0).wr pgPwr R.exiting 0).wr pgPwr R.rung 0
    let s := (s.wr pgPwr R.preq 7).wr pgClk R.pllLock (if deep < 3 then s.rd pgClk R.pllLock else 0)
    let s := lpcs.foldl (fun s i => if s.lpc i = lpReady then s.wr (pgLpc i) R.lpcState lpSelfRefresh else s) s
    { s with txns := [], rst := { s.rst with ph := 1, reqAt := s.time, cause := cause, ready := ready } }

/-- RST_N (R591). -/
def execRstN (s : State) : Result := .next (requestWarm s 2)

/-- WARM (R591, R610). -/
def execWarm (ini : Ini) (key : Nat) (s : State) : Result :=
  .next (regRow s ini pgRst 0x080 fun s => if key % 256 = 0xA5 then requestWarm s 4 else s.prog pgRst)

/-- AUTO_RESET (R530, R534). -/
def execAutoReset (s : State) : Result :=
  .next (
    let n := s.rd pgErl R.autoResetCnt
    if s.on pgSaf R.fault = false ∨ s.on pgErl R.autoReset = false ∨ s.rd pgErl R.autoLimit ≤ n ∨ s.rst.ph ≠ 0 ∨
        s.time < s.faultTime + msTicks (s.rd pgErl R.faultHold) then s
    else
      let s := (s.bump pgErl R.autoResetCnt).log { event := 0x35, level := 5, page := pgErl, count := n + 1 }
      requestWarm s 5)

/-- WARM_BUS_RELEASE (R594): 10 µs after the request. -/
def execWarmBusRelease (s : State) : Result :=
  .next (if s.rst.ph ≠ 1 ∨ s.time < s.rst.reqAt + usTicks 10 then s else { s with rst := { s.rst with ph := 2 } })

/-- An entry of the verdict table at a warm reset (R606): open and FINAL entries become FALLBACK, and no entry keeps an
origin. -/
def warmEntry (e : Entry) : Entry :=
  let e := { e with origin := none, trail := none, pos := none, held := none, fawn := none, epos := 0, since := 0 }
  if e.st = vAnnounced ∨ e.st = vPending ∨ e.st = vFinal then
    { e with st := vFallback, lane := 0xFF, dim := 0xF, flags := setBit e.flags fDoubt, seq := (e.seq + 1) % 16 }
  else e

/-- Cells of page p in a half-open offset range, in bytes. -/
def cellIn (key p lo hi : Nat) : Bool :=
  key / 1048576 == p && decide (8 * lo ≤ key % 1048576) && decide (key % 1048576 < 8 * hi)

/-- Register cells that a warm reset keeps (R605, R607, R532), beside those that `warmState` sets: the ERL page but its
LOCK, LPC_CFG and the poisoned-line count, REMOTE_TO, the link, the MSI-X tables, DEBUG_FLAGS and DEBUG_TIME, REPORT_SEQ,
the boot mode and the count of warm resets. -/
def warmKeeps (key : Nat) : Bool :=
  let isF (p : Nat) (f : Fld) : Bool := key == cellKey p f 0
  (key / 1048576 == pgErl && !isF pgErl R.lock) ||
  lpcs.any (fun i => cellIn key (pgLpc i) 0x080 0x084 || isF (pgLpc i) R.poisonUsed) ||
  cellIn key pgFab 0x0B0 0x0D0 ||
  cellIn key pgPci 0x080 0x084 ||
  (List.range 8).any (fun n => cellIn key (pgHq n) 0x800 0xC08) ||
  isF pgDbg R.debugFlags || isF pgDbg R.debugTime || isF pgSec R.reportSeq || isF pgRst R.bootMode || isF pgRst R.warmCnt

/-- The firewall regions after a warm reset (R605): kept, without the masks of partitions 1 to 7; a region whose masks
become zero is disabled. -/
def warmRegions (o s : State) : State :=
  (List.range 128).foldl (fun s r =>
    let rd := o.rd pgFab R.regRd r % 2
    let wr := o.rd pgFab R.regWr r % 2
    let s := ((s.wr pgFab R.regBase (o.rd pgFab R.regBase r) r).wr pgFab R.regLimit (o.rd pgFab R.regLimit r) r)
    let s := ((s.wr pgFab R.regRd rd r).wr pgFab R.regWr wr r).wr pgFab R.regSc3w (o.rd pgFab R.regSc3w r) r
    s.wr pgFab R.regEn (if rd = 0 ∧ wr = 0 then 0 else o.rd pgFab R.regEn r) r) s

/-- External memory survives the warm reset: every controller was READY at the request (R607). -/
def extKept (s : State) : Bool := s.rst.ready.all id && s.rst.ready.length == 4

/-- The state in warm reset (R605 to R607). -/
def warmState (s : State) : State :=
  let cause := s.rst.cause
  let t := { State.reset with
    pending := s.pending
    time := s.time
    freeCtr := s.freeCtr
    outs := s.outs
    regs := s.regs.filter fun c => warmKeeps c.1
    mem := s.mem.filter fun c => targetOf c.1 != Target.ext || extKept s
    eccBad := s.eccBad
    vt := s.vt.map fun x => (x.1, warmEntry x.2)
    fns := s.fns
    logQ := s.logQ
    logSeq := s.logSeq
    lostRecs := s.lostRecs
    poisoned := s.poisoned.filter fun x => (s.rst.ready[lpcOf x.1]?).getD false
    fuses := s.fuses
    rotpk := s.rotpk
    tap := s.tap
    vpLast := s.vpLast
    rst := { ph := 3, ready := s.rst.ready, cause := cause } }
  let t := ((warmRegions s t).wr pgRst R.rstCause cause).bump pgRst R.warmCnt
  let t := t.wr pgSvm R.bankInh (2 ^ 48 - 1)
  lpcs.foldl (fun t i =>
    if (s.rst.ready[i]?).getD false then
      (t.wr (pgLpc i) R.lpcState lpSelfRefresh).wr (pgLpc i) R.poisonUsed ((t.poisoned.filter fun x => lpcOf x.1 == i).length)
    else t.wr (pgLpc i) R.poisonUsed 0) t

/-- WARM_RESET_ENTRY (R594, R606): 20 µs after the request. -/
def execWarmResetEntry (s : State) : Result :=
  .next (if s.rst.ph ≠ 2 ∨ s.time < s.rst.reqAt + usTicks 20 then s else warmState s)

/-- RESET_RELEASE (R594, R607): the warm reset is left; controllers that were READY return so. -/
def execResetRelease (s : State) : Result :=
  .next (
    if s.rst.ph ≠ 3 then s
    else
      let s := lpcs.foldl (fun s i => if s.lpc i = lpSelfRefresh then s.wr (pgLpc i) R.lpcState lpReady else s) s
      { s with rst := {} })

/-! ### After a reset -/

/-- RECOV_GO (R604): the ROM, waiting with its region open, goes on to step 3. -/
def execRecovGo (ini : Ini) (s : State) : Result :=
  .next (regRow s ini pgRst 0x09C fun s => if s.rst.recov then { s.wr pgRst R.bootStep 3 with rst := { s.rst with recov := false } } else s)

/-- ROM_DONE (R601 step 7): the island firmware takes over. -/
def execRomDone (s : State) : Result :=
  .next (
    if s.rst.ph ≠ 0 ∨ s.rst.booted = false ∨ s.on pgRst R.romDone ∨ s.on pgRst R.bootFail then s
    else
      let s := ((s.wr pgRst R.bootStep 7).wr pgRst R.bootStatus 2).wr pgRst R.romDone 1
      { s.wr pgRst R.romTime s.time with
        isl := { s.isl with lastKick := s.time, wdOn := true, kicked := false, rotSince := false } })

/-- STARTING_END (R608). -/
def execStartingEnd (s : State) : Result :=
  .next (
    if s.on pgRst R.starting = false ∨ s.on pgRst R.romDone = false ∨ s.isl.kicked = false ∨ s.rst.ph ≠ 0 ∨
        (s.isl.rotSince = false ∧ s.on pgChk R.rotEn) ∨
        lpcs.any (fun i => s.lpc i == lpTraining || s.lpc i == lpFilling) then s
    else clearSleep (mayBeOk ((s.wr pgRst R.starting 0).wr pgRst R.startedTime s.time)))

/-- PCIE_REFCLK_PRESENCE (R590). -/
def execPcieRefclkPresence (on : Bool) (s : State) : Result := .next (s.wr pgClk R.pcieRefOk (b2n on))

end Sys2Proof.Machine
end

