-- ==== Sys2Proof/Machine/Bus.lean ====
section
/-! DEFINITION. A whole 4-byte register access: the fields of a word together with the commands its bits stand for, as the
stores and loads of the control cores and the configuration records of the boot ROM make it (R56, R281, R603). -/
namespace Sys2Proof.Machine
open Sys2Proof

/-- The state a meaning answers with. -/
def after (r : Result) (s : State) : State :=
  match r with
  | .next t => t
  | _ => s

/-- Perform a command when a bit asks for it. -/
def when (b : Bool) (f : State → Result) (s : State) : State := if b then after (f s) s else s

/-- The commands of the common header. -/
def ownHeader (s : State) (ini : Ini) (p off v : Nat) : State :=
  if off = 0x00C then
    let s := when (bitOf v 9) (execPerfClear ini p) s
    let s := when (bitOf v 2) (execLock ini p) s
    let s := when true (execEnable ini p (bitOf v 0)) s
    when (bitOf v 1) (execSoftReset ini p) s
  else if off = 0x014 then when true (execPageErrClear ini p v) s
  else if off = 0x020 then when true (execInjectArm ini p v) s
  else if off = 0x024 then when (bitOf v 0) (execSelftestStart ini p (bitsOf v 15 8)) s
  else if off = 0x028 then when true (execPageOwner ini p v) s
  else s

/-- The commands of the device-wide pages. -/
def ownSystem (s : State) (ini : Ini) (p off v : Nat) : State :=
  match pageKind p with
  | some .pwr => when (off = 0x080 ∧ bitOf v 8) (execSleepGo ini (bitsOf v 6 4)) s
  | some .rst =>
    if off = 0x080 then
      let s := when (bitOf v 0) (execWarm ini (bitsOf v 15 8)) s
      when (bitOf v 1) (execCold ini (bitsOf v 15 8)) s
    else when (off = 0x09C ∧ bitOf v 0) (execRecovGo ini) s
  | some .fus =>
    if off = 0x088 then when (bitOf v 0) (execRbGo ini) s else when (off = 0x0F0 ∧ bitOf v 0) (execRotpkGo ini) s
  | some .sec =>
    if off = 0x0EC then when (bitOf v 0) (execLdGo ini) s else when (off == 0x0F4) (execUpdMark ini v) s
  | some .saf =>
    if off = 0x084 then when true (execResume ini v) s
    else if off = 0x088 then when true (execDoubtReq ini (bitsOf v 15 0) (bitsOf v 17 16)) s
    else when (off == 0x08C) (execWdKick ini) s
  | some .erl => when (off == 0x0A0) (execUnfence ini (bitsOf v 13 0)) s
  | some .fab =>
    if off = 0x094 then when true (execRegPerm ini v) s
    else if off = 0x0A4 then when (bitOf v 1) (execTeardown ini) (when (bitOf v 0) (execCreate ini) s)
    else s
  | some .svm =>
    if off = 0x080 then when true (execBankInh ini v) s else when (off == 0x084) (execBankInh ini (v * 2 ^ 32)) s
  | some .lpc => when (off = 0x084 ∧ bitOf v 0) (execInit ini (p - pgLpc 0)) s
  | some .pci => when (off = 0x084 ∧ bitOf v 8) (execRetrain ini) s
  | _ => s

/-- The commands of the FGS page: a control core that reaches the page acts there as its owner. -/
def ownFgs (s : State) (ini : Ini) (off v : Nat) : State :=
  let g := s.rd pgFgs R.gtSel
  if off = 0x090 then
    let s := when (bitOf v 0) (execLoad ini) s
    let s := when (bitOf v 1) (execUnload ini) s
    let s := if bitOf v 2 then endInst s g (s.rd pgFgs R.cancelInst) stCancelled else s
    if bitOf v 3 then cancelAll s g else s
  else if off = 0x0A0 then
    match oldestRun s (bitsOf v 7 0) (bitsOf v 25 16) with
    | some i => cancelExec s (bitsOf v 7 0) i (bitsOf v 25 16)
    | none => s
  else if off = 0x0A4 then (trigOnce s (iniId ini) (iniPart s ini) (bitsOf v 7 0) (bitsOf v 25 16)).2
  else if off = 0x0A8 then
    let n := bitsOf v 9 0
    if bitsOf v 14 12 = 0 ∨ 4 < bitsOf v 14 12 then s.prog pgFgs else
    let (ok, s) := semDo s (iniId ini) (iniPart s ini) (bitsOf v 14 12) n (s.rd pgFgs R.semVal)
    { s with semIfs := sset (0, 0) s.semIfs (iniId ini) (semResOf (bitsOf v 14 12) n ok, sget 0 s.sems n) }
  else when (off == 0x0B8) (execSemOwn ini (bitsOf v 8 0) (bitsOf v 18 16)) s

/-- The commands of the sensor, engine, array and core pages. -/
def ownCompute (s : State) (ini : Ini) (p off v : Nat) : State :=
  match pageKind p with
  | some .ctx =>
    let k := p - pgCtx 0
    if off = 0x080 then when (bitOf v 9) (execCal ini k) (when true (execInEn ini k (bitOf v 0)) s)
    else if off = 0x100 then when true (execCtxEn ini k (bitOf v 0)) (when (bitOf v 1) (execCommit ini k) s)
    else if 0x400 ≤ off ∧ off < 0xA40 then when true (execToneWindowWrite ini k off v) s
    else s
  | some .fgs => ownFgs s ini off v
  | some .cc =>
    let c := p - pgCc 0
    if off = 0x080 then when true (execRun ini c (bitOf v 0)) s
    else if off = 0x094 then when true (execTcmData ini c v) s
    else when (off = 0x0C0 ∧ bitOf v 0) (execMbxPush ini c) s
  | _ =>
    if isEngine p = false then s
    else
      let b := (slotF p R.slotStart).off
      let s := if b ≤ off ∧ (off - b) % 0x40 = 0 ∧ (off - b) / 0x40 < nSlots p then
          when (bitOf v 1) (execSlotCancel ini p ((off - b) / 0x40)) (when (bitOf v 0) (execStart ini p ((off - b) / 0x40)) s)
        else s
      let s := when (off = 0x0C0 ∨ off = 0x0E0) (execMonitorEnable ini p ((off - 0x0C0) / 0x20) (bitOf v 0)) s
      if isSta p then
        let s := when (p = pgSta 0 ∧ off = 0x110 ∧ bitOf v 0) (execPushGo ini) s
        if 0x204 ≤ off ∧ off < 0x304 ∧ off % 8 = 4 then
          when (bitOf v 17) (execRetire ini p ((off - 0x204) / 8)) (when (bitOf v 16) (execArm ini p ((off - 0x204) / 8)) s)
        else s
      else s

/-- The commands of the pages for outputs, inputs and data movers. -/
def ownIo (s : State) (ini : Ini) (p off v : Nat) : State :=
  match pageKind p with
  | some .vpt =>
    if 0x100 ≤ off ∧ off < 0x200 then when true (execLineCfg ini ((off - 0x100) / 0x40) ((off - 0x100) % 0x40) v) s else s
  | some .lio =>
    if 0x100 ≤ off ∧ off < 0x160 then when true (execPinCfg ini ((off - 0x100) / 4) v) s
    else if 0x280 ≤ off ∧ off < 0x380 then
      when ((off - 0x280) % 0x20 ≤ 8) (execTgCfg ini ((off - 0x280) / 0x20) ((off - 0x280) % 0x20) v) s
    else when (off = 0x384 ∨ off = 0x3A4) (execUartTx ini ((off - 0x380) / 0x20) v) s
  | some .i3c =>
    let i := p - pgI3c 0
    if off = 0x084 then when true (execCmd ini i v) s
    else if off = 0x08C then when true (execTxData4 ini i v) s
    else if off = 0x090 then when true (execTxData ini i (v % 256)) s
    else when (off = 0x0A4 ∧ bitOf v 0) (execHaltClr ini i) s
  | some .mon =>
    if off = 0x080 then when true (execMonRun ini (bitOf v 0)) (when (bitOf v 1) (execTcommit ini) s)
    else if 0x110 ≤ off ∧ off < 0x510 ∧ (off - 0x110) % 0x100 = 0 then
      let k := (off - 0x110) / 0x100
      when (bitOf v 3) (execRelease ini k) (when (bitOf v 2) (execPlaneCommit ini k (v % 4)) s)
    else s
  | some .dptx =>
    if off = 0x084 then when (bitOf v 1) (execLinkOff ini) (when (bitOf v 0) (execTrain ini) s)
    else when (off = 0x08C ∧ bitOf v 31) (execAuxGo ini) s
  | some .ch =>
    let c := p - pgCh 0
    if off = 0x0D8 then when true (execStartDb ini false c v) s
    else if off = 0x0DC then when true (execExtend ini false c) s
    else when (off = 0x0E0 ∧ bitOf v 0) (execChannelCancel ini c) s
  | some .pq =>
    let q := p - pgPq 0
    if off = 0x0B0 then when true (execQueueStart ini false q v) s
    else if off = 0x0B4 then when true (execQueueRelease ini false q v) s
    else if off = 0x0B8 then when (bitOf v 0) (execQueueCancel ini q) s
    else when (off = 0x0D0 ∧ bitOf v 0) (execSnap ini q) s
  | some .hq =>
    if 0x118 ≤ off ∧ off < 0x518 ∧ (off - 0x118) % 0x40 = 0 then
      let q := (off - 0x118) / 0x40
      when (bitOf v 1) (execDelete ini (p - pgHq 0) q) (when (bitOf v 0) (execQueuePairCreate ini (p - pgHq 0) q) s)
    else s
  | _ => s

/-- Rings and event registers of any page. -/
def ownRings (s : State) (ini : Ini) (p off v : Nat) : State :=
  let s := when (ringAt p off (·.cnt)).isSome (execRingCountChange ini p off v) s
  let s := when (ringAt p off (·.rd)).isSome (execConsumerIndexWrite ini p off v) s
  when ((evtRegs p).any fun e => e.evt.off == off) (execEvtClear ini p v 0) s

/-- A 4-byte write of a register word: its plain fields, then the commands its bits give. -/
def barWrite (s : State) (ini : Ini) (p off v : Nat) : State :=
  let t := regRow s ini p off fun s => writeWord s ini p off v
  if busOk s ini = false ∨ pageKind p = none ∨ mayWrite (hostWake s ini) ini p off = false then t
  else if off < 0x080 then ownHeader t ini p off v
  else ownRings (ownIo (ownCompute (ownSystem t ini p off v) ini p off v) ini p off v) ini p off v

/-- The words whose read pops or clears (RC, R8). -/
def isPop (p off : Nat) : Bool :=
  match pageKind p with
  | some .pwr => off == 0x0D4
  | some .lio => off == 0x388 || off == 0x3A8
  | some .i3c => off == 0x094 || off == 0x098 || off == 0x0A0
  | _ => false

/-- The reads that pop or clear (R8). -/
def popRead (s : State) (ini : Ini) (p off : Nat) : Option State :=
  if isPop p off = false then none
  else match pageKind p with
  | some .pwr => if off = 0x0D4 then some (after (execTPeak ini s) s) else none
  | some .lio => if off = 0x388 ∨ off = 0x3A8 then some (after (execUartRx ini ((off - 0x380) / 0x20) s) s) else none
  | some .i3c =>
    let i := p - pgI3c 0
    if off = 0x094 then some (after (execRxData ini i s) s)
    else if off = 0x098 then some (after (execResp ini i s) s)
    else if off = 0x0A0 then some (after (execIbi ini i s) s)
    else none
  | _ => none

/-- A 4-byte read of a register word; the answer stands in `reply`. -/
def barRead (s : State) (ini : Ini) (p off : Nat) : State :=
  match popRead s ini p off with
  | some t => t
  | none => readRow s ini p off fun s => readWord s ini p off

/-- An aligned 8-byte read of two words that are not the halves of one 64-bit register: two word reads, the lower first,
each judged on its own; the answer joins them (R53). -/
def pairRead (s : State) (ini : Ini) (p off : Nat) : State :=
  let a := barRead s ini p off
  let b := barRead a ini p (off + 4)
  { b with reply := ⟨a.reply.value + b.reply.value * 2 ^ 32, max a.reply.status b.reply.status⟩ }

/-- READ_LO_SNAPSHOT (R53, R54): a read of 4 bytes, or with `wide` of 8, which leaves the snapshot alone when it reads one
64-bit register. -/
def execReadLoSnapshot (ini : Ini) (page off : Nat) (wide : Bool) (s : State) : Result :=
  .next (
    if off % 4 ≠ 0 ∨ 4096 ≤ off ∨ (wide ∧ off % 8 ≠ 0) then s
    else if wide then
      if quadOf s page off = some off then readRow s ini page off fun s => (regVal s ini page off, s)
      else pairRead s ini page off
    else barRead s ini page off)

/-- READ_HI (R54). -/
def execReadHi (ini : Ini) (page off : Nat) (s : State) : Result :=
  .next (
    if off % 4 ≠ 0 ∨ 4096 ≤ off then s
    else readRow s ini page off fun s => readWord s ini page off)

end Sys2Proof.Machine
end

