-- ==== Sys2Proof/Machine/Boot.lean ====
section
/-! DEFINITION. The boot ROM: directory, images, configuration records and recovery from the host (R598 to R604, R609). -/
namespace Sys2Proof.Machine
open Sys2Proof

/-! ### Where the ROM reads (R599, R604) -/

/-- A byte of the flash; what the command does not list is erased. -/
def flashByte (flash : Cells) (a : Nat) : Byte :=
  match flash.find? fun c => c.1 == a with
  | some c => BitVec.ofNat 8 c.2
  | none => 0xFF

/-- Start of the host-supplied images in Shared Vision Memory. -/
def recovBase : Nat := 0x00400000

/-- Read n bytes at a directory offset: from flash, or in recovery from Shared Vision Memory as partition 0. -/
def romRead (s : State) (flash : Cells) (off n : Nat) : Option (List Byte) × State :=
  if s.rd pgRst R.bootMode = 2 then
    match readAll s tagLoader pgSec 0 (recovBase + off) n cleanHit [] 0 with
    | (.ok bs, _, s) => (some bs, s)
    | (_, _, s) => (none, s)
  else (some ((List.range n).map fun i => flashByte flash (off + i)), s)

/-! ### The directory (R600) -/

/-- A directory entry. -/
structure BootEntry where
  ty : Nat
  target : Nat
  run : Bool
  offA : Nat
  offB : Nat
deriving DecidableEq, Repr

def dirEntry (d : List Byte) (i : Nat) : BootEntry :=
  let w := wordAt d (8 + 16 * i)
  { ty := w % 256, target := bitsOf w 15 8, run := bitOf w 16, offA := wordAt d (12 + 16 * i), offB := wordAt d (16 + 16 * i) }

def dirCount (d : List Byte) : Nat := bitsOf (wordAt d 4) 7 0

def dirEntries (d : List Byte) : List BootEntry := (List.range (dirCount d)).map (dirEntry d)

/-- Magic, version, count, reserved bytes and CRC-32 of a directory copy. -/
def dirForm (d : List Byte) : Bool :=
  wordAt d 0 == 0xDA0DD100 && bitsOf (wordAt d 4) 31 8 == 1 && decide (1 ≤ dirCount d) && decide (dirCount d ≤ 12) &&
    ((d.drop 0xC8).take 52).all (· == 0) &&
    ((List.range (dirCount d)).all fun i => bitsOf (wordAt d (8 + 16 * i)) 31 24 == 0 && wordAt d (20 + 16 * i) == 0) &&
    wordAt d 0xFC == crc32 (d.take 0xFC)

/-- The rules over the entries: types, targets, alignment, one island image, at most one configuration, no core twice. -/
def dirRules (d : List Byte) : Bool :=
  let es := dirEntries d
  (es.filter fun e => e.ty == 1).length == 1 && decide ((es.filter fun e => e.ty == 2).length ≤ 1) &&
    (es.all fun e => (if e.ty = 3 then decide (e.target < 8) else (e.ty == 1 || e.ty == 2) && e.target == 0xFF) &&
      e.offA % 64 == 0 && e.offB % 64 == 0) &&
    decide ((es.filter fun e => e.ty == 3).map (·.target)).Nodup

/-- Statuses beside those of a load (R610). -/
def bsNoDir : Nat := 9
def bsNoFlash : Nat := 10
def bsDirRule : Nat := 11

/-- Step 3: the first valid copy, or the status. -/
def romDirectory (s : State) (flash : Cells) : Except Nat (List BootEntry) × State :=
  let (a, s) := romRead s flash 0 256
  let a := a.getD []
  if dirForm a && dirRules a then (.ok (dirEntries a), s)
  else
    let (b, s) := romRead s flash 0x10000 256
    let b := b.getD []
    if dirForm b && dirRules b then (.ok (dirEntries b), s)
    else (.error (if dirForm a || dirForm b then bsDirRule else bsNoDir), s)

/-! ### Images (R541, R602) -/

/-- One copy of an image: its header and body, or the status of the check it fails. -/
def romCopy (s : State) (flash : Cells) (ty off : Nat) : Except Nat (List Byte × List Byte) × State :=
  match romRead s flash off 256 with
  | (none, s) => (.error ldBusErr, s)
  | (some h, s) =>
    match imHeaderFail s ty h with
    | some st => (.error st, s)
    | none =>
      match romRead s flash (off + 256) (imLen h) with
      | (none, s) => (.error ldBusErr, s)
      | (some body, s) => (if imBodyStatus s h body = ldOk then .ok (h, body) else .error (imBodyStatus s h body), s)

/-- Entry i by the copy rule: copy A, or copy B when A fails. -/
def romImage (s : State) (flash : Cells) (i : Nat) (e : BootEntry) : Except Nat (List Byte × List Byte) × State :=
  let s := (s.wr pgRst R.bootImage i).wr pgRst R.bootCopyB 0
  match romCopy s flash e.ty e.offA with
  | (.ok x, s) => (.ok x, s)
  | (.error st, s) =>
    let s := { s with rst := { s.rst with badCopy := s.rst.badCopy ++ [i] } }
    if e.offB = 0 then (.error st, s) else romCopy (s.wr pgRst R.bootCopyB 1) flash e.ty e.offB

/-! ### Configuration records (R603) -/

/-- A BAR0 write by partition 0, whatever function 0's command register holds. -/
def romWrite (s : State) (off v : Nat) : State :=
  let f := fnOf s 0
  let t := putFn s 0 { f with memEn := true }
  let t := if off % 4 = 0 then barWrite t (.fn 0) (off / 4096) (off % 4096) v
           else after (execAccessFault (.fn 0) (off / 4096) (off % 4096) 4 true false t) t
  putFn t 0 { fnOf t 0 with memEn := f.memEn }

/-- The record at an offset is refused, or sets PROG or ACCESS: seen with the two flags cleared beforehand. -/
def romRejects (s : State) (off v : Nat) : Bool :=
  let p := off / 4096
  let e := s.rd p R.pageErr
  let t := romWrite (s.wr p R.pageErr (clrBit (clrBit e eProg) eAccess)) off v
  t.reply.status == 3 || bitOf (t.rd p R.pageErr) eProg || bitOf (t.rd p R.pageErr) eAccess

/-- The records of a configuration body, up to the terminator. -/
def romRecords : List Byte → Nat → State → State
  | _, 0, s => s
  | bs, n + 1, s =>
    let off := wordAt bs 0
    let v := wordAt bs 4
    if bs.isEmpty ∨ off = 0xFFFFFFFF then s
    else if 0x4000000 ≤ off then romRecords (bs.drop 8) n s
    else
      let rej := romRejects s off v
      let s := romWrite s off v
      romRecords (bs.drop 8) n (if rej then s.wr pgRst R.cfgReject (s.rd pgRst R.cfgReject + 1) else s)

/-! ### The steps (R601) -/

/-- Core number under which the safety island's tightly coupled memory is kept. -/
def islandTcm : Nat := 8

/-- The boot ends with a failure (R609). -/
def bootFailed (s : State) (st : Nat) : State :=
  { (s.wr pgRst R.bootStatus st).wr pgRst R.bootFail 1 with rst := { s.rst with recov := false } }

/-- What step 4, 5 or 6 does with an accepted image. -/
def romApply (s : State) (e : BootEntry) (h body : List Byte) : State :=
  if e.ty = 1 then tcmStore s islandTcm 0 body
  else if e.ty = 2 then romRecords body (body.length / 8) s
  else
    let s := (tcmStore s e.target 0 body).wr (pgCc e.target) R.resetPc (imEntry h / 2)
    if e.run then
      let s := s.wr (pgCc e.target) R.ccRun 1
      if s.coreSt e.target = 0 then startCore s e.target else s
    else s

/-- The image entry of a directory entry (R551). -/
def romSlot (e : BootEntry) : Nat := if e.ty = 3 then 2 + e.target else e.ty - 1

/-- Load entries in turn; the headers of those accepted are recorded in step 7. -/
def romLoad (flash : Cells) : List (Nat × BootEntry) → List (BootEntry × List Byte) → State → Option (List (BootEntry × List Byte)) × State
  | [], acc, s => (some acc, s)
  | (i, e) :: rest, acc, s =>
    match romImage (s.wr pgRst R.bootStep (3 + e.ty)) flash i e with
    | (.ok (h, body), s) => romLoad flash rest (acc ++ [(e, h)]) (romApply s e h body)
    | (.error st, s) => (none, bootFailed s st)

/-- The entries in the order of steps 4 to 6. -/
def romOrder (es : List BootEntry) : List (Nat × BootEntry) :=
  let x : List (Nat × BootEntry) := (List.range es.length).zip es
  (x.filter fun y => y.2.ty == 1) ++ (x.filter fun y => y.2.ty == 2) ++ (x.filter fun y => y.2.ty == 3)

/-- Steps 3 to 7, up to the jump into the island firmware (ROM_DONE). -/
def romRun (s : State) (flash : Cells) : State :=
  let s := s.wr pgRst R.bootStep 3
  match romDirectory s flash with
  | (.error st, s) => bootFailed s st
  | (.ok es, s) =>
    match romLoad flash (romOrder es) [] s with
    | (none, s) => s
    | (some l, s) =>
      let s := if s.rd pgRst R.bootMode = 2 then s.wr pgFab R.regEn 0 31 else s
      let s := l.foldl (fun s x => recordImage s (romSlot x.1) 1 x.2) s
      { s with rst := { s.rst with booted := true } }

/-- Step 2 in recovery: FW0 region 31 over banks 2 to 5 for partition 0, and the ROM waits (R604). -/
def romRecover (s : State) : State :=
  let s := (s.wr pgFab R.regBase 0x400 31).wr pgFab R.regLimit 0xBFF 31
  let s := ((s.wr pgFab R.regRd 1 31).wr pgFab R.regWr 1 31).wr pgFab R.regEn 1 31
  { s with rst := { s.rst with recov := true } }

/-- The state of R598 before the ROM reads: PLL locked, memories initialised, fuses read. -/
def romInit (s : State) : State :=
  let s := ((s.wr pgClk R.pllLock 1).wr pgClk R.slowFromRef 0).wr pgSvm R.initDone 1
  let s := if fuseFaultOf s then s.raise pgFus 9 else s
  (s.wr pgRst R.bootStatus 1).wr pgRst R.bootStep 2

/-- The ROM can run: out of reset and of every rung, with no boot behind it. -/
def romReady (s : State) : Bool :=
  s.rst.ph == 0 && !s.rst.booted && !s.rst.recov && !s.on pgRst R.bootFail && !s.on pgRst R.romDone &&
    s.rd pgPwr R.rung == 0 && !s.on pgPwr R.entering && !s.on pgPwr R.exiting

/-- BOOT_ROM (R598 to R604): `flash` is what the flash holds, `found` that its discovery succeeds, `quad` that quad reads
are used.  In recovery the first run opens the region and waits, the run after RECOV_GO loads. -/
def execBootRom (flash : Cells) (found quad : Bool) (s : State) : Result :=
  .next (
    if romReady s = false then s
    else
      let mode := s.rd pgRst R.bootMode
      if mode = 2 ∧ s.rd pgRst R.bootStep = 3 then romRun s []
      else
        let s := romInit s
        if mode = 3 then bootFailed s bsNoDir
        else if mode = 2 then romRecover s
        else if found = false then bootFailed s bsNoFlash
        else romRun (s.wr pgRst R.bootQuad (b2n (quad && mode == 0))) flash)

end Sys2Proof.Machine
end

