-- ==== Sys2Proof/Machine/CoreAccess.lean ====
section
/-! DEFINITION. What a control core does on its bus: its tightly coupled memory, its core port, the register pages, Shared
Vision Memory, the verdict table and its windows (R281, R282, R285). -/
namespace Sys2Proof.Machine
open Sys2Proof

/-- Access-fault causes of the RISC-V privileged architecture: fetch, load, store. -/
def trapFetch : Nat := 1
def trapLoad : Nat := 5
def trapStore : Nat := 7

/-- The core takes a trap (R282, R287). -/
def coreTrap (s : State) (c cause pc : Nat) : State :=
  { (s.wr (pgCc c) R.trapCause cause).wr (pgCc c) R.trapPc pc with reply := ⟨0, 4⟩ }

/-- The access fault of a load or store. -/
def coreFault (s : State) (c : Nat) (write : Bool) : State :=
  coreTrap s c (if write then trapStore else trapLoad) (s.core c).pc

/-! ### Tightly coupled memory (R282, R377, R378) -/

/-- The ECC words of core c's memory that a range touches. -/
def tcmWords (c a n : Nat) : List Nat := (List.range (cdiv (a % 4 + n) 4)).map fun i => c * tcmSize + a / 4 * 4 + 4 * i

/-- An uncorrectable TCM error: flagged, logged and reported to the island (R282, R377, R484). -/
def tcmUncorr (s : State) (c a : Nat) (inj : Bool) : State :=
  let p := pgCc c
  let s := s.raiseI p eEccUncorr inj
  let t := tagIni s (.core c)
  let (inc, s) := s.logI 0 { event := 0x10, inj := inj, part := t.part, init := t.init, page := p, addr := a }
  if inj then s.doubtInj p eEccUncorr else eccDoubt s t inc

/-- Read n bytes of TCM: none on an uncorrectable error. -/
def tcmRead (s : State) (c a n : Nat) (e : Ecc) : Option (List Byte) × State :=
  let p := pgCc c
  let known := (tcmWords c a n).any s.tcmBad.contains
  let (bad, inj, s) := s.hit p eEccUncorr (known || e == .uncorr)
  if bad then
    let s := if inj || known then s else { s with tcmBad := (c * tcmSize + a / 4 * 4) :: s.tcmBad }
    (none, tcmUncorr s c a inj)
  else
    let (corr, inj, s) := s.hit p eEccCorr (e == .corr)
    (some (tcmBytes s c a n), if corr then (s.raiseI p eEccCorr inj).noticeOn (s.ownerOf p) else s)

/-- The bytes of a store, but for those of the words `out`; a wholly written word is good again. -/
def tcmStoreBut (s : State) (c a : Nat) (bs : List Byte) (out : List Nat) : State :=
  let lo := c * tcmSize + a
  let t := (List.range bs.length).foldl (fun t i =>
    if out.contains ((lo + i) / 4 * 4) then t else tcmStore t c (a + i) ((bs.drop i).take 1)) s
  { t with tcmBad := t.tcmBad.filter fun w => !(decide (lo ≤ w) && decide (w + 4 ≤ lo + bs.length)) }

/-- A store into TCM.  A partly covered word is read first (R378): one that cannot be read stays as it was, and the store
faults. -/
def tcmWrite (s : State) (c a : Nat) (bs : List Byte) (e : Ecc := .ok) : State :=
  let p := pgCc c
  match partWords 4 (c * tcmSize + a) bs.length with
  | [] => tcmStoreBut s c a bs []
  | w :: ws =>
    let known := (w :: ws).filter s.tcmBad.contains
    let (bad, inj, s) := s.hit p eEccUncorr (!known.isEmpty || e == .uncorr)
    if bad then
      let s := if inj || !known.isEmpty then s else { s with tcmBad := w :: s.tcmBad }
      coreFault (tcmUncorr (tcmStoreBut s c a bs (if known.isEmpty then [w] else known)) c a inj) c true
    else
      let (corr, inj, s) := s.hit p eEccCorr (e == .corr)
      tcmStoreBut (if corr then (s.raiseI p eEccCorr inj).noticeOn (s.ownerOf p) else s) c a bs []

/-! ### The core port (R285) -/

/-- A word of the core port; reading TIME_LO captures device time (R54). -/
def portRead (s : State) (c off : Nat) : Nat × State :=
  let k := s.core c
  if off < 0x080 then
    (if off = 0 then k.inbox.length + b2n k.mbxOvf * 256
     else if 0x040 ≤ off ∧ off < 0x060 then (k.inbox.headD []).getD ((off - 0x040) / 4) 0
     else 0, s)
  else if off = 0x0A0 then (s.time % 2 ^ 32, s.putCore c { k with timeSnap := some s.time })
  else
    (if off = 0x084 then k.gopArg
     else if off = 0x08C then k.doneInst
     else if off = 0x094 then k.semVal
     else if off = 0x098 then k.semRes
     else if off = 0x09C then k.semCount
     else if off = 0x0A4 then k.timeSnap.getD s.time / 2 ^ 32 % 2 ^ 32
     else if off = 0x0A8 then k.timerCmp % 2 ^ 32
     else if off = 0x0AC then k.timerCmp / 2 ^ 32
     else if off = 0x0B0 then k.irqEn
     else if off = 0x0B4 then b2n (!k.inbox.isEmpty) + 2 * b2n k.pendTimer + 4 * b2n k.pendSemw
     else if off = 0x0B8 then k.semwSel
     else if 0x0C0 ≤ off ∧ off < 0x100 then
       let base := sget 0 k.wins ((off - 0x0C0) / 8)
       if off % 8 = 0 then base % 16 * 2 ^ 28 else base / 16
     else 0, s)

/-- GOP: an operation on a graph entry of the core's partition. -/
def portGop (s : State) (c v : Nat) : State :=
  let i : Ini := .core c
  let g := bitsOf v 15 8
  let n := bitsOf v 25 16
  match v % 8 with
  | 1 => after (execStartDoorbell i g 0 s) s
  | 2 => after (execTrig i g n s) s
  | 3 => after (execCancel i g s) s
  | 4 => after (execCancelAll i g s) s
  | 5 => after (execNodeCancel i g n s) s
  | _ => s.prog (pgCc c)

/-- SEM_OP: an operation on a semaphore of the core's partition. -/
def portSem (s : State) (c v : Nat) : State :=
  let op := bitsOf v 14 12
  if 1 ≤ op ∧ op ≤ 4 then semRow s (.core c) op (v % 1024) else s.prog (pgCc c)

/-- A window's base, whose low word gives address bits 31:28 and whose high word bits 63:32. -/
def portWin (k : Core) (off v : Nat) : Core :=
  let w := (off - 0x0C0) / 8
  let base := sget 0 k.wins w
  let base := if off % 8 = 0 then base / 16 * 16 + v / 2 ^ 28 % 16 else v % 2 ^ 32 * 16 + base % 16
  { k with wins := sset 0 k.wins w base }

/-- A write of a word of the core port; TIMER_CMP takes both halves together (R55). -/
def portWrite (s : State) (c off v : Nat) : State :=
  let k := s.core c
  if off = 0x000 then (if bitOf v 8 then s.putCore c { k with mbxOvf := false } else s)
  else if off = 0x004 then when (bitOf v 0) (execMbxPop c) s
  else if off = 0x080 then portGop s c v
  else if off = 0x088 then after (execNodeDone c (bitsOf v 7 0) (bitsOf v 17 8) (bitsOf v 31 28) s) s
  else if off = 0x090 then portSem s c v
  else if off = 0x0A8 then s.putCore c { k with cmpHold := some v }
  else if off = 0x0AC then
    match k.cmpHold with
    | some lo => s.putCore c { k with timerCmp := lo + v * 2 ^ 32, cmpHold := none }
    | none => s.raise (pgCc c) eAccess
  else if off = 0x0B0 then coreWake (s.putCore c { k with irqEn := v % 8 }) c
  else if off = 0x0B4 then
    s.putCore c { k with pendTimer := k.pendTimer && !bitOf v 1, pendSemw := k.pendSemw && !bitOf v 2 }
  else
    s.putCore c (
      if off = 0x084 then { k with gopArg := v }
      else if off = 0x08C then { k with doneInst := v }
      else if off = 0x094 then { k with semVal := v }
      else if off = 0x0B8 then { k with semwSel := v % 1024 }
      else if 0x0C0 ≤ off ∧ off < 0x100 then portWin k off v
      else k)

/-! ### Memory behind the fabric -/

/-- The device address of a core address that leads to memory (R281). -/
def coreMem (k : Core) (a : Nat) : Option Nat :=
  if 0x60000000 ≤ a ∧ a < 0x66000000 then some (a - 0x60000000)
  else if 0x68000000 ≤ a ∧ a < 0x68040000 then some (vtBase + (a - 0x68000000))
  else if 0x80000000 ≤ a ∧ a < 2 ^ 32 then
    some (sget 0 k.wins ((a - 0x80000000) / 2 ^ 28) * 2 ^ 28 + a % 2 ^ 28)
  else none

/-- A load through the fabric: what the firewall refuses reads zero, and an uncorrectable error or an expiry traps (R282,
R367, log 138).  `r` is how the transaction of the first line comes back. -/
def coreLoadMem (s : State) (c a n : Nat) (r : Resp) (host : Cells) : State :=
  let t := tagIni s (.core c)
  let (bs, bad, s) := (linePieces a n).foldl (fun (x : List Byte × Bool × State) (q : Nat × Nat) =>
    match tryRead x.2.2 t q.1 q.2 (if q.1 = a then r else .ok) host with
    | (.ok bs, s) => (x.1 ++ bs, x.2.1, perfRd s (pgCc c) true)
    | (.denied _, s) => (x.1 ++ List.replicate q.2 0, x.2.1, perfRd s (pgCc c) false)
    | (_, s) => (x.1 ++ List.replicate q.2 0, true, perfRd s (pgCc c) false)) (([] : List Byte), false, s)
  if bad then coreFault s c false else { s with reply := ⟨fromLe bs, 0⟩ }

/-- A store through the fabric. -/
def coreStoreMem (s : State) (c a : Nat) (bs : List Byte) (r : Resp) : State :=
  let t := tagIni s (.core c)
  let (bad, s) := (bytePieces a bs).foldl (fun (x : Bool × State) (q : Nat × List Byte) =>
    match tryWrite x.2 t q.1 q.2 (if q.1 = a then r else .ok) with
    | (.ok _, s) => (x.1, perfWr s (pgCc c))
    | (.denied _, s) => (x.1, perfWr s (pgCc c))
    | (_, s) => (true, perfWr s (pgCc c))) (false, s)
  if bad then coreFault s c true else { s with reply := ⟨0, 0⟩ }

/-! ### Accesses -/

/-- The program-flow packet of a fetch that does not follow the latest one (R557, assumption 137). -/
def coreFlow (s : State) (c a n : Nat) : State :=
  let k := s.core c
  let u := s.putCore c { k with pc := a, flen := n }
  if k.flen = 0 ∨ a = k.pc + k.flen then u else tracePkt u (c + 1) a

/-- An instruction fetch (R282). -/
def coreFetch (s : State) (c a n : Nat) (e : Ecc) : State :=
  if tcmSize < a + n then coreTrap s c trapFetch a
  else
    match tcmRead (coreFlow s c a n) c a n e with
    | (some bs, s) => { s with reply := ⟨fromLe bs, 0⟩ }
    | (none, s) => coreTrap s c trapFetch a

/-- A load (R281, R282). -/
def coreLoad (s : State) (c a n : Nat) (r : Resp) (host : Cells) : State :=
  if a + n ≤ tcmSize then
    match tcmRead s c a n (respEcc r) with
    | (some bs, s) => { s with reply := ⟨fromLe bs, 0⟩ }
    | (none, s) => coreFault s c false
  else if 0x00100000 ≤ a ∧ a + n ≤ 0x00101000 then
    if a % 4 + n ≤ 4 then
      let (v, s) := portRead s c (a % 4096 / 4 * 4)
      { s with reply := ⟨v / 2 ^ (8 * (a % 4)) % 2 ^ (8 * n), 0⟩ }
    else { s with reply := ⟨0, 0⟩ }
  else if 0x40000000 ≤ a ∧ a < 0x44000000 then
    let p := (a - 0x40000000) / 4096
    if n = 4 ∧ a % 4 = 0 then barRead s (.core c) p (a % 4096)
    else after (execAccessFault (.core c) p (a % 4096) n false false s) s
  else
    match coreMem (s.core c) a with
    | some d => if coreMem (s.core c) (a + n - 1) = some (d + n - 1) then coreLoadMem s c d n r host else coreFault s c false
    | none => coreFault s c false

/-- A store (R281, R282). -/
def coreStore (s : State) (c a n v : Nat) (r : Resp) : State :=
  if a + n ≤ tcmSize then tcmWrite { s with reply := ⟨0, 0⟩ } c a (leBytes n v) (respEcc r)
  else if 0x00100000 ≤ a ∧ a + n ≤ 0x00101000 then
    let s := { s with reply := ⟨0, 0⟩ }
    if n = 4 ∧ a % 4 = 0 then portWrite s c (a % 4096) (v % 2 ^ 32) else s
  else if 0x40000000 ≤ a ∧ a < 0x44000000 then
    let p := (a - 0x40000000) / 4096
    if n = 4 ∧ a % 4 = 0 then barWrite s (.core c) p (a % 4096) (v % 2 ^ 32)
    else after (execAccessFault (.core c) p (a % 4096) n true false s) s
  else
    match coreMem (s.core c) a with
    | some d =>
      if coreMem (s.core c) (a + n - 1) = some (d + n - 1) then coreStoreMem s c d (leBytes n v) r else coreFault s c true
    | none => coreFault s c true

/-- CORE_ACCESS (R281, R282, R285): an access of a running core of 1, 2 or 4 bytes, or its WFI. -/
def execCoreAccess (c : Nat) (op : CoreOp) (addr size value : Nat) (r : Resp) (host : Cells) (s : State) : Result :=
  .next (
    if 8 ≤ c ∨ s.coreSt c ≠ 1 ∨ (s.core c).dbg ∨ 2 ^ 32 ≤ addr then s
    else match op with
      | .wfi => coreWake (s.wr (pgCc c) R.ccState 2) c
      | .fetch => if size = 2 ∨ size = 4 then coreFetch s c addr size (respEcc r) else s
      | .load => if size = 1 ∨ size = 2 ∨ size = 4 then coreLoad s c addr size r host else s
      | .store => if size = 1 ∨ size = 2 ∨ size = 4 then coreStore s c addr size value r else s)

end Sys2Proof.Machine
end

