-- ==== Sys2Proof/Machine/Debug.lean ====
section
/-! DEFINITION. Open debug: the JTAG TAP and the debug module (R553 to R556, R591). -/
namespace Sys2Proof.Machine
open Sys2Proof

/-- A TCK edge: PROBE_SEEN (R556). -/
def probe (s : State) : State := s.wrBit pgDbg R.debugFlags 1 true

/-- A TAP instruction becomes active. -/
def tapIr (s : State) (ir : Nat) : State := { probe s with tap := { s.tap with ir := ir } }

/-- EXTEST or CLAMP becomes active (R555, R556). -/
def tapDrive (s : State) (ir : Nat) : State := (debugTouch (tapIr s ir)).wrBit pgDbg R.debugFlags 2 true

/-- IDCODE register (R554). -/
def idcode : Nat := Config.step.toNat % 16 * 2 ^ 28 + 0x9600 * 2 ^ 12 + 0x053 * 2 + 1

/-- IDCODE (R554). -/
def execIdcode (s : State) : Result := .next { tapIr s 0 with reply := ⟨idcode, 0⟩ }

/-- BYPASS (R554). -/
def execBypass (s : State) : Result := .next (tapIr s 1)

/-- SAMPLE/PRELOAD (R554): `cells` is what was shifted into the boundary-scan chain. -/
def execSamplePreload (cells : Nat) (s : State) : Result :=
  .next (let t := tapIr s 2
         { t with tap := { t.tap with bsr := cells } })

/-- EXTEST (R554, R555). -/
def execExtest (s : State) : Result := .next (tapDrive s 3)

/-- CLAMP (R554, R555). -/
def execClamp (s : State) : Result := .next (tapDrive s 4)

/-- HIGHZ (R554). -/
def execHighz (s : State) : Result := .next (tapIr s 5)

/-- DAPACC (R554). -/
def execDapacc (s : State) : Result := .next (tapIr s 6)

/-- TAP_RESET (R591): the TAP alone, with IDCODE in force. -/
def execTapReset (s : State) : Result := .next { s with tap := { s.tap with ir := 0 } }

/-- A state-changing action of the debug module on core c (R555): 0 to 7 the control cores, 8 and 9 the island's. -/
def debugCore (s : State) (c : Nat) (k : State → State) : State := if 10 ≤ c then s else k (debugTouch (probe s))

/-- A core stops under the debug module; a stopped island core kicks no more (R555). -/
def debugStop (s : State) (c pc : Nat) : State :=
  let s := s.wrBit pgDbg R.debugFlags 3 true
  if 8 ≤ c then { s with isl := { s.isl with halted := true } }
  else s.putCore c { s.core c with dbg := true, pc := pc, flen := 0 }

/-- DEBUG_HALT (R555). -/
def execDebugHalt (c pc : Nat) (s : State) : Result := .next (debugCore s c fun s => debugStop s c pc)

/-- DEBUG_STEP (R555): a halted core runs one instruction. -/
def execDebugStep (c pc : Nat) (s : State) : Result :=
  .next (
    if (if c < 8 then (s.core c).dbg else s.isl.halted) = false then s
    else debugCore s c fun s => if 8 ≤ c then s else s.putCore c { s.core c with pc := pc, flen := 0 })

/-- DEBUG_RESUME (R554). -/
def execDebugResume (c : Nat) (s : State) : Result :=
  .next (
    if 10 ≤ c then s
    else if 8 ≤ c then { probe s with isl := { s.isl with halted := false } }
    else (probe s).putCore c { s.core c with dbg := false })

/-- DEBUG_REGISTER_WRITE (R555): of the core's registers the model holds the program counter (dpc, 0x7B1). -/
def execDebugRegisterWrite (c reg value : Nat) (s : State) : Result :=
  .next (debugCore s c fun s =>
    if c < 8 ∧ reg = 0x7B1 then s.putCore c { s.core c with pc := value % 2 ^ 32, flen := 0 } else s)

/-- DEBUG_TRIGGER_HIT (R555): a hardware trigger halts its core. -/
def execDebugTriggerHit (c pc : Nat) (s : State) : Result := .next (debugCore s c fun s => debugStop s c pc)

end Sys2Proof.Machine
end

