-- ==== Sys2Proof/Machine/ErrLog.lean ====
section
/-! DEFINITION. The error aggregator (R532 to R534): the record, its ring and the LOST record. -/
namespace Sys2Proof.Machine
open Sys2Proof

/-- The 64-byte record (R533). -/
def logBytes (s : State) (r : LogRec) : List Byte :=
  leBytes 4 (s.logSeq % 65536 + r.cls % 8 * 2 ^ 16 + r.level % 8 * 2 ^ 20 + b2n r.inj * 2 ^ 23 + r.part % 8 * 2 ^ 24 +
    b2n r.first * 2 ^ 27 + condOf s r.part % 16 * 2 ^ 28) ++
  leBytes 4 r.incident ++ leBytes 8 r.time ++
  leBytes 4 (r.event % 256 + r.init % 256 * 2 ^ 8 + r.page % 2 ^ 14 * 2 ^ 16) ++ leBytes 4 r.tag ++ leBytes 8 r.addr ++
  leBytes 4 r.count ++ leBytes 4 r.d0 ++ leBytes 4 r.d1 ++ leBytes 4 r.d2 ++ leBytes 4 0 ++ leBytes 12 0

/-- A record is dropped (R532). -/
def logDrop (s : State) : State :=
  ({ s.bump pgErl R.logLost with lostRecs := s.lostRecs + 1 } : State).event pgErl evErl 1

/-- The ring takes records: LOG_EN is set and it is not full. -/
def logRoom (s : State) : Bool :=
  s.on pgErl R.logEn && !ringFull (s.rd pgErl R.logCount) (s.rd pgErl R.logWrIdx) (s.rd pgErl R.logRdIdx)

/-- Write a record, of which the aggregator logs nothing (R532): the queue and INCIDENT_NEXT stay as they were. -/
def logWrite (s : State) (r : LogRec) (hit : Hit) : Bool × State :=
  let i := s.rd pgErl R.logWrIdx
  let a := s.rd pgErl R.logBase + 64 * ixIdx i
  let n := s.rd pgErl R.incidentNext
  let (x, _, t) := writeTwice s tagIsland pgErl 0 a (logBytes s r) hit.r1 hit.r2 r.incident
  let t := { t.wr pgErl R.incidentNext n with logQ := s.logQ }
  if x.isOk then
    let t := { t.wr pgErl R.logWrIdx (ringNext (s.rd pgErl R.logCount) i) with logSeq := (s.logSeq + 1) % 65536 }
    (true, tracePkt ((t.perf pgErl 0x04).event pgErl evErl 0) 10 (r.event + r.incident % 2 ^ 32 * 2 ^ 32))
  else (false, logDrop ((t.wr pgErl R.logFail 1).raise pgErl 8))

/-- Failures of copy A met before the log was enabled get their record once it is (R602); the spec names no EVENT for
it. -/
def bootRecs (s : State) : State :=
  if s.on pgErl R.logEn = false then s
  else
    let bad := s.rst.badCopy
    bad.foldl (fun s e =>
      let (ev, s) := s.free 8
      s.log { event := ev, page := pgRst, d0 := e }) { s with rst := { s.rst with badCopy := [] } }

/-- LOG_RECORD_WRITE (R532): the LOST record first, then the oldest record waiting. -/
def execLogRecordWrite (hit : Hit) (s : State) : Host.Outcome State Fault Refusal :=
  .next (
    if 3 ≤ s.rst.ph then s else
    let s := bootRecs s
    if logRoom s ∧ s.lostRecs ≠ 0 then
      let (inc, s) := s.newInc
      let r : LogRec := { event := 0x3F, incident := inc, first := true, time := s.time, page := pgErl, count := s.lostRecs }
      match logWrite s r hit with
      | (true, t) => { t with lostRecs := 0 }
      | (false, t) => t
    else match s.logQ with
      | [] => s
      | r :: rest =>
        let s := { s with logQ := rest }
        if logRoom s then (logWrite s r hit).2 else logDrop s)

end Sys2Proof.Machine
end

