-- ==== Sys2Proof/Machine/Fawn.lean ====
section
/-! DEFINITION. The Fawn pipeline (R498 to R503): matched depth frames and their STE and HMP jobs, the evaluation of a
parcel's grid, and the staging of its class. -/
namespace Sys2Proof.Machine
open Sys2Proof

/-! ### The working region of a line (R498), as the model lays it out -/

def fawnBase (s : State) (l : Nat) : Nat := s.rd pgSaf R.fWorkBase l
def fawnSteDesc (s : State) (l : Nat) : Nat := fawnBase s l
def fawnHmpDesc (s : State) (l : Nat) : Nat := fawnBase s l + 0x1000
def fawnDisp (s : State) (l : Nat) : Nat := fawnBase s l + 0x10000
def fawnGrid (s : State) (l g : Nat) : Nat := fawnBase s l + 0x800000 + 0x80000 * g

/-- Line pitch of the disparity image. -/
def fawnPitch (w : Nat) : Nat := cdiv (2 * w) 64 * 64

/-! ### Frame pairs -/

/-- The left or right stream of a pair of a line: the lowest one so marked (R516). -/
def pairStream (s : State) (l p : Nat) (right : Bool) : Option Nat :=
  (List.range 48).find? fun k =>
    s.rd pgSaf R.camLine k == l && s.rd pgSaf R.camPair k == p && (s.rd pgSaf R.camRight k == b2n right)

/-- The address of slot n of output 3 of stream k. -/
def fawnSlot (s : State) (k n : Nat) : Nat := s.rd (pgCtx k) R.outBase 2 + n * s.rd (pgCtx k) R.outSlotSize 2

/-- The island reads an output header; none when the read is denied or fails (R484, R498). -/
def fawnHeader (s : State) (a : Nat) : Option (List Byte) × State :=
  let (bs, bad, s) := readOnce s tagIsland pgSaf a 64
  (if bad then none else some bs, s)

/-- The STE descriptor of a Fawn job (R158, R499). -/
def fawnSteBytes (s : State) (l kl hl hr sw sh : Nat) : List Byte :=
  leBytes 4 (0x1B + 2 * 2 ^ 8) ++ leBytes 12 0 ++ leBytes 8 (hl + 64) ++ leBytes 8 (hr + 64) ++
  leBytes 4 (s.rd (pgCtx kl) R.outStride0 2) ++ leBytes 4 (sw + sh * 65536) ++ leBytes 8 (fawnDisp s l) ++ leBytes 8 0 ++
  leBytes 4 (s.rd pgSaf R.fDmin l + s.rd pgSaf R.fNdc l * 2 ^ 10 + s.rd pgSaf R.fP1 l * 2 ^ 16 + s.rd pgSaf R.fP2 l * 2 ^ 24) ++
  leBytes 4 (8 + 1 * 2 ^ 6 + 10 * 2 ^ 8 + s.rd pgSaf R.fLrcovMin l * 2 ^ 16)

/-- The HMP descriptor of a Fawn job (R146, R499): STEP 2 into the parcel's grid. -/
def fawnHmpBytes (s : State) (l p w h g enc c : Nat) (init : Bool) : List Byte :=
  leBytes 4 (0x1A + b2n init * 2 ^ 8) ++ leBytes 12 0 ++ leBytes 8 (fawnDisp s l) ++ leBytes 4 (fawnPitch w) ++
  leBytes 4 (w + h * 65536) ++ leBytes 4 0 ++ leBytes 4 2 ++ leBytes 8 (s.rd pgSaf R.fCalBase l + 64 * p) ++
  leBytes 8 (fawnGrid s l g) ++ leBytes 4 (256 + 128 * 65536) ++ leBytes 4 (unsgn 32 (diff32 enc c))

/-- The island submits a Fawn job on a page's reserved slot, its descriptor written first. -/
def fawnJob (s : State) (p a : Nat) (desc : List Byte) : Bool × State :=
  let (bad, s) := writeOnce s tagIsland pgSaf a desc
  if bad then (false, s)
  else
    let ends : List (Nat × Nat) := serase s.fawnEnds p
    (true, fawnEnqueue { s with fawnEnds := ends } p a)

/-- A Fawn page's reserved slot takes a job. -/
def fawnFree (s : State) (p : Nat) : Bool := s.working p && s.slotSt p (nSlots p - 1) == slIdle

/-- Steps 1 and 2 of R499: the two headers, and the STE job. -/
def fawnStart (s : State) (l p left right : Nat) : State :=
  match pairStream s l p false, pairStream s l p true with
  | some kl, some kr =>
    let al := fawnSlot s kl left
    let ar := fawnSlot s kr right
    match fawnHeader s al with
    | (some hl, s) =>
      match fawnHeader s ar with
      | (some hr, s) =>
        let tl := quadAt hl 8
        let tr := quadAt hr 8
        let sw := wordAt hl 0x24 % 65536
        let sh := wordAt hl 0x24 / 65536
        let w := cdiv sw 2
        let h := cdiv sh 2
        if 100000 < max tl tr - min tl tr ∨ 0x7F0000 < fawnPitch w * h then s
        else
          let (ok, s) := fawnJob s pgSte1 (fawnSteDesc s l) (fawnSteBytes s l kl al ar sw sh)
          if ok then
            { s with fawnRun := some { line := l, pair := p, left := al, right := ar, cntL := wordAt hl 0, cntR := wordAt hr 0,
                                       enc := wordAt hl 0x18, w := w, h := h } }
          else s
      | (none, s) => s
    | (none, s) => s
  | _, _ => s

/-- First count of the parcel's passage through the pair's footprint, relative to its origin (R486, R500). -/
def footEnter (s : State) (k : Nat) : Int := camPosI s k - camHalfI s k

/-- A good Fawn frame enters a parcel's coverage record (R500). -/
def covFrame (s : State) (l p kl enc : Nat) (q : Parcel) : Parcel :=
  let gap : Int := (s.rd pgSaf R.fGap l : Nat)
  let d := diff32 enc q.c
  match q.covs.find? fun v => v.pair == p with
  | some v =>
    let v' : PairCov := { v with last := enc, gapped := v.gapped || decide (d - diff32 v.last q.c > gap) }
    { q with covs := q.covs.map fun u => if u.pair = p then v' else u }
  | none => { q with covs := q.covs ++ [(⟨p, enc, decide (d - footEnter s kl > gap)⟩ : PairCov)] }

/-- Parcels of the line that the frame reaches and that have not been evaluated. -/
def fawnReached (s : State) (l kl enc : Nat) : List Parcel :=
  s.parcels.filter fun q => q.line == l && !q.done && q.cls.isNone && reaches s kl enc enc q.c q.trail

/-- Step 3 of R499: the STE job has ended and the headers are read again. -/
def fawnMatch (s : State) (r : FawnRun) (st : Nat) : State :=
  let quit : State := { s with fawnRun := none }
  if st % 16 ≠ stOk then quit
  else match fawnHeader s r.left with
    | (none, s) => { s with fawnRun := none }
    | (some hl, s) =>
      match fawnHeader s r.right with
      | (none, s) => { s with fawnRun := none }
      | (some hr, s) =>
        match pairStream s r.line r.pair false with
        | none => { s with fawnRun := none }
        | some kl =>
          if wordAt hl 0 ≠ r.cntL ∨ wordAt hr 0 ≠ r.cntR then { s with fawnRun := none }
          else
            let ps := fawnReached s r.line kl r.enc
            let s := if st < 16 then ps.foldl (fun s q => modParcel s q (covFrame s r.line r.pair kl r.enc)) s else s
            { s with fawnRun := some { r with st := 1, good := decide (st < 16), todo := ps.map fun q => (q.c, q.time) } }

/-- A free grid of the line. -/
def freeGrid (s : State) (l : Nat) : Option Nat :=
  (List.range 16).find? fun g => !(s.parcels.any fun q => q.line == l && q.grid == some g)

/-- Step 4 of R499: the job of one parcel has ended or none has begun, and the next one is submitted. -/
def fawnMerge (s : State) (r : FawnRun) : State :=
  let find := fun (s : State) (x : Nat × Nat) => s.parcels.find? fun q => q.line == r.line && q.c == x.1 && q.time == x.2
  let (s, todo) := match sfind s.fawnEnds pgHmp0, r.todo with
    | some st, x :: rest =>
      let s := match find s x with
        | some q => if st % 16 = stOk then modParcel s q fun q => { q with frames := q.frames + 1, begun := true } else s
        | none => s
      ({ s with fawnEnds := serase s.fawnEnds pgHmp0 }, rest)
    | _, t => (s, t)
  match todo with
  | [] => { s with fawnRun := none }
  | x :: rest =>
    let skip : State := { s with fawnRun := some { r with todo := rest } }
    match find s x with
    | none => skip
    | some q =>
      match (match q.grid with | some g => some g | none => freeGrid s r.line) with
      | none => skip
      | some g =>
        let s := modParcel s q fun q => { q with grid := some g }
        let (ok, s) := fawnJob s pgHmp0 (fawnHmpDesc s r.line)
          (fawnHmpBytes s r.line r.pair r.w r.h g r.enc q.c (!q.begun))
        { s with fawnRun := some { r with todo := if ok then todo else rest } }

/-- FAWN_FRAME_PAIR (R499): a matched pair is taken, or the one in progress goes on to its next job. -/
def execFawnFramePair (line pair left right : Nat) (s : State) : Result :=
  .next (
    if islandRuns s = false ∨ s.on pgSaf R.fault then s
    else match s.fawnRun with
      | none =>
        if 4 ≤ line ∨ s.on pgSaf R.fawnEn line = false ∨ bitOf (s.rd pgSaf R.fawnPairs line) pair = false ∨
            8 ≤ pair ∨ fawnFree s pgSte1 = false then s
        else fawnStart s line pair left right
      | some r =>
        if r.line ≠ line ∨ r.pair ≠ pair then s
        else if r.st = 0 then
          (match sfind s.fawnEnds pgSte1 with
            | some st => fawnMatch s r st
            | none => s)
        else if fawnFree s pgHmp0 then fawnMerge s r
        else s)

/-! ### Evaluation -/

/-- Signed 16-bit field at a byte offset. -/
def half16 (bs : List Byte) (o : Nat) : Int := sgn 16 (fromLe ((bs.drop o).take 2))

/-- What the occupied cells of a grid span (R500): largest MAX2, and the ranges along and across the belt. -/
structure Span where
  hmax : Int
  x0 : Nat
  x1 : Nat
  y0 : Nat
  y1 : Nat
deriving DecidableEq, Repr

/-- Take an occupied cell into a span. -/
def Span.add (o : Option Span) (x y : Nat) (h : Int) : Option Span :=
  match o with
  | none => some ⟨h, x, x, y, y⟩
  | some v => some ⟨max v.hmax h, min v.x0 x, max v.x1 x, min v.y0 y, max v.y1 y⟩

/-- The cell is occupied (R500); `lp` is the parcel's length in mm. -/
def cellOccupied (s : State) (l : Nat) (lp : Int) (x : Nat) (bs : List Byte) : Bool :=
  let guard : Int := (s.rd pgSaf R.fGuard l : Nat)
  let lo : Int := 10 * (x : Nat) - (2560 - guard)
  decide (s.rd pgSaf R.fMincnt l ≤ fromLe ((bs.drop 6).take 2)) && decide ((s.rd pgSaf R.fHmin l : Int) ≤ half16 bs 2) &&
    decide (lo ≤ guard) && decide (-lp - guard < lo + 10)

/-- One row of the grid. -/
def spanRow (s : State) (l : Nat) (lp : Int) (y : Nat) (bs : List Byte) (o : Option Span) : Option Span :=
  (List.range 256).foldl (fun o x =>
    let cell := (bs.drop (16 * x)).take 16
    if cellOccupied s l lp x cell then Span.add o x y (half16 cell 2) else o) o

/-- The island reads row y of a grid. -/
def gridRead (s : State) (l g y : Nat) : List Byte × Bool × State :=
  readOnce s tagIsland pgSaf (fawnGrid s l g + 4096 * y) 4096

/-- Row y taken into the span so far, whether a read failed, and the state. -/
def gridStep (l : Nat) (lp : Int) (g : Nat) (x : Option Span × Bool × State) (y : Nat) : Option Span × Bool × State :=
  let r := gridRead x.2.2 l g y
  (spanRow r.2.2 l lp y r.1 x.1, x.2.1 || r.2.1, r.2.2)

/-- The span of a parcel's grid, and whether a read of it failed. -/
def gridSpan (s : State) (l : Nat) (lp : Int) (g : Nat) : Option Span × Bool × State :=
  (List.range 128).foldl (gridStep l lp g) (none, false, s)

/-- ENC_SCALE of the lowest pair of FAWN_PAIRS (R147); none when its calibration block cannot be read. -/
def fawnScale (s : State) (l : Nat) : Option Nat × State :=
  match (List.range 8).find? fun p => bitOf (s.rd pgSaf R.fawnPairs l) p with
  | none => (none, s)
  | some p =>
    let (bs, bad, s) := readOnce s tagIsland pgSaf (s.rd pgSaf R.fCalBase l + 64 * p) 64
    (if bad then none else some (fromLe ((bs.drop 0x3A).take 2)), s)

/-- Pair p left the parcel without a good frame for more than F_GAP counts (R500). -/
def pairGap (s : State) (l p : Nat) (q : Parcel) (lp : Int) : Bool :=
  match pairStream s l p false with
  | none => true
  | some k =>
    let gap : Int := (s.rd pgSaf R.fGap l : Nat)
    let leave := lp + camPosI s k + camHalfI s k
    match q.covs.find? fun v => v.pair == p with
    | none => decide (leave - footEnter s k > gap)
    | some v => v.gapped || decide (leave - diff32 v.last q.c > gap)

/-- The trailing edge still lies within the footprint of a stream of a Fawn pair (R501). -/
def stillSeen (s : State) (l p : Nat) (q : Parcel) : Bool :=
  [false, true].any fun right => match pairStream s l p right with
    | some k => reaches s k (lineCnt s l) (lineCnt s l) q.c q.trail
    | none => false

/-- The class table (R500): the smallest class whose limits hold, or 0xF. -/
def fawnClass (s : State) (lf wf hmm : Nat) : Nat :=
  ((List.range 15).find? fun c =>
    decide (lf ≤ s.rd pgSaf R.clsLmax c) && decide (wf ≤ s.rd pgSaf R.clsWmax c) && decide (hmm ≤ s.rd pgSaf R.clsHmax c)).getD 15

/-- The evaluation of a parcel's grid (R500, R501, R503). -/
def fawnEvaluate (s : State) (l : Nat) (q : Parcel) (t : Nat) (bad : Bool) : State :=
  let lp := diff32 t q.c
  let (scale, s) := fawnScale s l
  let lpmm := cdiv (lp.toNat * scale.getD 0) 4096
  let guard : Int := (s.rd pgSaf R.fGuard l : Nat)
  let (span, unread, s) := match q.grid with
    | some g => if q.begun then gridSpan s l lpmm g else (none, false, s)
    | none => (none, false, s)
  let pairs := (List.range 8).filter fun p => bitOf (s.rd pgSaf R.fawnPairs l) p
  let fail := scale.isNone || unread || span.isNone || decide ((lpmm : Int) > 2560 - 2 * guard) ||
    pairs.any (fun p => pairGap s l p q lp || stillSeen s l p q)
  let v : Span := span.getD ⟨0, 0, 0, 0, 0⟩
  let hmax := v.hmax.toNat
  let hf := hmax + (hmax * s.rd pgSaf R.fMhRel l + 255) / 256 + 16 * s.rd pgSaf R.fMhAbs l
  let lf := 10 * (v.x1 - v.x0 + 1) + 2 * s.rd pgSaf R.fMb l
  let wf := 10 * (v.y1 - v.y0 + 1) + 2 * s.rd pgSaf R.fMb l
  let cls := if fail then 15 else fawnClass s lf wf (cdiv hf 16)
  let hlw : Nat × Nat × Nat := if span.isSome then (cdiv hf 16, lf, wf) else (0, 0, 0)
  let s := modParcel s q fun q =>
    { q with cls := some cls, hf := hlw.1, lf := hlw.2.1, wf := hlw.2.2, covFail := fail, evalTime := s.time }
  let s := if fail then s.raise pgSaf 9 else s
  if bad ∧ span.isSome then raiseFault s 8 else s

/-- The oldest parcel of a line that a test selects. -/
def parcelOf (s : State) (l : Nat) (test : Parcel → Bool) : Option Parcel :=
  s.parcels.find? fun q => q.line == l && !q.done && test q

/-- FAWN_EVALUATION (R500): the oldest parcel whose trailing edge the encoder has passed by F_EXIT; `bad` says that LVU1
disagreed with the island (R503). -/
def execFawnEvaluation (line : Nat) (bad : Bool) (s : State) : Result :=
  .next (
    if 4 ≤ line ∨ islandRuns s = false ∨ s.on pgSaf R.fault then s else
    match parcelOf s line fun q => q.cls.isNone && q.trail.isSome &&
        decide (q.tpos + (s.rd pgSaf R.fExit line : Nat) ≤ linePos s line) with
    | none => s
    | some q =>
      if s.on pgSaf R.fawnEn line = false then sweepParcels (modParcel s q fun q => { q with done := true })
      else fawnEvaluate s line q (q.trail.getD q.c) bad)

/-- The results record (R502). -/
def fawnRecord (s : State) (q : Parcel) (id flags : Nat) : List Byte :=
  leBytes 2 id ++ leBytes 2 flags ++ leBytes 4 q.c ++ leBytes 4 (unsgn 32 (diff32 (q.trail.getD q.c) q.c)) ++
  leBytes 1 (q.cls.getD 15) ++ leBytes 3 0 ++ leBytes 2 (min q.hf 65535) ++ leBytes 2 (min q.lf 65535) ++
  leBytes 2 (min q.wf 65535) ++ leBytes 2 0 ++ leBytes 8 s.time ++ leBytes 2 (min q.frames 65535) ++ leBytes 30 0

/-- The parcel's entry, while it is still that parcel's. -/
def parcelEntry (s : State) (q : Parcel) : Option Nat :=
  match q.id with
  | some id => if (s.entry id).st ≠ vEmpty ∧ (s.entry id).origin = some q.c then some id else none
  | none => none

/-- FAWN_STAGING (R17, R502): PENDING with the class, and the results record. -/
def execFawnStaging (line : Nat) (s : State) : Result :=
  .next (
    if 4 ≤ line ∨ islandRuns s = false ∨ s.on pgSaf R.fault then s else
    match parcelOf s line fun q => q.cls.isSome with
    | none => s
    | some q =>
      if s.fawnRun.any fun r => r.line == line && r.todo.contains (q.c, q.time) then s else
      let (s, staged) := match parcelEntry s q with
        | some id =>
          let t := islandStage s id (stageWord vPending 0xFF (q.cls.getD 15) 0)
          (t, (s.entry id).st == vAnnounced && (t.entry id).st == vPending)
        | none => (s, false)
      let none' := (parcelEntry s q).isNone
      let flags := b2n q.covFail + 2 * b2n staged + 4 * b2n none'
      let a := s.rd pgSaf R.fResBase line + 64 * (s.rd pgSaf R.fResIdx line % 256)
      let s := (writeOnce s tagIsland pgSaf a (fawnRecord s q ((parcelEntry s q).getD 0) flags)).2.bump pgSaf R.fResIdx (i := line)
      sweepParcels (modParcel s q fun q => { q with done := true, grid := none }))

end Sys2Proof.Machine
end

