-- ==== Sys2Proof/Machine/Dispatch.lean ====
section
/-! DEFINITION. The dispatch: one arm per command, each one direct call of its meaning. -/
namespace Sys2Proof.Machine
open Sys2Proof

/-- The effect of a command on everything but the queue. -/
def exec (i : Instr) (s : State) : Host.Outcome State Fault Refusal :=
  match i with
  | .registerWrite ini page off value wide => Sys2Proof.Machine.execRegisterWrite ini page off value wide s
  | .readLoSnapshot ini page off wide => Sys2Proof.Machine.execReadLoSnapshot ini page off wide s
  | .readHi ini page off => Sys2Proof.Machine.execReadHi ini page off s
  | .writeLoHold ini page off value => Sys2Proof.Machine.execWriteLoHold ini page off value s
  | .writeHiCommit ini page off value => Sys2Proof.Machine.execWriteHiCommit ini page off value s
  | .accessFault ini page off n write poison => Sys2Proof.Machine.execAccessFault ini page off n write poison s
  | .bar2Access n write off len data r poison => Sys2Proof.Machine.execBar2Access n write off len data r poison s
  | .enable ini page on => Sys2Proof.Machine.execEnable ini page on s
  | .softReset ini page => Sys2Proof.Machine.execSoftReset ini page s
  | .softResetDone page => Sys2Proof.Machine.execSoftResetDone page s
  | .lock ini page => Sys2Proof.Machine.execLock ini page s
  | .perfClear ini page => Sys2Proof.Machine.execPerfClear ini page s
  | .pageErrClear ini page value => Sys2Proof.Machine.execPageErrClear ini page value s
  | .injectArm ini page value => Sys2Proof.Machine.execInjectArm ini page value s
  | .selftestStart ini page sel => Sys2Proof.Machine.execSelftestStart ini page sel s
  | .selftestDone page us pass => Sys2Proof.Machine.execSelftestDone page us pass s
  | .pageOwner ini page part => Sys2Proof.Machine.execPageOwner ini page part s
  | .noticeHoldExpiry part => Sys2Proof.Machine.execNoticeHoldExpiry part s
  | .frameStart port vc fn issued hdr => Sys2Proof.Machine.execFrameStart port vc fn issued hdr s
  | .frameEnd port vc hdr => Sys2Proof.Machine.execFrameEnd port vc hdr s
  | .testBlockWriteDone stream => Sys2Proof.Machine.execTestBlockWriteDone stream s
  | .longPacket port vc dt hdr crcBad ovf px => Sys2Proof.Machine.execLongPacket port vc dt hdr crcBad ovf px s
  | .sotError port => Sys2Proof.Machine.execSotError port s
  | .slotPublish stream => Sys2Proof.Machine.execSlotPublish stream s
  | .lossTimeout stream => Sys2Proof.Machine.execLossTimeout stream s
  | .inEn ini stream on => Sys2Proof.Machine.execInEn ini stream on s
  | .cal ini stream => Sys2Proof.Machine.execCal ini stream s
  | .consumerIndexWrite ini page off value => Sys2Proof.Machine.execConsumerIndexWrite ini page off value s
  | .ringCountChange ini page off value => Sys2Proof.Machine.execRingCountChange ini page off value s
  | .ispDispatch pipe => Sys2Proof.Machine.execIspDispatch pipe s
  | .ispFrameDone pipe miss noise => Sys2Proof.Machine.execIspFrameDone pipe miss noise s
  | .secondAttemptDone pipe miss noise => Sys2Proof.Machine.execSecondAttemptDone pipe miss noise s
  | .commit ini stream => Sys2Proof.Machine.execCommit ini stream s
  | .toneWindowWrite ini stream off value => Sys2Proof.Machine.execToneWindowWrite ini stream off value s
  | .ctxEn ini stream on => Sys2Proof.Machine.execCtxEn ini stream on s
  | .start ini page slot => Sys2Proof.Machine.execStart ini page slot s
  | .slotCancel ini page slot => Sys2Proof.Machine.execSlotCancel ini page slot s
  | .fawnSubmit page ptr => Sys2Proof.Machine.execFawnSubmit page ptr s
  | .descriptorFetchDone page slot hit host => Sys2Proof.Machine.execDescriptorFetchDone page slot hit host s
  | .unitDone page slot miss hit host => Sys2Proof.Machine.execUnitDone page slot miss hit host s
  | .unitRecomputeDone page slot miss hit host => Sys2Proof.Machine.execUnitRecomputeDone page slot miss hit host s
  | .jobEnd page slot cycles => Sys2Proof.Machine.execJobEnd page slot cycles s
  | .completionRecordDone page slot hit => Sys2Proof.Machine.execCompletionRecordDone page slot hit s
  | .jobBudgetExpiry page slot => Sys2Proof.Machine.execJobBudgetExpiry page slot s
  | .jobDrainDone page slot cycles => Sys2Proof.Machine.execJobDrainDone page slot cycles s
  | .resyncClear page m => Sys2Proof.Machine.execResyncClear page m s
  | .starved page m => Sys2Proof.Machine.execStarved page m s
  | .monitorEnable ini page m on => Sys2Proof.Machine.execMonitorEnable ini page m on s
  | .vectorDone page slot wtile wecc upset res hit host => Sys2Proof.Machine.execVectorDone page slot wtile wecc upset res hit host s
  | .replayDone page slot wtile wecc upset res hit host => Sys2Proof.Machine.execReplayDone page slot wtile wecc upset res hit host s
  | .forkRunDone page slot wtile wecc upset res hit host => Sys2Proof.Machine.execForkRunDone page slot wtile wecc upset res hit host s
  | .arm ini page plane => Sys2Proof.Machine.execArm ini page plane s
  | .retire ini page plane => Sys2Proof.Machine.execRetire ini page plane s
  | .pushGo ini => Sys2Proof.Machine.execPushGo ini s
  | .pushOrderStart hit host => Sys2Proof.Machine.execPushOrderStart hit host s
  | .planeArrival page => Sys2Proof.Machine.execPlaneArrival page s
  | .planeCaptureEnd page poison => Sys2Proof.Machine.execPlaneCaptureEnd page poison s
  | .pushOrderEnd => Sys2Proof.Machine.execPushOrderEnd s
  | .load ini => Sys2Proof.Machine.execLoad ini s
  | .loadDone g hit host => Sys2Proof.Machine.execLoadDone g hit host s
  | .unload ini => Sys2Proof.Machine.execUnload ini s
  | .startDoorbell ini g req => Sys2Proof.Machine.execStartDoorbell ini g req s
  | .instanceStart g => Sys2Proof.Machine.execInstanceStart g s
  | .nodeAdmit g idx n hit host => Sys2Proof.Machine.execNodeAdmit g idx n hit host s
  | .nodeEnd g idx n hit => Sys2Proof.Machine.execNodeEnd g idx n hit s
  | .trig ini g n => Sys2Proof.Machine.execTrig ini g n s
  | .cancel ini g => Sys2Proof.Machine.execCancel ini g s
  | .cancelAll ini g => Sys2Proof.Machine.execCancelAll ini g s
  | .nodeCancel ini g n => Sys2Proof.Machine.execNodeCancel ini g n s
  | .instanceDeadline g idx => Sys2Proof.Machine.execInstanceDeadline g idx s
  | .instanceEnd g idx hit => Sys2Proof.Machine.execInstanceEnd g idx hit s
  | .hoDeadlock g idx fuse => Sys2Proof.Machine.execHoDeadlock g idx fuse s
  | .post ini sem => Sys2Proof.Machine.execPost ini sem s
  | .tryTake ini sem => Sys2Proof.Machine.execTryTake ini sem s
  | .read ini sem => Sys2Proof.Machine.execRead ini sem s
  | .set ini sem => Sys2Proof.Machine.execSet ini sem s
  | .semOwn ini pair part => Sys2Proof.Machine.execSemOwn ini pair part s
  | .mbxPush ini c => Sys2Proof.Machine.execMbxPush ini c s
  | .mbxPop c => Sys2Proof.Machine.execMbxPop c s
  | .nodeDone c g n status => Sys2Proof.Machine.execNodeDone c g n status s
  | .run ini c on => Sys2Proof.Machine.execRun ini c on s
  | .coreHalted c => Sys2Proof.Machine.execCoreHalted c s
  | .tcmData ini c value => Sys2Proof.Machine.execTcmData ini c value s
  | .coreAccess c op addr size value r host => Sys2Proof.Machine.execCoreAccess c op addr size value r host s
  | .coreTrap c cause pc => Sys2Proof.Machine.execCoreTrap c cause pc s
  | .coreTimer c => Sys2Proof.Machine.execCoreTimer c s
  | .startDb ini bar4 c value => Sys2Proof.Machine.execStartDb ini bar4 c value s
  | .ringDoorbell ini bar4 c value => Sys2Proof.Machine.execRingDoorbell ini bar4 c value s
  | .extend ini bar4 c => Sys2Proof.Machine.execExtend ini bar4 c s
  | .channelCancel ini c => Sys2Proof.Machine.execChannelCancel ini c s
  | .channelDisable ini c => Sys2Proof.Machine.execChannelDisable ini c s
  | .smvDescFetch c hit host => Sys2Proof.Machine.execSmvDescFetch c hit host s
  | .smvReadResponse c r writes w bufBad host => Sys2Proof.Machine.execSmvReadResponse c r writes w bufBad host s
  | .smvTransferFail c r host => Sys2Proof.Machine.execSmvTransferFail c r host s
  | .smvCompletionPoint c w bufBad => Sys2Proof.Machine.execSmvCompletionPoint c w bufBad s
  | .flushDone c hit host => Sys2Proof.Machine.execFlushDone c hit host s
  | .writeBackDone c hit => Sys2Proof.Machine.execWriteBackDone c hit s
  | .smvRecordDone c hit => Sys2Proof.Machine.execSmvRecordDone c hit s
  | .tailRereadData c hit host => Sys2Proof.Machine.execTailRereadData c hit host s
  | .smvBudgetExpiry c => Sys2Proof.Machine.execSmvBudgetExpiry c s
  | .channelDrainDone c => Sys2Proof.Machine.execChannelDrainDone c s
  | .evtClear ini page mask again => Sys2Proof.Machine.execEvtClear ini page mask again s
  | .queueStart ini bar4 q value => Sys2Proof.Machine.execQueueStart ini bar4 q value s
  | .queueRelease ini bar4 q value => Sys2Proof.Machine.execQueueRelease ini bar4 q value s
  | .streamDescFetch q hit host => Sys2Proof.Machine.execStreamDescFetch q hit host s
  | .pfqResponse q idx back host => Sys2Proof.Machine.execPfqResponse q idx back host s
  | .pfqTransferFail q back host => Sys2Proof.Machine.execPfqTransferFail q back host s
  | .creditReturn q => Sys2Proof.Machine.execCreditReturn q s
  | .queueCancel ini q => Sys2Proof.Machine.execQueueCancel ini q s
  | .queueDrainDone q => Sys2Proof.Machine.execQueueDrainDone q s
  | .snap ini q => Sys2Proof.Machine.execSnap ini q s
  | .auditCapture q => Sys2Proof.Machine.execAuditCapture q s
  | .pfqBudgetExpiry q => Sys2Proof.Machine.execPfqBudgetExpiry q s
  | .queueDisable ini q => Sys2Proof.Machine.execQueueDisable ini q s
  | .translationResponse unit page dest rd wr => Sys2Proof.Machine.execTranslationResponse unit page dest rd wr s
  | .pageResponse fn prg code => Sys2Proof.Machine.execPageResponse fn prg code s
  | .atsInvalidate fn addr n tag => Sys2Proof.Machine.execAtsInvalidate fn addr n tag s
  | .invalidationComplete fn tag => Sys2Proof.Machine.execInvalidationComplete fn tag s
  | .transactionArrival init tid sub op addr len data seq ecc clash host => Sys2Proof.Machine.execTransactionArrival init tid sub op addr len data seq ecc clash host s
  | .fabricTimeout init tid => Sys2Proof.Machine.execFabricTimeout init tid s
  | .responseArrival init tid epoch => Sys2Proof.Machine.execResponseArrival init tid epoch s
  | .regPerm ini value => Sys2Proof.Machine.execRegPerm ini value s
  | .create ini => Sys2Proof.Machine.execCreate ini s
  | .teardown ini => Sys2Proof.Machine.execTeardown ini s
  | .teardownDrained part => Sys2Proof.Machine.execTeardownDrained part s
  | .zeroFillDone => Sys2Proof.Machine.execZeroFillDone s
  | .dramReread line res => Sys2Proof.Machine.execDramReread line res s
  | .init ini idx => Sys2Proof.Machine.execInit ini idx s
  | .trainingDone idx fail => Sys2Proof.Machine.execTrainingDone idx fail s
  | .fillDone => Sys2Proof.Machine.execFillDone s
  | .patrolRead ecc => Sys2Proof.Machine.execPatrolRead ecc s
  | .bankInh ini mask => Sys2Proof.Machine.execBankInh ini mask s
  | .configWrite n field value => Sys2Proof.Machine.execConfigWrite n field value s
  | .flr n => Sys2Proof.Machine.execFlr n s
  | .linkDown hot => Sys2Proof.Machine.execLinkDown hot s
  | .retrain ini => Sys2Proof.Machine.execRetrain ini s
  | .queuePairCreate ini n q => Sys2Proof.Machine.execQueuePairCreate ini n q s
  | .delete ini n q => Sys2Proof.Machine.execDelete ini n q s
  | .deleteDone n q => Sys2Proof.Machine.execDeleteDone n q s
  | .sqTailDoorbell n q value => Sys2Proof.Machine.execSqTailDoorbell n q value s
  | .cqHeadDoorbell n q value => Sys2Proof.Machine.execCqHeadDoorbell n q value s
  | .commandFetch n q hit host => Sys2Proof.Machine.execCommandFetch n q hit host s
  | .nop n q => Sys2Proof.Machine.execNop n q s
  | .graphLoad n q => Sys2Proof.Machine.execGraphLoad n q s
  | .graphUnload n q => Sys2Proof.Machine.execGraphUnload n q s
  | .graphStart n q => Sys2Proof.Machine.execGraphStart n q s
  | .graphCancel n q => Sys2Proof.Machine.execGraphCancel n q s
  | .graphCancelAll n q => Sys2Proof.Machine.execGraphCancelAll n q s
  | .nodeTrig n q => Sys2Proof.Machine.execNodeTrig n q s
  | .nodeCancelCommand n q => Sys2Proof.Machine.execNodeCancelCommand n q s
  | .semOp n q => Sys2Proof.Machine.execSemOp n q s
  | .attest n q => Sys2Proof.Machine.execAttest n q s
  | .attestSigned hit => Sys2Proof.Machine.execAttestSigned hit s
  | .commandComplete n q idx hit => Sys2Proof.Machine.execCommandComplete n q idx hit s
  | .conditionRecord n q hit => Sys2Proof.Machine.execConditionRecord n q hit s
  | .vpRead id apOk ecc => Sys2Proof.Machine.execVpRead id apOk ecc s
  | .announce id pos ecc => Sys2Proof.Machine.execAnnounce id pos ecc s
  | .ack id seq ecc => Sys2Proof.Machine.execAck id seq ecc s
  | .badWrite id word parityOk => Sys2Proof.Machine.execBadWrite id word parityOk s
  | .eyeLeadingEdge line => Sys2Proof.Machine.execEyeLeadingEdge line s
  | .eyeTrailingEdge line => Sys2Proof.Machine.execEyeTrailingEdge line s
  | .unpairedEvt line => Sys2Proof.Machine.execUnpairedEvt line s
  | .unpairedAnn id => Sys2Proof.Machine.execUnpairedAnn id s
  | .missed id => Sys2Proof.Machine.execMissed id s
  | .stagingRequest ini id word => Sys2Proof.Machine.execStagingRequest ini id word s
  | .lineCfg ini line off value => Sys2Proof.Machine.execLineCfg ini line off value s
  | .pinCfg ini p value => Sys2Proof.Machine.execPinCfg ini p value s
  | .pinSwitchEnd p sample => Sys2Proof.Machine.execPinSwitchEnd p sample s
  | .inputAccept p level => Sys2Proof.Machine.execInputAccept p level s
  | .encoderEdge e a b => Sys2Proof.Machine.execEncoderEdge e a b s
  | .trigger t => Sys2Proof.Machine.execTrigger t s
  | .triggerLate t => Sys2Proof.Machine.execTriggerLate t s
  | .strobeStart t => Sys2Proof.Machine.execStrobeStart t s
  | .pulseEnd t strobe => Sys2Proof.Machine.execPulseEnd t strobe s
  | .tgCfg ini t off value => Sys2Proof.Machine.execTgCfg ini t off value s
  | .pwmPeriodStart k => Sys2Proof.Machine.execPwmPeriodStart k s
  | .uartTx ini u value => Sys2Proof.Machine.execUartTx ini u value s
  | .uartRx ini u => Sys2Proof.Machine.execUartRx ini u s
  | .uartByteReceived u value perr ferr => Sys2Proof.Machine.execUartByteReceived u value perr ferr s
  | .uartByteSent u => Sys2Proof.Machine.execUartByteSent u s
  | .cmd ini idx value => Sys2Proof.Machine.execCmd ini idx value s
  | .cmdStart idx => Sys2Proof.Machine.execCmdStart idx s
  | .cmdDone idx status data => Sys2Proof.Machine.execCmdDone idx status data s
  | .txData ini idx value => Sys2Proof.Machine.execTxData ini idx value s
  | .txData4 ini idx value => Sys2Proof.Machine.execTxData4 ini idx value s
  | .rxData ini idx => Sys2Proof.Machine.execRxData ini idx s
  | .resp ini idx => Sys2Proof.Machine.execResp ini idx s
  | .ibiArrival idx addr data => Sys2Proof.Machine.execIbiArrival idx addr data s
  | .ibi ini idx => Sys2Proof.Machine.execIbi ini idx s
  | .haltClr ini idx => Sys2Proof.Machine.execHaltClr ini idx s
  | .planeCommit ini plane slot => Sys2Proof.Machine.execPlaneCommit ini plane slot s
  | .release ini plane => Sys2Proof.Machine.execRelease ini plane s
  | .latchPoint => Sys2Proof.Machine.execLatchPoint s
  | .underrun plane line late ecc => Sys2Proof.Machine.execUnderrun plane line late ecc s
  | .tcommit ini => Sys2Proof.Machine.execTcommit ini s
  | .monRun ini on => Sys2Proof.Machine.execMonRun ini on s
  | .pixelPllLock => Sys2Proof.Machine.execPixelPllLock s
  | .train ini => Sys2Proof.Machine.execTrain ini s
  | .trainDone ok failStep swing pre => Sys2Proof.Machine.execTrainDone ok failStep swing pre s
  | .linkOff ini => Sys2Proof.Machine.execLinkOff ini s
  | .irqHpd lost => Sys2Proof.Machine.execIrqHpd lost s
  | .hpdUnplug => Sys2Proof.Machine.execHpdUnplug s
  | .hpdPlug => Sys2Proof.Machine.execHpdPlug s
  | .auxGo ini => Sys2Proof.Machine.execAuxGo ini s
  | .auxReply kind data => Sys2Proof.Machine.execAuxReply kind data s
  | .auxTimeout => Sys2Proof.Machine.execAuxTimeout s
  | .doubtReport => Sys2Proof.Machine.execDoubtReport s
  | .doubtReevaluate => Sys2Proof.Machine.execDoubtReevaluate s
  | .doubtReq ini tag line => Sys2Proof.Machine.execDoubtReq ini tag line s
  | .finalConfirm id => Sys2Proof.Machine.execFinalConfirm id s
  | .wdKick ini => Sys2Proof.Machine.execWdKick ini s
  | .wdExpired p => Sys2Proof.Machine.execWdExpired p s
  | .deviceWdExpiry => Sys2Proof.Machine.execDeviceWdExpiry s
  | .lockstepMismatch => Sys2Proof.Machine.execLockstepMismatch s
  | .clockWindowEnd khz => Sys2Proof.Machine.execClockWindowEnd khz s
  | .fawnFramePair line pair left right => Sys2Proof.Machine.execFawnFramePair line pair left right s
  | .fawnEvaluation line bad => Sys2Proof.Machine.execFawnEvaluation line bad s
  | .fawnStaging line => Sys2Proof.Machine.execFawnStaging line s
  | .resume ini value => Sys2Proof.Machine.execResume ini value s
  | .checkerInjection page bit turn seen => Sys2Proof.Machine.execCheckerInjection page bit turn seen s
  | .checkerTimeout page => Sys2Proof.Machine.execCheckerTimeout page s
  | .redispatch g idx n => Sys2Proof.Machine.execRedispatch g idx n s
  | .unfence ini page => Sys2Proof.Machine.execUnfence ini page s
  | .autoReset => Sys2Proof.Machine.execAutoReset s
  | .logRecordWrite hit => Sys2Proof.Machine.execLogRecordWrite hit s
  | .ldGo ini => Sys2Proof.Machine.execLdGo ini s
  | .imageLoadDone hit host => Sys2Proof.Machine.execImageLoadDone hit host s
  | .updMark ini value => Sys2Proof.Machine.execUpdMark ini value s
  | .rbGo ini => Sys2Proof.Machine.execRbGo ini s
  | .fuseBlowDone => Sys2Proof.Machine.execFuseBlowDone s
  | .rotpkGo ini => Sys2Proof.Machine.execRotpkGo ini s
  | .idcode => Sys2Proof.Machine.execIdcode s
  | .bypass => Sys2Proof.Machine.execBypass s
  | .samplePreload cells => Sys2Proof.Machine.execSamplePreload cells s
  | .extest => Sys2Proof.Machine.execExtest s
  | .clamp => Sys2Proof.Machine.execClamp s
  | .highz => Sys2Proof.Machine.execHighz s
  | .dapacc => Sys2Proof.Machine.execDapacc s
  | .tapReset => Sys2Proof.Machine.execTapReset s
  | .debugHalt c pc => Sys2Proof.Machine.execDebugHalt c pc s
  | .debugStep c pc => Sys2Proof.Machine.execDebugStep c pc s
  | .debugResume c => Sys2Proof.Machine.execDebugResume c s
  | .debugRegisterWrite c reg value => Sys2Proof.Machine.execDebugRegisterWrite c reg value s
  | .debugTriggerHit c pc => Sys2Proof.Machine.execDebugTriggerHit c pc s
  | .traceSample => Sys2Proof.Machine.execTraceSample s
  | .holdEntry => Sys2Proof.Machine.execHoldEntry s
  | .napEntry => Sys2Proof.Machine.execNapEntry s
  | .computeRequestWake => Sys2Proof.Machine.execComputeRequestWake s
  | .sleepGo ini rung => Sys2Proof.Machine.execSleepGo ini rung s
  | .rungEntryDone => Sys2Proof.Machine.execRungEntryDone s
  | .wake src => Sys2Proof.Machine.execWake src s
  | .rungExitDone => Sys2Proof.Machine.execRungExitDone s
  | .tempUpdate temps => Sys2Proof.Machine.execTempUpdate temps s
  | .tPeak ini => Sys2Proof.Machine.execTPeak ini s
  | .por mode => Sys2Proof.Machine.execPor mode s
  | .porAssert => Sys2Proof.Machine.execPorAssert s
  | .rstN => Sys2Proof.Machine.execRstN s
  | .warm ini key => Sys2Proof.Machine.execWarm ini key s
  | .cold ini key => Sys2Proof.Machine.execCold ini key s
  | .warmBusRelease => Sys2Proof.Machine.execWarmBusRelease s
  | .warmResetEntry => Sys2Proof.Machine.execWarmResetEntry s
  | .resetRelease => Sys2Proof.Machine.execResetRelease s
  | .bootRom flash found quad => Sys2Proof.Machine.execBootRom flash found quad s
  | .romDone => Sys2Proof.Machine.execRomDone s
  | .recovGo ini => Sys2Proof.Machine.execRecovGo ini s
  | .startingEnd => Sys2Proof.Machine.execStartingEnd s
  | .ulps port lane enter => Sys2Proof.Machine.execUlps port lane enter s
  | .skewCalibration port => Sys2Proof.Machine.execSkewCalibration port s
  | .dlUp width rate rev => Sys2Proof.Machine.execDlUp width rate rev s
  | .linkRecovery back us width rate => Sys2Proof.Machine.execLinkRecovery back us width rate s
  | .linkReplay n => Sys2Proof.Machine.execLinkReplay n s
  | .aspmL1 on => Sys2Proof.Machine.execAspmL1 on s
  | .pcieRefclkPresence on => Sys2Proof.Machine.execPcieRefclkPresence on s
  | .vpClkStop => Sys2Proof.Machine.execVpClkStop s
  | .pwmHighEnd k => Sys2Proof.Machine.execPwmHighEnd k s
  | .mr4Read idx rate => Sys2Proof.Machine.execMr4Read idx rate s
  | .islandFirmwareKick => Sys2Proof.Machine.execIslandFirmwareKick s
  | .islandTcmEcc => Sys2Proof.Machine.execIslandTcmEcc s

end Sys2Proof.Machine
end

