-- ==== Sys2Proof/Machine/Tick.lean ====
section
/-! DEFINITION. One tick of device time: what the passing of 10 ns brings about by itself (R11, R46, R505, R557, R564, R569,
R587). -/
namespace Sys2Proof.Machine
open Sys2Proof

/-- Clock groups of the blocks (R46, R563, R567). -/
inductive ClockGroup
  | fab
  | arr
  | vis
  | ctl
  | slow
  | island
deriving DecidableEq, Repr

/-- The block clock of a page (R46). -/
def clockOf : PageKind → ClockGroup
  | .csi | .smv | .pfq | .ch | .pq | .fab | .svm | .lpc | .scr | .pci | .hq => .fab
  | .sta | .lvu => .arr
  | .isp | .ctx | .pyr | .wrp | .hmp | .ste | .flw | .fea => .vis
  | .fgs | .cc => .ctl
  | .saf | .chk | .erl => .island
  | _ => .slow

/-- Cycles of a clock group in the tick that ends at time t + 1 (R563); the island runs at 32 MHz. -/
def groupCycles (t : Nat) : ClockGroup → Nat
  | .fab => 12
  | .arr => 8
  | .vis => 6
  | .ctl => 4
  | .slow => 1
  | .island => 32 * (t + 1) / 100 - 32 * t / 100

/-- Cycles of the block clock of page p in this tick: none while its clock is gated or the PLL is off, and fewer on a
throttled array (R568, R584, R587). -/
def pageCycles (s : State) (p : Nat) (k : PageKind) : Nat :=
  let g := clockOf k
  let r := s.rd pgPwr R.rung
  if g = .slow then 1
  else if g = .island then (if 3 ≤ r then 0 else groupCycles s.time g)
  else if s.on pgClk R.pllLock = false then 0
  else if (r = 1 ∨ r = 2) ∧ computePages.contains p then 0
  else if k = .sta then groupCycles s.time g - min 7 (s.rd pgPwr R.thermLevel)
  else groupCycles s.time g

/-- The cycle counters of a page (R46). -/
def perfTick (s : State) (p : Nat) : State :=
  match pageKind p with
  | none => s
  | some k =>
    if s.rd p R.perfEn = 0 then s
    else
      let n := pageCycles s p k
      if n = 0 then s
      else
        let st := s.rd p R.pstate
        let s := s.perf p 0x01 n
        if st = psActive then s.perf p 0x02 n
        else if st = psDraining ∨ st = psResetting then s.perf p 0x03 n else s

/-- The cycle counters of every page. -/
def perfTicks (s : State) : State := (List.range 0x188).foldl perfTick s

/-- What the power unit counts in a tick: the time for which every compute page has been at rest (R569), and what
throttling skips (R587). -/
def powerTick (s : State) : State :=
  { s with pw := { s.pw with idle := if computeAtRest s then s.pw.idle + 1 else 0,
                             skipped := s.pw.skipped + s.rd pgPwr R.thermLevel } }

/-- One tick: nothing happens while the device is held in cold reset; in warm reset device time alone goes on (R594,
R597). -/
def tick (s : State) : State :=
  if s.rst.ph = 4 then s
  else if s.rst.ph = 3 then { s with time := s.time + 1 }
  else
    let t := rotSweep (traceTick (powerTick (perfTicks s)))
    { t with time := t.time + 1 }

end Sys2Proof.Machine
end

