-- ==== Sys2Proof/Safety.lean ====
section
/-! DEFINITION. The terms in which claims speak: what a command answers, what a register write finds, and which registers,
bytes and parts of the state a command leaves alone. -/
namespace Sys2Proof
open Sys2Proof.Machine

/-- Where `w` holds, the command answers the next state f s. -/
def Does (c : Instr) (w : State → Prop) (f : State → State) : Prop := ∀ s, w s → exec c s = .next (f s)

/-- Where `w` holds, the command answers a next state t of which `q s t` is true. -/
def Brings (c : Instr) (w : State → Prop) (q : State → State → Prop) : Prop := ∀ s, w s → ∃ t, exec c s = .next t ∧ q s t

/-- The bus is up, the page is present, and R47 lets the initiator write at this offset. -/
def Reached (s : State) (ini : Ini) (p off : Nat) : Prop :=
  busOk s ini = true ∧ pageKind p ≠ none ∧ mayWrite (hostWake s ini) ini p off = true

/-- What a register write that reaches its page finds there: a host access has woken the device, the debug port has left its
mark, and the access is answered with success. -/
def admitted (s : State) (ini : Ini) : State :=
  let u := hostWake s ini
  { (if ini = .dap then debugTouch u else u) with reply := ⟨0, 0⟩ }

/-- A register write that reaches its page and finds `w` there has the effect f. -/
def Writes (c : Instr) (ini : Ini) (p off : Nat) (w : State → Prop) (f : State → State) : Prop :=
  ∀ s, Reached s ini p off → w (admitted s ini) → exec c s = .next (f (admitted s ini))

/-- A register write that reaches its page and finds `w` there answers a next state t of which `q u t` is true, u being
what it found. -/
def WriteBrings (c : Instr) (ini : Ini) (p off : Nat) (w : State → Prop) (q : State → State → Prop) : Prop :=
  ∀ s, Reached s ini p off → w (admitted s ini) → ∃ t, exec c s = .next t ∧ q (admitted s ini) t

/-- The bus is up, the page is present, and R47 or R48 lets the initiator read it. -/
def Readable (s : State) (ini : Ini) (p : Nat) : Prop :=
  busOk s ini = true ∧ pageKind p ≠ none ∧ mayRead (hostWake s ini) ini p = true

/-- What a read that pops finds. -/
def popAdmit (s : State) (ini : Ini) : State :=
  let u := hostWake s ini
  if ini = .dap then debugTouch u else u

/-- A read that pops answers `v` and leaves `f`, where `w` holds of what it finds. -/
def Pops (c : Instr) (ini : Ini) (p : Nat) (w : State → Prop) (v : State → Nat) (f : State → State) : Prop :=
  ∀ s, Readable s ini p → w (popAdmit s ini) →
    exec c s = .next { f (popAdmit s ini) with reply := ⟨v (popAdmit s ini), 0⟩ }

/-- No fault injection is armed on the page. -/
def calm (s : State) (p : Nat) : Bool := s.rd p R.injArm == 0 && s.rd p R.injCont == 0

/-- Every register cell outside a list of cells reads as before. -/
def RegsBut (ks : List Nat) (s t : State) : Prop := ∀ k, k ∉ ks → sfind t.regs k = sfind s.regs k

/-- Every byte of memory outside n bytes from a reads as before. -/
def MemBut (a n : Nat) (s t : State) : Prop := ∀ x, x < a ∨ a + n ≤ x → t.byte x = s.byte x

/-- Every byte of memory reads as before. -/
def MemSame (s t : State) : Prop := ∀ x, t.byte x = s.byte x

/-- Nothing but register cells differs. -/
def OnlyRegs (s t : State) : Prop := t = { s with regs := t.regs }

/-- A page whose ENABLE has no action of its own: neither a CSI-2 port, a control core, a channel nor a queue. -/
def plainPage (p : Nat) : Bool :=
  match pageKind p with
  | none => false
  | some .csi => false
  | some .cc => false
  | some .ch => false
  | some .pq => false
  | _ => true

/-- What a command on the Verdict Port finds of a write cycle: the cycle is seen and counted. -/
def vpCycle (s : State) : State := ((vpEdge s).bump pgVpt R.vpWriteCnt).perf pgVpt 0x04

/-- The bus is up, function n owns its queue page, and its partition is ACTIVE (R29, R30). -/
def DoorOpen (s : State) (n owner : Nat) : Prop :=
  busOk s (.fn n) = true ∧ owner = n ∧ (hostWake s (.fn n)).rd pgFab R.partState n = 1

/-- What a doorbell that is let through finds. -/
def doorAdmit (s : State) (n : Nat) : State := { hostWake s (.fn n) with reply := ⟨0, 0⟩ }

/-- The next operation of initiator port i is new to the unit `target` (R370, R371). -/
abbrev Fresh (s : State) (i target : Nat) : Prop :=
  let d := seqDelta (sget 1 s.seqs i) (sget {} s.dedups (dedupKey target i)).newest
  1 ≤ d ∧ d ≤ 0x7FFF

/-- Port i has issued an operation: its SEQ is taken, and its page has counted a write transaction (R46, R370). -/
def numbered (s : State) (i : Nat) : State :=
  let u : State := { s with seqs := sset 1 s.seqs i (nextSeq (sget 1 s.seqs i)) }
  match pageOfInit i with
  | some p => u.perf p 0x07
  | none => u

/-- What a non-idempotent operation f that port i issues leaves where it is new to its target: its effect, and the target's
record of its result (R370, R371). -/
def appliedOnce (s : State) (i target : Nat) (f : State → Nat × State) : State :=
  let q := sget 1 s.seqs i % 65536
  let k := dedupKey target i
  let x := f (numbered s i)
  { x.2 with dedups := sset {} x.2.dedups k { newest := q, results := ((q, x.1) :: (sget {} s.dedups k).results).take 32 } }

/-- The register write that a command is, where that is all it is: who makes it, on which page and at which offset. -/
def rowAt : Instr → Option (Ini × Nat × Nat)
  | .enable ini p _ => some (ini, p, 0x00C)
  | .softReset ini p => some (ini, p, 0x00C)
  | .lock ini p => some (ini, p, 0x00C)
  | .perfClear ini p => some (ini, p, 0x00C)
  | .pageErrClear ini p _ => some (ini, p, 0x014)
  | .injectArm ini p _ => some (ini, p, 0x020)
  | .selftestStart ini p _ => some (ini, p, 0x024)
  | .pageOwner ini p _ => some (ini, p, 0x028)
  | .inEn ini k _ => if k < 48 then some (ini, pgCtx k, 0x080) else none
  | .cal ini k => if k < 48 then some (ini, pgCtx k, 0x080) else none
  | .commit ini k => if k < 48 then some (ini, pgCtx k, 0x100) else none
  | .ctxEn ini k _ => if k < 48 then some (ini, pgCtx k, 0x100) else none
  | .pushGo ini => some (ini, pgSta 0, 0x110)
  | .load ini => some (ini, pgFgs, 0x090)
  | .unload ini => some (ini, pgFgs, 0x090)
  | .semOwn ini n k => if n < 512 ∧ k < 8 then some (ini, pgFgs, 0x0B8) else none
  | .run ini c _ => if c < 8 then some (ini, pgCc c, 0x080) else none
  | .tcmData ini c _ => if c < 8 then some (ini, pgCc c, 0x094) else none
  | .mbxPush ini c => if c < 8 then some (ini, pgCc c, 0x0C0) else none
  | .channelCancel ini c => if c < 64 then some (ini, pgCh c, 0x0E0) else none
  | .channelDisable ini c => if c < 64 then some (ini, pgCh c, 0x00C) else none
  | .queueCancel ini q => if q < 64 then some (ini, pgPq q, 0x0B8) else none
  | .queueDisable ini q => if q < 64 then some (ini, pgPq q, 0x00C) else none
  | .snap ini q => if q < 64 then some (ini, pgPq q, 0x0D0) else none
  | .regPerm ini _ => some (ini, pgFab, 0x094)
  | .create ini => some (ini, pgFab, 0x0A4)
  | .teardown ini => some (ini, pgFab, 0x0A4)
  | .init ini n => if n < 4 then some (ini, pgLpc n, 0x084) else none
  | .bankInh ini _ => some (ini, pgSvm, 0x080)
  | .retrain ini => some (ini, pgPci, 0x084)
  | .pinCfg ini n _ => if n < 24 then some (ini, pgLio, 0x100 + 4 * n) else none
  | .uartTx ini n _ => if n < 2 then some (ini, pgLio, 0x384 + 0x20 * n) else none
  | .txData ini n _ => if n < 12 then some (ini, pgI3c n, 0x090) else none
  | .txData4 ini n _ => if n < 12 then some (ini, pgI3c n, 0x08C) else none
  | .haltClr ini n => if n < 12 then some (ini, pgI3c n, 0x0A4) else none
  | .release ini k => if k < 4 then some (ini, pgMon, 0x110 + 0x100 * k) else none
  | .tcommit ini => some (ini, pgMon, 0x080)
  | .monRun ini _ => some (ini, pgMon, 0x080)
  | .train ini => some (ini, pgDp, 0x084)
  | .linkOff ini => some (ini, pgDp, 0x084)
  | .auxGo ini => some (ini, pgDp, 0x08C)
  | .doubtReq ini _ _ => some (ini, pgSaf, 0x088)
  | .wdKick ini => some (ini, pgSaf, 0x08C)
  | .resume ini _ => some (ini, pgSaf, 0x084)
  | .unfence ini _ => some (ini, pgErl, 0x0A0)
  | .ldGo ini => some (ini, pgSec, 0x0EC)
  | .updMark ini _ => some (ini, pgSec, 0x0F4)
  | .rbGo ini => some (ini, pgFus, 0x088)
  | .rotpkGo ini => some (ini, pgFus, 0x0F0)
  | .sleepGo ini _ => some (ini, pgPwr, 0x080)
  | .warm ini _ => some (ini, pgRst, 0x080)
  | .cold ini _ => some (ini, pgRst, 0x080)
  | .recovGo ini => some (ini, pgRst, 0x09C)
  | _ => none

/-- The sparse parts of the state are in canonical form: memory and the tightly coupled memories list no byte that reads
as what is not listed, and register cells rise. -/
def Canonical (s : State) : Prop := memWf s.mem = true ∧ memWf s.tcm = true ∧ srising s.regs = true

end Sys2Proof
end

