-- ==== Sys2Proof/WellFormed.lean ====
section
/-! DEFINITION. Well-formed commands: every operand lies within the range the spec gives it. -/
namespace Sys2Proof

/-- An initiator the device has (R353). -/
def Ini.wf : Ini → Bool
  | .fn n => decide (n < 8)
  | .core c => decide (c < 8)
  | .island => true
  | .rotation => true
  | .dap => true

/-- Cells that hold bytes, at device addresses. -/
def bytesOk (l : Cells) : Bool := l.all fun c => decide (c.1 < 2 ^ 64) && decide (c.2 < 256)

/-- The operands of a command lie within their ranges. -/
def Instr.wf : Instr → Bool
  | .registerWrite ini page off value _ =>
    ini.wf && decide (page < 0x4000) && decide (off < 4096) && decide (value < 2 ^ 64)
  | .readLoSnapshot ini page off _ => ini.wf && decide (page < 0x4000) && decide (off < 4096)
  | .readHi ini page off => ini.wf && decide (page < 0x4000) && decide (off < 4096)
  | .writeLoHold ini page off value =>
    ini.wf && decide (page < 0x4000) && decide (off < 4096) && decide (value < 2 ^ 32)
  | .writeHiCommit ini page off value =>
    ini.wf && decide (page < 0x4000) && decide (off < 4096) && decide (value < 2 ^ 32)
  | .accessFault ini page off _ _ _ => ini.wf && decide (page < 0x4000) && decide (off < 4096)
  | .bar2Access n _ off len data _ _ =>
    decide (n < 8) && decide (off < 0x10000000) && decide (len < 513) && data.all (decide <| · < 256)
  | .enable ini page _ => ini.wf && decide (page < 0x4000)
  | .softReset ini page => ini.wf && decide (page < 0x4000)
  | .softResetDone page => decide (page < 0x4000)
  | .lock ini page => ini.wf && decide (page < 0x4000)
  | .perfClear ini page => ini.wf && decide (page < 0x4000)
  | .pageErrClear ini page value => ini.wf && decide (page < 0x4000) && decide (value < 2 ^ 32)
  | .injectArm ini page value => ini.wf && decide (page < 0x4000) && decide (value < 2 ^ 32)
  | .selftestStart ini page sel => ini.wf && decide (page < 0x4000) && decide (sel < 256)
  | .selftestDone page _ _ => decide (page < 0x4000)
  | .pageOwner ini page part => ini.wf && decide (page < 0x4000) && decide (part < 8)
  | .noticeHoldExpiry part => decide (part < 8)
  | .frameStart port vc fn _ _ => decide (port < 12) && decide (vc < 16) && decide (fn < 65536)
  | .frameEnd port vc _ => decide (port < 12) && decide (vc < 16)
  | .testBlockWriteDone stream => decide (stream < 48)
  | .longPacket port vc dt _ _ _ _ => decide (port < 12) && decide (vc < 16) && decide (dt < 64)
  | .sotError port => decide (port < 12)
  | .slotPublish stream => decide (stream < 48)
  | .lossTimeout stream => decide (stream < 48)
  | .inEn ini stream _ => ini.wf && decide (stream < 48)
  | .cal ini stream => ini.wf && decide (stream < 48)
  | .consumerIndexWrite ini page off value =>
    ini.wf && decide (page < 0x4000) && decide (off < 4096) && decide (value < 2 ^ 32)
  | .ringCountChange ini page off value =>
    ini.wf && decide (page < 0x4000) && decide (off < 4096) && decide (value < 2 ^ 32)
  | .ispDispatch pipe => decide (pipe < 4)
  | .ispFrameDone pipe _ _ => decide (pipe < 4)
  | .secondAttemptDone pipe _ _ => decide (pipe < 4)
  | .commit ini stream => ini.wf && decide (stream < 48)
  | .toneWindowWrite ini stream off value =>
    ini.wf && decide (stream < 48) && decide (off < 4096) && decide (value < 2 ^ 32)
  | .ctxEn ini stream _ => ini.wf && decide (stream < 48)
  | .start ini page slot => ini.wf && decide (page < 0x4000) && decide (slot < 8)
  | .slotCancel ini page slot => ini.wf && decide (page < 0x4000) && decide (slot < 8)
  | .fawnSubmit page ptr => decide (page < 0x4000) && decide (ptr < 2 ^ 64)
  | .descriptorFetchDone page slot _ host => decide (page < 0x4000) && decide (slot < 8) && bytesOk host
  | .unitDone page slot _ _ host => decide (page < 0x4000) && decide (slot < 8) && bytesOk host
  | .unitRecomputeDone page slot _ _ host => decide (page < 0x4000) && decide (slot < 8) && bytesOk host
  | .jobEnd page slot _ => decide (page < 0x4000) && decide (slot < 8)
  | .completionRecordDone page slot _ => decide (page < 0x4000) && decide (slot < 8)
  | .jobBudgetExpiry page slot => decide (page < 0x4000) && decide (slot < 8)
  | .jobDrainDone page slot _ => decide (page < 0x4000) && decide (slot < 8)
  | .resyncClear page m => decide (page < 0x4000) && decide (m < 2)
  | .starved page m => decide (page < 0x4000) && decide (m < 2)
  | .monitorEnable ini page m _ => ini.wf && decide (page < 0x4000) && decide (m < 2)
  | .vectorDone page slot _ _ _ _ _ host => decide (page < 0x4000) && decide (slot < 8) && bytesOk host
  | .replayDone page slot _ _ _ _ _ host => decide (page < 0x4000) && decide (slot < 8) && bytesOk host
  | .forkRunDone page slot _ _ _ _ _ host => decide (page < 0x4000) && decide (slot < 8) && bytesOk host
  | .arm ini page plane => ini.wf && decide (page < 0x4000) && decide (plane < 32)
  | .retire ini page plane => ini.wf && decide (page < 0x4000) && decide (plane < 32)
  | .pushGo ini => ini.wf
  | .pushOrderStart _ host => bytesOk host
  | .planeArrival page => decide (page < 0x4000)
  | .planeCaptureEnd page _ => decide (page < 0x4000)
  | .pushOrderEnd => true
  | .load ini => ini.wf
  | .loadDone g _ host => decide (g < 256) && bytesOk host
  | .unload ini => ini.wf
  | .startDoorbell ini g req => ini.wf && decide (g < 256) && decide (req < 65536)
  | .instanceStart g => decide (g < 256)
  | .nodeAdmit g i n _ host => decide (g < 256) && decide (i < 2 ^ 32) && decide (n < 1024) && bytesOk host
  | .nodeEnd g i n _ => decide (g < 256) && decide (i < 2 ^ 32) && decide (n < 1024)
  | .trig ini g n => ini.wf && decide (g < 256) && decide (n < 1024)
  | .cancel ini g => ini.wf && decide (g < 256)
  | .cancelAll ini g => ini.wf && decide (g < 256)
  | .nodeCancel ini g n => ini.wf && decide (g < 256) && decide (n < 1024)
  | .instanceDeadline g i => decide (g < 256) && decide (i < 2 ^ 32)
  | .instanceEnd g i _ => decide (g < 256) && decide (i < 2 ^ 32)
  | .hoDeadlock g i fuse => decide (g < 256) && decide (i < 2 ^ 32) && decide (fuse < 16)
  | .post ini sem => ini.wf && decide (sem < 1024)
  | .tryTake ini sem => ini.wf && decide (sem < 1024)
  | .read ini sem => ini.wf && decide (sem < 1024)
  | .set ini sem => ini.wf && decide (sem < 1024)
  | .semOwn ini pair part => ini.wf && decide (pair < 512) && decide (part < 8)
  | .mbxPush ini c => ini.wf && decide (c < 8)
  | .mbxPop c => decide (c < 8)
  | .nodeDone c g n status => decide (c < 8) && decide (g < 256) && decide (n < 1024) && decide (status < 16)
  | .run ini c _ => ini.wf && decide (c < 8)
  | .coreHalted c => decide (c < 8)
  | .tcmData ini c value => ini.wf && decide (c < 8) && decide (value < 2 ^ 32)
  | .coreAccess c _ addr size value _ host =>
    decide (c < 8) && decide (addr < 2 ^ 32) && decide (size < 5) && decide (value < 2 ^ 32) && bytesOk host
  | .coreTrap c cause pc => decide (c < 8) && decide (cause < 2 ^ 32) && decide (pc < 2 ^ 32)
  | .coreTimer c => decide (c < 8)
  | .startDb ini _ c value => ini.wf && decide (c < 64) && decide (value < 2 ^ 32)
  | .ringDoorbell ini _ c value => ini.wf && decide (c < 64) && decide (value < 2 ^ 32)
  | .extend ini _ c => ini.wf && decide (c < 64)
  | .channelCancel ini c => ini.wf && decide (c < 64)
  | .channelDisable ini c => ini.wf && decide (c < 64)
  | .smvDescFetch c _ host => decide (c < 64) && bytesOk host
  | .smvReadResponse c _ _ _ _ host => decide (c < 64) && bytesOk host
  | .smvTransferFail c _ host => decide (c < 64) && bytesOk host
  | .smvCompletionPoint c _ _ => decide (c < 64)
  | .flushDone c _ host => decide (c < 64) && bytesOk host
  | .writeBackDone c _ => decide (c < 64)
  | .smvRecordDone c _ => decide (c < 64)
  | .tailRereadData c _ host => decide (c < 64) && bytesOk host
  | .smvBudgetExpiry c => decide (c < 64)
  | .channelDrainDone c => decide (c < 64)
  | .evtClear ini page mask again =>
    ini.wf && decide (page < 0x4000) && decide (mask < 2 ^ 32) && decide (again < 2 ^ 32)
  | .queueStart ini _ q value => ini.wf && decide (q < 64) && decide (value < 2 ^ 32)
  | .queueRelease ini _ q value => ini.wf && decide (q < 64) && decide (value < 2 ^ 32)
  | .streamDescFetch q _ host => decide (q < 64) && bytesOk host
  | .pfqResponse q _ _ host => decide (q < 64) && bytesOk host
  | .pfqTransferFail q _ host => decide (q < 64) && bytesOk host
  | .creditReturn q => decide (q < 64)
  | .queueCancel ini q => ini.wf && decide (q < 64)
  | .queueDrainDone q => decide (q < 64)
  | .snap ini q => ini.wf && decide (q < 64)
  | .auditCapture q => decide (q < 64)
  | .pfqBudgetExpiry q => decide (q < 64)
  | .queueDisable ini q => ini.wf && decide (q < 64)
  | .translationResponse unit page dest _ _ => decide (unit < 128) && decide (page < 2 ^ 52) && decide (dest < 2 ^ 52)
  | .pageResponse fn prg code => decide (fn < 8) && decide (prg < 512) && decide (code < 16)
  | .atsInvalidate fn addr _ tag => decide (fn < 8) && decide (addr < 2 ^ 64) && decide (tag < 32)
  | .invalidationComplete fn tag => decide (fn < 8) && decide (tag < 32)
  | .transactionArrival initId tid sub _ addr len data seq _ _ host =>
    decide (initId < 256) && decide (tid < 64) && decide (sub < 256) && decide (addr < 2 ^ 64) &&
      decide (len ≤ 512) && data.all (decide <| · < 256) && decide (seq < 65536) && bytesOk host
  | .fabricTimeout initId tid => decide (initId < 256) && decide (tid < 64)
  | .responseArrival initId tid epoch => decide (initId < 256) && decide (tid < 64) && decide (epoch < 16)
  | .regPerm ini value => ini.wf && decide (value < 2 ^ 32)
  | .create ini => ini.wf
  | .teardown ini => ini.wf
  | .teardownDrained part => decide (part < 8)
  | .zeroFillDone => true
  | .dramReread line _ => decide (line < 2 ^ 64)
  | .init ini i => ini.wf && decide (i < 4)
  | .trainingDone i _ => decide (i < 4)
  | .fillDone => true
  | .patrolRead _ => true
  | .bankInh ini mask => ini.wf && decide (mask < 2 ^ 64)
  | .configWrite n _ value => decide (n < 8) && decide (value < 2 ^ 32)
  | .flr n => decide (n < 8)
  | .linkDown _ => true
  | .retrain ini => ini.wf
  | .queuePairCreate ini n q => ini.wf && decide (n < 8) && decide (q < 16)
  | .delete ini n q => ini.wf && decide (n < 8) && decide (q < 16)
  | .deleteDone n q => decide (n < 8) && decide (q < 16)
  | .sqTailDoorbell n q value => decide (n < 8) && decide (q < 16) && decide (value < 2 ^ 32)
  | .cqHeadDoorbell n q value => decide (n < 8) && decide (q < 16) && decide (value < 2 ^ 32)
  | .commandFetch n q _ host => decide (n < 8) && decide (q < 16) && bytesOk host
  | .nop n q => decide (n < 8) && decide (q < 16)
  | .graphLoad n q => decide (n < 8) && decide (q < 16)
  | .graphUnload n q => decide (n < 8) && decide (q < 16)
  | .graphStart n q => decide (n < 8) && decide (q < 16)
  | .graphCancel n q => decide (n < 8) && decide (q < 16)
  | .graphCancelAll n q => decide (n < 8) && decide (q < 16)
  | .nodeTrig n q => decide (n < 8) && decide (q < 16)
  | .nodeCancelCommand n q => decide (n < 8) && decide (q < 16)
  | .semOp n q => decide (n < 8) && decide (q < 16)
  | .attest n q => decide (n < 8) && decide (q < 16)
  | .attestSigned _ => true
  | .commandComplete n q _ _ => decide (n < 8) && decide (q < 16)
  | .conditionRecord n q _ => decide (n < 8) && decide (q < 16)
  | .vpRead id _ _ => decide (id < 65536)
  | .announce id pos _ => decide (id < 65536) && decide (pos < 2 ^ 32)
  | .ack id seq _ => decide (id < 65536) && decide (seq < 16)
  | .badWrite id word _ => decide (id < 65536) && decide (word < 2 ^ 32)
  | .eyeLeadingEdge line => decide (line < 4)
  | .eyeTrailingEdge line => decide (line < 4)
  | .unpairedEvt line => decide (line < 4)
  | .unpairedAnn id => decide (id < 65536)
  | .missed id => decide (id < 65536)
  | .stagingRequest ini id word => ini.wf && decide (id < 65536) && decide (word < 2 ^ 32)
  | .lineCfg ini line off value => ini.wf && decide (line < 4) && decide (off < 4096) && decide (value < 2 ^ 32)
  | .pinCfg ini p value => ini.wf && decide (p < 24) && decide (value < 2 ^ 32)
  | .pinSwitchEnd p sample => decide (p < 24) && decide (sample < 2)
  | .inputAccept p level => decide (p < 24) && decide (level < 3)
  | .encoderEdge e a b => decide (e < 4) && decide (a < 2) && decide (b < 2)
  | .trigger t => decide (t < 8)
  | .triggerLate t => decide (t < 8)
  | .strobeStart t => decide (t < 8)
  | .pulseEnd t _ => decide (t < 8)
  | .tgCfg ini t off value => ini.wf && decide (t < 8) && decide (off < 4096) && decide (value < 2 ^ 32)
  | .pwmPeriodStart k => decide (k < 4)
  | .uartTx ini u value => ini.wf && decide (u < 2) && decide (value < 2 ^ 32)
  | .uartRx ini u => ini.wf && decide (u < 2)
  | .uartByteReceived u value _ _ => decide (u < 2) && decide (value < 256)
  | .uartByteSent u => decide (u < 2)
  | .cmd ini i value => ini.wf && decide (i < 12) && decide (value < 2 ^ 32)
  | .cmdStart i => decide (i < 12)
  | .cmdDone i status data => decide (i < 12) && decide (status < 16) && data.all (decide <| · < 256)
  | .txData ini i value => ini.wf && decide (i < 12) && decide (value < 2 ^ 32)
  | .txData4 ini i value => ini.wf && decide (i < 12) && decide (value < 2 ^ 32)
  | .rxData ini i => ini.wf && decide (i < 12)
  | .resp ini i => ini.wf && decide (i < 12)
  | .ibiArrival i addr data => decide (i < 12) && decide (addr < 128) && data.all (decide <| · < 256)
  | .ibi ini i => ini.wf && decide (i < 12)
  | .haltClr ini i => ini.wf && decide (i < 12)
  | .planeCommit ini plane slot => ini.wf && decide (plane < 4) && decide (slot < 4)
  | .release ini plane => ini.wf && decide (plane < 4)
  | .latchPoint => true
  | .underrun plane _ _ _ => decide (plane < 4)
  | .tcommit ini => ini.wf
  | .monRun ini _ => ini.wf
  | .pixelPllLock => true
  | .train ini => ini.wf
  | .trainDone _ _ _ _ => true
  | .linkOff ini => ini.wf
  | .irqHpd _ => true
  | .hpdUnplug => true
  | .hpdPlug => true
  | .auxGo ini => ini.wf
  | .auxReply _ data => data.all (decide <| · < 256)
  | .auxTimeout => true
  | .doubtReport => true
  | .doubtReevaluate => true
  | .doubtReq ini tag line => ini.wf && decide (tag < 65536) && decide (line < 4)
  | .finalConfirm id => decide (id < 65536)
  | .wdKick ini => ini.wf
  | .wdExpired p => decide (p < 8)
  | .deviceWdExpiry => true
  | .lockstepMismatch => true
  | .clockWindowEnd _ => true
  | .fawnFramePair line _ _ _ => decide (line < 4)
  | .fawnEvaluation line _ => decide (line < 4)
  | .fawnStaging line => decide (line < 4)
  | .resume ini value => ini.wf && decide (value < 2 ^ 32)
  | .checkerInjection page bit _ _ => decide (page < 0x4000) && decide (bit < 32)
  | .checkerTimeout page => decide (page < 0x4000)
  | .redispatch g i n => decide (g < 256) && decide (i < 2 ^ 32) && decide (n < 1024)
  | .unfence ini page => ini.wf && decide (page < 0x4000)
  | .autoReset => true
  | .logRecordWrite _ => true
  | .ldGo ini => ini.wf
  | .imageLoadDone _ host => bytesOk host
  | .updMark ini value => ini.wf && decide (value < 2 ^ 32)
  | .rbGo ini => ini.wf
  | .fuseBlowDone => true
  | .rotpkGo ini => ini.wf
  | .idcode => true
  | .bypass => true
  | .samplePreload _ => true
  | .extest => true
  | .clamp => true
  | .highz => true
  | .dapacc => true
  | .tapReset => true
  | .debugHalt c pc => decide (c < 8) && decide (pc < 2 ^ 32)
  | .debugStep c pc => decide (c < 8) && decide (pc < 2 ^ 32)
  | .debugResume c => decide (c < 8)
  | .debugRegisterWrite c _ value => decide (c < 8) && decide (value < 2 ^ 32)
  | .debugTriggerHit c pc => decide (c < 8) && decide (pc < 2 ^ 32)
  | .traceSample => true
  | .holdEntry => true
  | .napEntry => true
  | .computeRequestWake => true
  | .sleepGo ini rung => ini.wf && decide (rung < 8)
  | .rungEntryDone => true
  | .wake src => decide (src < 6)
  | .rungExitDone => true
  | .tempUpdate _ => true
  | .tPeak ini => ini.wf
  | .por mode => decide (mode < 4)
  | .porAssert => true
  | .rstN => true
  | .warm ini key => ini.wf && decide (key < 256)
  | .cold ini key => ini.wf && decide (key < 256)
  | .warmBusRelease => true
  | .warmResetEntry => true
  | .resetRelease => true
  | .bootRom flash _ _ => bytesOk flash
  | .romDone => true
  | .recovGo ini => ini.wf
  | .startingEnd => true
  | .ulps port lane _ => decide (port < 12) && decide (lane < 5)
  | .skewCalibration port => decide (port < 12)
  | .dlUp _ _ _ => true
  | .linkRecovery _ _ _ _ => true
  | .linkReplay _ => true
  | .aspmL1 _ => true
  | .pcieRefclkPresence _ => true
  | .vpClkStop => true
  | .pwmHighEnd k => decide (k < 4)
  | .mr4Read i _ => decide (i < 4)
  | .islandFirmwareKick => true
  | .islandTcmEcc => true

end Sys2Proof
end

