-- ==== Sys2Proof/Certificates/Slice0/Obligations.lean ====
section
/-! DEFINITION. The statements for the provers: what every family of commands does, where it is refused, and what every step
keeps. -/
open Sys2Proof Sys2Proof.Machine

/-- A step takes the command at the front of the queue and runs it with the queue's rest; with nothing waiting it is one tick
of device time (assumption 1). -/
def Obligations.StepRunsFront : Prop :=
  (∀ (s : State) (c : Instr) (rest : List Instr), s.pending = c :: rest → step s = exec c { s with pending := rest }) ∧
  ∀ s : State, s.pending = [] → step s = .next (tick s)

/-- The state after a cold reset (R11, R433, R598, R605, R608): tick 0, no command waiting, every verdict entry EMPTY with
SEQ 0, STARTING, DEV_OK released, the reset cause POR_N, every page owned by partition 0, and the sparse stores in
canonical form. -/
def Obligations.ResetState : Prop :=
  State.reset.pending = [] ∧ State.reset.time = 0 ∧
  (∀ id, (State.reset.entry id).st = vEmpty ∧ (State.reset.entry id).seq = 0) ∧
  State.reset.on pgRst R.starting = true ∧ State.reset.on pgSaf R.devOk = false ∧ State.reset.rd pgRst R.rstCause = 1 ∧
  (∀ p, State.reset.ownerOf p = 0 ∧ State.reset.rd p R.lock = 0 ∧ State.reset.rd p R.pageErr = 0) ∧
  Canonical State.reset

/-- A write of ENABLE = 1 to a FENCED page has no effect (R38), on every page and from every initiator. -/
def Obligations.FencedIgnoresEnable : Prop :=
  ∀ (ini : Ini) (p : Nat), Writes (.enable ini p true) ini p 0x00C (fun u => u.rd p R.pstate = psFenced) (fun u => u)

/-- A register write that does not reach its page (R2, R47, R49, R409): without the bus it is an unsupported request, on an
absent page it is dropped, and where R47 refuses it, it is dropped and logged as a firewall event; nothing else of any
command happens. -/
def Obligations.RefusedWrites : Prop :=
  ∀ (c : Instr) (ini : Ini) (p off : Nat) (s : State), rowAt c = some (ini, p, off) →
    (busOk s ini = false → exec c s = .next { s with reply := ⟨0, 2⟩ }) ∧
    (busOk s ini = true → pageKind p = none → exec c s = .next { hostWake s ini with reply := ⟨0, 0⟩ }) ∧
    (busOk s ini = true → pageKind p ≠ none → mayWrite (hostWake s ini) ini p off = false →
      exec c s = .next (denyPage (hostWake s ini) ini p off opWrite))

/-- Every step keeps the canonical form of memory, of the tightly coupled memories and of the register cells. -/
def Obligations.CanonicalKept : Prop :=
  ∀ s t : State, Canonical s → step s = .next t → Canonical t

/-- What no step undoes (R539, R547, R560): a blown fuse stays blown and a programmed root key hash stays as it is; and the
step takes one command from the queue and leaves the others in their order. -/
def Obligations.OneTimeKept : Prop :=
  ∀ s t : State, step s = .next t →
    (∀ n, bitOf s.fuses n = true → bitOf t.fuses n = true) ∧ (s.rotpk ≠ 0 → t.rotpk = s.rotpk) ∧
    t.pending = s.pending.tail

/-- ENABLE (R37, R38, R43): a plain page goes OFF to IDLE, IDLE to OFF and ACTIVE to DRAINING, and back from DRAINING; a
FENCED page ignores ENABLE = 1, and a page under test or in reset only stores the bit. Nothing else differs. -/
def Obligations.PageEnable : Prop :=
  ∀ (ini : Ini) (p : Nat), plainPage p = true →
    Writes (.enable ini p true) ini p 0x00C (fun u => u.rd p R.pstate = psOff)
      (fun u => (u.wr p R.enable 1).wr p R.pstate psIdle) ∧
    Writes (.enable ini p true) ini p 0x00C (fun u => u.rd p R.pstate = psDraining)
      (fun u => (u.wr p R.enable 1).wr p R.pstate psActive) ∧
    Writes (.enable ini p false) ini p 0x00C (fun u => u.rd p R.pstate = psIdle)
      (fun u => (u.wr p R.enable 0).wr p R.pstate psOff) ∧
    Writes (.enable ini p false) ini p 0x00C (fun u => u.rd p R.pstate = psActive)
      (fun u => (u.wr p R.enable 0).wr p R.pstate psDraining) ∧
    Writes (.enable ini p true) ini p 0x00C (fun u => u.rd p R.pstate = psFenced) (fun u => u) ∧
    ∀ on : Bool, Writes (.enable ini p on) ini p 0x00C
      (fun u => u.rd p R.pstate = psSelftest ∨ u.rd p R.pstate = psResetting) (fun u => u.wr p R.enable (b2n on))

/-- SOFT_RESET (R52): a page that is not in RESETTING enters it, with the result of its self-test gone, and a page in
RESETTING is left as it is.  SOFT_RESET_DONE: when no read of the page is outstanding it enters OFF, or FENCED if it was
FENCED, with its snapshots and holds gone, and what targets remember of its port (log 75). -/
def Obligations.PageSoftReset : Prop :=
  ∀ (ini : Ini) (p : Nat),
    WriteBrings (.softReset ini p) ini p 0x00C (fun u => u.rd p R.pstate ≠ psResetting)
      (fun _ t => t.rd p R.pstate = psResetting ∧ t.rd p R.stDone = 0 ∧ t.rd p R.stPass = 0) ∧
    Writes (.softReset ini p) ini p 0x00C (fun u => u.rd p R.pstate = psResetting) (fun u => u) ∧
    Brings (.softResetDone p)
      (fun s => pageKind p ≠ none ∧ s.rd p R.pstate = psResetting ∧ resetReady s p = true)
      (fun s t => t.rd p R.pstate = (if s.fencedReset.contains p then psFenced else psOff) ∧
        (∀ x ∈ t.snaps, x.page ≠ p) ∧ (∀ x ∈ t.holds, x.page ≠ p) ∧ (∀ d ∈ t.dedups, pageOfInit (d.1 % 256) ≠ some p) ∧
        (∀ x ∈ t.seqs, pageOfInit x.1 ≠ some p) ∧ p ∉ t.fencedReset)

/-- LOCK (R50) freezes the page, but not when the island writes it; PERF_CLEAR (R45) empties the four counters; a write of
PAGE_ERR (R41) clears the flags written 1, and VALID with the last of them; INJECT_ARM (R42) takes BIT and CONT and arms the
page when ARM is written 1. -/
def Obligations.PageLockPerfErr : Prop :=
  (∀ (ini : Ini) (p v : Nat),
    Writes (.lock ini p) ini p 0x00C (fun _ => ini ≠ .island) (fun u => u.wr p R.lock 1) ∧
    Writes (.lock ini p) ini p 0x00C (fun _ => ini = .island) (fun u => u) ∧
    WriteBrings (.perfClear ini p) ini p 0x00C (fun _ => True)
      (fun u t => (∀ k, k < 4 → t.rd p R.perf k = 0) ∧ OnlyRegs u t ∧
        RegsBut [cellKey p R.perf 0, cellKey p R.perf 1, cellKey p R.perf 2, cellKey p R.perf 3] u t) ∧
    WriteBrings (.pageErrClear ini p v) ini p 0x014 (fun _ => True)
      (fun u t => t.rd p R.pageErr = clrMask 32 (u.rd p R.pageErr) v % 2 ^ 32 ∧
        (clrMask 32 (u.rd p R.pageErr) v = 0 → t.rd p R.errFirstValid = 0) ∧ OnlyRegs u t ∧
        RegsBut [cellKey p R.pageErr 0, cellKey p R.errFirstValid 0] u t)) ∧
  (∀ (ini : Ini) (p v : Nat),
    WriteBrings (.injectArm ini p v) ini p 0x020 (fun _ => True)
      (fun u t => t.rd p R.injBit = bitsOf v 4 0 ∧ t.rd p R.injCont = bitsOf v 6 6 ∧
        (bitOf v 5 = true → t.rd p R.injArm = 1) ∧
        (bitOf v 5 = false → t.rd p R.injArm = (if ini = .rotation then u else debugTouch u).rd p R.injArm)))

/-- A self-test (R43, R217): START is taken in OFF or IDLE with code 0, or code 0x10 where the page holds generators, and
refused with PROG elsewhere, and overwrites the page's buffers; its end shows DONE, PASS and the time, and the page returns to what ENABLE asks for.  PAGE_OWNER
(R44): partition 0 gives an OFF page to another partition, and the page is soft-reset; a page in another state, or a writer
that is not partition 0, sets PROG, and a locked page is left as it is. -/
def Obligations.PageTestsOwner : Prop :=
  (∀ (ini : Ini) (p sel us : Nat),
    Writes (.selftestStart ini p sel) ini p 0x024
      (fun u => (u.rd p R.pstate = psOff ∨ u.rd p R.pstate = psIdle) ∧ (sel % 256 = 0 ∨ (sel % 256 = 0x10 ∧ hasCbg p = true)))
      (fun u => selftestFill ((((u.wr p R.stSel (sel % 256)).wr p R.stDone 0).wr p R.stPass 0).wr p R.pstate psSelftest) p
        (sel % 256)) ∧
    Writes (.selftestStart ini p sel) ini p 0x024
      (fun u => ¬((u.rd p R.pstate = psOff ∨ u.rd p R.pstate = psIdle) ∧
        (sel % 256 = 0 ∨ (sel % 256 = 0x10 ∧ hasCbg p = true)))) (fun u => u.prog p) ∧
    Does (.selftestDone p us true)
      (fun s => plainPage p = true ∧ s.rd p R.pstate = psSelftest ∧ injectNow s p eSelftest = false ∧ s.unfence ≠ some p ∧
        s.rd p R.enable = 0 ∧ (s.rd p R.stSel ≠ 0x10 ∨ katPass = true))
      (fun s => (((s.wr p R.stDone 1).wr p R.stPass 1).wr p R.stTime (min us 0xFFFF)).wr p R.pstate psOff) ∧
    Does (.selftestDone p us false)
      (fun s => plainPage p = true ∧ s.rd p R.pstate = psSelftest ∧ injectNow s p eSelftest = false ∧ s.unfence ≠ some p)
      (fun s => afterTest ((((s.wr p R.stDone 1).wr p R.stPass 0).wr p R.stTime (min us 0xFFFF)).raise p eSelftest) p)) ∧
  (∀ (ini : Ini) (p part : Nat),
    Writes (.pageOwner ini p part) ini p 0x028
      (fun u => p0Ok u ini = true ∧ unlocked u p = true ∧ part % 8 ≠ u.ownerOf p ∧ u.rd p R.pstate = psOff)
      (fun u => beginReset (u.wr p R.owner (part % 8)) p) ∧
    Writes (.pageOwner ini p part) ini p 0x028
      (fun u => p0Ok u ini = true ∧ unlocked u p = true ∧ part % 8 ≠ u.ownerOf p ∧ u.rd p R.pstate ≠ psOff)
      (fun u => u.prog p) ∧
    Writes (.pageOwner ini p part) ini p 0x028 (fun u => p0Ok u ini = false) (fun u => u.prog p) ∧
    Writes (.pageOwner ini p part) ini p 0x028 (fun u => p0Ok u ini = true ∧ unlocked u p = false) (fun u => u))

/-- Rings and events (R70, R301, R641): a consumer index that stays within what the ring holds is taken, another sets PROG;
an accepted new count empties the ring; the Fawn slots ignore both (R124, R154, R249); a write of EVT clears the bits written 1; NOTICE of a partition ends when its time
is over. -/
def Obligations.RingsEventsNotice : Prop :=
  (∀ (ini : Ini) (p off v i : Nat) (r : Ring), ringAt p off (·.rd) = some (r, i) → r.rd.own = true → pageKind p ≠ some .pq →
    (fawnReg p i r.rd = true → Writes (.consumerIndexWrite ini p off v) ini p off (fun _ => True) (fun u => u)) ∧
    (fawnReg p i r.rd = false → Writes (.consumerIndexWrite ini p off v) ini p off
      (fun u => ringOkRd (u.rd p r.cnt i) (u.rd p r.wr i) (v % 2 ^ r.rd.w) = true)
      (fun u => u.wr p r.rd (v % 2 ^ r.rd.w) i)) ∧
    (fawnReg p i r.rd = false → Writes (.consumerIndexWrite ini p off v) ini p off
      (fun u => ringOkRd (u.rd p r.cnt i) (u.rd p r.wr i) (v % 2 ^ r.rd.w) = false) (fun u => u.prog p))) ∧
  (∀ (ini : Ini) (p off v i : Nat) (r : Ring), ringAt p off (·.cnt) = some (r, i) → pageKind p ≠ some .pq → p ≠ pgErl →
    (fawnReg p i r.cnt = true → Writes (.ringCountChange ini p off v) ini p off (fun _ => True) (fun u => u)) ∧
    (fawnReg p i r.cnt = false → Writes (.ringCountChange ini p off v) ini p off
      (fun u => unlocked u p = true ∧ r.lo ≤ v % 2 ^ r.cnt.w ∧ v % 2 ^ r.cnt.w ≤ r.hi ∧ v % 2 ^ r.cnt.w % r.mult = 0 ∧
        v % 2 ^ r.cnt.w ≠ u.rd p r.cnt i ∧ r.idle u p i = true)
      (fun u => ringEmptied (((u.wr p r.cnt (v % 2 ^ r.cnt.w) i).wr p r.wr 0 i).wr p r.rd 0 i) p r.cnt))) ∧
  (∀ (ini : Ini) (p m : Nat) (e : EvtRegs), evtRegs p = some e →
    Writes (.evtClear ini p m 0) ini p e.evt.off (fun _ => True)
      (fun u => u.wr p e.evt (clrMask e.evt.w (u.rd p e.evt) m))) ∧
  ∀ (part t : Nat), Does (.noticeHoldExpiry part)
    (fun s => sfind s.notice part = some t ∧ t + msTicks (s.rd pgVpt R.noticeHold) ≤ s.time)
    (fun s => { s with notice := serase s.notice part })

/-- Packets of a CSI-2 port (R37, R59 to R62, R69, R78, R89): on a working port with a clean header a Frame Start opens a
frame of the stream that its virtual channel selects, a Frame End closes it, a packet no slot takes is counted, an SOT error
is counted and flagged, and a long packet whose header is lost is a lost line of its stream; a port that does not work does
nothing with its packets. -/
def Obligations.CsiPackets : Prop :=
  (∀ (port vc fn n dt k : Nat) (crcBad ovf : Bool) (px : List Nat), port < 12 →
    Does (.frameStart port vc fn n .ok)
      (fun s => s.working (pgCsi port) = true ∧ calm s (pgCsi port) = true ∧ routeVc (applySlots s port vc) port vc = some k)
      (fun s => csiSettle (frameStart (applySlots s port vc) k fn n) port) ∧
    Does (.frameStart port vc fn n .ok)
      (fun s => s.working (pgCsi port) = true ∧ calm s (pgCsi port) = true ∧ routeVc (applySlots s port vc) port vc = none)
      (fun s => (applySlots s port vc).bump (pgCsi port) R.cntUnmatched) ∧
    Does (.frameEnd port vc .ok)
      (fun s => s.working (pgCsi port) = true ∧ calm s (pgCsi port) = true ∧ routeVc s port vc = some k)
      (fun s => csiSettle (frameEnd s k) port) ∧
    Does (.longPacket port vc dt .ok crcBad ovf px)
      (fun s => s.working (pgCsi port) = true ∧ calm s (pgCsi port) = true) (fun s => longPacket s port vc dt crcBad ovf px) ∧
    Does (.longPacket port vc dt .bad crcBad ovf px)
      (fun s => s.working (pgCsi port) = true ∧ calm s (pgCsi port) = true ∧
        routeLong ((s.bump (pgCsi port) R.cntEcc2).raise (pgCsi port) 9) port vc dt = some k)
      (fun s => lostLine ((s.bump (pgCsi port) R.cntEcc2).raise (pgCsi port) 9) k) ∧
    Does (.sotError port) (fun s => s.working (pgCsi port) = true ∧ calm s (pgCsi port) = true)
      (fun s => (s.bump (pgCsi port) R.cntSot).raise (pgCsi port) 11)) ∧
  (∀ (port vc fn n dt : Nat) (h : Hdr) (crcBad ovf : Bool) (px : List Nat) (s : State), s.working (pgCsi port) = false →
    exec (.frameStart port vc fn n h) s = .next s ∧ exec (.frameEnd port vc h) s = .next s ∧
    exec (.longPacket port vc dt h crcBad ovf px) s = .next s ∧ exec (.sotError port) s = .next s ∧
    exec (.skewCalibration port) s = .next s)

/-- Streams (R67, R73, R74, R79, R83, R92): the oldest closed frame is published once its test block has landed; a running
stream that has written no frame for LOSS_TIMEOUT µs is LOST, with a record and doubt for its frames; IN_EN, CAL, ULPS and
the skew calibration act as their registers say. -/
def Obligations.StreamEvents : Prop :=
  (∀ (k : Nat) (f : Sys2Proof.Machine.Frm) (rest : List Sys2Proof.Machine.Frm),
    Does (.slotPublish k) (fun s => (s.intake k).closed = f :: rest ∧ f.tb ≠ 1) (fun s => publishSlot s k f rest) ∧
    Brings (.testBlockWriteDone k) (fun s => (s.intake k).closed.find? (fun x => x.tb == 1) = some f)
      (fun _ t => ∀ x ∈ (t.intake k).closed, x.tb ≠ 1)) ∧
  (∀ k : Nat, k < 48 →
    Brings (.lossTimeout k)
      (fun s => s.rd (pgCtx k) R.stream = 2 ∧ s.rd (pgCtx k) R.lossTimeout ≠ 0 ∧
        (s.intake k).pendOff = false ∧ (s.intake k).lastWr + 1000 * s.rd (pgCtx k) R.lossTimeout ≤ s.time)
      (fun s t => t.rd (pgCtx k) R.stream = 3 ∧ bitOf (t.rd (pgCtx k) R.pageErr) 9 = true ∧
        t.rd (pgCtx k) R.lossCnt = (s.rd (pgCtx k) R.lossCnt + 1) % 2 ^ 32 ∧ t.doubtQ.length = s.doubtQ.length + 1 ∧
        t.logQ.length = s.logQ.length + 1 ∧ MemSame s t)) ∧
  (∀ (ini : Ini) (k : Nat), k < 48 →
    Writes (.inEn ini k true) ini (pgCtx k) 0x080 (fun u => u.on (pgCtx k) R.inEn = false ∧ ringRulesOk u k = true)
      (fun u => intakeOn u k) ∧
    Writes (.inEn ini k true) ini (pgCtx k) 0x080 (fun u => u.on (pgCtx k) R.inEn = false ∧ ringRulesOk u k = false)
      (fun u => u.prog (pgCtx k)) ∧
    Writes (.inEn ini k false) ini (pgCtx k) 0x080 (fun u => u.on (pgCtx k) R.inEn = true ∧ (u.intake k).cur = none)
      (fun u => intakeOff u k) ∧
    Writes (.inEn ini k false) ini (pgCtx k) 0x080 (fun u => u.on (pgCtx k) R.inEn = true ∧ (u.intake k).cur ≠ none)
      (fun u => u.putIntake k { u.intake k with pendOff := true }) ∧
    Writes (.cal ini k) ini (pgCtx k) 0x080 (fun u => u.rd (pgCtx k) R.goldValid ≠ 0xFFFF) (fun u => u.wr (pgCtx k) R.cal 1) ∧
    Writes (.cal ini k) ini (pgCtx k) 0x080 (fun u => u.rd (pgCtx k) R.goldValid = 0xFFFF)
      (fun u => (u.wr (pgCtx k) R.cal 1).wr (pgCtx k) R.cal 0)) ∧
  ∀ (port lane : Nat) (enter : Bool), port < 12 →
    Does (.ulps port lane enter) (fun _ => lane < 4)
      (fun s => (s.wrBit (pgCsi port) R.csiUlps lane enter).wrBit (pgCsi port) R.csiStop lane (!enter)) ∧
    Does (.ulps port 4 enter) (fun _ => True)
      (fun s => (s.wr (pgCsi port) R.csiClkUlps (b2n enter)).wr (pgCsi port) R.csiClkStop (b2n (!enter))) ∧
    Does (.skewCalibration port) (fun s => s.working (pgCsi port) = true) (fun s => s.wr (pgCsi port) R.csiDeskew 1)

/-- Image pipes and contexts (R94, R99, R111 to R113, R118 to R120): a working pipe without a frame takes the context that
is chosen for it; a frame without a residue miss is published; a first miss starts the second attempt; a second attempt
without a miss is published as retried; COMMIT, the tone window and CTX_EN, each with the case that sets PROG. -/
def Obligations.ImagePipes : Prop :=
  (∀ (pipe k : Nat) (find : IspFind) (noise : Cells) (r : IspRun), pipe < 4 →
    Does (.ispDispatch pipe)
      (fun s => s.working (pgIsp pipe) = true ∧ sfind s.ispRuns pipe = none ∧ chooseCtx s pipe = some k)
      (fun s => ispStart s pipe k) ∧
    Does (.ispFrameDone pipe find noise)
      (fun s => sfind s.ispRuns pipe = some r ∧ r.second = false ∧ (ispProcess s pipe r find noise).2.1 = false ∧
        injectNow (ispProcess s pipe r find noise).2.2 (pgIsp pipe) eResidue = false)
      (fun s => ispPublish ((ispProcess s pipe r find noise).2.2.perf (pgIsp pipe) 0x04) pipe r find.spot
        (ispProcess s pipe r find noise).1 false false) ∧
    Brings (.ispFrameDone pipe find noise)
      (fun s => sfind s.ispRuns pipe = some r ∧ r.second = false ∧ (ispProcess s pipe r find noise).2.1 = true)
      (fun _ t => ∃ r', sfind t.ispRuns pipe = some r' ∧ r'.second = true ∧ r'.stream = r.stream ∧ r'.slot = r.slot) ∧
    Does (.secondAttemptDone pipe find noise)
      (fun s => sfind s.ispRuns pipe = some r ∧ r.second = true ∧ (ispProcess s pipe r find noise).2.1 = false ∧
        injectNow (ispProcess s pipe r find noise).2.2 (pgIsp pipe) eResidue = false)
      (fun s => ispPublish (ispResidueRec ((ispProcess s pipe r find noise).2.2.perf (pgIsp pipe) 0x04) pipe r 1 r.inj).2
        pipe r find.spot (ispProcess s pipe r find noise).1 false true)) ∧
  (∀ (ini : Ini) (k off v : Nat), k < 48 →
    Writes (.commit ini k) ini (pgCtx k) 0x100 (fun u => cfaBad u k = false) (fun u => u.wr (pgCtx k) R.ctxCommit 1) ∧
    Writes (.commit ini k) ini (pgCtx k) 0x100 (fun u => cfaBad u k = true) (fun u => u.prog (pgCtx k)) ∧
    (off % 4 = 0 → 0x400 ≤ off → off < 0xA40 →
      Writes (.toneWindowWrite ini k off v) ini (pgCtx k) off
        (fun u => (toneAt off).isSome = true ∧ u.rd (pgCtx k) R.toneWrBank ≠ ispPar u k R.toneBank 0)
        (fun u => toneStore (toneStore u k (u.rd (pgCtx k) R.toneWrBank) off v) k (u.rd (pgCtx k) R.toneWrBank) (off + 2)
          (v / 65536)) ∧
      Writes (.toneWindowWrite ini k off v) ini (pgCtx k) off
        (fun u => (toneAt off).isSome = true ∧ u.rd (pgCtx k) R.toneWrBank = ispPar u k R.toneBank 0)
        (fun u => u.prog (pgCtx k))) ∧
    Writes (.ctxEn ini k true) ini (pgCtx k) 0x100
      (fun u => u.on (pgCtx k) R.ctxEn = false ∧ (outsOf u k).all (fun o => outRulesOk u k o) = true)
      (fun u => noPipes (u.wr (pgCtx k) R.ctxEn 1)) ∧
    Writes (.ctxEn ini k false) ini (pgCtx k) 0x100 (fun u => ctxServed u k = false) (fun u => u.wr (pgCtx k) R.ctxEn 0) ∧
    Writes (.ctxEn ini k false) ini (pgCtx k) 0x100 (fun u => ctxServed u k = true)
      (fun u => u.putIspCtx k { u.ispCtx k with pendOff := true }))

/-- I3C controllers (R453, R454, R459): commands, data, and reads that pop the oldest entry of a queue, with its VALID bit,
and read 0 when the queue is empty. -/
def Obligations.I3cControllers : Prop :=
  (∀ (ini : Ini) (i v a : Nat) (data : List Nat), i < 12 →
    (v < 2 ^ 32 → Writes (.cmd ini i v) ini (pgI3c i) 0x084 (fun u => v % 4 ≠ 3 ∧ (u.i3c i).cmds.length < 16)
      (fun u => u.putI3c i { u.i3c i with cmds := (u.i3c i).cmds ++
        [(v, u.rd (pgI3c i) R.cmdTid + 256 * u.rd (pgI3c i) R.cmdDirect + 512 * u.rd (pgI3c i) R.cmdCccData +
          1024 * u.rd (pgI3c i) R.cmdCccRd)] })) ∧
    (v < 2 ^ 32 → Writes (.cmd ini i v) ini (pgI3c i) 0x084 (fun u => v % 4 = 3 ∨ 16 ≤ (u.i3c i).cmds.length)
      (fun u => u.prog (pgI3c i))) ∧
    Writes (.txData ini i v) ini (pgI3c i) 0x090 (fun u => (u.i3c i).tx.length + 1 ≤ 256)
      (fun u => u.putI3c i { u.i3c i with tx := (u.i3c i).tx ++ [v % 256] }) ∧
    Writes (.txData4 ini i v) ini (pgI3c i) 0x08C (fun u => (u.i3c i).tx.length + 4 ≤ 256)
      (fun u => u.putI3c i { u.i3c i with tx := (u.i3c i).tx ++ (leBytes 4 v).map (·.toNat) }) ∧
    Writes (.haltClr ini i) ini (pgI3c i) 0x0A4 (fun _ => True) (fun u => u.wr (pgI3c i) R.i3cHalted 0) ∧
    Does (.cmdStart i)
      (fun s => ∃ c r, (s.i3c i).cmds = c :: r ∧ (s.i3c i).run = false ∧ s.on (pgI3c i) R.i3cHalted = false ∧
        s.working (pgI3c i) = true ∧ awake s = true ∧ (s.i3c i).resp.length < 16 ∧
        (if cmdReads c then cmdLen c + (s.i3c i).rx.length ≤ 256 else cmdLen c ≤ (s.i3c i).tx.length))
      (fun s => (s.putI3c i { s.i3c i with run := true }).settle (pgI3c i) true) ∧
    (∀ (c : Nat × Nat) (r : List (Nat × Nat)),
      Brings (.cmdDone i 0 data) (fun s => (s.i3c i).cmds = c :: r ∧ (s.i3c i).run = true)
        (fun s t => (t.i3c i).cmds = r ∧ (t.i3c i).run = false ∧
          (t.i3c i).resp = (s.i3c i).resp ++ [c.2 % 256 + 65536 * (data.take (cmdLen c)).length + 2 ^ 31] ∧
          (t.i3c i).rx = (if cmdReads c then (s.i3c i).rx ++ (data.take (cmdLen c)).map (· % 256) else (s.i3c i).rx) ∧
          (t.i3c i).tx = (if cmdReads c then (s.i3c i).tx else (s.i3c i).tx.drop (cmdLen c))) ∧
      Does (.cmdDone i 1 data) (fun s => (s.i3c i).cmds = c :: r ∧ (s.i3c i).run = true ∧ (s.i3c i).nacked = false)
        (fun s => (s.putI3c i { s.i3c i with nacked := true }).perf (pgI3c i) 0x0C)) ∧
    (a < 128 → a ≠ 2 → data.length ≤ 4 →
      Does (.ibiArrival i a data)
        (fun s => s.working (pgI3c i) = true ∧ s.rd (pgI3c i) R.i3cMode = 0 ∧ awake s = true ∧ (s.i3c i).ibis.length < 8)
        (fun s => s.putI3c i { s.i3c i with ibis := (s.i3c i).ibis ++ [(a, data.map (· % 256))] }) ∧
      Does (.ibiArrival i a data)
        (fun s => s.working (pgI3c i) = true ∧ s.rd (pgI3c i) R.i3cMode = 0 ∧ awake s = true ∧ 8 ≤ (s.i3c i).ibis.length)
        (fun s => s.raise (pgI3c i) 11))) ∧
  (∀ (ini : Ini) (i b : Nat) (r : List Nat), i < 12 →
    Pops (.rxData ini i) ini (pgI3c i) (fun u => (u.i3c i).rx = b :: r) (fun _ => b + 256)
      (fun u => u.putI3c i { u.i3c i with rx := r }) ∧
    Pops (.rxData ini i) ini (pgI3c i) (fun u => (u.i3c i).rx = []) (fun _ => 0) (fun u => u) ∧
    Pops (.resp ini i) ini (pgI3c i) (fun u => (u.i3c i).resp = b :: r) (fun _ => b)
      (fun u => u.putI3c i { u.i3c i with resp := r }) ∧
    Pops (.resp ini i) ini (pgI3c i) (fun u => (u.i3c i).resp = []) (fun _ => 0) (fun u => u) ∧
    Pops (.ibi ini i) ini (pgI3c i) (fun u => (u.i3c i).ibis = []) (fun _ => 0) (fun u => u) ∧
    ∀ (d : List Nat) (q : List (Nat × List Nat)),
      Pops (.ibi ini i) ini (pgI3c i) (fun u => (u.i3c i).ibis = (b, d) :: q)
        (fun _ => b + 256 * d.length + 2 ^ 15 + 65536 * d.getD 0 0)
        (fun u => (u.wr (pgI3c i) R.ibiData (d.getD 1 0 + 256 * d.getD 2 0 + 65536 * d.getD 3 0)).putI3c i
          { u.i3c i with ibis := q }))

/-- Pins and encoders (R448 to R450): a changed configuration switches for six ticks; an accepted level is kept; a count up
or down by one edge of an enabled encoder, and both phases at once are an error.  Timing generators and PWMs (R451, R452). -/
def Obligations.LineIo : Prop :=
  ((∀ (ini : Ini) (p v : Nat), p < 24 →
    WriteBrings (.pinCfg ini p v) ini pgLio (0x100 + 4 * p)
      (fun u => unlocked u pgLio = true ∧ (u.pin p).sw = none ∧ bitsOf v 3 0 ≤ 10 ∧ bitsOf v 6 4 < unitsFor (bitsOf v 3 0) ∧
        bitsOf v 3 0 ≠ pinFn u p)
      (fun u t => t.rd pgLio R.pinFunc p = bitsOf v 3 0 ∧ t.rd pgLio R.pinUnit p = bitsOf v 6 4 ∧
        (t.pin p).sw = some (u.time + 6)) ∧
    Writes (.pinCfg ini p v) ini pgLio (0x100 + 4 * p) (fun u => (u.pin p).sw ≠ none) (fun u => u.prog pgLio)) ∧
  (∀ (p x t : Nat), p < 24 →
    Does (.pinSwitchEnd p x) (fun s => (s.pin p).sw = some t ∧ t ≤ s.time)
      (fun s => s.putPin p { level := if isInput (pinFn s p) then boardLevel s p x else none, sw := none }) ∧
    Does (.inputAccept p x)
      (fun s => (s.pin p).sw = none ∧ isInput (pinFn s p) = true ∧ s.rst.ph < 2 ∧
        ((s.pin p).level = none ∨ boardLevel s p x = none))
      (fun s => s.putPin p { s.pin p with level := boardLevel s p x })) ∧
  ∀ (e a b p q : Nat) (oa ob na nb : Bool), e < 4 →
    Does (.encoderEdge e a b)
      (fun s => serving s 3 e = some p ∧ serving s 4 e = some q ∧ (s.pin p).level = some oa ∧ (s.pin q).level = some ob ∧
        boardLevel s p a = some na ∧ boardLevel s q b = some nb ∧ s.rst.ph < 2 ∧ oa ≠ na ∧ ob = nb)
      (fun s => encEdge ((s.putPin p { level := some na }).putPin q { level := some nb }) e true na nb) ∧
    Does (.encoderEdge e a b)
      (fun s => serving s 3 e = some p ∧ serving s 4 e = some q ∧ (s.pin p).level = some oa ∧ (s.pin q).level = some ob ∧
        boardLevel s p a = some na ∧ boardLevel s q b = some nb ∧ s.rst.ph < 2 ∧ oa ≠ na ∧ ob ≠ nb)
      (fun s => encIllegal ((s.putPin p { level := some na }).putPin q { level := some nb }) e)) ∧
  ((∀ (ini : Ini) (t v : Nat), t < 8 → v < 2 ^ 32 →
    Writes (.tgCfg ini t 4 v) ini pgLio (0x280 + 0x20 * t + 4) (fun _ => True)
      (fun u => anchor (u.wr pgLio R.tgPeriod v t) t) ∧
    Writes (.tgCfg ini t 8 v) ini pgLio (0x280 + 0x20 * t + 8) (fun _ => True)
      (fun u => anchor (u.wr pgLio R.tgPhase v t) t) ∧
    Writes (.tgCfg ini t 0 v) ini pgLio (0x280 + 0x20 * t + 0) (fun _ => bitsOf v 1 0 ≠ 3)
      (fun u => anchor ((u.wr pgLio R.tgMode (bitsOf v 1 0) t).wr pgLio R.tgEnc (bitsOf v 3 2) t) t) ∧
    Writes (.tgCfg ini t 0 v) ini pgLio (0x280 + 0x20 * t + 0) (fun _ => bitsOf v 1 0 = 3) (fun u => u.prog pgLio)) ∧
  (∀ (t w : Nat) (g : Tg), t < 8 →
    Does (.trigger t)
      (fun s => awake s = true ∧ s.rst.ph = 0 ∧ causeDue s t = some g ∧ g.wait = none ∧ g.last = none)
      (fun s => fireTrigger (s.putTg t g) t (s.time + 1)) ∧
    Does (.trigger t) (fun s => awake s = true ∧ s.rst.ph = 0 ∧ causeDue s t = some g ∧ g.wait ≠ none)
      (fun s => (s.putTg t g).bump pgLio R.trigDrop (i := t)) ∧
    Does (.triggerLate t) (fun s => (s.tg t).wait = some w ∧ w ≤ s.time)
      (fun s => fireTrigger ((s.bump pgLio R.trigLate (i := t)).raise pgLio 9) t w) ∧
    (∀ r : List Nat, Does (.strobeStart t) (fun s => (s.tg t).strobes = w :: r ∧ w ≤ s.time)
      (fun s => s.putTg t { s.tg t with strobes := r,
                                        strobeEnd := maxEnd (s.tg t).strobeEnd (w + s.rd pgLio R.strobeWidth t) })) ∧
    Does (.pulseEnd t false) (fun s => (s.tg t).trigEnd = some w ∧ w ≤ s.time)
      (fun s => s.putTg t { s.tg t with trigEnd := none }) ∧
    Does (.pulseEnd t true) (fun s => (s.tg t).strobeEnd = some w ∧ w ≤ s.time)
      (fun s => s.putTg t { s.tg t with strobeEnd := none })) ∧
  ∀ (k t : Nat), k < 4 →
    Does (.pwmPeriodStart k)
      (fun s => (s.pwm k).next = some t ∧ t ≤ s.time ∧ 2 ≤ s.rd pgLio R.pwmPeriod k ∧
        s.rd pgLio R.pwmHigh k ≤ s.rd pgLio R.pwmPeriod k ∧ 0 < s.rd pgLio R.pwmHigh k)
      (fun s => s.putPwm k { next := some (t + s.rd pgLio R.pwmPeriod k), fall := some (t + s.rd pgLio R.pwmHigh k) }) ∧
    Does (.pwmPeriodStart k) (fun s => (s.pwm k).next = some t ∧ t ≤ s.time ∧ s.rd pgLio R.pwmPeriod k = 1)
      (fun s => (s.prog pgLio).putPwm k { next := some (t + 1), fall := none }) ∧
    Does (.pwmHighEnd k) (fun s => (s.pwm k).fall = some t ∧ t ≤ s.time) (fun s => s.putPwm k { s.pwm k with fall := none }))

/-- UARTs (R452, R458): a byte goes to the line, to the FIFO, or is lost with TX_OVF when the FIFO is full; a received
character without an error enters its FIFO; a sent byte makes place for the next. -/
def Obligations.Uarts : Prop :=
  ∀ (ini : Ini) (n v b : Nat) (r : List Nat), n < 2 →
    Writes (.uartTx ini n v) ini pgLio (0x384 + 0x20 * n)
      (fun u => u.on pgLio R.uartEn n = true ∧ (u.uart n).sending = none)
      (fun u => u.putUart n { u.uart n with sending := some (v % 256) }) ∧
    Writes (.uartTx ini n v) ini pgLio (0x384 + 0x20 * n)
      (fun u => u.on pgLio R.uartEn n = true ∧ (u.uart n).sending ≠ none ∧ (u.uart n).tx.length < 64)
      (fun u => u.putUart n { u.uart n with tx := (u.uart n).tx ++ [v % 256] }) ∧
    Writes (.uartTx ini n v) ini pgLio (0x384 + 0x20 * n)
      (fun u => u.on pgLio R.uartEn n = true ∧ (u.uart n).sending ≠ none ∧ 64 ≤ (u.uart n).tx.length)
      (fun u => (u.wr pgLio R.uartTxOvf 1 n).raise pgLio 10) ∧
    Pops (.uartRx ini n) ini pgLio (fun u => (u.uart n).rx = b :: r) (fun _ => b + 2 ^ 15)
      (fun u => u.putUart n { u.uart n with rx := r }) ∧
    Pops (.uartRx ini n) ini pgLio (fun u => (u.uart n).rx = []) (fun _ => 0) (fun u => u) ∧
    Does (.uartByteReceived n v false false)
      (fun s => s.on pgLio R.uartEn n = true ∧ (serving s 9 n).isSome = true ∧ awake s = true ∧ (s.uart n).rx.length < 64 ∧
        injectNow s pgLio 10 = false)
      (fun s => s.putUart n { s.uart n with rx := (s.uart n).rx ++ [v % 256] }) ∧
    Does (.uartByteReceived n v false false)
      (fun s => s.on pgLio R.uartEn n = true ∧ (serving s 9 n).isSome = true ∧ awake s = true ∧ 64 ≤ (s.uart n).rx.length)
      (fun s => (s.wr pgLio R.uartOverrun 1 n).raise pgLio 10) ∧
    Brings (.uartByteSent n) (fun s => (s.uart n).sending = some b)
      (fun s t => t.outs = s.outs ++ [.uart n b] ∧ (t.uart n).sending = (s.uart n).tx.head? ∧
        (t.uart n).tx = (s.uart n).tx.tail)

/-- REGISTER_WRITE (R8, R39, R640): what a write of a word makes of its field under its access code, where it is the only
one or the others are read-only, and a word without a field sets ACCESS; nothing else changes.  A mask bit at a place that
PAGE_ERR reserves is not stored (R39), the registers of a Fawn slot ignore every write (R124, R154, R249), and the push
registers of STA1 to STA3 take none (R214). -/
def Obligations.RegisterWrites : Prop :=
  ∀ (ini : Ini) (p off v i : Nat) (f : Fld), off % 4 = 0 → off < 4096 → off ≠ 0x020 → p < 0x100 → v < 2 ^ 32 →
    Writes (.registerWrite ini p off v false) ini p off (fun u => wordFields u p off = []) (fun u => u.raise p eAccess) ∧
    (staHole p off = true →
      Writes (.registerWrite ini p off v false) ini p off (fun u => wordFields u p off ≠ []) (fun u => u.prog p)) ∧
    (staHole p off = false → f.q = false → fawnReg p i f = true →
      Writes (.registerWrite ini p off v false) ini p off (fun u => wordFields u p off = [(f, i)]) (fun u => u)) ∧
    (staHole p off = false → f.q = false → f.own = false → fawnReg p i f = false →
      (f.acc = .rw → f.guard = .free → f.hook = .none → f.p0 = false →
        (okVal f.ok (partOf f i v) = true → f.off ≠ 0x018 →
          Writes (.registerWrite ini p off v false) ini p off
            (fun u => wordFields u p off = [(f, i)] ∧ injectNow u p eProg = false) (fun u => u.wr p f (partOf f i v) i)) ∧
        (0x080 ≤ f.off → Writes (.registerWrite ini p off v false) ini p off
          (fun u => wordFields u p off = [(f, i)] ∧ injectNow u p eProg = true) (fun u => u.prog p)) ∧
        (okVal f.ok (Nat.land (partOf f i v) (errMask p)) = true → f.off = 0x018 →
          Writes (.registerWrite ini p off v false) ini p off (fun u => wordFields u p off = [(f, i)])
            (fun u => u.wr p f (Nat.land (partOf f i v) (errMask p)) i)) ∧
        (okVal f.ok (partOf f i v) = false → f.off ≠ 0x018 →
          Writes (.registerWrite ini p off v false) ini p off (fun u => wordFields u p off = [(f, i)])
            (fun u => u.prog p))) ∧
      (f.acc = .ro → Writes (.registerWrite ini p off v false) ini p off
        (fun u => wordFields u p off = [(f, i)]) (fun u => u)) ∧
      (f.acc = .w1c → ∀ l : List (Fld × Nat), (∀ x ∈ l, x.1.acc = .ro) → Writes (.registerWrite ini p off v false) ini p off
        (fun u => wordFields u p off = l ++ [(f, i)]) (fun u => u.wr p f (clrMask f.w (u.rd p f i) (partOf f i v)) i)) ∧
      (f.acc = .rwl → Writes (.registerWrite ini p off v false) ini p off
        (fun u => wordFields u p off = [(f, i)] ∧ u.rd p R.lock ≠ 0) (fun u => u)))

/-- 64-bit registers (R55): a write of LO is held for the initiator and changes nothing else; a write of HI commits what
its hold names and ends it, and without that hold is dropped with ACCESS; an 8-byte write commits both halves at once.
Register reads (R39, R54): a word answers its value and changes nothing; the low half of a 64-bit register takes the
initiator's snapshot of it; the high half answers what the snapshot holds, or the register; a reserved word sets ACCESS, and TCM_DATA of a core that is not HALTED answers 0 and sets PROG (R287). -/
def Obligations.WideRegistersAndReads : Prop :=
  (∀ (ini : Ini) (p lo v : Nat) (s : State), lo % 4 = 0 → lo < 4096 →
    (Reached s ini p lo → heldQuad s p lo = some lo → staHole p lo = false →
      exec (.writeLoHold ini p lo v) s = .next (putHold (admitted s ini) ini p lo (v % 2 ^ 32)) ∧
      (lo % 8 = 0 → exec (.registerWrite ini p lo v true) s = .next (writeQuad (admitted s ini) ini p lo (v % 2 ^ 64)))) ∧
    (Reached s ini p (lo + 4) → heldQuad s p (lo + 4) = some lo → staHole p (lo + 4) = false →
      (∀ h : Hold, (admitted s ini).holds.find? (fun h => h.page == p && h.ini == ini && h.off == lo) = some h →
        exec (.writeHiCommit ini p (lo + 4) v) s =
          .next (writeQuad (dropHold (admitted s ini) ini p) ini p lo (h.lo + v % 2 ^ 32 * 2 ^ 32))) ∧
      ((∀ h ∈ (admitted s ini).holds, ¬(h.page = p ∧ h.ini = ini ∧ h.off = lo)) →
        exec (.writeHiCommit ini p (lo + 4) v) s = .next ((admitted s ini).raise p eAccess)))) ∧
  (∀ (ini : Ini) (p off lo v : Nat) (s : State), off % 4 = 0 → off < 4096 → isPop p off = false →
    Readable s ini p →
    (wordFields (hostWake s ini) p off = [] →
      exec (.readLoSnapshot ini p off false) s = .next { (hostWake s ini).raise p eAccess with reply := ⟨0, 0⟩ }) ∧
    (wordFields (hostWake s ini) p off ≠ [] → tcmShut (hostWake s ini) p off = true →
      exec (.readLoSnapshot ini p off false) s = .next { (hostWake s ini).prog p with reply := ⟨0, 0⟩ }) ∧
    (wordFields (hostWake s ini) p off ≠ [] → tcmShut (hostWake s ini) p off = false →
      (quadOf (hostWake s ini) p off = none → snapVal (hostWake s ini) ini p off = none →
        exec (.readLoSnapshot ini p off false) s =
          .next { hostWake s ini with reply := ⟨wordVal (hostWake s ini) ini p off, 0⟩ }) ∧
      (quadOf (hostWake s ini) p off = some off → off ≠ 0x0E8 → snapVal (hostWake s ini) ini p 0x0E8 = none →
        ∃ t, exec (.readLoSnapshot ini p off false) s = .next t ∧
          t.reply = ⟨regVal (hostWake s ini) ini p off % 2 ^ 32, 0⟩ ∧
          snapVal t ini p off = some (regVal (hostWake s ini) ini p off) ∧ t.regs = (hostWake s ini).regs ∧ t.mem = s.mem) ∧
      (quadOf (hostWake s ini) p off = some lo → lo ≠ off → snapVal (hostWake s ini) ini p lo = some v →
        exec (.readHi ini p off) s = .next { hostWake s ini with reply := ⟨v / 2 ^ 32, 0⟩ }) ∧
      (quadOf (hostWake s ini) p off = some lo → lo ≠ off → snapVal (hostWake s ini) ini p lo = none →
        exec (.readHi ini p off) s =
          .next { hostWake s ini with reply := ⟨regVal (hostWake s ini) ini p lo / 2 ^ 32, 0⟩ })))

/-- ACCESS_FAULT (R53, R409): a write of another width or place sets ACCESS and nothing else; a longer one is completed
with Completer Abort; a poisoned write of a function is dropped and logged through AER.  BAR2_ACCESS (R28, R31, R357, R377):
an access within one line of Shared Vision Memory that the firewall passes reads the bytes or stores them, and no other byte;
a refused read answers zero and leaves every byte; with every slot of its port taken it is completed with Completer Abort
(R365, R409). -/
def Obligations.HostAccesses : Prop :=
  (∀ (ini : Ini) (fn p off n : Nat) (s : State), n ≠ 0 → off < 4096 →
    (Reached s ini p (off / 4 * 4) → n ≤ 8 → off + n ≤ 4096 → ¬((n = 4 ∨ n = 8) ∧ off % n = 0) →
      exec (.accessFault ini p off n true false) s = .next ((admitted s ini).raise p eAccess)) ∧
    (busOk s ini = true → pageKind p ≠ none → (8 < n ∨ 4096 < off + n) →
      mayWrite (hostWake s ini) ini p (off / 4 * 4) = true →
      exec (.accessFault ini p off n true false) s = .next { (hostWake s ini).raise p eAccess with reply := ⟨0, 1⟩ }) ∧
    (busOk s (.fn fn) = true →
      exec (.accessFault (.fn fn) p off n true true) s =
        .next { (putFn (hostWake s (.fn fn)) fn { fnOf (hostWake s (.fn fn)) fn with aerPoison := true }).raise pgPci 10
                with reply := ⟨0, 3⟩ })) ∧
  (∀ (n off len : Nat) (data : List Nat) (s : State), n < 8 → 0 < len → off / 64 = (off + len - 1) / 64 →
    targetOf off = .svm → busOk s (.fn n) = true →
    (freeTid (hostWake s (.fn n)) n = none →
      exec (.bar2Access n false off len data .ok false) s =
        .next { perfRd (hostWake s (.fn n)) (pgHq n) false with reply := ⟨0, 1⟩ }) ∧
    (freeTid (hostWake s (.fn n)) n ≠ none → injectNow (hostWake s (.fn n)) pgFab 12 = false →
    (s.eccBad = [] → judge (hostWake s (.fn n)) ⟨n, n, 2⟩ opRead off len = .pass →
      exec (.bar2Access n false off len data .ok false) s =
        .next { perfRd (hostWake s (.fn n)) (pgHq n) true with reply := ⟨fromLe (s.bytes off len), 0⟩ }) ∧
    (s.eccBad = [] → judge (hostWake s (.fn n)) ⟨n, n, 2⟩ opWrite off len = .pass →
      ∃ t, exec (.bar2Access n true off len data .ok false) s = .next t ∧ t.reply = ⟨0, 0⟩ ∧ MemBut off len s t ∧
        (∀ i, i < len → t.byte (off + i) = BitVec.ofNat 8 (data.getD i 0)) ∧
        t.regs = (perfWr (hostWake s (.fn n)) (pgHq n)).regs) ∧
    (judge (hostWake s (.fn n)) ⟨n, n, 2⟩ opRead off len = .deny 0 →
      ∃ t, exec (.bar2Access n false off len data .ok false) s = .next t ∧ t.reply = ⟨0, 0⟩ ∧ MemSame s t ∧
        t.rd pgFab R.fwLastAddr = off ∧ t.rd pgFab R.fwLastPart = n)))

/-- Partitions (R361, R372, R373, R398): CREATE makes a free partition ACTIVE, and another PROG; TEARDOWN makes it
TEARING; with nothing outstanding and nothing to fill it becomes FREE, with TEARDOWN_DONE; the end of a fill leaves the
filled bytes zero; REG_PERM sets the masks of a disabled region. -/
def Obligations.Partitions : Prop :=
  ∀ (ini : Ini) (n v : Nat) (t : Tear),
    Writes (.create ini) ini pgFab 0x0A4
      (fun u => p0Ok u ini = true ∧ u.rd pgFab R.partSel ≠ 0 ∧ u.rd pgFab R.partState (u.rd pgFab R.partSel) = ptFree)
      (fun u => u.wr pgFab R.partState ptActive (u.rd pgFab R.partSel)) ∧
    Writes (.create ini) ini pgFab 0x0A4
      (fun u => p0Ok u ini = true ∧ (u.rd pgFab R.partSel = 0 ∨ u.rd pgFab R.partState (u.rd pgFab R.partSel) ≠ ptFree))
      (fun u => u.prog pgFab) ∧
    Writes (.teardown ini) ini pgFab 0x0A4
      (fun u => p0Ok u ini = true ∧ u.rd pgFab R.partSel ≠ 0 ∧ u.rd pgFab R.partState (u.rd pgFab R.partSel) = ptActive ∧
        graphsOf u (u.rd pgFab R.partSel) = [] ∧ pagesOf u (u.rd pgFab R.partSel) = [])
      (fun u => { u.wr pgFab R.partState ptTearing (u.rd pgFab R.partSel) with
        tears := u.tears ++ [tearOf u (u.rd pgFab R.partSel)] }) ∧
    Brings (.teardownDrained n)
      (fun s => s.tears = [t] ∧ t.part = n ∧ t.filling = false ∧ t.fills = [] ∧ t.shared = [] ∧ n < 8 ∧
        outstanding s n = false ∧ pagesOf s n = [])
      (fun _ u => u.tears = [] ∧ u.rd pgFab R.partState n = ptFree ∧ u.rd pgFab R.teardownDone n = 1) ∧
    Brings .zeroFillDone (fun s => s.tears = [t] ∧ t.filling = true ∧ t.part < 8)
      (fun _ u => u.tears = [] ∧ u.rd pgFab R.partState t.part = ptFree ∧
        (∀ x, targetOf x = .ext → inRanges t.fills x = true → u.byte x = 0) ∧ u.rd pgScr R.zfActive = 0) ∧
    Writes (.regPerm ini v) ini pgFab 0x094
      (fun u => p0Ok u ini = true ∧ unlocked u pgFab = true ∧
        u.on pgFab R.regEn (regIx (u.rd pgFab R.fwSel) (u.rd pgFab R.regionSel)) = false)
      (fun u =>
        let i := regIx (u.rd pgFab R.fwSel) (u.rd pgFab R.regionSel)
        (((u.wr pgFab R.regRd (v % 256) i).wr pgFab R.regWr (bitsOf v 15 8) i).wr pgFab R.regSc3w (bitsOf v 16 16) i).wr
          pgFab R.regEn (bitsOf v 31 31) i)

/-- Fabric transactions (R357, R365 to R367, R371): a passed read of Shared Vision Memory is issued and holds its answer;
its response is delivered once, before the transaction's time is over; then the transaction is abandoned, and a response of
another epoch is discarded as stale. -/
def Obligations.Transactions : Prop :=
  ∀ (init tid sub a n seq epoch : Nat) (g : Tag) (x : Txn),
    Does (.transactionArrival init tid sub .read a n [] seq .ok false [])
      (fun s => initExists init = true ∧ tid < 64 ∧ tagOf s init sub = some g ∧ (s.txn init tid).busy = false ∧
        slotHeld (s.txn init tid) = false ∧ 0 < n ∧ n ≤ 512 ∧ a / 4096 = (a + n - 1) / 4096 ∧ targetOf a = .svm ∧
        s.eccBad = [] ∧ injectNow s pgFab 12 = false ∧ judge s g opRead a n = .pass)
      (fun s =>
        let y : Txn := { s.txn init tid with
          busy := true, addr := a, part := g.part, remote := isRemote init a, issued := s.time, limit := 400,
          inc := txnInc s init a 0, ready := false }
        (received ((issued s init .read a n).putTxn init tid y) init .read a n 0).putTxn init tid
          { y with ready := true, value := fromLe (s.bytes a n), status := 0 }) ∧
    Does (.responseArrival init tid epoch)
      (fun s => s.txn init tid = x ∧ x.busy = true ∧ x.epoch = epoch ∧ x.ready = true ∧ s.time < x.issued + x.limit)
      (fun s => { s.putTxn init tid { epoch := x.epoch, old := x.old } with reply := ⟨x.value, x.status⟩ }) ∧
    Brings (.responseArrival init tid epoch)
      (fun s => s.txn init tid = x ∧ x.epoch ≠ epoch)
      (fun s t => (t.txn init tid).old = x.old.erase epoch ∧ t.rd pgFab R.staleCnt = (s.rd pgFab R.staleCnt + 1) % 2 ^ 32 ∧
        bitOf (t.rd pgFab R.pageErr) 9 = true ∧ t.reply = s.reply) ∧
    Brings (.fabricTimeout init tid)
      (fun s => s.txn init tid = x ∧ x.busy = true ∧ x.issued + x.limit ≤ s.time ∧ targetOf x.addr ≠ .pcie ∧
        x.old.contains ((x.epoch + 2) % 16) = false ∧ x.epoch < 16)
      (fun s t => t.reply = ⟨0, 7⟩ ∧ t.rd pgFab R.timeoutCnt = (s.rd pgFab R.timeoutCnt + 1) % 2 ^ 32 ∧
        (t.txn init tid).busy = false ∧ (t.txn init tid).epoch = (x.epoch + 1) % 16 ∧
        (t.txn init tid).old = x.old ++ [x.epoch] ∧ t.logQ.length = s.logQ.length + 1)

/-- External memory (R380, R387, R388, R392, R395, R397): INIT and the end of training move a controller on, a failure is
FAULT; the fill leaves zeros and makes all four READY; a patrol read moves on by a line; a re-read that ended well
releases its line; bank flags and the refresh rate are written. -/
def Obligations.ExternalMemory : Prop :=
  ∀ (ini : Ini) (i k v : Nat), i < 4 →
    Writes (.init ini i) ini (pgLpc i) 0x084 (fun u => u.lpc i = lpOff ∧ lpcSame u = true)
      (fun u => u.wr (pgLpc i) R.lpcState lpTraining) ∧
    Writes (.init ini i) ini (pgLpc i) 0x084 (fun u => u.lpc i ≠ lpOff) (fun u => u) ∧
    Does (.trainingDone i 0) (fun s => s.lpc i = lpTraining ∧ (∀ k, k < 4 → s.lpc k ≠ lpOff) ∧ lpcSame s = true)
      (fun s => s.wr (pgLpc i) R.lpcState lpFilling) ∧
    Brings (.trainingDone i (k + 1)) (fun s => s.lpc i = lpTraining ∧ (∀ k, k < 4 → s.lpc k ≠ lpOff) ∧ lpcSame s = true)
      (fun _ t => t.lpc i = lpFailed ∧ t.on pgSaf R.fault = true) ∧
    Brings .fillDone (fun s => ∀ k, k < 4 → s.lpc k = lpFilling)
      (fun _ t => (∀ k, k < 4 → t.lpc k = lpReady) ∧ (∀ x, targetOf x = .ext → t.byte x = 0) ∧ t.poisoned = []) ∧
    Does (.patrolRead .ok)
      (fun s => s.on pgScr R.patrolEn = true ∧ extReady s = true ∧ s.on pgScr R.zfActive = false ∧ s.poisoned = [] ∧
        s.rd pgScr R.patrolPos + 64 < usableBytes s ∧ targetOf (extBase + s.rd pgScr R.patrolPos) = .ext)
      (fun s => s.wr pgScr R.patrolPos (s.rd pgScr R.patrolPos + 64)) ∧
    (∀ r : Reread, Brings (.dramReread r.line .rereadOk) (fun s => s.rereads = [r])
      (fun s t => t.rereads = [] ∧ t.poisoned = s.poisoned ∧
        (∀ k, r.key = some k → (sget {} t.txns k).ready = true ∧ (sget {} t.txns k).value = fromLe r.bytes ∧
          (sget {} t.txns k).status = 0))) ∧
    Writes (.bankInh ini v) ini pgSvm 0x080 (fun _ => True)
      (fun u => u.wr pgSvm R.bankInh (clrMask 48 (u.rd pgSvm R.bankInh) v)) ∧
    Does (.mr4Read i v) (fun s => s.lpc i = lpReady ∨ s.lpc i = lpFilling) (fun s => s.wr (pgLpc i) R.mr4Rate v)

/-- Job submission (R124, R125, R132, R370): a START that is new to its page queues a job with JOB_PTR in an idle slot of a
working page and takes the next start order, and sets PROG otherwise; the Fawn slot ignores START, and the island's path
queues a job there, the records written before being taken (log 52); CANCEL of a slot whose job has
issued its last write only shows CANCELLING, and before that the job will end CANCELLED. -/
def Obligations.JobSubmission : Prop :=
  (∀ (ini : Ini) (p n : Nat), isEngine p = true → n < nSlots p → isFawn p n = false →
    WriteBrings (.start ini p n) ini p ((slotF p R.slotStart).off + 0x40 * n)
      (fun u => Fresh u (iniId ini) p ∧ u.working p = true ∧ u.slotSt p n = slIdle)
      (fun u t => t.slotSt p n = slQueued ∧ t.rd p R.pstate = psActive ∧ t.jobSeq = u.jobSeq + 1 ∧ t.mem = u.mem ∧
        t.job p n = some { ptr := u.rd p (slotF p R.jobPtr) n, part := iniPart u ini, order := u.jobSeq }) ∧
    Writes (.start ini p n) ini p ((slotF p R.slotStart).off + 0x40 * n)
      (fun u => Fresh u (iniId ini) p ∧ (u.working p = false ∨ u.slotSt p n ≠ slIdle))
      (fun u => appliedOnce u (iniId ini) p fun s => (0, s.prog p)) ∧
    (∀ j : Job,
      Writes (.slotCancel ini p n) ini p ((slotF p R.slotCancel).off + 0x40 * n)
        (fun u => u.job p n = some j ∧ (u.slotSt p n = slQueued ∨ u.slotSt p n = slRunning) ∧
          (j.done.isSome ∨ j.ending.isSome ∨ allIssued p j))
        (fun u => u.setSlot p n slCancelling) ∧
      Writes (.slotCancel ini p n) ini p ((slotF p R.slotCancel).off + 0x40 * n)
        (fun u => u.job p n = some j ∧ (u.slotSt p n = slQueued ∨ u.slotSt p n = slRunning) ∧
          j.done = none ∧ j.ending = none ∧ allIssued p j = false ∧ j.missed = false ∧ j.phase = 0)
        (fun u => putUnit (u.setSlot p n slCancelling) p n
          { j with ending := some stCancelled, missed := false, phase := 0 }))) ∧
  ∀ (ini : Ini) (p ptr : Nat), isFawn p (nSlots p - 1) = true →
    Writes (.start ini p (nSlots p - 1)) ini p ((slotF p R.slotStart).off + 0x40 * (nSlots p - 1))
      (fun u => Fresh u (iniId ini) p) (fun u => appliedOnce u (iniId ini) p fun s => (0, s)) ∧
    Writes (.slotCancel ini p (nSlots p - 1)) ini p ((slotF p R.slotCancel).off + 0x40 * (nSlots p - 1))
      (fun _ => True) (fun u => u) ∧
    Brings (.fawnSubmit p ptr) (fun s => s.working p = true ∧ s.slotSt p (nSlots p - 1) = slIdle)
      (fun s t => t.slotSt p (nSlots p - 1) = slQueued ∧
        t.job p (nSlots p - 1) = some { ptr := ptr, part := 0, sc := 3, order := s.jobSeq } ∧
        t.rd p (slotF p R.cqRdIdx) (nSlots p - 1) = s.rd p (slotF p R.cqWrIdx) (nSlots p - 1) % 2 ^ R.cqRdIdx.w)

/-- Fetching and units (R126, R134, R135): a descriptor that keeps its rules starts the job, another ends it with the
status; a unit without a residue miss writes its output and is counted, one with a miss awaits one recomputation, and a
recomputation without a miss is recorded and written. -/
def Obligations.JobUnits : Prop :=
  ∀ (p n st : Nat) (e : UnitErr) (hit : Hit) (host : Cells) (s : State) (j : Job) (ws : Writes) (x : JS), s.job p n = some j →
    (s.slotSt p n = slQueued → j.fetched = false → j.ending = none →
      (fetchDesc p (jcOf p n j hit host) { job := j, s := s } = .ok () x → injectNow x.s p eProg = false →
        exec (.descriptorFetchDone p n hit host) s = .next (serve
          (((lbLearn x.s x.job).putJob p n { x.job with fetched := true, start := s.time, skipped := s.pw.skipped }).setSlot p n slRunning) p)) ∧
      (fetchDesc p (jcOf p n j hit host) { job := j, s := s } = .fail st x → st ≠ stProg →
        exec (.descriptorFetchDone p n hit host) s = .next (serve
          (((lbLearn x.s x.job).putJob p n { x.job with fetched := true, start := s.time, skipped := s.pw.skipped, ending := some st }).setSlot
            p n slRunning) p)) ∧
      (j.ptr % 64 ≠ 0 → exec (.descriptorFetchDone p n hit host) s = .next (serve
          (((lbLearn (s.prog p) j).putJob p n
            { j with fetched := true, start := s.time, skipped := s.pw.skipped, ending := some stProg }).setSlot
              p n slRunning) p))) ∧
    (pageKind p ≠ some .sta → inUnit s p n = true →
      unitRun p (jcOf p n j hit host) { job := j, s := s } = .ok ws x → injectNow x.s p eResidue = false →
      (j.missed = false →
        (unitMiss p e = false →
          exec (.unitDone p n e hit host) s = .next (commitUnit s p n (jcOf p n j hit host) ws j x)) ∧
        (unitMiss p e = true → exec (.unitDone p n e hit host) s =
          .next (missUnit x.s p n { j with retried := x.job.retried, inc := x.job.inc } false))) ∧
      (j.missed = true →
        (unitMiss p e = false → exec (.unitRecomputeDone p n e hit host) s = .next (commitUnit s p n (jcOf p n j hit host) ws j
          { x with job := { retriedJob p x.job with inc := (residueRec x.s p x.job 1 j.missInj).1 },
                   s := (residueRec x.s p x.job 1 j.missInj).2 })) ∧
        (unitMiss p e = true → exec (.unitRecomputeDone p n e hit host) s = .next
          (let u := x.s.raise p eResidue
           lastingMiss (if pageKind p = some .lvu then u.bump p R.lvuResMiss else u) p n
            { j with inc := x.job.inc, retried := x.job.retried } false))))

/-- The end of a job (R127, R128, R131 to R133): with its last write issued it ends OK, and with another status when it has
one; its budget ends it TIMEOUT with a record and doubt; its record, which waits while the ring is full, frees the slot and posts
its semaphore, and of the Fawn slot the island learns how the job ended. -/
def Obligations.JobEnds : Prop :=
  ∀ (p n cyc st : Nat) (hit : Hit) (j : Job),
    Brings (.jobEnd p n cyc)
      (fun s => s.job p n = some j ∧ j.fetched = true ∧ j.done = none ∧ j.ending = none ∧ allIssued p j = true ∧
        pageKind p ≠ some .lvu)
      (fun _ t => ∃ j', t.job p n = some j' ∧ j'.done = some stOk ∧ j'.cycles = min cyc 0xFFFFFFFF ∧ j'.part = j.part) ∧
    Does (.jobEnd p n cyc)
      (fun s => s.job p n = some j ∧ j.fetched = true ∧ j.done = none ∧ j.ending = some st ∧ st ≤ stResidue)
      (fun s => endJob s p n cyc st j) ∧
    Does (.jobDrainDone p n cyc) (fun s => s.job p n = some j ∧ j.done = none ∧ j.ending = some st)
      (fun s => endJob s p n cyc st j) ∧
    Does (.jobBudgetExpiry p n)
      (fun s => s.job p n = some j ∧ j.fetched = true ∧ j.done = none ∧ j.ending = none ∧ allIssued p j = false ∧
        budgetSpent s p j = true ∧ j.missed = false ∧ j.phase = 0)
      (fun s =>
        let r := s.logI j.inc { event := 0x19, level := 2, cls := if 1 ≤ sget 0 s.toRuns (jobKey p n) then 2 else 0,
                                part := j.part, page := p, tag := j.dtag, d0 := n }
        putUnit (doubtByTag r.2 j.part j.dtag r.1) p n { j with inc := r.1, ending := some stTimeout }) ∧
    Does (.completionRecordDone p n hit)
      (fun s => s.job p n = some j ∧ j.done = some st ∧ cqFull s p n = true) (fun s => s) ∧
    (∀ (s s' : State) (bs : List Byte) (ret : Bool) (k : Nat),
      s.job p n = some j → j.done = some st → cqFull s p n = false →
      let u : State := if isFawn p n then { s with fawnEnds := sput s.fawnEnds p (st + 16 * b2n j.bit9) } else s
      let i := s.rd p (slotF p R.cqWrIdx) n
      writeAll u (jobTag p j) p j.dtag (s.rd p (slotF p R.cqBase) n + 16 * ixIdx i) (complRecord u p n j st) hit j.inc =
        (.ok bs, ret, k, s') →
      exec (.completionRecordDone p n hit) s = .next
        (let v := (s'.wr p (slotF p R.cqWrIdx) (ringNext (s'.rd p (slotF p R.cqCount) n) i) n).bump p (slotF p R.jobsDone) 1 n
         let w := if st = stOk ∧ j.semEn then v.semPost (engInit p) j.part j.sem else v
         nodeJobEnd (freeSlot w p n j) j st))

/-- Vectors of an array (R192 to R199, R205): the activations of the next vector are fetched meanwhile; without a checksum
miss the block is written, or awaits its recomputation after a residue miss; a checksum miss is replayed on the same
streams, a replay that differs without a miss is a transient and one that differs with one is lasting, a same miss goes to the
other family, and a run there without a miss is an outlier, with one lasting; an uncorrectable weight read ends the job. -/
def Obligations.ArrayVectors : Prop :=
  ∀ (p n wt : Nat) (upset : Cells) (res : List SumErr) (hit : Hit) (host : Cells) (s s1 : State) (j : Job) (x : JS) (r : ArrRun),
    s.job p n = some j → pageKind p = some .sta → inUnit s p n = true → j.missed = false →
    (j.phase = 0 → nextActs (jcOf p n j hit host) { job := j, s := s } = .ok () x → injectNow x.s p eEccUncorr = false →
      (injectNow x.s p eEccCorr = false →
        (arrayRun x.s p x.job (passOf j).fork upset = (false, s1, r) →
          (residueMiss res = false → exec (.vectorDone p n wt .ok upset res hit host) s =
            .next (commitVector s p n (jcOf p n j hit host) r 0 { x with s := s1 })) ∧
          (residueMiss res = true → exec (.vectorDone p n wt .ok upset res hit host) s =
            .next (missUnit s1 p n { x.job with run := some r, cls := 0, phase := 0 } false))) ∧
        (arrayRun x.s p x.job (passOf j).fork upset = (true, s1, r) → exec (.vectorDone p n wt .ok upset res hit host) s =
          .next (((s1.bump p R.csMissCnt (max 1 r.misses)).perf p 0x0C).putJob p n { x.job with run := some r, phase := 1 }))) ∧
      exec (.vectorDone p n wt .uncorr upset res hit host) s = .next (weightError x.s p n x.job wt false)) ∧
    (injectNow s p eEccUncorr = false → injectNow s p eEccCorr = false →
      (j.phase = 1 → arrayRun s p j (passOf j).fork upset = (true, s1, r) →
        r.counts = (j.run.getD {}).counts → r.stops = (j.run.getD {}).stops → r.upset = (j.run.getD {}).upset →
        exec (.replayDone p n wt .ok upset res hit host) s = .next (s1.putJob p n { j with phase := 2 })) ∧
      (j.phase = 1 → arrayRun s p j (passOf j).fork upset = (false, s1, r) → r.counts ≠ (j.run.getD {}).counts →
        residueMiss res = false →
        exec (.replayDone p n wt .ok upset res hit host) s = .next
          (let f := (j.run.getD {}).upset
           let q := checksumRec ((s1.bump p R.transientCnt).raiseI p eResidue f) p j 1 f r
           commitVector s p n (jcOf p n j hit host) r 1 { job := { j with inc := q.1 }, s := q.2 })) ∧
      (j.phase = 1 → arrayRun s p j (passOf j).fork upset = (true, s1, r) → r.counts ≠ (j.run.getD {}).counts →
        exec (.replayDone p n wt .ok upset res hit host) s = .next
          (lastingVector s1 p n j ((j.run.getD {}).upset || r.upset) r)) ∧
      (j.phase = 2 → arrayRun s p j ((passOf j).fork ^^^ 0x80) upset = (false, s1, r) → residueMiss res = false →
        exec (.forkRunDone p n wt .ok upset res hit host) s = .next
          (let q := checksumRec (((s1.bump p R.outlierCnt).raise p 10).noticeOn j.part) p j 4 false r
           commitVector s p n (jcOf p n j hit host) r 2 { job := { j with inc := q.1 }, s := q.2 })) ∧
      (j.phase = 2 → arrayRun s p j ((passOf j).fork ^^^ 0x80) upset = (true, s1, r) →
        exec (.forkRunDone p n wt .ok upset res hit host) s = .next (lastingVector s1 p n j r.upset r)))

/-- Speed monitors (R176, R177, R184): RESYNC ends after its run of agreeing samples, distance and time; a monitor without
a sample for its time is STARVED; EN starts a monitor with its runs at zero. -/
def Obligations.SpeedMonitors : Prop :=
  ∀ (ini : Ini) (p m : Nat), p = 0x90 ∨ p = 0x91 → m < 2 →
    Does (.resyncClear p m)
      (fun s => s.on p R.monEn m = true ∧ s.on p R.monResync m = true ∧ s.rd p R.nClear m ≤ s.rd p R.agreeRun m ∧
        (s.rd p R.holdCounts m : Int) ≤ diff32 (s.rd pgLio R.encCnt (s.rd p R.monEncSel m)) (s.mon p m).missEnc ∧
        (s.mon p m).missTime + s.rd p R.holdTime m ≤ s.time)
      (fun s => s.wr p R.monResync 0 m) ∧
    Does (.resyncClear p m) (fun s => s.rd p R.agreeRun m < s.rd p R.nClear m) (fun s => s) ∧
    Does (.starved p m)
      (fun s => s.on p R.monEn m = true ∧ s.rd p R.starveTime m ≠ 0 ∧
        (s.mon p m).lastSample + s.rd p R.starveTime m ≤ s.time ∧ s.on p R.monStarved m = false)
      (fun s => (s.wr p R.monStarved 1 m).raise p 11) ∧
    WriteBrings (.monitorEnable ini p m true) ini p (0x0C0 + 0x20 * m) (fun u => u.on p R.monEn m = false)
      (fun u t => t.on p R.monEn m = true ∧ t.rd p R.missRun m = 0 ∧ t.rd p R.agreeRun m = 0 ∧
        (t.mon p m).lastSample = u.time ∧ t.mem = u.mem) ∧
    Writes (.monitorEnable ini p m false) ini p (0x0C0 + 0x20 * m) (fun _ => True) (fun u => u.wr p R.monEn 0 m)

/-- Weight planes (R202, R204, R207 to R209): ARM, RETIRE and PUSH_GO under their rules; a push order whose plane is read
goes on the chain; an arriving plane is taken by the slot armed for it; its end captures it in every slot that takes it, which
becomes READY, or BAD when the plane is poisoned or breaks a rule of its own; the end of the order counts it. -/
def Obligations.WeightPlanes : Prop :=
  (∀ (ini : Ini) (p k : Nat), isSta p = true → k < 32 →
    Writes (.arm ini p k) ini p (0x204 + 8 * k)
      (fun u => u.rd p R.planeState k = 0 ∧ ∀ m, m < 32 → m ≠ k → u.rd p R.planeId m = u.rd p R.planeId k →
        ¬(1 ≤ u.rd p R.planeState m ∧ u.rd p R.planeState m ≤ 3))
      (fun u => u.wr p R.planeState 1 k) ∧
    Writes (.arm ini p k) ini p (0x204 + 8 * k) (fun u => u.rd p R.planeState k = 2) (fun u => u.prog p) ∧
    Writes (.retire ini p k) ini p (0x204 + 8 * k) (fun u => u.rd p R.planeState k = 3)
      (fun u => u.wr p R.planeState (if u.rd p R.planeRef k = 0 then 0 else 4) k) ∧
    Writes (.pushGo ini) ini (pgSta 0) 0x110
      (fun u => Fresh u (iniId ini) (pgSta 0) ∧ u.pushes.length < 8 ∧ u.rd (pgSta 0) R.pushSrc % 64 = 0 ∧
        u.rd (pgSta 0) R.pushDig % 64 = 0)
      (fun u => appliedOnce u (iniId ini) (pgSta 0) fun s =>
        (1, queuePush s { src := u.rd (pgSta 0) R.pushSrc, dig := u.rd (pgSta 0) R.pushDig, part := iniPart u ini })) ∧
    Writes (.pushGo ini) ini (pgSta 0) 0x110 (fun u => Fresh u (iniId ini) (pgSta 0) ∧ 8 ≤ u.pushes.length)
      (fun u => appliedOnce u (iniId ini) (pgSta 0) fun s => (0, s.raise (pgSta 0) 11))) ∧
  (∀ (hit : Hit) (host : Cells) (s s' : State) (o : Push) (rest : List Push) (bs : List Byte) (ret : Bool),
    s.pushes = o :: rest → s.working (pgSta 0) = true → (∀ t ∈ s.transits, t.sent = true) → o.dig = 0 →
    readAll (({ s with pushes := rest } : State).wr (pgSta 0) R.pushQ rest.length) ⟨0x50, o.part, 1⟩ (pgSta 0) 0 o.src
      planeBytes hit host 0 = (.ok bs, ret, s') →
    exec (.pushOrderStart hit host) s = .next { s' with transits := s'.transits ++ [{ order := o, bytes := bs }] }) ∧
  ∀ (a k : Nat) (x : Transit), a < 4 → k < 32 →
    Does (.planeArrival (pgSta a))
      (fun s => s.transits = [x] ∧ x.arrived = a ∧ x.ended ≤ a ∧
        (List.range 32).find? (fun n => s.rd (pgSta a) R.planeState n == 1 &&
          s.rd (pgSta a) R.planeId n == wordAt x.bytes 0) = some k)
      (fun s => (({ s with transits := [{ x with arrived := a + 1 }] } : State).wr (pgSta a) R.chainBusy 1).wr
        (pgSta a) R.planeState 2 k) ∧
    Brings (.planeCaptureEnd (pgSta a) true)
      (fun s => s.transits = [x] ∧ a < x.arrived ∧ x.ended = a ∧ x.sent = false ∧ s.rd (pgSta a) R.planeState k = 2)
      (fun s t => t.rd (pgSta a) R.planeState k = 5 ∧ t.rd (pgSta a) R.chainBusy = 0 ∧
        bitOf (t.rd (pgSta a) R.pageErr) 9 = true ∧
        t.transits = [{ x with poisoned := true, ended := a + 1, order :=
          (let l := (List.range 32).filter fun n => s.rd (pgSta a) R.planeState n == 2
           x.order.captured a l l) }]) ∧
    (∀ poison : Bool, Brings (.planeCaptureEnd (pgSta a) poison)
      (fun s => s.transits = [x] ∧ a < x.arrived ∧ x.ended = a)
      (fun s t =>
        let y : Transit := { x with poisoned := x.poisoned || poison, ended := a + 1 }
        t.rd (pgSta a) R.chainBusy = 0 ∧ t.mem = s.mem ∧
        ∀ n, n < 32 →
          (s.rd (pgSta a) R.planeState n = 2 →
            t.rd (pgSta a) R.planeState n = (if planeBad y then 5 else 3) ∧ sget {} t.planes (32 * a + n) = planeOf y) ∧
          (s.rd (pgSta a) R.planeState n ≠ 2 → t.rd (pgSta a) R.planeState n = s.rd (pgSta a) R.planeState n ∧
            sget {} t.planes (32 * a + n) = sget {} s.planes (32 * a + n)))) ∧
    Brings .pushOrderEnd
      (fun s => s.transits = [x] ∧ x.sent = false ∧ 1 ≤ x.ended ∧ x.order.node = none ∧ x.order.part < 8)
      (fun s t => t.rd (pgSta 0) R.pushDone = (s.rd (pgSta 0) R.pushDone + 1) % 2 ^ R.pushDone.w ∧
        t.transits = (if x.ended = 4 then [] else [{ x with sent := true }]))

/-- Graph entries (R254, R258 to R260): LOAD starts loading an EMPTY entry, and another sets PROG; a graph whose header and
nodes keep every rule becomes READY and takes its room, a misaligned one BAD; UNLOAD empties an idle entry; a start request
is taken, and starts the next instance. -/
def Obligations.GraphEntries : Prop :=
  (∀ ini : Ini,
    Writes (.load ini) ini pgFgs 0x090
      (fun u => (u.graph (u.rd pgFgs R.gtSel)).st = gEmpty ∧ u.working pgFgs = true)
      (fun u => u.putGraph (u.rd pgFgs R.gtSel) { st := gLoading, owner := iniPart u ini, base := u.rd pgFgs R.gtBase }) ∧
    Writes (.load ini) ini pgFgs 0x090 (fun u => (u.graph (u.rd pgFgs R.gtSel)).st ≠ gEmpty) (fun u => u.prog pgFgs) ∧
    Writes (.unload ini) ini pgFgs 0x090
      (fun u =>
        let x := u.graph (u.rd pgFgs R.gtSel)
        x.st = gReady ∧ x.insts = [] ∧ (x.stream.isSome = true ∨ x.req = x.started))
      (fun u => (u.wr pgFgs R.stateUsed (u.rd pgFgs R.stateUsed - (u.graph (u.rd pgFgs R.gtSel)).room)).putGraph
        (u.rd pgFgs R.gtSel) {})) ∧
  (∀ (g n : Nat) (host : Cells) (s s1 s2 : State) (hb nb : List Byte) (r1 r2 : Bool) (y : Graph),
    g < 256 → (s.graph g).st = gLoading → (s.graph g).base % 64 = 0 → headerOf hb (s.graph g) = (y, n) →
    readAll s (fgsTag (s.graph g).owner) pgFgs 0 (s.graph g).base 64 cleanHit host 0 = (.ok hb, r1, s1) →
    headerOk s1 hb y n = true →
    readAll s1 (fgsTag (s.graph g).owner) pgFgs 0 ((s.graph g).base + 64) (64 * n) cleanHit host 0 = (.ok nb, r2, s2) →
    let z : Graph := { y with nodes := (List.range n).map fun i => nodeOf ((nb.drop (64 * i)).take 64) }
    (∀ i, i < n → nodeOk s2 z i (z.node i) = true) → s2.rd pgFgs R.stateUsed + z.room ≤ 8192 →
    exec (.loadDone g cleanHit host) s = .next ((s2.bump pgFgs R.stateUsed z.room).putGraph g { z with st := gReady })) ∧
  ∀ (g n req : Nat) (hit : Hit) (host : Cells) (s : State), g < 256 →
    ((s.graph g).st = gLoading → (s.graph g).base % 64 ≠ 0 →
      exec (.loadDone g hit host) s = .next (loadBad s g (s.graph g))) ∧
    (busOk s (.fn n) = true → (s.graph g).st = gReady → (s.graph g).owner = n → (s.graph g).stream = none →
      (hostWake s (.fn n)).rd pgFab R.partState n = 1 → (req % 65536 + 65536 - (s.graph g).started) % 65536 < 0x8000 →
      exec (.startDoorbell (.fn n) g req) s = .next
        (({ hostWake s (.fn n) with reply := ⟨0, 0⟩ } : State).putGraph g { s.graph g with req := req % 65536 })) ∧
    ((s.graph g).st = gReady → (s.graph g).stream = none → (s.graph g).req ≠ (s.graph g).started →
      (s.graph g).insts.length < (s.graph g).instMax → s.working pgFgs = true →
      ∃ t, exec (.instanceStart g) s = .next t ∧ t.rd pgFgs R.pstate = psActive ∧ t.mem = s.mem ∧
        (t.graph g).started = ((s.graph g).started + 1) % 65536 ∧
        (t.graph g).insts = (s.graph g).insts ++
          [{ num := (s.graph g).nextInst, k := (s.graph g).nextInst % (s.graph g).ringN }])

/-- Nodes of a running instance (R264 to R269, R271, R273, R278, R524): of the nodes and fused groups that are eligible the
one that became so first is admitted, and dispatched or skipped, and one without tokens waits; a finished execution ends, and
a CORE execution past its budget ends TIMEOUT; a
job to be dispatched again is; a deadlocked group is cancelled with PROG. -/
def Obligations.GraphNodes : Prop :=
  ∀ (g i n : Nat) (hit : Hit) (host : Cells) (s s' : State) (x : Graph) (a : Inst), g < 256 → s.graph g = x → x.st = gReady →
    x.inst i = some a → n < x.nodes.length →
    (∀ key, s.elig.head? = some key → key ∈ eligNow s → (noteElig s).elig.head? = some key) ∧
    (s.working pgFgs = true → (noteElig s).elig.head? = some (execKey g a.num (x.lead n)) →
      exec (.nodeAdmit g i n hit host) s = .next (admitGroup (noteElig s) g x a n hit host) ∧
      ((x.node n).fused = false → takeAll (noteElig s) (x.node n).takes = some s' →
        (skips x a n = false → exec (.nodeAdmit g i n hit host) s = .next
          (fetchNode (claimLb (admitOne { s' with elig := s'.elig.drop 1 } g a.num n false) g a.num n) g a.num n hit host)) ∧
        (skips x a n = true → exec (.nodeAdmit g i n hit host) s = .next
          (admitOne { s' with elig := s'.elig.drop 1 } g a.num n true)))) ∧
    (s.working pgFgs = true → takeAll (noteElig s) ((x.group n).flatMap fun m => (x.node m).takes) = none →
      exec (.nodeAdmit g i n hit host) s = .next (noteElig s)) ∧
    (∀ e : Exec, execOf s (execKey g i n) = some e →
      (e.st = 3 → exec (.nodeEnd g i n hit) s = .next (noteElig (endExec s g i n hit))) ∧
      (e.st = 1 → e.start + usTicks e.budget ≤ s.time → e.force = none → (x.node n).kind = nkCore →
        exec (.nodeEnd g i n hit) s = .next (noteElig (endExec (finishExec s (execKey g i n) stTimeout) g i n hit)))) ∧
    ((a.exec n).st = 1 → (a.exec n).again = true → s.slotSt (x.node n).page (slotIn (x.node n) a) = slIdle →
      exec (.redispatch g i n) s = .next (dispatchEngine
        (modExec (s.perf pgFgs 0x0C) (execKey g i n) fun e => { e with again := false }) (execKey g i n) x.owner
        (x.node n).page (slotIn (x.node n) a) (descIn x (x.node n) a) 1)) ∧
    (∀ fuse : Nat, ((x.members fuse).filter fun m => (a.exec m).st == 1) = [n] → memberWaits s (execKey g i n) = true →
      exec (.hoDeadlock g i fuse) s = .next
        (cancelExec (modExec (s.raise pgFgs 10) (execKey g i n) fun e => { e with force := some stProg }) g i n))

/-- Instances (R267, R276, R278, R279): an instance whose nodes have all ended leaves the entry; one past its deadline is
ending TIMEOUT, with a record, a count and doubt; CANCEL and CANCEL_ALL end instances of the entry GT_SEL addresses CANCELLED,
NODE_CANCEL a node, and a TRIG that is new to the sequencer (R370) adds a credit to a triggered node. -/
def Obligations.GraphInstances : Prop :=
  (∀ (g i : Nat) (hit : Hit) (x : Graph) (a : Inst), g < 256 → x.inst i = some a →
    Brings (.instanceEnd g i hit)
      (fun s => s.graph g = x ∧ x.cqEn = false ∧ x.doneEn = false ∧ a.ending = none ∧
        ∀ m, m < x.nodes.length → (a.exec m).st = 2)
      (fun s t => (t.graph g).insts = x.insts.filter (fun b => b.num != i) ∧ t.mem = s.mem ∧ t.sems = s.sems ∧
        t.outs = s.outs) ∧
    Brings (.instanceDeadline g i)
      (fun s => s.graph g = x ∧ i < 2 ^ 32 ∧ x.nodes.length ≤ 1024 ∧ x.deadline ≠ 0 ∧ a.ending = none ∧
        (∃ t, a.first = some t ∧ t + usTicks x.deadline ≤ s.time) ∧ (∃ m, m < x.nodes.length ∧ (a.exec m).st ≠ 2) ∧
        ∀ m, m < x.nodes.length → (a.exec m).st ≠ 1)
      (fun s t => (((t.graph g).inst i).map (·.ending)) = some (some stTimeout) ∧
        t.rd pgFgs R.deadlineCnt = (s.rd pgFgs R.deadlineCnt + 1) % 2 ^ R.deadlineCnt.w ∧
        t.logQ.length = s.logQ.length + 1 ∧ t.doubtQ.length = s.doubtQ.length + 1)) ∧
  ∀ (ini : Ini) (g n : Nat), (∀ c, ini ≠ .core c) → g < 256 →
    Writes (.trig ini g n) ini pgFgs 0x0A4
      (fun u => (u.graph g).st = gReady ∧ n < (u.graph g).nodes.length ∧ ((u.graph g).node n).trig = true ∧
        credit (u.graph g) n < 15 ∧ Fresh u (iniId ini) pgFgs)
      (fun u => appliedOnce u (iniId ini) pgFgs fun s =>
        (1, s.putGraph g { s.graph g with credits := sset 0 (s.graph g).credits n (credit (s.graph g) n + 1) })) ∧
    Writes (.trig ini g n) ini pgFgs 0x0A4 (fun u => 15 ≤ credit (u.graph g) n ∧ Fresh u (iniId ini) pgFgs)
      (fun u => appliedOnce u (iniId ini) pgFgs fun s => (0, s.prog pgFgs)) ∧
    Writes (.cancel ini g) ini pgFgs 0x090 (fun _ => True)
      (fun u => endInst u (u.rd pgFgs R.gtSel) (u.rd pgFgs R.cancelInst) stCancelled) ∧
    (∀ a : Inst, WriteBrings (.cancelAll ini n) ini pgFgs 0x090
      (fun u => u.rd pgFgs R.gtSel = g ∧ (u.graph g).insts = [a] ∧ (u.graph g).nodes = [] ∧ a.ending = none)
      (fun u t => (t.graph g).insts = [{ a with ending := some stCancelled }] ∧ (t.graph g).req = (u.graph g).started)) ∧
    (∀ i : Nat, Writes (.nodeCancel ini g n) ini pgFgs 0x0A0
      (fun u => oldestRun u g n = some i) (fun u => cancelExec u g i n)) ∧
    ∀ c, Does (.trig (.core c) g n)
      (fun s => (s.graph g).st = gReady ∧ (s.graph g).owner ≠ s.ownerOf (pgCc c)) (fun s => s.prog (pgCc c))

/-- Semaphores (R263, R285, R286, R370): a new POST counts up, a new TRY_TAKE counts down or answers 0, READ answers the count
and SET
replaces it, each leaving its result with the initiator; a core reaches its partition's semaphores only; SEM_OWN gives a
pair that no instance uses to a partition. -/
def Obligations.Semaphores : Prop :=
  ∀ (ini : Ini) (n c pair part : Nat), (∀ c, ini ≠ .core c) → n < 1024 → pair < 512 → part < 8 →
    WriteBrings (.post ini n) ini pgFgs 0x0A8 (fun u => sget 0 u.sems n < 0xFFFFFFFF ∧ Fresh u (iniId ini) pgFgs)
      (fun u t => sget 0 t.sems n = sget 0 u.sems n + 1 ∧ t.mem = u.mem ∧
        sget (0, 0) t.semIfs (iniId ini) = (semResOf 1 n true, sget 0 u.sems n + 1)) ∧
    WriteBrings (.post ini n) ini pgFgs 0x0A8 (fun u => sget 0 u.sems n = 0xFFFFFFFF ∧ Fresh u (iniId ini) pgFgs)
      (fun u t => t.sems = u.sems ∧ bitOf (t.rd pgFgs R.pageErr) 8 = true ∧
        sget (0, 0) t.semIfs (iniId ini) = (semResOf 1 n false, 0xFFFFFFFF)) ∧
    Writes (.tryTake ini n) ini pgFgs 0x0A8 (fun u => sget 0 u.sems n ≠ 0 ∧ Fresh u (iniId ini) pgFgs)
      (fun u => { appliedOnce u (iniId ini) pgFgs (fun s => (1, { s with sems := sset 0 s.sems n (sget 0 s.sems n - 1) })) with
                         semIfs := sset (0, 0) u.semIfs (iniId ini) (semResOf 2 n true, sget 0 u.sems n - 1) }) ∧
    Writes (.tryTake ini n) ini pgFgs 0x0A8 (fun u => sget 0 u.sems n = 0 ∧ Fresh u (iniId ini) pgFgs)
      (fun u => { appliedOnce u (iniId ini) pgFgs (fun s => (0, s)) with semIfs := sset (0, 0) u.semIfs (iniId ini) (semResOf 2 n false, 0) }) ∧
    Writes (.read ini n) ini pgFgs 0x0A8 (fun _ => True)
      (fun u => { u with semIfs := sset (0, 0) u.semIfs (iniId ini) (semResOf 3 n false, sget 0 u.sems n) }) ∧
    Writes (.set ini n) ini pgFgs 0x0A8 (fun u => pairInUse u (n / 2) = false)
      (fun u => { u with sems := sset 0 u.sems n (u.rd pgFgs R.semVal % 2 ^ 32),
                         semIfs := sset (0, 0) u.semIfs (iniId ini) (semResOf 4 n true, u.rd pgFgs R.semVal % 2 ^ 32) }) ∧
    Does (.tryTake (.core c) n) (fun s => sget 0 s.semOwner (n / 2) ≠ s.ownerOf (pgCc c)) (fun s => s.prog (pgCc c)) ∧
    Writes (.semOwn ini pair part) ini pgFgs 0x0B8 (fun u => pairInUse u pair = false)
      (fun u => { u with semOwner := sset 0 u.semOwner pair part }) ∧
    Writes (.semOwn ini pair part) ini pgFgs 0x0B8 (fun u => pairInUse u pair = true) (fun u => u.prog pgFgs)

/-- Control cores (R282 to R287, R370): a new message enters an inbox with room, and a full one shows its overflow; RUN starts a
halted core at RESET_PC and asks a running one to halt; TCM_DATA stores a word; NODE_DONE ends its execution; a trap and
the timer leave their marks. -/
def Obligations.Cores : Prop :=
  ∀ (ini : Ini) (c v g n st : Nat) (e : Exec), c < 8 →
    WriteBrings (.mbxPush ini c) ini (pgCc c) 0x0C0 (fun u => (u.core c).inbox.length < 16 ∧ Fresh u (iniId ini) (pgCc c))
      (fun u t => (t.core c).inbox = (u.core c).inbox ++ [mbxMsg u c] ∧ t.mem = u.mem) ∧
    Writes (.mbxPush ini c) ini (pgCc c) 0x0C0 (fun u => 16 ≤ (u.core c).inbox.length ∧ Fresh u (iniId ini) (pgCc c))
      (fun u => appliedOnce u (iniId ini) (pgCc c) fun s => (0, s.putCore c { s.core c with mbxOvf := true })) ∧
    Does (.mbxPop c) (fun s => Fresh s (0x10 + c) (pgCc c))
      (fun s => appliedOnce s (0x10 + c) (pgCc c) fun u => (1, u.putCore c { u.core c with inbox := (u.core c).inbox.tail })) ∧
    WriteBrings (.run ini c true) ini (pgCc c) 0x080 (fun u => coreCanRun u c = true ∧ u.coreSt c = 0)
      (fun u t => t.coreSt c = 1 ∧ t.rd (pgCc c) R.ccRun = 1 ∧ (t.core c).pc = 2 * u.rd (pgCc c) R.resetPc) ∧
    Writes (.run ini c false) ini (pgCc c) 0x080 (fun u => u.coreSt c ≠ 0)
      (fun u => (u.wr (pgCc c) R.ccRun 0).putCore c { u.core c with halting := true }) ∧
    Brings (.coreHalted c) (fun s => (s.core c).halting = true ∧ s.coreSt c ≠ 0 ∧ s.on (pgCc c) R.ccRun = false)
      (fun _ t => t.coreSt c = 0 ∧ (t.core c).halting = false) ∧
    WriteBrings (.tcmData ini c v) ini (pgCc c) 0x094 (fun u => u.coreSt c = 0 ∧ v < 2 ^ 32)
      (fun u t => tcmBytes t c (4 * u.rd (pgCc c) R.tcmAddr) 4 = leBytes 4 v ∧ t.mem = u.mem ∧
        bitOf (t.rd pgSec R.imageEntry (16 * (2 + c))) 16 = true) ∧
    Writes (.tcmData ini c v) ini (pgCc c) 0x094 (fun u => u.coreSt c ≠ 0) (fun u => u.prog (pgCc c)) ∧
    Brings (.nodeDone c g n st)
      (fun s => st ≤ 6 ∧ execOf s (execKey g (s.core c).doneInst n) = some e ∧ e.st = 1 ∧ e.force = none ∧
        ((s.graph g).node n).kind = nkCore ∧ ((s.graph g).node n).page = pgCc c)
      (fun s t => execOf t (execKey g (s.core c).doneInst n) = some { e with st := 3, status := st }) ∧
    Does (.nodeDone c g n st) (fun s => st ≤ 6 ∧ execOf s (execKey g (s.core c).doneInst n) = none)
      (fun s => s.bump pgFgs R.fgsStaleCnt) ∧
    Does (.coreTrap c v n) (fun s => s.coreSt c ≠ 0) (fun s => (s.wr (pgCc c) R.trapCause v).wr (pgCc c) R.trapPc n) ∧
    Brings (.coreTimer c) (fun s => (s.core c).timerCmp ≤ s.time)
      (fun s t => (t.core c).pendTimer = true ∧ (t.core c).inbox = (s.core c).inbox)

/-- Accesses of a running core (R281, R282): a fetch and a load from TCM answer its bytes, and a fetch
that does not follow the latest one is a program-flow packet of the trace (R557); a store writes them and nothing
else; an access to no unit is an access fault, with the fault's cause; WFI with nothing pending waits. -/
def Obligations.CoreAccesses : Prop :=
  ∀ (c a n v : Nat), c < 8 → n = 1 ∨ n = 2 ∨ n = 4 →
    (a + n ≤ tcmSize → n ≠ 1 →
      Does (.coreAccess c .fetch a n v .ok [])
        (fun s => s.coreSt c = 1 ∧ (s.core c).dbg = false ∧ s.tcmBad = [] ∧ calm s (pgCc c) = true)
        (fun s =>
          let u := s.putCore c { s.core c with pc := a, flen := n }
          { (if (s.core c).flen = 0 ∨ a = (s.core c).pc + (s.core c).flen then u else tracePkt u (c + 1) a) with
            reply := ⟨fromLe (tcmBytes s c a n), 0⟩ })) ∧
    (a + n ≤ tcmSize →
      Does (.coreAccess c .load a n v .ok [])
        (fun s => s.coreSt c = 1 ∧ (s.core c).dbg = false ∧ s.tcmBad = [] ∧ calm s (pgCc c) = true)
        (fun s => { s with reply := ⟨fromLe (tcmBytes s c a n), 0⟩ }) ∧
      Brings (.coreAccess c .store a n v .ok [])
        (fun s => s.coreSt c = 1 ∧ (s.core c).dbg = false ∧ s.tcmBad = [] ∧ calm s (pgCc c) = true)
        (fun s t => tcmBytes t c a n = leBytes n v ∧ t.regs = s.regs ∧ t.mem = s.mem ∧ t.cores = s.cores ∧
          ∀ x, x < c * tcmSize + a ∨ c * tcmSize + a + n ≤ x → sget memDefault t.tcm x = sget memDefault s.tcm x)) ∧
    (0x00101000 ≤ a → a < 0x40000000 →
      Does (.coreAccess c .load a n v .ok []) (fun s => s.coreSt c = 1 ∧ (s.core c).dbg = false)
        (fun s => coreTrap s c 5 (s.core c).pc) ∧
      Does (.coreAccess c .store a n v .ok []) (fun s => s.coreSt c = 1 ∧ (s.core c).dbg = false)
        (fun s => coreTrap s c 7 (s.core c).pc)) ∧
    Does (.coreAccess c .wfi 0 n v .ok [])
      (fun s => s.coreSt c = 1 ∧ (s.core c).dbg = false ∧ (s.core c).irqEn = 0) (fun s => s.wr (pgCc c) R.ccState 2)

/-- Doorbells of a channel (R302, R305, R308, R315, R317): a chain start takes the next count and fetches CHAIN_PTR, a ring
doorbell takes the tail and fetches the descriptor at RING_HEAD, a wrong count is an error; EXTEND releases a parked
channel, pends on a running one and is counted elsewhere; CANCEL before a descriptor has begun ends the chain; a disabled
channel drains. -/
def Obligations.ChannelDoorbells : Prop :=
  ∀ (ini : Ini) (c v : Nat), c < 64 →
    WriteBrings (.startDb ini false c v) ini (pgCh c) 0x0D8
      (fun u => chRing u c = false ∧ u.chSt c = cIdle ∧ u.working (pgCh c) = true ∧
        v % 65536 = (u.rd (pgCh c) R.chStarted + 1) % 65536 ∧ v % 65536 ≠ u.rd (pgCh c) R.chStarted)
      (fun u t => t.chSt c = cRun ∧ (t.chan c).fetch = some (u.rd (pgCh c) R.chainPtr) ∧
        t.rd (pgCh c) R.chStarted = v % 65536 ∧ t.mem = u.mem) ∧
    Writes (.startDb ini false c v) ini (pgCh c) 0x0D8
      (fun u => chRing u c = false ∧ v % 65536 ≠ u.rd (pgCh c) R.chStarted ∧
        v % 65536 ≠ (u.rd (pgCh c) R.chStarted + 1) % 65536) (fun u => u.raise (pgCh c) 11) ∧
    WriteBrings (.ringDoorbell ini false c v) ini (pgCh c) 0x0D8
      (fun u => chRing u c = true ∧ u.chSt c = cIdle ∧ u.working (pgCh c) = true ∧ u.on (pgCh c) R.enable = true ∧ v % 131072 ≠ u.rd (pgCh c) R.chRingTail ∧
        v % 131072 ≠ u.rd (pgCh c) R.chRingHead ∧ ixIdx v < u.rd (pgCh c) R.chRingCount ∧
        ringOkRd (u.rd (pgCh c) R.chRingCount) (v % 131072) (u.rd (pgCh c) R.chRingHead) = true)
      (fun u t => t.rd (pgCh c) R.chRingTail = v % 131072 ∧ t.chSt c = cRun ∧
        (t.chan c).fetch = some (ringHeadAddr u c)) ∧
    WriteBrings (.extend ini false c) ini (pgCh c) 0x0DC (fun u => chRing u c = false ∧ u.chSt c = cParked)
      (fun _ t => t.chSt c = cRun ∧ (t.chan c).tailDue = true ∧ t.rd (pgCh c) R.extPend = 0) ∧
    Writes (.extend ini false c) ini (pgCh c) 0x0DC (fun u => chRing u c = false ∧ u.chSt c = cRun)
      (fun u => u.wr (pgCh c) R.extPend 1) ∧
    Writes (.extend ini false c) ini (pgCh c) 0x0DC (fun u => chRing u c = true) (fun u => u.bump (pgCh c) R.extIgnored) ∧
    WriteBrings (.channelCancel ini c) ini (pgCh c) 0x0E0
      (fun u => chRing u c = false ∧ u.chSt c = cRun ∧ (u.chan c).st = 0 ∧ (u.chan c).node = none)
      (fun _ t => t.chSt c = cIdle ∧ (t.chan c).fetch = none) ∧
    WriteBrings (.channelDisable ini c) ini (pgCh c) 0x00C (fun u => u.chSt c ≠ cOff ∧ u.fenced (pgCh c) = false ∧ u.rd (pgCh c) R.pstate ≠ psResetting)
      (fun u t => t.chSt c = cDraining ∧ t.rd (pgCh c) R.enable = 0 ∧ t.rd (pgCh c) R.pstate = psDraining ∧
        (t.chan c).inflight = (u.chan c).inflight ∧ t.mem = u.mem)

/-- Descriptors and data of a channel (R289, R292, R295, R312, R313): a fetched descriptor is run, or kept when it was fetched
ahead, with the time its fetch completed; a beat that was read enters the buffer, and the channel issues what it now may; a read that fails is tried once
more, and the second attempt is counted and recorded. -/
def Obligations.ChannelData : Prop :=
  ∀ (c a i : Nat) (hit : Hit) (host : Cells) (r w : Resp) (s s' : State) (bs : List Byte) (ret : Bool), c < 64 →
    ((s.chan c).fetch = some a → (s.chan c).ahead = none →
      readAll s (chTag s c) (pgCh c) 0 a 64 hit host 0 = (.ok bs, ret, s') →
      exec (.smvDescFetch c hit host) s = .next (chRun (chAgain s' c ret) c a bs s'.time ret)) ∧
    ((s.chan c).fetch = some a → (s.chan c).ahead = some (a, bs) →
      exec (.smvDescFetch c hit host) s = .next (chRun s c a bs (s.chan c).aheadAt (s.chan c).aheadRe)) ∧
    ((s.chan c).fetch = none → chAhead s c (s.chan c) = some a →
      readAll s (chTag s c) (pgCh c) 0 a 64 hit host 0 = (.ok bs, ret, s') →
      exec (.smvDescFetch c hit host) s =
        .next (((chAgain s' c ret).wr (pgCh c) R.extPend 0).putChan c
          { s'.chan c with ahead := some (a, bs), aheadAt := s'.time, aheadRe := ret })) ∧
    ((s.chan c).st = 1 → (s.chan c).fail = none → (s.chan c).inflight ≠ 0 →
      (chGet s c (s.chan c).rdDone r host = (.ok bs, s') →
        exec (.smvReadResponse c r 0 w false host) s = .next (chPump 33 (chEnter s' c bs) c)) ∧
      (chGet s c (s.chan c).rdDone r host = (.timeout i, s') →
        exec (.smvReadResponse c r 0 w false host) s = .next (s'.putChan c
          { s'.chan c with fail := some 0, inc := (FabResp.timeout i).inc (s'.chan c).inc })) ∧
      (chGet s c (s.chan c).rdDone r host = (.denied i, s') →
        exec (.smvReadResponse c r 0 w false host) s = .next (chAbandon (s'.putChan c
          { s'.chan c with inc := (FabResp.denied i).inc (s'.chan c).inc }) c stBusErr))) ∧
    ((s.chan c).fail = some 0 →
      (chGet (s.perf (pgCh c) 0x0C) c (s.chan c).rdDone r host = (.ok bs, s') →
        exec (.smvTransferFail c r host) s =
          .next (chPump 33 (chEnter (chRetried s' c ((s.chan c).src (s.chan c).rdDone)) c bs) c)) ∧
      (chGet (s.perf (pgCh c) 0x0C) c (s.chan c).rdDone r host = (.uncorr i, s') →
        exec (.smvTransferFail c r host) s = .next (chAbandon (chRetryRec (s'.putChan c
          { s'.chan c with inc := (FabResp.uncorr i).inc (s'.chan c).inc }) c 2 ((s.chan c).src (s.chan c).rdDone)) c stBusErr)))

/-- The end of a descriptor (R296 to R300, R304, R313, R315, R317): its last writes, its flush, its write-back and its record
follow each other; the tail read gives the next descriptor or ends the chain; a budget and a cancel abandon it; a channel
that has drained goes on, or is OFF when it was disabled. -/
def Obligations.ChannelEnds : Prop :=
  ∀ (c a : Nat) (hit : Hit) (host : Cells) (w : Resp) (s s' : State) (bs : List Byte) (n : Nat) (ret : Bool), c < 64 →
    ((s.chan c).st = 1 → (s.chan c).fail = none → (s.chan c).rdDone = (s.chan c).beats →
      (s.chan c).wrDone = (s.chan c).beats → exec (.smvCompletionPoint c w false) s = .next (chFlush s c)) ∧
    ((s.chan c).st = 3 →
      readAll s (chTag s c) (pgCh c) (s.chan c).tag ((s.chan c).lastPcie.getD 0) 64 hit host (s.chan c).inc =
        (.ok bs, ret, s') →
      exec (.flushDone c hit host) s = .next (chTail ((chAgain s' c ret).putChan c
        { s.chan c with lastPcie := none, retried := (s.chan c).retried || ret }) c)) ∧
    ((s.chan c).st = 4 → chRing s c = false →
      writeAll s (chTag s c) (pgCh c) (s.chan c).tag ((s.chan c).addr + 0x30) (chGroup s c (s.chan c)) hit (s.chan c).inc =
        (.ok bs, false, n, s') → chRing s' c = false →
      exec (.writeBackDone c hit) s = .next (chRec (s'.putChan c (s.chan c)) c)) ∧
    ((s.chan c).st = 5 → crFull s c = false → s.chSt c ≠ cCqWait →
      writeAll s (chTag s c) (pgCh c) (s.chan c).tag (s.rd (pgCh c) R.chCrBase + 16 * ixIdx (s.rd (pgCh c) R.chCrWrIdx))
        (chRecord s c (s.chan c)) hit (s.chan c).inc = (.ok bs, false, n, s') →
      exec (.smvRecordDone c hit) s = .next
        (chFin (s'.wr (pgCh c) R.chCrWrIdx (ringNext (s'.rd (pgCh c) R.chCrCount) (s.rd (pgCh c) R.chCrWrIdx))) c)) ∧
    ((s.chan c).tailDue = true → (s.chan c).st = 6 →
      readAll s (chTag s c) (pgCh c) (s.chan c).tag (s.chan c).addr 64 hit host (s.chan c).inc = (.ok bs, false, s') →
      nextBad bs = false →
      (nextOf bs = some a → exec (.tailRereadData c hit host) s =
        .next (chNext (s'.putChan c { s'.chan c with tailDue := false, next := some a }) c)) ∧
      (nextOf bs = none → s'.on (pgCh c) R.extPend = false → exec (.tailRereadData c hit host) s =
        .next (chNext (s'.putChan c { s'.chan c with tailDue := false, next := none }) c))) ∧
    ((s.chan c).st = 1 → (s.chan c).fail = none → (s.chan c).start + usTicks (s.chan c).budget ≤ s.time →
      exec (.smvBudgetExpiry c) s = .next
        (let r := s.logI (s.chan c).inc
           { event := 0x19, level := 2, cls := if 1 ≤ sget 0 s.toRuns (jobKey (pgCh c) 0) then 2 else 0,
             part := s.ownerOf (pgCh c), page := pgCh c, tag := (s.chan c).tag, d0 := c }
         chAbandon ((r.2.putChan c { s.chan c with inc := r.1 }).raise (pgCh c) eTimeout) c stTimeout)) ∧
    (s.on (pgCh c) R.enable = false → s.chSt c = cDraining → s.fenced (pgCh c) = false →
      s.rd (pgCh c) R.pstate ≠ psResetting →
      exec (.channelDrainDone c) s = .next (((s.setChSt c cOff).putChan c
        { lastPcie := (s.chan c).lastPcie, node := (s.chan c).node, nodeSt := (s.chan c).nodeSt }).wr (pgCh c) R.pstate psOff)) ∧
    (s.on (pgCh c) R.enable = true → (s.chan c).st = 2 → s.chSt c = cRun → (s.chan c).status = stBusErr →
      exec (.channelDrainDone c) s = .next (chFlush (s.putChan c { s.chan c with rdDone := (s.chan c).rdIss }) c))

/-- Streams of a prefetch queue (R325, R327 to R330, R336, R338, R343): a start takes the next count and fetches the
descriptor; a good descriptor lets the queue go on, a bad one ends the stream with PROG; a release returns the credits of
the entries between, and a wrong one is PROG; returned credits are free; CANCEL and the end of ENABLE drain the queue. -/
def Obligations.QueueStreams : Prop :=
  ∀ (ini : Ini) (q v : Nat) (hit : Hit) (host : Cells), q < 64 →
    WriteBrings (.queueStart ini false q v) ini (pgPq q) 0x0B0
      (fun u => u.qSt q = qIdle ∧ u.working (pgPq q) = true ∧ v % 65536 = (u.rd (pgPq q) R.qStarted + 1) % 65536 ∧
        v % 65536 ≠ u.rd (pgPq q) R.qStarted)
      (fun _ t => t.qSt q = qRun ∧ (t.pq q).fetch = true ∧ t.rd (pgPq q) R.qStarted = v % 65536 ∧
        t.rd (pgPq q) R.nextElem = 0) ∧
    Writes (.queueStart ini false q v) ini (pgPq q) 0x0B0
      (fun u => v % 65536 ≠ u.rd (pgPq q) R.qStarted ∧ u.qSt q ≠ qIdle) (fun u => u.raise (pgPq q) 10) ∧
    WriteBrings (.queueRelease ini false q v) ini (pgPq q) 0x0B4
      (fun u => (u.pq q).snap = false ∧ u.qSt q ≠ qDrain ∧ v < 131072 ∧ v ≠ u.rd (pgPq q) R.consIdx ∧
        ringBetween (u.rd (pgPq q) R.qCap) (u.rd (pgPq q) R.prodIdx) (u.rd (pgPq q) R.consIdx) v = true)
      (fun u t => t.rd (pgPq q) R.consIdx = v ∧ OnlyRegs u t ∧
        RegsBut [cellKey (pgPq q) R.consIdx 0, cellKey (pgPq q) R.qOccupied 0, cellKey (pgPq q) R.qReturning 0] u t) ∧
    Writes (.queueRelease ini false q v) ini (pgPq q) 0x0B4
      (fun u => (u.pq q).snap = false ∧ u.qSt q ≠ qDrain ∧ v < 131072 ∧ v ≠ u.rd (pgPq q) R.consIdx ∧
        ringBetween (u.rd (pgPq q) R.qCap) (u.rd (pgPq q) R.prodIdx) (u.rd (pgPq q) R.consIdx) v = false)
      (fun u => u.prog (pgPq q)) ∧
    (∀ (n : Nat) (s : State), DoorOpen s n (s.ownerOf (pgPq q)) →
      exec (.queueStart (.fn n) true q v) s = .next (qBar4 (doorAdmit s n) q v) ∧
      exec (.queueRelease (.fn n) true q v) s = .next (qBar4 (doorAdmit s n) q v)) ∧
    (∀ (s s' : State) (bs : List Byte) (ret : Bool), (s.pq q).fetch = true →
      readAll s (qTag s q) (pgPq q) 0 (s.rd (pgPq q) R.streamPtr) 64 hit host 0 = (.ok bs, ret, s') →
      injectNow s' (pgPq q) eProg = false →
      let k : Pq := { s.pq q with fetch := false, desc := bs, start := s'.time, retried := ret }
      exec (.streamDescFetch q hit host) s = .next
        (let t := ((if ret then s'.bump (pgPq q) R.qRetryCnt else s').wr (pgPq q) R.nextElem 0).putPq q k
         if qFieldsOk k then qGo t q else qFinish (t.prog (pgPq q)) q stProg 0)) ∧
    Does (.creditReturn q) (fun s => s.rd (pgPq q) R.qReturning ≠ 0) (fun s => qGo (s.wr (pgPq q) R.qReturning 0) q) ∧
    WriteBrings (.queueCancel ini q) ini (pgPq q) 0x0B8
      (fun u => u.qSt q = qRun ∨ u.qSt q = qHaltd)
      (fun _ t => t.qSt q = qDrain ∧ (t.pq q).ending = some stCancelled ∧ t.rd (pgPq q) R.qOccupied = 0) ∧
    WriteBrings (.queueDisable ini q) ini (pgPq q) 0x00C (fun u => u.qSt q = qRun ∧ u.fenced (pgPq q) = false ∧ u.rd (pgPq q) R.pstate ≠ psResetting)
      (fun _ t => t.qSt q = qDrain ∧ t.rd (pgPq q) R.enable = 0 ∧ t.rd (pgPq q) R.pstate = psDraining)

/-- Requests and ends of a prefetch queue (R329, R333, R336, R339 to R343): a response lands, or is dropped while the queue
drains; a failed one is tried once more, and a refused one ends the stream; a budget drains the stream with TIMEOUT; a drained queue ends its stream, or is
OFF when disabled; an audit captures the books with no credit in transit. -/
def Obligations.QueueEnds : Prop :=
  ∀ (ini : Ini) (q i : Nat) (b : Back) (host : Cells) (s s' : State) (v : FabResp) (x : PqReq), q < 64 →
    ((s.pq q).reqs[i]? = some x → x.again = false → qAttempt s q x b.r host = (v, s') →
      let u := s'.putPq q { s'.pq q with inc := v.inc (s'.pq q).inc }
      (s'.qSt q = qDrain → exec (.pfqResponse q i b host) s = .next (qDropped (qTake u q i) q x v.isOk)) ∧
      (s'.qSt q ≠ qDrain →
        (∀ bs, v = .ok bs → exec (.pfqResponse q i b host) s = .next (qLanding (qTake u q i) q x bs b.w)) ∧
        (∀ k, v = .denied k → exec (.pfqResponse q i b host) s = .next (qBegin (qTake u q i) q stBusErr false)) ∧
        ((∀ bs, v ≠ .ok bs) → (∀ k, v ≠ .denied k) → exec (.pfqResponse q i b host) s =
          .next (u.putPq q { u.pq q with reqs := (u.pq q).reqs.set i { x with again := true } })))) ∧
    ((s.pq q).reqs.zipIdx.find? (fun y => y.1.again) = some (x, i) →
      qAttempt ((s.perf (pgPq q) 0x0C).perf (pgPq q) 0x06) q x b.r host = (v, s') →
      let u := qTake (s'.putPq q { s'.pq q with inc := v.inc (s'.pq q).inc }) q i
      (∀ bs, v = .ok bs → exec (.pfqTransferFail q b host) s = .next
        (let t := qRetryRec (u.bump (pgPq q) R.qRetryCnt) q 1 x.addr
         qLanding (t.putPq q { t.pq q with retried := true }) q x bs b.w)) ∧
      (∀ k, v = .uncorr k → exec (.pfqTransferFail q b host) s = .next (qBegin (qRetryRec u q 2 x.addr) q stBusErr false)) ∧
      (∀ k, v = .timeout k → exec (.pfqTransferFail q b host) s =
        .next (qBegin ((qRetryRec u q 2 x.addr).raise (pgPq q) eTimeout) q stTimeout false))) ∧
    ((s.pq q).desc ≠ [] → s.qSt q = qRun → (s.pq q).start + usTicks (s.pq q).budget ≤ s.time → (∀ y ∈ (s.pq q).reqs, y.again = false) →
      ∃ t, exec (.pfqBudgetExpiry q) s = .next t ∧ t.qSt q = qDrain ∧ (t.pq q).ending = some stTimeout ∧
        bitOf (t.rd (pgPq q) R.pageErr) eTimeout = true ∧ t.logQ.length = s.logQ.length + 1) ∧
    (s.qSt q = qDrain → (s.pq q).reqs = [] →
      (s.on (pgPq q) R.enable = false → s.fenced (pgPq q) = false → s.rd (pgPq q) R.pstate ≠ psResetting →
        ∃ t, exec (.queueDrainDone q) s = .next t ∧ t.qSt q = qOff ∧ t.rd (pgPq q) R.pstate = psOff ∧ (t.pq q).desc = []) ∧
      (s.on (pgPq q) R.enable = true → (s.pq q).ending = some stBusErr →
        exec (.queueDrainDone q) s = .next (qFinish s q stBusErr ((s.pq q).pub * qEntry s q)))) ∧
    Writes (.snap ini q) ini (pgPq q) 0x0D0 (fun _ => True)
      (fun u => (u.wr (pgPq q) R.snapValid 0).putPq q { u.pq q with snap := true }) ∧
    ((s.pq q).snap = true → s.rd (pgPq q) R.qReturning = 0 → (s.pq q).held = [] → calm s (pgPq q) = true →
      qFreeOf s q + s.rd (pgPq q) R.qReserved + s.rd (pgPq q) R.qOccupied = s.rd (pgPq q) R.qCap →
      ∃ t, exec (.auditCapture q) s = .next t ∧ t.rd (pgPq q) R.snapValid = 1 ∧ (t.pq q).snap = false ∧
        t.rd (pgPq q) R.aFree = qFreeOf s q % 2 ^ R.aFree.w ∧
        t.rd (pgPq q) R.aOccupied = s.rd (pgPq q) R.qOccupied % 2 ^ R.aOccupied.w ∧ t.mem = s.mem ∧ t.logQ = s.logQ)

/-- Translations and page requests (R344 to R347): a wanted translation goes to its slot and the queue goes on, and one that
denies the halted access again is a Response Failure; a page request answered with Success lets its unit ask again; an invalidation drops every covered translation of the function's
units and its completion is sent once no request of theirs is under it. -/
def Obligations.Translations : Prop :=
  ∀ (q fn page dest prg tag n : Nat) (h : Halt) (v : Inval),
    (q < 64 → Does (.translationResponse (64 + q) page dest true true)
      (fun s => s.on (pgPq q) R.qAtMode = true ∧ wantsPage (qWants s q) page = true ∧ (s.pq q).halt = none)
      (fun s => qGo (s.putPq q { s.pq q with trans := keepTrans (s.pq q).trans (qWants s q) ⟨page, dest, true, true⟩ }) q)) ∧
    (q < 64 → Does (.translationResponse (64 + q) page dest true true)
      (fun s => s.on (pgPq q) R.qAtMode = false) (fun s => s)) ∧
    (q < 64 → Does (.translationResponse (64 + q) (h.addr / 4096) dest false true)
      (fun s => s.on (pgPq q) R.qAtMode = true ∧ wantsPage (qWants s q) (h.addr / 4096) = true ∧ (s.pq q).halt = some h)
      (fun s => priFail s (64 + q) 15)) ∧
    Does (.pageResponse fn prg 0)
      (fun s => s.prgs = [⟨fn, prg, 64 + q⟩] ∧ (s.pq q).halt = some h ∧ h.prg = some prg ∧ unitFn s (64 + q) = fn)
      (fun s => sendWaiting (({ s with prgs := [] } : State).putPq q { s.pq q with halt := some { h with prg := none, again := true } })
        fn) ∧
    Brings (.atsInvalidate fn (4096 * page) n tag) (fun _ => q < 64)
      (fun s t => t.invals = s.invals ++ [⟨fn, tag, page, n⟩] ∧ t.mem = s.mem ∧
        (unitFn s (64 + q) = fn → ∀ x ∈ (t.pq q).trans, inInval page n x.page = false) ∧
        (unitFn s (64 + q) ≠ fn → t.pq q = s.pq q)) ∧
    Does (.invalidationComplete v.fn v.tag) (fun s => s.invals = [v] ∧ underInval s v = false)
      (fun s => { s with invals := [], outs := s.outs ++ [Out.invalidateDone v.fn v.tag] }) ∧
    Does (.invalidationComplete v.fn v.tag) (fun s => s.invals = [v] ∧ underInval s v = true) (fun s => s)

/-- Configuration space and the link (R366, R403, R408, R428, R528): what a configuration write sets; a function reset and a
link that goes down return functions to their reset values and delete their pairs; the link comes up, retrains, recovers
and replays as its registers say. -/
def Obligations.PcieLink : Prop :=
  ∀ (ini : Ini) (n v us width rate : Nat) (rev b : Bool), n < 8 →
    Does (.configWrite n .memEn v) (fun s => n = 0 ∨ (fnOf s 0).vfEn = true)
      (fun s => putFn s n { fnOf s n with memEn := bitOf v 0 }) ∧
    Does (.configWrite n .cplTo 1) (fun s => n = 0 ∨ (fnOf s 0).vfEn = true)
      (fun s => (putFn s n { fnOf s n with cplTo := 1 }).wr pgFab R.remoteTo 150 n) ∧
    Brings (.flr n) (fun s => n ≠ 0 ∧ ∀ u, u < 128 → haltOf s u = none)
      (fun s t => fnOf t n = {} ∧ t.rd pgFab R.remoteTo n = 75000 ∧ t.mem = s.mem ∧
        ∀ q, q < 16 → t.rd (pgHq n) R.qpState q = qpOff ∧ t.qp n q = {}) ∧
    Brings (.linkDown b) (fun s => s.on pgPci R.dlUp = true ∧ ∀ u, u < 128 → haltOf s u = none)
      (fun s t => t.rd pgPci R.dlUp = 0 ∧ t.linkInc = 0 ∧ (∀ k, k < 8 → fnOf t k = {}) ∧
        t.rd pgPci R.dlDownCnt = (s.rd pgPci R.dlDownCnt + 1) % 2 ^ 16) ∧
    Does (.linkDown b) (fun s => s.on pgPci R.dlUp = false) (fun s => s) ∧
    Writes (.retrain ini) ini pgPci 0x084 (fun u => u.on pgPci R.dlUp = true ∧ u.rd pgPci R.ltssm ≠ 4)
      (fun u => (u.wr pgPci R.ltssm 4).bump pgPci R.recoveryCnt) ∧
    Does (.dlUp width rate rev)
      (fun s => s.on pgPci R.dlUp = false ∧ (width = 1 ∨ width = 2 ∨ width = 4 ∨ width = 8) ∧ rate ≠ 0 ∧
        rate ≤ s.rd pgPci R.rateCap)
      (fun s => ((((s.wr pgPci R.linkWidth width).wr pgPci R.linkRate rate).wr pgPci R.reversed (b2n rev)).wr
        pgPci R.ltssm 3).wr pgPci R.dlUp 1) ∧
    Brings (.linkRecovery false us width rate) (fun s => s.on pgPci R.dlUp = true ∧ s.rd pgPci R.ltssm ≠ 4)
      (fun s t => t.rd pgPci R.ltssm = 4 ∧ t.rd pgPci R.recoveryCnt = (s.rd pgPci R.recoveryCnt + 1) % 2 ^ 32 ∧
        t.rd pgPci R.rxErrCnt = (s.rd pgPci R.rxErrCnt + 1) % 2 ^ 32 ∧ t.linkInc = s.rd pgErl R.incidentNext) ∧
    Brings (.linkRecovery true us width rate)
      (fun s => s.on pgPci R.dlUp = true ∧ s.rd pgPci R.ltssm = 4 ∧ (width = 1 ∨ width = 2 ∨ width = 4 ∨ width = 8) ∧
        rate ≠ 0 ∧ rate < 8 ∧ rate ≤ s.rd pgPci R.rateCap)
      (fun s t => t.rd pgPci R.ltssm = 3 ∧ t.rd pgPci R.linkWidth = width ∧ t.rd pgPci R.linkRate = rate ∧ t.linkInc = 0 ∧
        t.logQ.length = s.logQ.length + 1) ∧
    Brings (.linkReplay v) (fun s => s.on pgPci R.dlUp = true ∧ v ≠ 0)
      (fun s t => t.rd pgPci R.replayCnt = (s.rd pgPci R.replayCnt + v) % 2 ^ 32 ∧ t.logQ.length = s.logQ.length + 1) ∧
    Does (.aspmL1 true) (fun s => s.on pgPci R.dlUp = true ∧ s.rd pgPci R.ltssm = 3) (fun s => s.wr pgPci R.ltssm 5) ∧
    Does (.aspmL1 false) (fun s => s.on pgPci R.dlUp = true ∧ s.rd pgPci R.ltssm = 5) (fun s => s.wr pgPci R.ltssm 3)

/-- Queue pairs (R37, R410 to R414, R416, R417, R422, R423, R425, R426): CREATE makes an OFF pair ACTIVE and empty, or sets PROG;
DELETE lets it end; doorbells move the tail and the head within the rings; a fetched command enters the pair; a complete
command, counted by its page and remembered by its tag, and a changed condition write their records, and what a pair in ERROR
or DELETING would get is dropped and counted; a malformed command completes PROG in its turn. -/
def Obligations.QueuePairs : Prop :=
  ∀ (ini : Ini) (n q v i st r : Nat) (hit : Hit) (host : Cells) (c : HCmd) (s s' : State) (bs : List Byte) (ret : Bool),
    n < 8 → q < 16 →
    WriteBrings (.queuePairCreate ini n q) ini (pgHq n) (0x118 + 0x40 * q)
      (fun u => u.rd (pgHq n) R.qpState q = qpOff ∧ u.rd (pgHq n) R.sqBase q % 64 = 0 ∧ u.rd (pgHq n) R.hqCqBase q % 64 = 0 ∧
        qpSizeOk (u.rd (pgHq n) R.sqSize q) = true ∧ qpSizeOk (u.rd (pgHq n) R.hqCqSize q) = true)
      (fun u t => t.rd (pgHq n) R.qpState q = qpActive ∧ t.rd (pgHq n) R.sqHead q = 0 ∧ t.rd (pgHq n) R.sqTail q = 0 ∧
        t.rd (pgHq n) R.cqTail q = 0 ∧ t.rd (pgHq n) R.cqHead q = 0 ∧ (t.qp n q).cmds = [] ∧ t.mem = u.mem) ∧
    Writes (.queuePairCreate ini n q) ini (pgHq n) (0x118 + 0x40 * q) (fun u => u.rd (pgHq n) R.qpState q ≠ qpOff)
      (fun u => u.prog (pgHq n)) ∧
    Writes (.delete ini n q) ini (pgHq n) (0x118 + 0x40 * q)
      (fun u => u.rd (pgHq n) R.qpState q = qpActive ∨ u.rd (pgHq n) R.qpState q = qpError)
      (fun u => hqSettle (u.wr (pgHq n) R.qpState qpDeleting q) n) ∧
    Does (.deleteDone n q) (fun s => s.rd (pgHq n) R.qpState q = qpDeleting ∧ (s.qp n q).cmds = [])
      (fun s => hqSettle ((s.wr (pgHq n) R.qpState qpOff q).putQp n q {}) n) ∧
    (DoorOpen s n (s.ownerOf (pgHq n)) → v < 131072 → (doorAdmit s n).rd (pgHq n) R.qpState q = qpActive →
      ixIdx v < (doorAdmit s n).rd (pgHq n) R.sqSize q → ixPh v = ixPh ((doorAdmit s n).rd (pgHq n) R.sqHead q) →
      ixIdx ((doorAdmit s n).rd (pgHq n) R.sqHead q) ≤ ixIdx v →
      exec (.sqTailDoorbell n q v) s = .next ((doorAdmit s n).wr (pgHq n) R.sqTail v q)) ∧
    (DoorOpen s n (s.ownerOf (pgHq n)) → (doorAdmit s n).rd (pgHq n) R.qpState q ≠ qpActive →
      exec (.sqTailDoorbell n q v) s = .next ((doorAdmit s n).raise (pgHq n) 8)) ∧
    (DoorOpen s n (s.ownerOf (pgHq n)) → v < 131072 → (doorAdmit s n).rd (pgHq n) R.qpState q = qpActive →
      v ≠ (doorAdmit s n).rd (pgHq n) R.cqHead q → ((doorAdmit s n).qp n q).condAt = none →
      (doorAdmit s n).on (pgHq n) R.hqIrqEn q = false →
      ringBetween ((doorAdmit s n).rd (pgHq n) R.hqCqSize q) ((doorAdmit s n).rd (pgHq n) R.cqTail q)
        ((doorAdmit s n).rd (pgHq n) R.cqHead q) v = true →
      exec (.cqHeadDoorbell n q v) s = .next ((doorAdmit s n).wr (pgHq n) R.cqHead v q)) ∧
    (s.working (pgHq n) = true → s.rd (pgHq n) R.qpState q = qpActive → s.rd (pgHq n) R.sqHead q ≠ s.rd (pgHq n) R.sqTail q → (s.qp n q).cmds = [] →
      cqUsed s n q + 1 < s.rd (pgHq n) R.hqCqSize q →
      readAll s (hqTag n) (pgHq n) 0 (s.rd (pgHq n) R.sqBase q + 64 * ixIdx (s.rd (pgHq n) R.sqHead q)) 64 hit host 0 =
        (.ok bs, ret, s') →
      exec (.commandFetch n q hit host) s = .next
        (hqSettle (takeCmd ((s'.wr (pgHq n) R.sqHead (ringNext (s'.rd (pgHq n) R.sqSize q) (s.rd (pgHq n) R.sqHead q)) q).bump
          (pgHq n) R.cmdCnt 1 q) n q { cmdOf bs with retried := ret }) n)) ∧
    ((s.qp n q).cmds[i]? = some c → c.bad = false → awaited s c = some (st, r) →
      exec (.commandComplete n q i hit) s = .next
        (let l := (s.qp n q).window
         let k := { s.qp n q with
           cmds := (s.qp n q).cmds.eraseIdx i,
           window := if c.dup then l else l.map fun w => if w.1 = c.tag then (w.1, some (st, r)) else w }
         let u := (s.wr (pgHq n) R.qpInflight k.cmds.length q).putQp n q k
         let v := if c.dup then u else u.perf (pgHq n) 0x04
         let t := hqSettle (if c.dup ∨ st = stOk then v else v.perf (pgHq n) 0x05) n
         if t.rd (pgHq n) R.qpState q = qpDeleting then t
         else cqWrite t n q (st * 2 ^ 4 + b2n c.dup * 2 ^ 8 + b2n c.retried * 2 ^ 9 + 2 ^ 14 +
           ixIdx (t.rd (pgHq n) R.sqHead q) * 2 ^ 16) c.tag r q hit)) ∧
    ((s.qp n q).cmds[i]? = some c → c.bad = true → c.dup = false → (nextCmd s n q).map (·.1) = some i →
      completed s n q i c = some (stProg, 0)) ∧
    ((s.rd (pgHq n) R.qpState q = qpDeleting ∨ s.rd (pgHq n) R.qpState q = qpError) → s.on (pgHq n) R.condEvt q = true →
      (s.qp n q).condAt = none → (s.qp n q).cond ≠ (condNoNotice s n).code →
      exec (.conditionRecord n q hit) s = .next
        ((s.putQp n q { s.qp n q with cond := (condNoNotice s n).code }).bump (pgHq n) R.lostRec 1 q)) ∧
    (s.rd (pgHq n) R.qpState q = qpActive → s.on (pgHq n) R.condEvt q = true → (s.qp n q).condAt = none →
      (s.qp n q).cond ≠ (condNoNotice s n).code → cqRoom s n q = true →
      exec (.conditionRecord n q hit) s = .next
        (cqWrite (s.putQp n q { s.qp n q with cond := (condNoNotice s n).code, condAt := some (s.rd (pgHq n) R.cqTail q) })
          n q (2 ^ 12 + 2 ^ 14) 0 (s.time % 2 ^ 32) (s.time / 2 ^ 32 % 2 ^ 32) hit))

/-- Host commands (R370, R416): the command at the front of a pair does what its opcode says, and holds its status and result, or
awaits the end of what it started. -/
def Obligations.HostCommands : Prop :=
  ∀ (n q i : Nat) (hit : Hit) (c : HCmd) (rest : List HCmd), n < 8 → q < 16 → c.st = 0 → c.bad = false →
    Does (.nop n q) (fun s => (s.qp n q).cmds = c :: rest ∧ c.op = 0) (fun s => setCmd s n q 0 (c.fin stOk 0)) ∧
    Does (.graphLoad n q)
      (fun s => (s.qp n q).cmds = c :: rest ∧ c.op = 1 ∧ (s.graph c.graph).st = gEmpty ∧ s.working pgFgs = true)
      (fun s => setCmd (s.putGraph c.graph { st := gLoading, owner := n, base := c.addr }) n q 0 { c with st := 1 }) ∧
    Does (.graphUnload n q)
      (fun s => (s.qp n q).cmds = c :: rest ∧ c.op = 2 ∧ (s.graph c.graph).owner = n ∧ (s.graph c.graph).st = gReady ∧
        (s.graph c.graph).insts = [] ∧
        ((s.graph c.graph).stream.isSome = true ∨ (s.graph c.graph).req = (s.graph c.graph).started))
      (fun s => setCmd ((s.wr pgFgs R.stateUsed (s.rd pgFgs R.stateUsed - (s.graph c.graph).room)).putGraph c.graph {}) n q 0
        (c.fin stOk 0)) ∧
    Does (.graphStart n q)
      (fun s => (s.qp n q).cmds = c :: rest ∧ c.op = 3 ∧ (s.graph c.graph).owner = n ∧ (s.graph c.graph).st = gReady ∧
        (s.graph c.graph).stream = none ∧ s.rd pgFab R.partState n ≠ 2 ∧
        (c.arg % 65536 + 65536 - (s.graph c.graph).started) % 65536 < 0x8000)
      (fun s => setCmd (s.putGraph c.graph { s.graph c.graph with req := c.arg % 65536 }) n q 0
        (c.fin stOk (s.graph c.graph).started)) ∧
    Does (.graphCancel n q)
      (fun s => (s.qp n q).cmds = c :: rest ∧ c.op = 4 ∧ (s.graph c.graph).owner = n ∧ (s.graph c.graph).st ≠ gEmpty)
      (fun s => setCmd (endInst s c.graph c.arg stCancelled) n q 0 { c with st := 1, insts := [c.arg] }) ∧
    Does (.graphCancelAll n q)
      (fun s => (s.qp n q).cmds = c :: rest ∧ c.op = 5 ∧ (s.graph c.graph).owner = n ∧ (s.graph c.graph).st ≠ gEmpty)
      (fun s => setCmd (cancelAll s c.graph) n q 0 { c with st := 1, insts := (s.graph c.graph).insts.map (·.num) }) ∧
    Does (.nodeTrig n q)
      (fun s => (s.qp n q).cmds = c :: rest ∧ c.op = 6 ∧ (s.graph c.graph).owner = n ∧ (s.graph c.graph).st = gReady ∧
        c.node < (s.graph c.graph).nodes.length ∧ ((s.graph c.graph).node c.node).trig = true ∧
        credit (s.graph c.graph) c.node < 15 ∧ Fresh s n pgFgs)
      (fun s => setCmd (appliedOnce s n pgFgs fun u => (1, u.putGraph c.graph { u.graph c.graph with
          credits := sset 0 (u.graph c.graph).credits c.node (credit (u.graph c.graph) c.node + 1) })) n q 0
        (c.fin stOk (credit (s.graph c.graph) c.node + 1))) ∧
    Does (.nodeCancelCommand n q)
      (fun s => (s.qp n q).cmds = c :: rest ∧ c.op = 7 ∧ (s.graph c.graph).owner = n ∧ (s.graph c.graph).st ≠ gEmpty ∧
        oldestRun s c.graph c.node = some i)
      (fun s => setCmd (cancelExec s c.graph i c.node) n q 0 { c with st := 1, key := some (execKey c.graph i c.node) }) ∧
    Does (.semOp n q)
      (fun s => (s.qp n q).cmds = c :: rest ∧ c.op = 8 ∧ sget 0 s.semOwner (c.sem / 2) = n ∧ c.semop = 2 ∧
        sget 0 s.sems c.sem ≠ 0 ∧ Fresh s n pgFgs)
      (fun s => setCmd (appliedOnce s n pgFgs fun u =>
          (1, { u with sems := sset 0 u.sems c.sem (sget 0 u.sems c.sem - 1) })) n q 0
        (c.fin stOk (sget 0 s.sems c.sem - 1))) ∧
    Does (.attest n q)
      (fun s => (s.qp n q).cmds = c :: rest ∧ c.op = 9 ∧ c.addr % 64 = 0)
      (fun s => setCmd (attestFront { s with
          attests := s.attests ++ [{ fn := n, qp := q, tag := c.tag, addr := c.addr, nonce := c.arg }] }) n q 0
        { c with st := 1 }) ∧
    (∀ (s s' : State) (bs ws : List Byte) (ret : Bool) (k : Nat) (a : Attest), c.op = 9 →
      s.attests = [a] → a.report = some bs → a.fn = n → a.qp = q → a.tag = c.tag →
      (s.qp n q).cmds = { c with st := 1 } :: rest →
      writeAll { s with attests := [] } (hqTag n) (pgHq n) c.tag a.addr bs hit 0 = (.ok ws, ret, k, s') →
      exec (.attestSigned hit) s = .next (attestFront (setCmd s' n q 0 ({ c with st := 1 }.fin stOk 1408))))

/-- The Verdict Port (R430, R433 to R436, R440, R446, R456): a read answers the entry with its conditions; an ANNOUNCE opens
an EMPTY entry; an ACK with the entry's SEQ empties it and another is counted stale; a bad write is counted; the clock's
absence is seen. -/
def Obligations.VerdictPort : Prop :=
  ∀ (id pos seq w l : Nat), id < 65536 →
    Does (.vpRead id true .ok) (fun s => vpUp s = true ∧ (s.entry id).poisoned = false)
      (fun s =>
        let u := ((vpEdge s).bump pgVpt R.vpReadCnt).perf pgVpt 0x04
        { u with reply := vpReply (entryWord (s.entry id) (condId u id)) }) ∧
    Does (.vpRead id false .ok) (fun s => vpUp s = true)
      (fun s =>
        let u := ((vpEdge s).bump pgVpt R.vpReadCnt).perf pgVpt 0x04
        { ((u.bump pgVpt R.vpParityCnt).raise pgVpt 8).perf pgVpt 0x05 with reply := vpReply (badReply 6 5 (condEvery u)) }) ∧
    Does (.vpRead id true .ok) (fun s => vpUp s = false) (fun s => { s with reply := ⟨0xFFFFFFFF, 8⟩ }) ∧
    Brings (.announce id pos .ok)
      (fun s => vpUp s = true ∧ pos < 2 ^ 24 ∧ lineOfId (vpCycle s) id = some l ∧ s.entry id = { seq := seq } ∧
        listedOf s l = [])
      (fun s t => (t.entry id).st = vAnnounced ∧ (t.entry id).seq = (seq + 1) % 16 ∧ (t.entry id).lane = 0xFF ∧
        (t.entry id).dim = 0xF ∧ (t.entry id).flags = 0 ∧ (t.entry id).pos = some pos ∧ (t.entry id).since = s.time ∧
        ∀ k, k ≠ id → t.entry k = s.entry k) ∧
    Brings (.ack id seq .ok)
      (fun s => vpUp s = true ∧ seq < 16 ∧ lineOfId (vpCycle s) id = some l ∧ (s.entry id).poisoned = false ∧
        (s.entry id).st ≠ vEmpty ∧ (s.entry id).seq = seq)
      (fun s t => t.entry id = { st := vEmpty, seq := (seq + 1) % 16 } ∧ ∀ k, k ≠ id → t.entry k = s.entry k) ∧
    Does (.ack id seq .ok)
      (fun s => vpUp s = true ∧ seq < 16 ∧ lineOfId (vpCycle s) id = some l ∧ (s.entry id).poisoned = false ∧
        (s.entry id).st ≠ vEmpty ∧ (s.entry id).seq ≠ seq)
      (fun s => (vpCycle s).bump pgVpt R.ackStaleCnt) ∧
    Does (.badWrite id w false) (fun s => vpUp s = true ∧ w < 2 ^ 32)
      (fun s => (((vpCycle s).bump pgVpt R.vpParityCnt).raise pgVpt 8).perf pgVpt 0x05) ∧
    Does (.badWrite id w true) (fun s => vpUp s = true ∧ w < 2 ^ 32 ∧ vpGood w = false)
      (fun s => (((vpCycle s).bump pgVpt R.badOpCnt).raise pgVpt 9).perf pgVpt 0x05) ∧
    Does .vpClkStop (fun s => s.on pgVpt R.clkActive = true ∧ s.vpLast + usTicks 10 ≤ s.time)
      (fun s => s.wr pgVpt R.clkActive 0)

/-- Photo-eye events and deadlines (R20, R438 to R441): a leading edge is an event at the encoder's count, its trailing edge
closes it; an event that waited too long is unpaired, and so is an announced entry; an entry with an origin that is not
decided at its deadline becomes FALLBACK, MISSED. -/
def Obligations.EyeEvents : Prop :=
  ∀ (l p id : Nat) (x : Pin) (o : Parcel), l < 4 →
    Brings (.eyeLeadingEdge l)
      (fun s => s.rd pgVpt R.eyePin l = p ∧ sget {} s.pins p = x ∧ x.sw = none ∧ x.level = some false ∧
        s.rd pgLio R.pinFunc p = 5 ∧ s.rd pgLio R.pinUnit p = l ∧ awake s = true ∧ s.vt = [] ∧ listedOf s l = [] ∧
        eyeWorks { s with pins := sset {} s.pins p { x with level := some true } } l p = true)
      (fun s t => t.parcels = s.parcels ++ [{ line := l, c := lineCnt s l, time := s.time, pos := linePos s l,
                                              done := !s.on pgSaf R.fawnEn l }] ∧
        t.rd pgVpt R.evtCnt l = (s.rd pgVpt R.evtCnt l + 1) % 2 ^ 32) ∧
    Brings (.eyeTrailingEdge l)
      (fun s => s.rd pgVpt R.eyePin l = p ∧ sget {} s.pins p = x ∧ x.sw = none ∧ x.level = some true ∧
        s.rd pgLio R.pinFunc p = 5 ∧ s.rd pgLio R.pinUnit p = l ∧ awake s = true ∧ s.parcels = [o] ∧ o.line = l ∧
        o.trail = none ∧ o.id = none ∧ o.listed = true ∧
        eyeWorks { s with pins := sset {} s.pins p { x with level := some false } } l p = true)
      (fun s t => t.parcels = [{ o with trail := some (lineCnt s l), tpos := linePos s l }] ∧ t.vt = s.vt) ∧
    Brings (.unpairedEvt l)
      (fun s => lineOn s l = true ∧ s.parcels = [o] ∧ o.line = l ∧ o.listed = true ∧
        o.pos + (s.rd pgVpt R.annWait l : Nat) ≤ linePos s l)
      (fun s t => t.rd pgVpt R.unpairedEvtCnt l = (s.rd pgVpt R.unpairedEvtCnt l + 1) % 2 ^ 32 ∧
        (∀ q ∈ t.parcels, q.listed = false) ∧ t.logQ.length = s.logQ.length + 1) ∧
    Brings (.unpairedAnn id)
      (fun s => lineOfId s id = some l ∧ waiting s l (id, s.entry id) = true ∧ (s.entry id).poisoned = false ∧
        (s.entry id).epos + (s.rd pgVpt R.annWait l : Nat) ≤ linePos s l)
      (fun s t => (t.entry id).flags = setBit (s.entry id).flags fUnpaired ∧
        t.rd pgVpt R.unpairedAnnCnt l = (s.rd pgVpt R.unpairedAnnCnt l + 1) % 2 ^ 32 ∧ t.logQ.length = s.logQ.length + 1) ∧
    Brings (.missed id)
      (fun s => lineOfId s id = some l ∧ (s.entry id).origin ≠ none ∧
        ((s.entry id).st = vAnnounced ∨ (s.entry id).st = vPending) ∧ (s.entry id).poisoned = false ∧
        (s.entry id).epos + (s.rd pgVpt R.divertDist l : Nat) ≤ linePos s l)
      (fun s t => (t.entry id).st = vFallback ∧ (t.entry id).lane = 0xFF ∧ (t.entry id).dim = (s.entry id).fawn.getD 0xF ∧
        bitOf (t.entry id).flags fMissed = true ∧
        t.rd pgVpt R.missedCnt l = (s.rd pgVpt R.missedCnt l + 1) % 2 ^ 32 ∧ t.logQ.length = s.logQ.length + 1)

/-- Staging requests and line configuration (R437, R443, R489): the island's PENDING word stages an ANNOUNCED entry, FINAL is
held until it is confirmed, a word for which the entry is not ready is refused and counted; a line's registers are written
while it is off, and a write that breaks an enabled line's rules sets PROG. -/
def Obligations.StagingAndLines : Prop :=
  ∀ (ini : Ini) (id w l off v n : Nat), id < 65536 → w < 2 ^ 32 → l < 4 → v < 2 ^ 32 →
    Brings (.stagingRequest .island id w)
      (fun s => s.on pgSaf R.fault = false ∧ judge s tagIsland opWrite (vtBase + 4 * id) 4 = .pass ∧
        freeTid s 0x18 ≠ none ∧ injectNow s pgFab 12 = false ∧ (s.entry id).poisoned = false ∧ (s.entry id).st = vAnnounced ∧ bitsOf w 11 9 = vPending)
      (fun s t => (t.entry id).st = vPending ∧ (t.entry id).dim = bitsOf w 15 12 ∧
        (t.entry id).fawn = some (bitsOf w 15 12) ∧ ∀ k, k ≠ id → t.entry k = s.entry k) ∧
    Does (.stagingRequest (.fn n) id w)
      (fun s => judge s ⟨n, n, 2⟩ opWrite (vtBase + 4 * id) 4 = .pass ∧ (s.entry id).poisoned = false ∧ n < 8 ∧
        freeTid s n ≠ none ∧ injectNow s pgFab 12 = false ∧
        (s.entry id).st = vPending ∧ bitsOf w 11 9 = vFinal ∧ finalBarred s id = false ∧ heldOfLine s id < 256)
      (fun s => perfWr ((s.bump pgSaf R.heldCnt).putEntry id
        { s.entry id with held := some ⟨bitsOf w 23 16, bitsOf w 15 12, bitsOf w 8 0⟩ }) (pgHq n)) ∧
    Does (.stagingRequest (.fn n) id w)
      (fun s => judge s ⟨n, n, 2⟩ opWrite (vtBase + 4 * id) 4 = .pass ∧ (s.entry id).poisoned = false ∧
        freeTid s n ≠ none ∧ injectNow s pgFab 12 = false ∧ (s.entry id).st = vEmpty ∧ n < 8)
      (fun s => perfWr (s.bump pgVpt R.stageRefusedCnt) (pgHq n)) ∧
    Writes (.lineCfg ini l 0x10 v) ini pgVpt (0x100 + 0x40 * l + 0x10)
      (fun u => unlocked u pgVpt = true ∧ u.on pgVpt R.lineEn l = false) (fun u => u.wr pgVpt R.annWait v l) ∧
    Writes (.lineCfg ini l 4 v) ini pgVpt (0x100 + 0x40 * l + 4)
      (fun u => unlocked u pgVpt = true ∧ u.on pgVpt R.lineEn l = true ∧ bitsOf v 31 16 < bitsOf v 15 0)
      (fun u => u.prog pgVpt) ∧
    (off = 0 ∨ off = 4 ∨ off = 8 ∨ off = 0xC ∨ off = 0x10 ∨ off = 0x14 →
      Writes (.lineCfg ini l off v) ini pgVpt (0x100 + 0x40 * l + off) (fun u => unlocked u pgVpt = false) (fun u => u))

/-- The compositor (R462 to R464, R466, R469, R470): COMMIT puts a free slot that keeps the rules into the queue, RELEASE lets
the shown slot go, a latch point shows the last slot committed and frees the others, a late or failed fetch is an underrun,
and TCOMMIT takes a timing that keeps its limits. -/
def Obligations.Compositor : Prop :=
  (∀ (ini : Ini) (k n : Nat), k < 4 → n < 4 →
    Writes (.planeCommit ini k n) ini pgMon (0x110 + 0x100 * k)
      (fun u => u.plSlot k n = slFree ∧ slotOk u k n = true)
      (fun u => ({ u with disp := { u.disp with
        commits := sset [] u.disp.commits k (sget [] u.disp.commits k ++ [n]) } } : State).setPlSlot k n slCommitted) ∧
    Writes (.planeCommit ini k n) ini pgMon (0x110 + 0x100 * k)
      (fun u => u.plSlot k n ≠ slFree ∨ slotOk u k n = false) (fun u => u.prog pgMon) ∧
    Writes (.release ini k) ini pgMon (0x110 + 0x100 * k)
      (fun u => u.plSlot k n = slShown ∧ ∀ m, m < n → u.plSlot k m ≠ slShown) (fun u => u.setPlSlot k n slReleasing) ∧
    Writes (.release ini k) ini pgMon (0x110 + 0x100 * k) (fun u => ∀ m, m < 4 → u.plSlot k m ≠ slShown) (fun u => u)) ∧
  Does .latchPoint (fun s => s.disp.gen = true ∧ s.disp.pll = false ∧ frameDone s = true) latchPoint ∧
  (∀ (k n : Nat), k < 4 → n < 4 →
    Brings .latchPoint
      (fun s => s.disp.gen = true ∧ s.disp.pll = false ∧ frameDone s = true ∧ s.on pgMon R.tcommit = false ∧
        s.on pgMon R.monRun = true)
      (fun s t => t.disp.latch = s.time ∧ t.disp.gen = true ∧ sfind t.disp.commits k = none ∧
        (s.on pgMon R.plEn k = false → t.plSlot k n = slFree) ∧
        (s.on pgMon R.plEn k = true → (sget [] s.disp.commits k).getLast? = some n →
          t.plSlot k n = slShown ∧ ∀ m, m < 4 → m ≠ n → t.plSlot k m = slFree))) ∧
  (∀ (k n line : Nat) (late bad : Bool) (e : Ecc) (s s' : State) (bs : List Byte), k < 4 →
    shownSlot s k = some n → s.disp.gen = true → line < s.rd pgMon R.slH (4 * k + n) →
    let a := s.rd pgMon R.slBase (4 * k + n) + line * s.rd pgMon R.slPitch (4 * k + n)
    readOnce s ⟨0xE0, 0, 0⟩ pgMon a (max 1 (fmtBytes (s.rd pgMon R.plFmt k) * s.rd pgMon R.slW (4 * k + n))) ⟨a, ofEcc e⟩ =
      (bs, bad, s') →
    injectNow s' pgMon 8 = false → injectNow s' pgMon 9 = false →
    (bad = false → late = false → exec (.underrun k line late e) s = .next s') ∧
    (bad = false → late = true → exec (.underrun k line late e) s =
      .next (underrun (s'.raise pgMon 8) k line (s'.rd pgMon R.slW (4 * k + n)))) ∧
    (bad = true → exec (.underrun k line late e) s =
      .next ((underrun ((s'.raise pgMon 9).raise pgMon 8) k line (s'.rd pgMon R.slW (4 * k + n))).bump pgMon R.fetchErrCnt
        (i := k)))) ∧
  (∀ ini : Ini,
    Writes (.tcommit ini) ini pgMon 0x080 (fun u => (shadows u).ok = true) (fun u => u.wr pgMon R.tcommit 1) ∧
    Writes (.tcommit ini) ini pgMon 0x080 (fun u => (shadows u).ok = false) (fun u => u.prog pgMon)) ∧
  Brings .pixelPllLock (fun s => s.disp.gen = true ∧ s.disp.pll = true ∧ s.on pgMon R.tcommit = false)
    (fun s t => t.disp.pll = false ∧ t.disp.latch = s.time ∧ t.disp.gen = s.on pgMon R.monRun ∧
      t.disp.resume = s.on pgMon R.monRun)

/-- The start of the generator (R471): the working set of reset is zero and breaks R469, and RUN is taken only with TCOMMIT
set or a working set that keeps R469, and else ignored with PROG; an accepted start is a latch point, at which a trained link
goes from its idle pattern to video unless the pixel PLL has to lock (R470). -/
def Obligations.GeneratorStart : Prop :=
  State.reset.disp.work = {} ∧ State.reset.disp.work.ok = false ∧
  ∀ ini : Ini,
    WriteBrings (.monRun ini true) ini pgMon 0x080
      (fun u => u.on pgMon R.monRun = false ∧ (u.on pgMon R.tcommit = true ∨ u.disp.work.ok = true))
      (fun _ t => t.on pgMon R.monRun = true ∧ t.disp.gen = true) ∧
    Writes (.monRun ini true) ini pgMon 0x080
      (fun u => u.on pgMon R.monRun = false ∧ (u.on pgMon R.tcommit = true ∨ u.disp.work.ok = true) ∧ u.disp.gen = false)
      (fun u =>
        let t := latchPoint { u.wr pgMon R.monRun 1 with disp := { u.disp with gen := true, resume := false } }
        (if t.disp.pll = false ∧ t.link = dpIdle then t.setLink dpVideo else t).settle pgMon true) ∧
    Writes (.monRun ini true) ini pgMon 0x080
      (fun u => u.on pgMon R.monRun = false ∧ u.on pgMon R.tcommit = false ∧ u.disp.work.ok = false)
      (fun u => u.prog pgMon) ∧
    Writes (.monRun ini false) ini pgMon 0x080 (fun _ => True) (fun u => u.wr pgMon R.monRun 0)

/-- The DisplayPort link and its AUX channel (R472 to R477): training and its two ends, HPD, and the answers of the sink. -/
def Obligations.DisplayPort : Prop :=
  (∀ ini : Ini,
    Writes (.train ini) ini pgDp 0x084 (fun u => u.link ≠ dpUnplugged)
      (fun u => { u.setLink dpTraining with dp := { u.dp with retry := false } }) ∧
    Writes (.train ini) ini pgDp 0x084 (fun u => u.link = dpUnplugged) (fun u => u.prog pgDp) ∧
    Writes (.linkOff ini) ini pgDp 0x084 (fun u => u.link ≠ dpUnplugged) (fun u => u.setLink dpOff) ∧
    Writes (.linkOff ini) ini pgDp 0x084 (fun u => u.link = dpUnplugged) (fun u => u) ∧
    Writes (.auxGo ini) ini pgDp 0x08C (fun u => u.on pgDp R.auxBusy = false)
      (fun u => ({ u.wr pgDp R.auxBusy 1 with
        dp := { u.dp with defers := 0, timeouts := 0, sent := u.time } } : State).settle pgDp true) ∧
    Writes (.auxGo ini) ini pgDp 0x08C (fun u => u.on pgDp R.auxBusy = true) (fun u => u.prog pgDp)) ∧
  (∀ (step sw pre : Nat), sw < 4 → pre < 4 →
    Brings (.trainDone true step sw pre) (fun s => s.link = dpTraining)
      (fun s t => t.link = dpIdle ∧ t.rd pgDp R.rateTrained = s.rd pgDp R.dpRate % 4 ∧
        t.rd pgDp R.lanesTrained = s.rd pgDp R.dpLanes % 4 ∧ t.rd pgDp R.dpFailStep = 0 ∧ t.rd pgDp R.dpSwing = sw ∧
        t.rd pgDp R.dpPreemph = pre ∧ t.dp.retry = false ∧ bitOf (t.rd pgDp evDp.evt) 3 = true ∧
        t.rd pgDp R.linkRetryCnt =
          if s.dp.retry then (s.rd pgDp R.linkRetryCnt + 1) % 2 ^ 32 else s.rd pgDp R.linkRetryCnt) ∧
    Brings (.trainDone false step sw pre) (fun s => s.link = dpTraining)
      (fun _ t => t.link = dpFailed ∧ bitOf (t.rd pgDp R.pageErr) 8 = true ∧ bitOf (t.rd pgDp evDp.evt) 3 = true) ∧
    Does (.trainDone true step sw pre) (fun s => s.link ≠ dpTraining) (fun s => s)) ∧
  Does (.irqHpd false) (fun s => s.on pgDp R.hpd = true) (fun s => s.event pgDp evDp 2) ∧
  Does (.irqHpd true) (fun s => s.on pgDp R.hpd = true ∧ (s.link = dpVideo ∨ s.link = dpIdle))
    (fun s => { ((s.raise pgDp 10).event pgDp evDp 4).setLink dpTraining with
      dp := { ((s.raise pgDp 10).event pgDp evDp 4).dp with retry := true } }) ∧
  Does .hpdUnplug (fun s => s.on pgDp R.hpd = true)
    (fun s => ((s.wr pgDp R.hpd 0).setLink dpUnplugged).event pgDp evDp 1) ∧
  Does .hpdPlug (fun s => s.on pgDp R.hpd = false) (fun s => ((s.wr pgDp R.hpd 1).setLink dpOff).event pgDp evDp 0) ∧
  (∀ data : List Nat,
    Does (.auxReply 0 data) (fun s => s.on pgDp R.auxBusy = true ∧ s.rd pgDp R.auxType % 2 = 0)
      (fun s => auxEnd s 0 (s.rd pgDp R.auxLen + 1)) ∧
    Brings (.auxReply 0 data)
      (fun s => s.on pgDp R.auxBusy = true ∧ s.rd pgDp R.auxType % 2 = 1 ∧ injectNow s pgDp 9 = false)
      (fun s t => t.rd pgDp R.auxBusy = 0 ∧ t.rd pgDp R.auxResult = 0 ∧
        t.rd pgDp R.auxBytes = (data.take (s.rd pgDp R.auxLen + 1)).length % 2 ^ R.auxBytes.w ∧
        ∀ n, n < (data.take (s.rd pgDp R.auxLen + 1)).length → t.rd pgDp R.auxData n = data.getD n 0 % 256) ∧
    Does (.auxReply 1 data) (fun s => s.on pgDp R.auxBusy = true) (fun s => auxEnd s 1 0) ∧
    Does (.auxReply 2 data) (fun s => s.on pgDp R.auxBusy = true ∧ s.dp.defers < 7)
      (fun s => { s.perf pgDp 0x0C with dp := { s.dp with defers := s.dp.defers + 1, sent := s.time } }) ∧
    Brings (.auxReply 2 data) (fun s => s.on pgDp R.auxBusy = true ∧ 7 ≤ s.dp.defers)
      (fun _ t => t.rd pgDp R.auxBusy = 0 ∧ (t.rd pgDp R.auxResult = 1 ∨ t.rd pgDp R.auxResult = 2) ∧
        t.rd pgDp R.auxBytes = 0)) ∧
  Does .auxTimeout (fun s => s.on pgDp R.auxBusy = true ∧ s.dp.sent + usTicks 400 ≤ s.time ∧ s.dp.timeouts = 0)
    (fun s => { s.perf pgDp 0x0C with dp := { s.dp with timeouts := 1, sent := s.time } }) ∧
  Does .auxTimeout (fun s => s.on pgDp R.auxBusy = true ∧ s.dp.sent + usTicks 400 ≤ s.time ∧ s.dp.timeouts ≠ 0)
    (fun s => auxEnd s 2 0)

/-- Doubt (R483, R484, R487, R488): the oldest report is taken; an injected one is never applied; the doubt of an entry that
is EMPTY is late, and that of an open or FINAL entry makes it FALLBACK with LANE 0xFF and DOUBT; a write of DOUBT_REQ acts on
a line of the writer's own partition. -/
def Obligations.Doubts : Prop :=
  (∀ (d : Doubt) (rest : List Doubt),
    Does .doubtReport (fun s => s.doubtQ = d :: rest ∧ d.injected = true) (fun s => { s with doubtQ := rest }) ∧
    Does .doubtReport (fun s => s.doubtQ = d :: rest ∧ d.injected = false ∧ d.cont = false)
      (fun s => applyScope (({ s with doubtQ := rest } : State).bump pgSaf R.doubtCnt) d.scope d.inc) ∧
    (∀ id : Nat, d.scope = .entry id →
      Does .doubtReport (fun s => s.doubtQ = d :: rest ∧ d.injected = false ∧ (s.entry id).st = vEmpty)
        (fun s => lateDoubt (({ s with doubtQ := rest } : State).bump pgSaf R.doubtCnt) id d.inc) ∧
      Brings .doubtReport
        (fun s => s.doubtQ = d :: rest ∧ d.injected = false ∧
          ((s.entry id).st = vAnnounced ∨ (s.entry id).st = vPending ∨ (s.entry id).st = vFinal) ∧
          s.on pgSaf R.fault = false ∧ (s.entry id).poisoned = false ∧ id < 65536 ∧ injectNow s pgFab 12 = false ∧
          judge (({ s with doubtQ := rest } : State).bump pgSaf R.doubtCnt) tagIsland opWrite (vtBase + 4 * id) 4 = .pass)
        (fun _ t => (t.entry id).st = vFallback ∧ (t.entry id).lane = 0xFF ∧ (t.entry id).held = none ∧
          bitOf (t.entry id).flags fDoubt = true))) ∧
  (∀ k e0 : Nat,
    Does .doubtReevaluate
      (fun s => islandRuns s = true ∧ s.conts = [(k, e0)] ∧ streamSound s k = false ∧
        ∀ j, j < 48 → j ≠ k → s.on pgSaf R.camSafe j = false)
      (fun s => doubtFrame s k e0 (streamCount s k))) ∧
  ∀ (ini : Ini) (tag line : Nat),
    Writes (.doubtReq ini tag line) ini pgSaf 0x088
      (fun u => line < 4 ∧ lineOn u line = true ∧ mapsTo u (iniPart u ini) line = true)
      (fun u => u.doubt (tagScope u line (tag % 65536))) ∧
    Writes (.doubtReq ini tag line) ini pgSaf 0x088
      (fun u => 4 ≤ line ∨ lineOn u line = false ∨ mapsTo u (iniPart u ini) line = false) (fun u => u)

/-- The island's own checks (R481, R482, R489, R491, R496, R529): a plausible FINAL that is confirmed is stored; watchdogs
restart at a kick and expire 250 ms later; lockstep, tightly coupled memory, the device watchdog and the clock monitor raise
FAULT with a cause of their own. -/
def Obligations.IslandSafety : Prop :=
  (∀ (id l : Nat) (h : Held),
    Brings (.finalConfirm id)
      (fun s => lineOfId s id = some l ∧ (s.entry id).held = some h ∧ confirmed s l (s.entry id) = true ∧
        s.on pgSaf R.fault = false ∧ (s.entry id).poisoned = false ∧ islandRuns s = true ∧ finalBarred s id = false ∧
        ∃ f, (s.entry id).fawn = some f ∧ f ≠ 0xF ∧ f ≤ h.dim + s.rd pgSaf R.classSlack l)
      (fun s t => (t.entry id).st = vFinal ∧ (t.entry id).lane = h.lane ∧ (t.entry id).dim = h.dim ∧
        (t.entry id).held = none ∧ t.mem = s.mem ∧ t.regs = s.regs)) ∧
  (∀ ini : Ini, WriteBrings (.wdKick ini) ini pgSaf 0x08C (fun _ => True)
    (fun u t => t.wd (iniPart u ini) = ⟨bitOf (u.rd pgSaf R.wdEn) (iniPart u ini), u.time, false⟩ ∧
      ∀ p, p ≠ iniPart u ini → t.wd p = u.wd p)) ∧
  (∀ p : Nat, p < 8 →
    Does (.wdExpired p)
      (fun s => (s.wd p).on = true ∧ (s.wd p).expired = false ∧ (s.wd p).last + wdTicks 250 ≤ s.time ∧ islandRuns s = true ∧
        s.on pgPwr R.entering = false) (fun s => wdExpire s p)) ∧
  Does .islandFirmwareKick
    (fun s => s.on pgRst R.romDone = true ∧ s.isl.halted = false ∧ islandRuns s = true ∧ s.on pgPwr R.entering = false)
    (fun s => { s with isl := { s.isl with lastKick := s.time, wdOn := true, kicked := true } }) ∧
  Brings .lockstepMismatch (fun s => islandRuns s = true ∧ s.on pgSaf R.fault = false)
    (fun s t => t.on pgSaf R.fault = true ∧ t.rd pgSaf R.faultCause = 1 ∧ t.on pgSaf R.devOk = false ∧ t.faultTime = s.time) ∧
  Brings .islandTcmEcc (fun s => islandRuns s = true ∧ s.on pgSaf R.fault = false)
    (fun s t => t.on pgSaf R.fault = true ∧ t.rd pgSaf R.faultCause = 7 ∧ t.on pgSaf R.devOk = false ∧ t.faultTime = s.time) ∧
  Brings .deviceWdExpiry
    (fun s => s.isl.wdOn = true ∧ s.isl.lastKick + wdTicks 500 ≤ s.time ∧ islandRuns s = true ∧
      s.on pgPwr R.entering = false ∧ s.on pgSaf R.fault = false)
    (fun s t => t.on pgSaf R.fault = true ∧ t.rd pgSaf R.faultCause = 3 ∧ t.on pgSaf R.devOk = false ∧ t.isl.wdOn = false ∧
      t.faultTime = s.time) ∧
  ∀ (a b c d e r : Nat),
    Brings (.clockWindowEnd [a, b, c, d, e, r])
      (fun s => islandRuns s = true ∧ s.on pgPwr R.entering = false ∧ s.on pgPwr R.exiting = false ∧
        s.on pgClk R.pllLock = true ∧ s.on pgSaf R.fault = false)
      (fun s t => t.rd pgClk R.clkKhz 0 = a % 2 ^ R.clkKhz.w ∧ t.rd pgClk R.refKhz = r % 2 ^ R.refKhz.w ∧
        (if clockBad a 1200000 ∨ clockBad b 800000 ∨ clockBad c 600000 ∨ clockBad d 400000 ∨ clockBad e 100000 ∨
            clockBad r 100000
          then t.on pgSaf R.fault = true ∧ t.rd pgSaf R.faultCause = 2 ∧ t.on pgSaf R.devOk = false ∧ t.faultTime = s.time
          else t.logQ = s.logQ ∧ t.faultTime = s.faultTime))

/-- Return from fallback and to service, and the checker rotation (R495, R504 to R506, R531). -/
def Obligations.Recovery : Prop :=
  (∀ (ini : Ini) (v : Nat),
    Writes (.resume ini v) ini pgSaf 0x084
      (fun u => p0Ok u ini = true ∧ v % 32 ≠ 0 ∧
        mayResume u ((List.range 4).filter fun l => bitOf v l || (bitOf v 4 && lineOn u l)) = false)
      (fun u => u.prog pgSaf) ∧
    WriteBrings (.resume ini v) ini pgSaf 0x084
      (fun u => p0Ok u ini = true ∧ v % 32 ≠ 0 ∧ u.vt = [] ∧
        mayResume u ((List.range 4).filter fun l => bitOf v l || (bitOf v 4 && lineOn u l)) = true)
      (fun u t => t.rd pgSaf R.lineFb = clrMask 4 (u.rd pgSaf R.lineFb) (v % 16) % 16 ∧
        (bitOf v 4 = true → t.fbAllRaised = false ∧ t.on pgSaf R.fallbackAll = u.fbSleep) ∧
        (bitOf v 4 = false → t.fbAllRaised = u.fbAllRaised) ∧ t.mem = u.mem)) ∧
  (∀ (page bit turn : Nat) (seen : Bool),
    Does (.checkerInjection page bit turn seen)
      (fun s => s.on pgChk R.rotEn = true ∧ s.on pgRst R.romDone = true ∧ s.rst.ph = 0 ∧ islandRuns s = true ∧
        s.injections = [] ∧ rotDue s (page, bit, turn) = true ∧ workPending (rotBegin s) (page, bit, turn) = false)
      (fun s => rotSweep (rotTest (rotBegin s) (page, bit, turn) seen)) ∧
    Does (.checkerInjection page bit turn seen)
      (fun s => s.on pgChk R.rotEn = true ∧ s.on pgRst R.romDone = true ∧ s.rst.ph = 0 ∧ islandRuns s = true ∧
        s.injections = [] ∧ rotDue s (page, bit, turn) = true ∧ workPending (rotBegin s) (page, bit, turn) = true ∧
        pageKind page ≠ some .pq)
      (fun s => rotArm { rotBegin s with injections := (rotBegin s).injections ++
        [(⟨page, bit, turn, (rotBegin s).time, none, false⟩ : Injection)] } page bit)) ∧
  (∀ (page : Nat) (j : Injection),
    Does (.checkerTimeout page) (fun s => s.injections.find? (fun k => k.page == page) = none) (fun s => s) ∧
    Does (.checkerTimeout page)
      (fun s => s.injections.find? (fun k => k.page == page) = some j ∧ j.confirmed = false ∧
        ((∃ t, j.taken = some t ∧ t + msTicks 2 ≤ s.time) ∨
          (j.taken = none ∧ pageKind page ≠ some .ctx ∧ j.armed + msTicks 1 ≤ s.time)))
      (fun s =>
        let u : State := ({ s with injections := s.injections.filter fun k => k.page != page } : State).wr page R.injArm 0
        rotSweep (checkerFail (rotMark { u with isl := { u.isl with rotClean := false } } (j.page, j.bit, j.turn)) page
          j.bit))) ∧
  ∀ (ini : Ini) (page : Nat),
    WriteBrings (.unfence ini page) ini pgErl 0x0A0
      (fun u => p0Ok u ini = true ∧ pageKind page ≠ none ∧ u.fenced page = true ∧ u.unfence = none ∧ noUnfence page = false)
      (fun _ t => t.unfence = some page ∧ t.rd page R.pstate = psSelftest ∧ t.rd page R.stDone = 0 ∧ t.rd page R.stPass = 0) ∧
    Writes (.unfence ini page) ini pgErl 0x0A0
      (fun u => p0Ok u ini = true ∧
        (pageKind page = none ∨ u.fenced page = false ∨ u.unfence ≠ none ∨ noUnfence page = true))
      (fun u => u.prog pgErl)

/-- The error aggregator (R530, R532): the LOST record goes first, then the oldest record; a record that finds no room is
dropped; the automatic reset after FAULT is counted, logged and requested. -/
def Obligations.ErrorLog : Prop :=
  (∀ (hit : Hit) (r : LogRec) (rest : List LogRec),
    Does (.logRecordWrite hit)
      (fun s => s.rst.ph < 3 ∧ s.rst.badCopy = [] ∧ s.lostRecs = 0 ∧ s.logQ = r :: rest ∧ logRoom s = true)
      (fun s => (logWrite { s with logQ := rest } r hit).2) ∧
    Brings (.logRecordWrite hit)
      (fun s => s.rst.ph < 3 ∧ s.rst.badCopy = [] ∧ s.logQ = r :: rest ∧ logRoom s = false)
      (fun s t => t = logDrop { s with logQ := rest } ∧ t.lostRecs = s.lostRecs + 1 ∧ t.mem = s.mem ∧
        t.rd pgErl R.logLost = (s.rd pgErl R.logLost + 1) % 2 ^ R.logLost.w) ∧
    Does (.logRecordWrite hit) (fun s => s.rst.ph < 3 ∧ s.rst.badCopy = [] ∧ s.lostRecs = 0 ∧ s.logQ = []) (fun s => s) ∧
    ∀ t : State, Does (.logRecordWrite hit)
      (fun s => s.rst.ph < 3 ∧ s.rst.badCopy = [] ∧ s.lostRecs ≠ 0 ∧ logRoom s = true ∧
        logWrite s.newInc.2 { event := 0x3F, incident := s.newInc.1, first := true, time := s.time, page := pgErl, count := s.lostRecs } hit = (true, t)) (fun _ => { t with lostRecs := 0 })) ∧
  Does .autoReset
    (fun s => s.on pgSaf R.fault = true ∧ s.on pgErl R.autoReset = true ∧ s.rd pgErl R.autoResetCnt < s.rd pgErl R.autoLimit ∧
      s.rst.ph = 0 ∧ s.faultTime + msTicks (s.rd pgErl R.faultHold) ≤ s.time)
    (fun s => requestWarm ((s.bump pgErl R.autoResetCnt).log
      { event := 0x35, level := 5, page := pgErl, count := s.rd pgErl R.autoResetCnt + 1 }) 5) ∧
  Does .autoReset (fun s => s.rd pgErl R.autoLimit ≤ s.rd pgErl R.autoResetCnt) (fun s => s)

/-- The Fawn pipeline (R17, R498 to R502): a matched pair whose headers can be read starts its depth job, whose end starts its
map jobs; a parcel is evaluated once the encoder has passed its trailing edge by F_EXIT, and gets a class, or 0xF and flag 9
where the evaluation fails; its class is staged as PENDING, and its results record is written and counted. -/
def Obligations.FawnPipeline : Prop :=
  (∀ (line pair left right : Nat) (r : FawnRun) (st : Nat),
    (∀ (s s1 s2 s3 : State) (kl kr : Nat) (hl hr : List Byte),
      islandRuns s = true → s.on pgSaf R.fault = false → s.fawnRun = none → line < 4 → pair < 8 →
      s.on pgSaf R.fawnEn line = true → bitOf (s.rd pgSaf R.fawnPairs line) pair = true → fawnFree s pgSte1 = true →
      pairStream s line pair false = some kl → pairStream s line pair true = some kr →
      readOnce s tagIsland pgSaf (fawnSlot s kl left) 64 = (hl, false, s1) →
      readOnce s1 tagIsland pgSaf (fawnSlot s kr right) 64 = (hr, false, s2) →
      max (quadAt hl 8) (quadAt hr 8) - min (quadAt hl 8) (quadAt hr 8) ≤ 100000 →
      fawnPitch (cdiv (wordAt hl 0x24 % 65536) 2) * cdiv (wordAt hl 0x24 / 65536) 2 ≤ 0x7F0000 →
      writeOnce s2 tagIsland pgSaf (fawnSteDesc s2 line) (fawnSteBytes s2 line kl (fawnSlot s kl left) (fawnSlot s kr right)
        (wordAt hl 0x24 % 65536) (wordAt hl 0x24 / 65536)) = (false, s3) →
      ∃ t, exec (.fawnFramePair line pair left right) s = .next t ∧
        t.slotSt pgSte1 (nSlots pgSte1 - 1) = slQueued ∧
        t.job pgSte1 (nSlots pgSte1 - 1) = some { ptr := fawnSteDesc s2 line, part := 0, sc := 3, order := s3.jobSeq } ∧
        sfind t.fawnEnds pgSte1 = none ∧ t.mem = s3.mem ∧
        t.fawnRun = some { line := line, pair := pair, left := fawnSlot s kl left, right := fawnSlot s kr right,
                           cntL := wordAt hl 0, cntR := wordAt hr 0, enc := wordAt hl 0x18,
                           w := cdiv (wordAt hl 0x24 % 65536) 2, h := cdiv (wordAt hl 0x24 / 65536) 2 }) ∧
    Does (.fawnFramePair line pair left right)
      (fun s => islandRuns s = true ∧ s.on pgSaf R.fault = false ∧ s.fawnRun = some r ∧ r.line = line ∧ r.pair = pair ∧
        r.st = 0 ∧ sfind s.fawnEnds pgSte1 = some st) (fun s => fawnMatch s r st) ∧
    Does (.fawnFramePair line pair left right)
      (fun s => islandRuns s = true ∧ s.on pgSaf R.fault = false ∧ s.fawnRun = some r ∧ r.line = line ∧ r.pair = pair ∧
        r.st ≠ 0 ∧ fawnFree s pgHmp0 = true) (fun s => fawnMerge s r)) ∧
  ∀ (line : Nat) (bad : Bool) (q : Parcel), line < 4 →
    Does (.fawnEvaluation line bad)
      (fun s => islandRuns s = true ∧ s.on pgSaf R.fault = false ∧ s.on pgSaf R.fawnEn line = true ∧
        parcelOf s line (fun q => q.cls.isNone && q.trail.isSome &&
          decide (q.tpos + (s.rd pgSaf R.fExit line : Nat) ≤ linePos s line)) = some q)
      (fun s => fawnEvaluate s line q (q.trail.getD q.c) bad) ∧
    Brings (.fawnEvaluation line false)
      (fun s => islandRuns s = true ∧ s.on pgSaf R.fault = false ∧ s.on pgSaf R.fawnEn line = true ∧ q.grid = none ∧
        parcelOf s line (fun q => q.cls.isNone && q.trail.isSome &&
          decide (q.tpos + (s.rd pgSaf R.fExit line : Nat) ≤ linePos s line)) = some q)
      (fun s t => bitOf (t.rd pgSaf R.pageErr) 9 = true ∧ t.mem = s.mem ∧ t.vt = s.vt ∧
        t.parcels = (modParcel s q fun q =>
          { q with cls := some 15, hf := 0, lf := 0, wf := 0, covFail := true, evalTime := s.time }).parcels) ∧
    (∀ (s s1 s2 : State) (scale g : Nat) (v : Span),
      let lp := diff32 (q.trail.getD q.c) q.c
      let lpmm := cdiv (lp.toNat * scale) 4096
      let hf := v.hmax.toNat + (v.hmax.toNat * s2.rd pgSaf R.fMhRel line + 255) / 256 + 16 * s2.rd pgSaf R.fMhAbs line
      let lf := 10 * (v.x1 - v.x0 + 1) + 2 * s2.rd pgSaf R.fMb line
      let wf := 10 * (v.y1 - v.y0 + 1) + 2 * s2.rd pgSaf R.fMb line
      islandRuns s = true → s.on pgSaf R.fault = false → s.on pgSaf R.fawnEn line = true →
      parcelOf s line (fun q => q.cls.isNone && q.trail.isSome &&
        decide (q.tpos + (s.rd pgSaf R.fExit line : Nat) ≤ linePos s line)) = some q →
      fawnScale s line = (some scale, s1) → q.grid = some g → q.begun = true →
      gridSpan s1 line lpmm g = (some v, false, s2) → (lpmm : Int) + 2 * (s1.rd pgSaf R.fGuard line : Nat) ≤ 2560 →
      (∀ p, p < 8 → bitOf (s2.rd pgSaf R.fawnPairs line) p = true →
        pairGap s2 line p q lp = false ∧ stillSeen s2 line p q = false) →
      exec (.fawnEvaluation line false) s = .next (modParcel s2 q fun q =>
        { q with cls := some (fawnClass s2 lf wf (cdiv hf 16)), hf := cdiv hf 16, lf := lf, wf := wf, covFail := false,
                 evalTime := s2.time })) ∧
    Does (.fawnEvaluation line bad)
      (fun s => islandRuns s = true ∧ s.on pgSaf R.fault = false ∧ s.on pgSaf R.fawnEn line = false ∧
        parcelOf s line (fun q => q.cls.isNone && q.trail.isSome &&
          decide (q.tpos + (s.rd pgSaf R.fExit line : Nat) ≤ linePos s line)) = some q)
      (fun s => sweepParcels (modParcel s q fun q => { q with done := true })) ∧
    (∀ id c : Nat, c < 16 → id < 65536 → Brings (.fawnStaging line)
      (fun s => islandRuns s = true ∧ s.on pgSaf R.fault = false ∧ parcelOf s line (fun q => q.cls.isSome) = some q ∧
        s.fawnRun = none ∧ q.cls = some c ∧ parcelEntry s q = some id ∧ (s.entry id).st = vAnnounced ∧
        (s.entry id).poisoned = false ∧ injectNow s pgFab 12 = false ∧
        judge s tagIsland opWrite (vtBase + 4 * id) 4 = .pass ∧ s.rd pgSaf R.fResBase line % 64 = 0 ∧
        targetOf (s.rd pgSaf R.fResBase line + 64 * (s.rd pgSaf R.fResIdx line % 256)) = .svm)
      (fun s t => (t.entry id).st = vPending ∧ (t.entry id).dim = c ∧ (t.entry id).fawn = some c ∧ (t.entry id).lane = 0xFF ∧
        (t.entry id).seq = ((s.entry id).seq + 1) % 16 ∧ (∀ k, k ≠ id → t.entry k = s.entry k) ∧
        t.rd pgSaf R.fResIdx line = (s.rd pgSaf R.fResIdx line + 1) % 2 ^ R.fResIdx.w ∧
        t.parcels = (sweepParcels (modParcel s q fun q => { q with done := true, grid := none })).parcels)) ∧
    Does (.fawnStaging line)
      (fun s => islandRuns s = true ∧ s.on pgSaf R.fault = false ∧ parcelOf s line (fun q => q.cls.isSome) = some q ∧
        s.fawnRun = none ∧ parcelEntry s q = none)
      (fun s => sweepParcels (modParcel ((writeOnce s tagIsland pgSaf
        (s.rd pgSaf R.fResBase line + 64 * (s.rd pgSaf R.fResIdx line % 256))
        (fawnRecord s q 0 (b2n q.covFail + 4))).2.bump pgSaf R.fResIdx (i := line)) q
          fun q => { q with done := true, grid := none }))

/-- Measured loads, UPDATING marks and fuses (R541, R543, R545, R548, R560). -/
def Obligations.LoadsAndFuses : Prop :=
  (∀ ini : Ini,
    Writes (.ldGo ini) ini pgSec 0x0EC
      (fun u => (iniPart u ini = 0 ∨ u.ownerOf (pgCc (u.rd pgSec R.ldCore)) = iniPart u ini) ∧
        u.coreSt (u.rd pgSec R.ldCore) = 0 ∧ u.load = none)
      (fun u => { u.wr pgSec R.ldStat ldBusy with load := some { src := u.rd pgSec R.ldSrc, core := u.rd pgSec R.ldCore } }) ∧
    Writes (.ldGo ini) ini pgSec 0x0EC (fun u => u.coreSt (u.rd pgSec R.ldCore) ≠ 0 ∨ u.load ≠ none) (fun u => u.prog pgSec) ∧
    (∀ v : Nat, Writes (.updMark ini v) ini pgSec 0x0F4 (fun _ => True)
      (fun u => u.wrBit pgSec R.updMark (iniPart u ini) (bitOf v (iniPart u ini)))) ∧
    Writes (.rbGo ini) ini pgFus 0x088
      (fun u => p0Ok u ini = true ∧ u.rd pgFus R.rbState ≠ 1 ∧ rbCountOf u < u.rd pgFus R.rbTarget ∧
        u.rd pgFus R.rbTarget ≤ 64 ∧ svnsAtLeast u (u.rd pgFus R.rbTarget) = true)
      (fun u => { u.wr pgFus R.rbState 1 with blowTo := u.rd pgFus R.rbTarget }) ∧
    WriteBrings (.rbGo ini) ini pgFus 0x088
      (fun u => p0Ok u ini = true ∧ u.rd pgFus R.rbState ≠ 1 ∧
        ¬(rbCountOf u < u.rd pgFus R.rbTarget ∧ u.rd pgFus R.rbTarget ≤ 64 ∧ svnsAtLeast u (u.rd pgFus R.rbTarget) = true))
      (fun u t => t.rd pgFus R.rbState = 3 ∧ bitOf (t.rd pgFus R.pageErr) eProg = true ∧ t.fuses = u.fuses ∧
        t.blowTo = u.blowTo) ∧
    Writes (.rotpkGo ini) ini pgFus 0x0F0 (fun u => p0Ok u ini = true ∧ u.rotpk = 0)
      (fun u => { u with rotpk := ((List.range 12).map fun i => u.rd pgFus R.rotpkProg i * 2 ^ (32 * i)).sum }) ∧
    Writes (.rotpkGo ini) ini pgFus 0x0F0 (fun u => p0Ok u ini = true ∧ u.rotpk ≠ 0) (fun u => u.prog pgFus)) ∧
  ∀ (hit : Hit) (host : Cells) (d : Load) (h body : List Byte) (b1 b2 : Bool) (s s1 s2 : State) (st : Nat),
    s.load = some d → readAll s tagLoader pgSec 0 d.src 256 hit host 0 = (.ok h, b1, s1) →
    (imHeaderFail s1 3 h = some st → exec (.imageLoadDone hit host) s = .next (loadFail s1 st)) ∧
    (imFormatOk 3 h = true → s1.rotpk = 0 ∨ rotpkBytes s1 = shaBytes (imKey h) →
      readAll s1 tagLoader pgSec 0 (d.src + 256) (imLen h)
        ⟨hit.idx - 4, if hit.idx < 4 then .ok else hit.r1, if hit.idx < 4 then .ok else hit.r2⟩ host 0 = (.ok body, b2, s2) →
      exec (.imageLoadDone hit host) s = .next
        (if Config.ecdsaVerify (imKey h) (Config.sha384 (h.take 0xA0)) (imSig h) = false then loadFail s1 ldSig
         else if shaBytes body ≠ imDigest h then loadFail s2 ldDigest
         else if imSvn h < rbCountOf s2 then loadFail s2 ldRollback
         else loadInto (({ s2 with load := none } : State).wr pgSec R.ldStat ldOk) d.core h body (imWord s2 (2 + d.core) 1 + 1)))

/-- The anti-rollback count (R547): it is one more than the highest blown fuse, from 0 to 64; an advance blows exactly the
fuses from the count up to its target; a gap below the highest blown fuse counts as blown and sets FUSE_FAULT, when the
fuses are read at boot and when they are read back after an advance. -/
def Obligations.RollbackCount : Prop :=
  (∀ s : State, rbCountOf s ≤ 64 ∧ (∀ n, n < 64 → bitOf s.fuses n = true → n < rbCountOf s) ∧
    (rbCountOf s ≠ 0 → bitOf s.fuses (rbCountOf s - 1) = true) ∧
    (fuseFaultOf s = true ↔ ∃ n, n < rbCountOf s ∧ bitOf s.fuses n = false)) ∧
  Brings .fuseBlowDone (fun s => s.rd pgFus R.rbState = 1)
    (fun s t => t.rd pgFus R.rbState = 2 ∧
      (∀ n, bitOf t.fuses n = (bitOf s.fuses n || decide (rbCountOf s ≤ n ∧ n < s.blowTo ∧ n < 64))) ∧
      (fuseFaultOf t = true → bitOf (t.rd pgFus R.pageErr) 9 = true)) ∧
  ∀ (flash : Cells) (quad : Bool),
    Brings (.bootRom flash false quad)
      (fun s => romReady s = true ∧ s.rd pgRst R.bootMode = 0 ∧ fuseFaultOf s = true)
      (fun _ t => bitOf (t.rd pgFus R.pageErr) 9 = true)

/-- The TAP and the debug module (R554 to R556, R591): the instruction in force, PROBE_SEEN at a TCK edge, and what sets
DEBUG_TOUCHED; the trace unit's samples (R557). -/
def Obligations.DebugAndTrace : Prop :=
  Does .idcode (fun _ => True) (fun s => { tapIr s 0 with reply := ⟨idcode, 0⟩ }) ∧
  Brings .bypass (fun _ => True) (fun s t => t.tap.ir = 1 ∧ bitOf (t.rd pgDbg R.debugFlags) 1 = true ∧ t.mem = s.mem) ∧
  (∀ cells : Nat, Brings (.samplePreload cells) (fun _ => True)
    (fun _ t => t.tap = { ir := 2, bsr := cells } ∧ bitOf (t.rd pgDbg R.debugFlags) 1 = true)) ∧
  Brings .extest (fun _ => True)
    (fun s t => t.tap = { s.tap with ir := 3 } ∧ bitOf (t.rd pgDbg R.debugFlags) 0 = true ∧
      bitOf (t.rd pgDbg R.debugFlags) 1 = true ∧ bitOf (t.rd pgDbg R.debugFlags) 2 = true) ∧
  Brings .clamp (fun _ => True)
    (fun s t => t.tap = { s.tap with ir := 4 } ∧ bitOf (t.rd pgDbg R.debugFlags) 0 = true ∧
      bitOf (t.rd pgDbg R.debugFlags) 2 = true) ∧
  Brings .highz (fun _ => True)
    (fun s t => t.tap = { s.tap with ir := 5 } ∧
      bitOf (t.rd pgDbg R.debugFlags) 0 = bitOf (s.rd pgDbg R.debugFlags) 0) ∧
  Brings .dapacc (fun _ => True) (fun s t => t.tap = { s.tap with ir := 6 } ∧ t.mem = s.mem) ∧
  Does .tapReset (fun _ => True) (fun s => { s with tap := { s.tap with ir := 0 } }) ∧
  (∀ (c pc reg v : Nat),
    (c < 8 →
      Brings (.debugHalt c pc) (fun _ => True)
        (fun _ t => (t.core c).dbg = true ∧ (t.core c).pc = pc ∧ bitOf (t.rd pgDbg R.debugFlags) 0 = true ∧
          bitOf (t.rd pgDbg R.debugFlags) 3 = true) ∧
      Brings (.debugTriggerHit c pc) (fun _ => True)
        (fun _ t => (t.core c).dbg = true ∧ (t.core c).pc = pc ∧ bitOf (t.rd pgDbg R.debugFlags) 0 = true ∧
          bitOf (t.rd pgDbg R.debugFlags) 3 = true) ∧
      Brings (.debugStep c pc) (fun s => (s.core c).dbg = true)
        (fun s t => t.core c = { s.core c with pc := pc, flen := 0 } ∧ bitOf (t.rd pgDbg R.debugFlags) 0 = true) ∧
      Does (.debugStep c pc) (fun s => (s.core c).dbg = false) (fun s => s) ∧
      Brings (.debugRegisterWrite c 0x7B1 v) (fun _ => True)
        (fun s t => t.core c = { s.core c with pc := v % 2 ^ 32, flen := 0 } ∧ bitOf (t.rd pgDbg R.debugFlags) 0 = true) ∧
      Brings (.debugResume c) (fun _ => True)
        (fun s t => t.core c = { s.core c with dbg := false } ∧
          bitOf (t.rd pgDbg R.debugFlags) 0 = bitOf (s.rd pgDbg R.debugFlags) 0)) ∧
    (8 ≤ c → c < 10 →
      Does (.debugStep c pc) (fun s => s.isl.halted = false) (fun s => s) ∧
      Brings (.debugHalt c pc) (fun _ => True)
        (fun s t => t.isl = { s.isl with halted := true } ∧ bitOf (t.rd pgDbg R.debugFlags) 0 = true) ∧
      Brings (.debugResume c) (fun _ => True) (fun s t => t.isl = { s.isl with halted := false }) ∧
      Brings (.debugRegisterWrite c reg v) (fun _ => True)
        (fun s t => t.cores = s.cores ∧ bitOf (t.rd pgDbg R.debugFlags) 0 = true)) ∧
    (10 ≤ c → exec (.debugHalt c pc) = fun s => .next s)) ∧
  Brings .traceSample
    (fun s => bitOf (s.rd pgDbg R.traceSrcEn) 11 = true ∧ s.trace.last + usTicks (s.rd pgDbg R.sampleUs) ≤ s.time ∧
      s.trace.fifo.length < traceDepth)
    (fun s t => t.trace.last = s.time ∧ t.trace.fifo.length = s.trace.fifo.length + 1 ∧
      t.trace.seq = (s.trace.seq + 1) % 256 ∧ t.regs = s.regs) ∧
  Brings .traceSample
    (fun s => bitOf (s.rd pgDbg R.traceSrcEn) 11 = true ∧ s.trace.last + usTicks (s.rd pgDbg R.sampleUs) ≤ s.time ∧
      traceDepth ≤ s.trace.fifo.length)
    (fun s t => t.trace.last = s.time ∧ t.trace.fifo = s.trace.fifo ∧ t.trace.lost = s.trace.lost + 1) ∧
  Does .traceSample (fun s => bitOf (s.rd pgDbg R.traceSrcEn) 11 = false) (fun s => s)

/-- The power ladder and the temperature sensors (R569, R571 to R577, R583 to R586, R589). -/
def Obligations.PowerLadder : Prop :=
  Does .holdEntry
    (fun s => s.rd pgPwr R.autoFloor ≠ 0 ∧ s.rd pgPwr R.rung = 0 ∧ rungSettled s = true ∧ s.rst.ph < 3 ∧
      computeAtRest s = true ∧ s.rd pgPwr R.idleHold ≤ s.pw.idle)
    (fun s => (s.wr pgPwr R.rung 1).bump pgPwr R.holdCnt) ∧
  Does .napEntry
    (fun s => s.rd pgPwr R.autoFloor = 2 ∧ s.rd pgPwr R.rung = 1 ∧ rungSettled s = true ∧ computeAtRest s = true ∧
      s.rd pgPwr R.idleHold + s.rd pgPwr R.idleNap ≤ s.pw.idle)
    (fun s => (s.wr pgPwr R.rung 2).bump pgPwr R.napCnt) ∧
  Brings .computeRequestWake (fun s => (s.rd pgPwr R.rung = 1 ∨ s.rd pgPwr R.rung = 2) ∧ rungSettled s = true)
    (fun s t => t.on pgPwr R.exiting = true ∧ t.pw.idle = 0 ∧ t.pw.since = s.time ∧ t.mem = s.mem) ∧
  Does .computeRequestWake (fun s => s.rd pgPwr R.rung = 0) (fun s => { s with pw := { s.pw with idle := 0 } }) ∧
  (∀ (ini : Ini) (r : Nat), r < 8 →
    Writes (.sleepGo ini r) ini pgPwr 0x080
      (fun u => p0Ok u ini = true ∧ sleepRefusal (u.wr pgPwr R.sleepReq r) r = 0)
      (fun u => enterSleep (u.wr pgPwr R.sleepReq r) r) ∧
    (∀ c : Nat, c ≠ 0 → Writes (.sleepGo ini r) ini pgPwr 0x080
      (fun u => p0Ok u ini = true ∧ sleepRefusal (u.wr pgPwr R.sleepReq r) r = c)
      (fun u => (((u.wr pgPwr R.sleepReq r).prog pgPwr).raise pgPwr 8).wr pgPwr R.refuseCause c)) ∧
    WriteBrings (.sleepGo ini r) ini pgPwr 0x080
      (fun u => p0Ok u ini = true ∧ sleepRefusal (u.wr pgPwr R.sleepReq r) r = 0 ∧ u.vt = [])
      (fun u t => 3 ≤ r ∧ r ≤ 5 ∧ t.on pgPwr R.entering = true ∧ t.on pgSaf R.fallbackAll = true ∧ t.fbSleep = true ∧
        t.on pgSaf R.devOk = false ∧ t.pw.target = r ∧ t.mem = u.mem) ∧
    Pops (.tPeak ini) ini pgPwr (fun _ => True) (fun u => u.rd pgPwr R.tPeak) (fun u => u.wr pgPwr R.tPeak 0)) ∧
  Does .rungEntryDone (fun s => s.on pgPwr R.entering = false) (fun s => s) ∧
  Brings .rungEntryDone (fun s => s.on pgPwr R.entering = true ∧ s.pw.back = false ∧ s.pw.target = 3)
    (fun _ t => t.on pgPwr R.entering = false ∧ t.rd pgPwr R.rung = 3 ∧ t.rd pgClk R.pllLock = 0 ∧
      t.rd pgClk R.slowFromRef = 1 ∧ t.rd pgPwr R.preq = 7 ∧ t.uarts = [] ∧ t.i3cs = []) ∧
  Brings .rungEntryDone (fun s => s.on pgPwr R.entering = true ∧ s.pw.back = true)
    (fun s t => t.on pgPwr R.entering = false ∧ t.on pgPwr R.exiting = true ∧ t.rd pgPwr R.rung = s.rd pgPwr R.rung) ∧
  (∀ src : Nat, Does (.wake src) (fun s => wakeActs s src = true) (wakeUp · src) ∧
    Does (.wake src) (fun s => wakeActs s src = false) (fun s => s)) ∧
  Does .rungExitDone (fun s => s.on pgPwr R.exiting = false) (fun s => s) ∧
  Does .rungExitDone (fun s => s.on pgPwr R.exiting = true ∧ (s.rd pgPwr R.rung = 1 ∨ s.rd pgPwr R.rung = 2))
    (fun s => (s.wr pgPwr R.exiting 0).wr pgPwr R.rung 0) ∧
  Does .rungExitDone (fun s => s.on pgPwr R.exiting = true ∧ s.rd pgPwr R.rung = 3) exitDoze ∧
  Does .rungExitDone (fun s => s.on pgPwr R.exiting = true ∧ s.rd pgPwr R.rung = 4) (exitRest · false) ∧
  Does .rungExitDone (fun s => s.on pgPwr R.exiting = true ∧ s.rd pgPwr R.rung = 5 ∧
    s.pw.since + usTicks (s.rd pgPwr R.railWait) ≤ s.time) (exitRest · true) ∧
  ∀ v : Int, -400 ≤ v → v ≤ 1200 →
    Brings (.tempUpdate [some v, some v, some v, some v, some v, some v, some v, some v])
      (fun s => s.time % 100000 = 0 ∧ s.pw.upd ≠ s.time + 1 ∧ s.rst.ph < 3 ∧ s.rd pgPwr R.rung ≤ 3 ∧
        s.rd pgPwr R.sensFail = 0 ∧ s.rd pgPwr R.thermLevel < 8)
      (fun s t => t.rd pgPwr R.thermLevel = (if 840 < v then 7 else if 760 < v then min 7 (s.rd pgPwr R.thermLevel + 1)
          else if 744 < v then s.rd pgPwr R.thermLevel else s.rd pgPwr R.thermLevel - 1) ∧
        t.on pgPwr R.thermHot = decide (760 < v) ∧ t.rd pgPwr R.temp 0 = unsgn 12 v ∧ t.rd pgPwr R.sensFail = 0)

/-- Resets and the boot (R530, R591, R594 to R609). -/
def Obligations.ResetsAndBoot : Prop :=
  Does .porAssert (fun _ => True) (fun s => { coldState s 1 with rst := { ph := 4 } }) ∧
  (∀ mode : Nat, Does (.por mode) (fun s => s.rst.ph = 4) (fun s => (coldState s 1).wr pgRst R.bootMode mode)) ∧
  (∀ (ini : Ini) (key : Nat),
    Writes (.cold ini key) ini pgRst 0x080 (fun _ => key % 256 = 0xA5) (fun u => coldState u 3) ∧
    Writes (.cold ini key) ini pgRst 0x080 (fun _ => key % 256 ≠ 0xA5) (fun u => u.prog pgRst) ∧
    Writes (.warm ini key) ini pgRst 0x080 (fun _ => key % 256 = 0xA5) (fun u => requestWarm u 4) ∧
    Writes (.warm ini key) ini pgRst 0x080 (fun _ => key % 256 ≠ 0xA5) (fun u => u.prog pgRst) ∧
    Writes (.recovGo ini) ini pgRst 0x09C (fun u => u.rst.recov = true)
      (fun u => { u.wr pgRst R.bootStep 3 with rst := { u.rst with recov := false } })) ∧
  Brings .rstN (fun s => s.rst.ph = 0 ∧ s.rd pgPwr R.rung < 4)
    (fun s t => t.rst.ph = 1 ∧ t.rst.cause = 2 ∧ t.rst.reqAt = s.time ∧ t.on pgRst R.starting = true ∧
      t.on pgSaf R.devOk = false ∧ t.rd pgPwr R.rung = 0 ∧ t.mem = s.mem) ∧
  Does .rstN (fun s => s.rst.ph ≠ 0) (fun s => s) ∧
  Does .warmBusRelease (fun s => s.rst.ph = 1 ∧ s.rst.reqAt + usTicks 10 ≤ s.time)
    (fun s => { s with rst := { s.rst with ph := 2 } }) ∧
  Brings .warmResetEntry (fun s => s.rst.ph = 2 ∧ s.rst.reqAt + usTicks 20 ≤ s.time)
    (fun s t => t.rst.ph = 3 ∧ t.fuses = s.fuses ∧ t.time = s.time ∧
      ∀ id, if (s.entry id).st = vAnnounced ∨ (s.entry id).st = vPending ∨ (s.entry id).st = vFinal
        then (t.entry id).st = vFallback ∧ (t.entry id).lane = 0xFF ∧ (t.entry id).dim = 0xF ∧
          bitOf (t.entry id).flags fDoubt = true ∧ (t.entry id).seq = ((s.entry id).seq + 1) % 16
        else (t.entry id).st = (s.entry id).st ∧ (t.entry id).lane = (s.entry id).lane ∧
          (t.entry id).dim = (s.entry id).dim ∧ (t.entry id).flags = (s.entry id).flags ∧
          (t.entry id).seq = (s.entry id).seq) ∧
  Brings .resetRelease (fun s => s.rst.ph = 3)
    (fun s t => t.rst = {} ∧ (∀ l, l < 4 → s.lpc l = lpSelfRefresh → t.lpc l = lpReady) ∧ t.mem = s.mem) ∧
  Does .romDone
    (fun s => s.rst.ph = 0 ∧ s.rst.booted = true ∧ s.on pgRst R.romDone = false ∧ s.on pgRst R.bootFail = false)
    (fun s => { (((s.wr pgRst R.bootStep 7).wr pgRst R.bootStatus 2).wr pgRst R.romDone 1).wr pgRst R.romTime s.time with
      isl := { s.isl with lastKick := s.time, wdOn := true, kicked := false, rotSince := false } }) ∧
  Does .startingEnd
    (fun s => s.on pgRst R.starting = true ∧ s.on pgRst R.romDone = true ∧ s.isl.kicked = true ∧ s.rst.ph = 0 ∧
      (s.isl.rotSince = true ∨ s.on pgChk R.rotEn = false) ∧
      ∀ l, l < 4 → s.lpc l ≠ lpTraining ∧ s.lpc l ≠ lpFilling)
    (fun s => clearSleep (mayBeOk ((s.wr pgRst R.starting 0).wr pgRst R.startedTime s.time))) ∧
  (∀ on : Bool, Does (.pcieRefclkPresence on) (fun _ => True) (fun s => s.wr pgClk R.pcieRefOk (b2n on))) ∧
  ∀ (flash : Cells) (found quad : Bool),
    Does (.bootRom flash found quad) (fun s => romReady s = false) (fun s => s) ∧
    Does (.bootRom flash true quad) (fun s => romReady s = true ∧ s.rd pgRst R.bootMode = 0)
      (fun s => romRun ((romInit s).wr pgRst R.bootQuad (b2n quad)) flash) ∧
    Does (.bootRom flash false quad) (fun s => romReady s = true ∧ s.rd pgRst R.bootMode = 0)
      (fun s => bootFailed (romInit s) bsNoFlash) ∧
    Does (.bootRom flash found quad) (fun s => romReady s = true ∧ s.rd pgRst R.bootMode = 3)
      (fun s => bootFailed (romInit s) bsNoDir) ∧
    Does (.bootRom flash found quad)
      (fun s => romReady s = true ∧ s.rd pgRst R.bootMode = 2 ∧ s.rd pgRst R.bootStep ≠ 3)
      (fun s => romRecover (romInit s)) ∧
    Brings (.bootRom [] true quad) (fun s => romReady s = true ∧ s.rd pgRst R.bootMode = 0)
      (fun _ t => t.on pgRst R.bootFail = true ∧ t.rd pgRst R.bootStatus = bsNoDir)
end

