-- ==== Sys2Proof/Laws/Store.lean ====
section
/-! SUPPORT. Sparse data: what a read finds after a write, and that writes keep the keys rising. -/
namespace Sys2Proof.Machine

variable {α : Type}

theorem sfind_sput_same (l : List (Nat × α)) (k : Nat) (v : α) : sfind (sput l k v) k = some v := by
  induction l with
  | nil => simp [sput, sfind]
  | cons x t ih =>
    obtain ⟨a, w⟩ := x
    by_cases h : k = a
    · simp [sput, sfind, h]
    · by_cases h2 : k < a
      · simp [sput, sfind, h, h2]
      · simp [sput, sfind, h, h2, Ne.symm h, ih]

theorem sfind_sput_ne (l : List (Nat × α)) {k j : Nat} (v : α) (h : j ≠ k) : sfind (sput l k v) j = sfind l j := by
  induction l with
  | nil => simp [sput, sfind, Ne.symm h]
  | cons x t ih =>
    obtain ⟨a, w⟩ := x
    by_cases h1 : k = a
    · subst h1; simp [sput, sfind, Ne.symm h]
    · by_cases h2 : k < a
      · simp [sput, sfind, h1, h2, Ne.symm h]
      · simp only [sput, h1, h2, if_false, sfind, ih]

theorem sfind_serase_same (l : List (Nat × α)) (k : Nat) : sfind (serase l k) k = none := by
  induction l with
  | nil => simp [serase, sfind]
  | cons x t ih =>
    obtain ⟨a, w⟩ := x
    by_cases h : a = k <;> simp [serase, sfind, h, ih]

theorem sfind_serase_ne (l : List (Nat × α)) {k j : Nat} (h : j ≠ k) : sfind (serase l k) j = sfind l j := by
  induction l with
  | nil => simp [serase]
  | cons x t ih =>
    obtain ⟨a, w⟩ := x
    by_cases h1 : a = k
    · subst h1; simp [serase, sfind, Ne.symm h, ih]
    · simp only [serase, h1, if_false, sfind, ih]

/-- A read after a write to the same key gives the value written. -/
@[simp] theorem sget_sset_same [DecidableEq α] (d : α) (l : List (Nat × α)) (k : Nat) (v : α) :
    sget d (sset d l k v) k = v := by
  unfold sset
  split
  · next h => simp [sget, sfind_serase_same, h]
  · simp [sget, sfind_sput_same]

/-- A write leaves every other key alone. -/
theorem sfind_sset_ne [DecidableEq α] (d : α) (l : List (Nat × α)) {k j : Nat} (v : α) (h : j ≠ k) :
    sfind (sset d l k v) j = sfind l j := by
  unfold sset
  split
  · exact sfind_serase_ne l h
  · exact sfind_sput_ne l v h

theorem sget_sset_ne [DecidableEq α] (d e : α) (l : List (Nat × α)) {k j : Nat} (v : α) (h : j ≠ k) :
    sget e (sset d l k v) j = sget e l j := by
  simp [sget, sfind_sset_ne d l v h]

/-! ### Rising keys -/

/-- Every key of the list is at least k. -/
def keysFrom (k : Nat) (l : List (Nat × α)) : Prop := ∀ x ∈ l, k ≤ x.1

theorem srising_cons (a : Nat) (w : α) (t : List (Nat × α)) :
    srising ((a, w) :: t) = true ↔ keysFrom (a + 1) t ∧ srising t = true := by
  induction t generalizing a w with
  | nil => simp [srising, keysFrom]
  | cons x t ih =>
    obtain ⟨b, v⟩ := x
    constructor
    · intro h
      simp only [srising, Bool.and_eq_true, decide_eq_true_eq] at h
      refine ⟨?_, h.2⟩
      intro y hy
      rcases List.mem_cons.1 hy with rfl | hy
      · exact h.1
      · have := ((ih b v).1 h.2).1 y hy
        omega
    · intro h
      have hb : a + 1 ≤ b := h.1 (b, v) (by simp)
      simp only [srising, Bool.and_eq_true, decide_eq_true_eq]
      exact ⟨hb, h.2⟩

theorem mem_sput {l : List (Nat × α)} {k : Nat} {v : α} {x : Nat × α} (h : x ∈ sput l k v) : x = (k, v) ∨ x ∈ l := by
  induction l with
  | nil => simpa [sput] using h
  | cons y t ih =>
    obtain ⟨a, w⟩ := y
    unfold sput at h
    split at h
    · rcases List.mem_cons.1 h with rfl | h
      · exact .inl rfl
      · exact .inr (by simp [h])
    · split at h
      · rcases List.mem_cons.1 h with rfl | h
        · exact .inl rfl
        · exact .inr h
      · rcases List.mem_cons.1 h with rfl | h
        · exact .inr (by simp)
        · rcases ih h with h | h
          · exact .inl h
          · exact .inr (by simp [h])

theorem mem_serase {l : List (Nat × α)} {k : Nat} {x : Nat × α} (h : x ∈ serase l k) : x ∈ l := by
  induction l with
  | nil => simp [serase] at h
  | cons y t ih =>
    obtain ⟨a, w⟩ := y
    unfold serase at h
    split at h
    · exact List.mem_cons_of_mem _ (ih h)
    · rcases List.mem_cons.1 h with rfl | h
      · simp
      · exact List.mem_cons_of_mem _ (ih h)

theorem srising_sput {l : List (Nat × α)} (k : Nat) (v : α) (h : srising l = true) : srising (sput l k v) = true := by
  induction l with
  | nil => simp [sput, srising]
  | cons y t ih =>
    obtain ⟨a, w⟩ := y
    obtain ⟨h1, h2⟩ := (srising_cons a w t).1 h
    unfold sput
    split
    · next e => subst e; exact (srising_cons _ _ _).2 ⟨h1, h2⟩
    · next ne =>
      split
      · next lt =>
        refine (srising_cons _ _ _).2 ⟨?_, h⟩
        intro x hx
        rcases List.mem_cons.1 hx with rfl | hx
        · exact lt
        · have := h1 x hx; omega
      · next ge =>
        refine (srising_cons _ _ _).2 ⟨?_, ih h2⟩
        intro x hx
        rcases mem_sput hx with rfl | hx
        · show a + 1 ≤ k; omega
        · exact h1 x hx

theorem srising_serase {l : List (Nat × α)} (k : Nat) (h : srising l = true) : srising (serase l k) = true := by
  induction l with
  | nil => simpa [serase] using h
  | cons y t ih =>
    obtain ⟨a, w⟩ := y
    obtain ⟨h1, h2⟩ := (srising_cons a w t).1 h
    unfold serase
    split
    · exact ih h2
    · exact (srising_cons _ _ _).2 ⟨fun x hx => h1 x (mem_serase hx), ih h2⟩

theorem srising_sset [DecidableEq α] (d : α) {l : List (Nat × α)} (k : Nat) (v : α) (h : srising l = true) :
    srising (sset d l k v) = true := by
  unfold sset
  split
  · exact srising_serase k h
  · exact srising_sput k v h

theorem srising_filter {l : List (Nat × α)} (q : Nat × α → Bool) (h : srising l = true) : srising (l.filter q) = true := by
  induction l with
  | nil => exact h
  | cons y t ih =>
    obtain ⟨a, w⟩ := y
    obtain ⟨h1, h2⟩ := (srising_cons a w t).1 h
    by_cases hq : q (a, w)
    · simp only [List.filter_cons, hq, if_true]
      exact (srising_cons _ _ _).2 ⟨fun x hx => h1 x (List.mem_filter.1 hx).1, ih h2⟩
    · simp only [List.filter_cons, hq, if_false, Bool.false_eq_true]
      exact ih h2

/-- No entry of a written list holds the default, if none did before. -/
theorem all_ne_sset [DecidableEq α] (d : α) {l : List (Nat × α)} (k : Nat) (v : α) (h : ∀ x ∈ l, x.2 ≠ d) :
    ∀ x ∈ sset d l k v, x.2 ≠ d := by
  unfold sset
  split
  · exact fun x hx => h x (mem_serase hx)
  · next ne =>
    intro x hx
    rcases mem_sput hx with rfl | hx
    · exact ne
    · exact h x hx

end Sys2Proof.Machine
end

