-- ==== Sys2Proof/Laws/State.lean ====
section
/-! SUPPORT. Register and memory updates field by field: what a register write and a store leave alone, and what they make
of registers and bytes. -/
namespace Sys2Proof.Machine
open Sys2Proof

section
variable (s : State) (p : Nat) (f : Fld) (v i a : Nat) (bs : List Byte)

@[simp] theorem State.wr_pending : (s.wr p f v i).pending = s.pending := rfl
@[simp] theorem State.wr_time : (s.wr p f v i).time = s.time := rfl
@[simp] theorem State.wr_mem : (s.wr p f v i).mem = s.mem := rfl
@[simp] theorem State.wr_freeCtr : (s.wr p f v i).freeCtr = s.freeCtr := rfl
@[simp] theorem State.wr_snaps : (s.wr p f v i).snaps = s.snaps := rfl
@[simp] theorem State.wr_holds : (s.wr p f v i).holds = s.holds := rfl
@[simp] theorem State.wr_logQ : (s.wr p f v i).logQ = s.logQ := rfl
@[simp] theorem State.wr_logSeq : (s.wr p f v i).logSeq = s.logSeq := rfl
@[simp] theorem State.wr_lostRecs : (s.wr p f v i).lostRecs = s.lostRecs := rfl
@[simp] theorem State.wr_doubtQ : (s.wr p f v i).doubtQ = s.doubtQ := rfl
@[simp] theorem State.wr_conts : (s.wr p f v i).conts = s.conts := rfl
@[simp] theorem State.wr_notice : (s.wr p f v i).notice = s.notice := rfl
@[simp] theorem State.wr_denials : (s.wr p f v i).denials = s.denials := rfl
@[simp] theorem State.wr_reports : (s.wr p f v i).reports = s.reports := rfl
@[simp] theorem State.wr_sems : (s.wr p f v i).sems = s.sems := rfl
@[simp] theorem State.wr_semOwner : (s.wr p f v i).semOwner = s.semOwner := rfl
@[simp] theorem State.wr_fns : (s.wr p f v i).fns = s.fns := rfl
@[simp] theorem State.wr_outs : (s.wr p f v i).outs = s.outs := rfl
@[simp] theorem State.wr_reply : (s.wr p f v i).reply = s.reply := rfl
@[simp] theorem State.wr_vt : (s.wr p f v i).vt = s.vt := rfl
@[simp] theorem State.wr_parcels : (s.wr p f v i).parcels = s.parcels := rfl
@[simp] theorem State.wr_txns : (s.wr p f v i).txns = s.txns := rfl
@[simp] theorem State.wr_dedups : (s.wr p f v i).dedups = s.dedups := rfl
@[simp] theorem State.wr_seqs : (s.wr p f v i).seqs = s.seqs := rfl
@[simp] theorem State.wr_eccBad : (s.wr p f v i).eccBad = s.eccBad := rfl
@[simp] theorem State.wr_poisoned : (s.wr p f v i).poisoned = s.poisoned := rfl
@[simp] theorem State.wr_injections : (s.wr p f v i).injections = s.injections := rfl
@[simp] theorem State.wr_faultTime : (s.wr p f v i).faultTime = s.faultTime := rfl
@[simp] theorem State.wr_fbCauseTime : (s.wr p f v i).fbCauseTime = s.fbCauseTime := rfl
@[simp] theorem State.wr_fbSleep : (s.wr p f v i).fbSleep = s.fbSleep := rfl
@[simp] theorem State.wr_fbAllRaised : (s.wr p f v i).fbAllRaised = s.fbAllRaised := rfl
@[simp] theorem State.wr_confE : (s.wr p f v i).confE = s.confE := rfl
@[simp] theorem State.wr_encHist : (s.wr p f v i).encHist = s.encHist := rfl
@[simp] theorem State.wr_jobs : (s.wr p f v i).jobs = s.jobs := rfl
@[simp] theorem State.wr_toRuns : (s.wr p f v i).toRuns = s.toRuns := rfl
@[simp] theorem State.wr_intakes : (s.wr p f v i).intakes = s.intakes := rfl
@[simp] theorem State.wr_graphs : (s.wr p f v i).graphs = s.graphs := rfl
@[simp] theorem State.wr_cores : (s.wr p f v i).cores = s.cores := rfl
@[simp] theorem State.wr_tcm : (s.wr p f v i).tcm = s.tcm := rfl
@[simp] theorem State.wr_tcmBad : (s.wr p f v i).tcmBad = s.tcmBad := rfl
@[simp] theorem State.wr_ispCtxs : (s.wr p f v i).ispCtxs = s.ispCtxs := rfl
@[simp] theorem State.wr_ispRuns : (s.wr p f v i).ispRuns = s.ispRuns := rfl
@[simp] theorem State.wr_tones : (s.wr p f v i).tones = s.tones := rfl
@[simp] theorem State.wr_jobSeq : (s.wr p f v i).jobSeq = s.jobSeq := rfl
@[simp] theorem State.wr_served : (s.wr p f v i).served = s.served := rfl
@[simp] theorem State.wr_current : (s.wr p f v i).current = s.current := rfl
@[simp] theorem State.wr_lbs : (s.wr p f v i).lbs = s.lbs := rfl
@[simp] theorem State.wr_elig : (s.wr p f v i).elig = s.elig := rfl
@[simp] theorem State.wr_mons : (s.wr p f v i).mons = s.mons := rfl
@[simp] theorem State.wr_planes : (s.wr p f v i).planes = s.planes := rfl
@[simp] theorem State.wr_pushes : (s.wr p f v i).pushes = s.pushes := rfl
@[simp] theorem State.wr_transits : (s.wr p f v i).transits = s.transits := rfl
@[simp] theorem State.wr_chans : (s.wr p f v i).chans = s.chans := rfl
@[simp] theorem State.wr_smvServed : (s.wr p f v i).smvServed = s.smvServed := rfl
@[simp] theorem State.wr_pqs : (s.wr p f v i).pqs = s.pqs := rfl
@[simp] theorem State.wr_prgs : (s.wr p f v i).prgs = s.prgs := rfl
@[simp] theorem State.wr_invals : (s.wr p f v i).invals = s.invals := rfl
@[simp] theorem State.wr_semIfs : (s.wr p f v i).semIfs = s.semIfs := rfl
@[simp] theorem State.wr_wds : (s.wr p f v i).wds = s.wds := rfl
@[simp] theorem State.wr_qps : (s.wr p f v i).qps = s.qps := rfl
@[simp] theorem State.wr_rereads : (s.wr p f v i).rereads = s.rereads := rfl
@[simp] theorem State.wr_tears : (s.wr p f v i).tears = s.tears := rfl
@[simp] theorem State.wr_linkInc : (s.wr p f v i).linkInc = s.linkInc := rfl
@[simp] theorem State.wr_pins : (s.wr p f v i).pins = s.pins := rfl
@[simp] theorem State.wr_encPos : (s.wr p f v i).encPos = s.encPos := rfl
@[simp] theorem State.wr_tgs : (s.wr p f v i).tgs = s.tgs := rfl
@[simp] theorem State.wr_pwms : (s.wr p f v i).pwms = s.pwms := rfl
@[simp] theorem State.wr_uarts : (s.wr p f v i).uarts = s.uarts := rfl
@[simp] theorem State.wr_i3cs : (s.wr p f v i).i3cs = s.i3cs := rfl
@[simp] theorem State.wr_vpLast : (s.wr p f v i).vpLast = s.vpLast := rfl
@[simp] theorem State.wr_disp : (s.wr p f v i).disp = s.disp := rfl
@[simp] theorem State.wr_dp : (s.wr p f v i).dp = s.dp := rfl
@[simp] theorem State.wr_fawnEnds : (s.wr p f v i).fawnEnds = s.fawnEnds := rfl
@[simp] theorem State.wr_isl : (s.wr p f v i).isl = s.isl := rfl
@[simp] theorem State.wr_fawnRun : (s.wr p f v i).fawnRun = s.fawnRun := rfl
@[simp] theorem State.wr_unfence : (s.wr p f v i).unfence = s.unfence := rfl
@[simp] theorem State.wr_attests : (s.wr p f v i).attests = s.attests := rfl
@[simp] theorem State.wr_load : (s.wr p f v i).load = s.load := rfl
@[simp] theorem State.wr_fuses : (s.wr p f v i).fuses = s.fuses := rfl
@[simp] theorem State.wr_rotpk : (s.wr p f v i).rotpk = s.rotpk := rfl
@[simp] theorem State.wr_blowTo : (s.wr p f v i).blowTo = s.blowTo := rfl
@[simp] theorem State.wr_tap : (s.wr p f v i).tap = s.tap := rfl
@[simp] theorem State.wr_trace : (s.wr p f v i).trace = s.trace := rfl
@[simp] theorem State.wr_pw : (s.wr p f v i).pw = s.pw := rfl
@[simp] theorem State.wr_rst : (s.wr p f v i).rst = s.rst := rfl
@[simp] theorem State.wr_fencedReset : (s.wr p f v i).fencedReset = s.fencedReset := rfl
@[simp] theorem State.wr_filled : (s.wr p f v i).filled = s.filled := rfl
@[simp] theorem State.store_pending : (s.store a bs).pending = s.pending := rfl
@[simp] theorem State.store_time : (s.store a bs).time = s.time := rfl
@[simp] theorem State.store_regs : (s.store a bs).regs = s.regs := rfl
@[simp] theorem State.store_freeCtr : (s.store a bs).freeCtr = s.freeCtr := rfl
@[simp] theorem State.store_snaps : (s.store a bs).snaps = s.snaps := rfl
@[simp] theorem State.store_holds : (s.store a bs).holds = s.holds := rfl
@[simp] theorem State.store_logQ : (s.store a bs).logQ = s.logQ := rfl
@[simp] theorem State.store_logSeq : (s.store a bs).logSeq = s.logSeq := rfl
@[simp] theorem State.store_lostRecs : (s.store a bs).lostRecs = s.lostRecs := rfl
@[simp] theorem State.store_doubtQ : (s.store a bs).doubtQ = s.doubtQ := rfl
@[simp] theorem State.store_conts : (s.store a bs).conts = s.conts := rfl
@[simp] theorem State.store_notice : (s.store a bs).notice = s.notice := rfl
@[simp] theorem State.store_denials : (s.store a bs).denials = s.denials := rfl
@[simp] theorem State.store_reports : (s.store a bs).reports = s.reports := rfl
@[simp] theorem State.store_sems : (s.store a bs).sems = s.sems := rfl
@[simp] theorem State.store_semOwner : (s.store a bs).semOwner = s.semOwner := rfl
@[simp] theorem State.store_fns : (s.store a bs).fns = s.fns := rfl
@[simp] theorem State.store_outs : (s.store a bs).outs = s.outs := rfl
@[simp] theorem State.store_reply : (s.store a bs).reply = s.reply := rfl
@[simp] theorem State.store_vt : (s.store a bs).vt = s.vt := rfl
@[simp] theorem State.store_parcels : (s.store a bs).parcels = s.parcels := rfl
@[simp] theorem State.store_txns : (s.store a bs).txns = s.txns := rfl
@[simp] theorem State.store_dedups : (s.store a bs).dedups = s.dedups := rfl
@[simp] theorem State.store_seqs : (s.store a bs).seqs = s.seqs := rfl
@[simp] theorem State.store_eccBad : (s.store a bs).eccBad = s.eccBad := rfl
@[simp] theorem State.store_poisoned : (s.store a bs).poisoned = s.poisoned := rfl
@[simp] theorem State.store_injections : (s.store a bs).injections = s.injections := rfl
@[simp] theorem State.store_faultTime : (s.store a bs).faultTime = s.faultTime := rfl
@[simp] theorem State.store_fbCauseTime : (s.store a bs).fbCauseTime = s.fbCauseTime := rfl
@[simp] theorem State.store_fbSleep : (s.store a bs).fbSleep = s.fbSleep := rfl
@[simp] theorem State.store_fbAllRaised : (s.store a bs).fbAllRaised = s.fbAllRaised := rfl
@[simp] theorem State.store_confE : (s.store a bs).confE = s.confE := rfl
@[simp] theorem State.store_encHist : (s.store a bs).encHist = s.encHist := rfl
@[simp] theorem State.store_jobs : (s.store a bs).jobs = s.jobs := rfl
@[simp] theorem State.store_toRuns : (s.store a bs).toRuns = s.toRuns := rfl
@[simp] theorem State.store_intakes : (s.store a bs).intakes = s.intakes := rfl
@[simp] theorem State.store_graphs : (s.store a bs).graphs = s.graphs := rfl
@[simp] theorem State.store_cores : (s.store a bs).cores = s.cores := rfl
@[simp] theorem State.store_tcm : (s.store a bs).tcm = s.tcm := rfl
@[simp] theorem State.store_tcmBad : (s.store a bs).tcmBad = s.tcmBad := rfl
@[simp] theorem State.store_ispCtxs : (s.store a bs).ispCtxs = s.ispCtxs := rfl
@[simp] theorem State.store_ispRuns : (s.store a bs).ispRuns = s.ispRuns := rfl
@[simp] theorem State.store_tones : (s.store a bs).tones = s.tones := rfl
@[simp] theorem State.store_jobSeq : (s.store a bs).jobSeq = s.jobSeq := rfl
@[simp] theorem State.store_served : (s.store a bs).served = s.served := rfl
@[simp] theorem State.store_current : (s.store a bs).current = s.current := rfl
@[simp] theorem State.store_lbs : (s.store a bs).lbs = s.lbs := rfl
@[simp] theorem State.store_elig : (s.store a bs).elig = s.elig := rfl
@[simp] theorem State.store_mons : (s.store a bs).mons = s.mons := rfl
@[simp] theorem State.store_planes : (s.store a bs).planes = s.planes := rfl
@[simp] theorem State.store_pushes : (s.store a bs).pushes = s.pushes := rfl
@[simp] theorem State.store_transits : (s.store a bs).transits = s.transits := rfl
@[simp] theorem State.store_chans : (s.store a bs).chans = s.chans := rfl
@[simp] theorem State.store_smvServed : (s.store a bs).smvServed = s.smvServed := rfl
@[simp] theorem State.store_pqs : (s.store a bs).pqs = s.pqs := rfl
@[simp] theorem State.store_prgs : (s.store a bs).prgs = s.prgs := rfl
@[simp] theorem State.store_invals : (s.store a bs).invals = s.invals := rfl
@[simp] theorem State.store_semIfs : (s.store a bs).semIfs = s.semIfs := rfl
@[simp] theorem State.store_wds : (s.store a bs).wds = s.wds := rfl
@[simp] theorem State.store_qps : (s.store a bs).qps = s.qps := rfl
@[simp] theorem State.store_rereads : (s.store a bs).rereads = s.rereads := rfl
@[simp] theorem State.store_tears : (s.store a bs).tears = s.tears := rfl
@[simp] theorem State.store_linkInc : (s.store a bs).linkInc = s.linkInc := rfl
@[simp] theorem State.store_pins : (s.store a bs).pins = s.pins := rfl
@[simp] theorem State.store_encPos : (s.store a bs).encPos = s.encPos := rfl
@[simp] theorem State.store_tgs : (s.store a bs).tgs = s.tgs := rfl
@[simp] theorem State.store_pwms : (s.store a bs).pwms = s.pwms := rfl
@[simp] theorem State.store_uarts : (s.store a bs).uarts = s.uarts := rfl
@[simp] theorem State.store_i3cs : (s.store a bs).i3cs = s.i3cs := rfl
@[simp] theorem State.store_vpLast : (s.store a bs).vpLast = s.vpLast := rfl
@[simp] theorem State.store_disp : (s.store a bs).disp = s.disp := rfl
@[simp] theorem State.store_dp : (s.store a bs).dp = s.dp := rfl
@[simp] theorem State.store_fawnEnds : (s.store a bs).fawnEnds = s.fawnEnds := rfl
@[simp] theorem State.store_isl : (s.store a bs).isl = s.isl := rfl
@[simp] theorem State.store_fawnRun : (s.store a bs).fawnRun = s.fawnRun := rfl
@[simp] theorem State.store_unfence : (s.store a bs).unfence = s.unfence := rfl
@[simp] theorem State.store_attests : (s.store a bs).attests = s.attests := rfl
@[simp] theorem State.store_load : (s.store a bs).load = s.load := rfl
@[simp] theorem State.store_fuses : (s.store a bs).fuses = s.fuses := rfl
@[simp] theorem State.store_rotpk : (s.store a bs).rotpk = s.rotpk := rfl
@[simp] theorem State.store_blowTo : (s.store a bs).blowTo = s.blowTo := rfl
@[simp] theorem State.store_tap : (s.store a bs).tap = s.tap := rfl
@[simp] theorem State.store_trace : (s.store a bs).trace = s.trace := rfl
@[simp] theorem State.store_pw : (s.store a bs).pw = s.pw := rfl
@[simp] theorem State.store_rst : (s.store a bs).rst = s.rst := rfl
@[simp] theorem State.store_fencedReset : (s.store a bs).fencedReset = s.fencedReset := rfl
@[simp] theorem State.store_filled : (s.store a bs).filled = s.filled := rfl

/-- A register write changes the cells of the register file only. -/
theorem State.wr_only : s.wr p f v i = { s with regs := (s.wr p f v i).regs } := rfl

/-- A store changes bytes of memory only. -/
theorem State.store_only : s.store a bs = { s with mem := (s.store a bs).mem } := rfl

/-- A field reads what was written, narrowed to its width. -/
@[simp] theorem State.rd_wr_same : (s.wr p f v i).rd p f i = v % 2 ^ f.w := by
  simp [State.rd, State.wr]

/-- A field reads as before when another cell is written. -/
theorem State.rd_wr_ne {q j : Nat} {g : Fld} (h : cellKey q g j ≠ cellKey p f i) : (s.wr p f v i).rd q g j = s.rd q g j := by
  simp [State.rd, State.wr, sget_sset_ne _ _ _ _ h]

/-- A write of one cell leaves every other cell alone. -/
theorem State.wr_cell {k : Nat} (h : k ≠ cellKey p f i) : sfind (s.wr p f v i).regs k = sfind s.regs k :=
  sfind_sset_ne _ _ _ h

/-- Two fields of a page with different positions have different cells. -/
theorem cellKey_ne_pos {f g : Fld} {i j : Nat} (h : fldPos f i ≠ fldPos g j) : cellKey p f i ≠ cellKey p g j := by
  unfold cellKey; omega

/-- Cells of different pages differ while positions lie within a page. -/
theorem cellKey_ne_page {p q : Nat} {f g : Fld} {i j : Nat} (h : p ≠ q) (hf : fldPos f i < 1048576)
    (hg : fldPos g j < 1048576) : cellKey p f i ≠ cellKey q g j := by
  unfold cellKey; omega

/-! ### Memory -/

theorem memPuts_out (m : List Host.Cell) {a x : Nat} (bs : List Byte) (h : x < a ∨ a + bs.length ≤ x) :
    sget memDefault (memPuts m a bs) x = sget memDefault m x := by
  induction bs generalizing m a with
  | nil => rfl
  | cons b t ih =>
    simp only [memPuts, List.length_cons] at *
    rw [ih (memPut m a b) (by omega), memPut, sget_sset_ne _ _ _ _ (by omega)]

theorem memPuts_in (m : List Host.Cell) {a x : Nat} (bs : List Byte) (h : a ≤ x ∧ x < a + bs.length) :
    sget memDefault (memPuts m a bs) x = (bs[x - a]?).getD memDefault := by
  induction bs generalizing m a with
  | nil => simp at h; omega
  | cons b t ih =>
    simp only [memPuts, List.length_cons] at *
    by_cases hx : x = a
    · subst hx
      rw [memPuts_out _ _ (by omega)]
      simp [memPut]
    · rw [ih (memPut m a b) (by omega)]
      have : x - a = (x - (a + 1)) + 1 := by omega
      rw [this]; simp

/-- A byte outside a store reads as before. -/
theorem State.byte_store_out {x : Nat} (h : x < a ∨ a + bs.length ≤ x) : (s.store a bs).byte x = s.byte x :=
  memPuts_out s.mem bs h

/-- A byte within a store reads what was stored. -/
theorem State.byte_store_in {x : Nat} (h : a ≤ x ∧ x < a + bs.length) : (s.store a bs).byte x = (bs[x - a]?).getD memDefault :=
  memPuts_in s.mem bs h

end

theorem memWf_iff (m : List Host.Cell) : memWf m = true ↔ srising m = true ∧ ∀ c ∈ m, c.2 ≠ memDefault := by
  simp [memWf]

/-- Writing a byte keeps the canonical form. -/
theorem memWf_put {m : List Host.Cell} (a : Nat) (b : Byte) (h : memWf m = true) : memWf (memPut m a b) = true := by
  obtain ⟨h1, h2⟩ := (memWf_iff m).1 h
  exact (memWf_iff _).2 ⟨srising_sset _ _ _ h1, all_ne_sset _ _ _ h2⟩

/-- Storing bytes keeps the canonical form. -/
theorem memWf_puts {m : List Host.Cell} (a : Nat) (bs : List Byte) (h : memWf m = true) : memWf (memPuts m a bs) = true := by
  induction bs generalizing m a with
  | nil => exact h
  | cons b t ih => exact ih (a + 1) (memWf_put a b h)

/-- Dropping bytes keeps the canonical form. -/
theorem memWf_filter {m : List Host.Cell} (q : Host.Cell → Bool) (h : memWf m = true) : memWf (m.filter q) = true := by
  obtain ⟨h1, h2⟩ := (memWf_iff m).1 h
  exact (memWf_iff _).2 ⟨srising_filter q h1, fun c hc => h2 c (List.mem_filter.1 hc).1⟩

/-- The empty memory is canonical. -/
theorem memWf_nil : memWf [] = true := rfl

end Sys2Proof.Machine
end

