-- ==== Sys2Proof/Laws/Access.lean ====
section
/-! SUPPORT. The frames of register reads and writes: what they answer when the access reaches its page, and when it does
not (R47 to R49, R53, R639). -/
namespace Sys2Proof.Machine
open Sys2Proof

variable {s : State} {ini : Ini} {p off : Nat}

/-- A register write that reaches its page has its own effect on what it finds. -/
theorem regRow_reached (h : Reached s ini p off) (k : State → State) : regRow s ini p off k = k (admitted s ini) := by
  obtain ⟨h1, h2, h3⟩ := h
  simp [regRow, h1, h2, h3, admitted]

/-- Without the bus the access is an unsupported request. -/
theorem regRow_noBus (h : busOk s ini = false) (k : State → State) : regRow s ini p off k = { s with reply := ⟨0, 2⟩ } := by
  simp [regRow, h]

/-- A write to an absent page does nothing. -/
theorem regRow_absent (h1 : busOk s ini = true) (h2 : pageKind p = none) (k : State → State) :
    regRow s ini p off k = { hostWake s ini with reply := ⟨0, 0⟩ } := by
  simp [regRow, h1, h2]

/-- A write that R47 refuses is logged and has no other effect. -/
theorem regRow_denied (h1 : busOk s ini = true) (h2 : pageKind p ≠ none) (h3 : mayWrite (hostWake s ini) ini p off = false)
    (k : State → State) : regRow s ini p off k = denyPage (hostWake s ini) ini p off opWrite := by
  simp [regRow, h1, h2, h3]

/-- A write that only partition 0 may make. -/
theorem regRow0_reached (h : Reached s ini p off) (k : State → State) :
    regRow0 s ini p off k = if p0Ok (admitted s ini) ini then k (admitted s ini) else (admitted s ini).prog p := by
  rw [regRow0, regRow_reached h]

/-- A read that pops and reaches its page. -/
theorem popRow_readable (h : Readable s ini p) (k : State → Nat × State) :
    popRow s ini p off k = { (k (popAdmit s ini)).2 with reply := ⟨(k (popAdmit s ini)).1, 0⟩ } := by
  obtain ⟨h1, h2, h3⟩ := h
  simp [popRow, readRow, h1, h2, h3, popAdmit]

end Sys2Proof.Machine
end

