-- ==== Sys2Proof/Laws/Ops.lean ====
section
/-! SUPPORT. What the shared operations of Ops.lean leave alone, said once each: registers, flags, counters, log records,
notices, messages, events and semaphore posts touch neither memory, verdicts, jobs, graphs, fuses nor the queue. -/
namespace Sys2Proof.Machine
open Sys2Proof

-- One theorem after the other: in the package as one text, hundreds at once would take a thread and its stack each.
set_option Elab.async false

/-- What every step must keep of the state it starts from: the waiting commands, the canonical form, blown fuses and a
programmed root key hash. -/
structure Keeps (s t : State) : Prop where
  pending : t.pending = s.pending
  canonical : Canonical s → Canonical t
  fuses : ∀ n, bitOf s.fuses n = true → bitOf t.fuses n = true
  rotpk : s.rotpk ≠ 0 → t.rotpk = s.rotpk

theorem Keeps.refl (s : State) : Keeps s s := ⟨rfl, id, fun _ => id, fun _ => rfl⟩

theorem Keeps.trans {s t u : State} (h : Keeps s t) (k : Keeps t u) : Keeps s u :=
  ⟨k.pending.trans h.pending, fun c => k.canonical (h.canonical c), fun n b => k.fuses n (h.fuses n b), fun r => by
    have := h.rotpk r
    exact (k.rotpk (this ▸ r)).trans this⟩

/-- A step that leaves the kept fields as they are keeps them. -/
theorem Keeps.same {s t : State} (hp : t.pending = s.pending := by rfl) (hm : t.mem = s.mem := by rfl)
    (ht : t.tcm = s.tcm := by rfl) (hr : t.regs = s.regs := by rfl) (hf : t.fuses = s.fuses := by rfl)
    (hk : t.rotpk = s.rotpk := by rfl) : Keeps s t :=
  ⟨hp, fun c => by unfold Canonical at *; rw [hm, ht, hr]; exact c, fun n b => by rw [hf]; exact b, fun _ => hk⟩

theorem Keeps.store (s : State) (a : Nat) (bs : List Byte) : Keeps s (s.store a bs) :=
  ⟨rfl, fun c => ⟨memWf_puts a bs c.1, c.2.1, c.2.2⟩, fun _ => id, fun _ => rfl⟩

/-- Keeping is kept by a fold. -/
theorem Keeps.foldl {α : Type} (f : State → α → State) (h : ∀ s a, Keeps s (f s a)) (l : List α) (s : State) :
    Keeps s (l.foldl f s) := by
  induction l generalizing s with
  | nil => exact .refl s
  | cons a t ih => exact (h s a).trans (ih _)

/-- The operation changes neither the queue, the clock, memory, tightly coupled memory, verdicts, jobs, graphs, fuses nor the
root key hash, and keeps the register cells rising. -/
structure Quiet (s t : State) : Prop where
  pending : t.pending = s.pending
  time : t.time = s.time
  mem : t.mem = s.mem
  tcm : t.tcm = s.tcm
  vt : t.vt = s.vt
  jobs : t.jobs = s.jobs
  graphs : t.graphs = s.graphs
  fuses : t.fuses = s.fuses
  rotpk : t.rotpk = s.rotpk
  regs : srising s.regs = true → srising t.regs = true

theorem Quiet.refl (s : State) : Quiet s s := ⟨rfl, rfl, rfl, rfl, rfl, rfl, rfl, rfl, rfl, id⟩

theorem Quiet.trans {s t u : State} (h : Quiet s t) (k : Quiet t u) : Quiet s u :=
  ⟨k.pending.trans h.pending, k.time.trans h.time, k.mem.trans h.mem, k.tcm.trans h.tcm, k.vt.trans h.vt,
    k.jobs.trans h.jobs, k.graphs.trans h.graphs, k.fuses.trans h.fuses, k.rotpk.trans h.rotpk, fun r => k.regs (h.regs r)⟩

/-- A quiet operation keeps what every step must keep. -/
theorem Quiet.keeps {s t : State} (h : Quiet s t) : Keeps s t :=
  ⟨h.pending, fun c => ⟨h.mem ▸ c.1, h.tcm ▸ c.2.1, h.regs c.2.2⟩, fun n b => by rw [h.fuses]; exact b, fun _ => h.rotpk⟩

/-- A quiet operation leaves every byte of memory. -/
theorem Quiet.memSame {s t : State} (h : Quiet s t) : MemSame s t := fun x => by rw [State.byte, State.byte, h.mem]

/-- An update of other fields is quiet. -/
theorem Quiet.same {s t : State} (h1 : t.pending = s.pending := by rfl) (h2 : t.time = s.time := by rfl)
    (h3 : t.mem = s.mem := by rfl) (h4 : t.tcm = s.tcm := by rfl) (h5 : t.vt = s.vt := by rfl)
    (h6 : t.jobs = s.jobs := by rfl) (h7 : t.graphs = s.graphs := by rfl) (h8 : t.fuses = s.fuses := by rfl)
    (h9 : t.rotpk = s.rotpk := by rfl) (h10 : t.regs = s.regs := by rfl) : Quiet s t :=
  ⟨h1, h2, h3, h4, h5, h6, h7, h8, h9, fun r => by rw [h10]; exact r⟩

theorem Quiet.foldl {α : Type} (f : State → α → State) (h : ∀ s a, Quiet s (f s a)) (l : List α) (s : State) :
    Quiet s (l.foldl f s) := by
  induction l generalizing s with
  | nil => exact .refl s
  | cons a t ih => exact (h s a).trans (ih _)

theorem Quiet.ite {c : Prop} [Decidable c] {s t u : State} (h : c → Quiet s t) (k : ¬c → Quiet s u) :
    Quiet s (if c then t else u) := by
  split
  · exact h ‹_›
  · exact k ‹_›

theorem quiet_wr (s : State) (p : Nat) (f : Fld) (v i : Nat) : Quiet s (s.wr p f v i) :=
  ⟨rfl, rfl, rfl, rfl, rfl, rfl, rfl, rfl, rfl, fun r => srising_sset _ _ _ r⟩

theorem quiet_bump (s : State) (p : Nat) (f : Fld) (n i : Nat) : Quiet s (s.bump p f n i) := quiet_wr ..

theorem quiet_wrBit (s : State) (p : Nat) (f : Fld) (b : Nat) (v : Bool) (i : Nat) : Quiet s (s.wrBit p f b v i) :=
  quiet_wr ..

theorem quiet_perfAdd (s : State) (p k n : Nat) : Quiet s (perfAdd s p k n) := by
  unfold perfAdd
  exact .ite (fun _ => quiet_wr ..) (fun _ => (quiet_wr ..).trans (quiet_wrBit ..))

theorem quiet_perf (s : State) (p code n : Nat) : Quiet s (s.perf p code n) := by
  unfold State.perf
  exact .ite (fun _ => .refl s) fun _ => .foldl _ (fun s k => .ite (fun _ => quiet_perfAdd ..) (fun _ => .refl s)) _ _

theorem quiet_flag (s : State) (p b : Nat) : Quiet s (s.flag p b) := by
  unfold State.flag
  refine .ite (fun _ => .refl s) fun _ => ?_
  refine Quiet.trans ?_ ((quiet_wr ..).trans ((quiet_perf ..).trans .same))
  exact .ite (fun _ => (quiet_wr ..).trans (quiet_wr ..)) (fun _ => .refl s)

theorem quiet_raiseI (s : State) (p b : Nat) (inj : Bool) : Quiet s (s.raiseI p b inj) := by
  unfold State.raiseI
  exact .ite (fun _ => ((quiet_flag ..).trans (quiet_flag ..)).trans .same) (fun _ => quiet_flag ..)

theorem quiet_injectTake (s : State) (p b : Nat) : Quiet s (injectTake s p b) := (quiet_wr s p R.injArm 0 0).trans .same

theorem quiet_raise (s : State) (p b : Nat) : Quiet s (s.raise p b) := by
  unfold State.raise
  exact .ite (fun _ => (quiet_injectTake ..).trans (quiet_raiseI ..)) (fun _ => quiet_flag ..)

theorem quiet_prog (s : State) (p : Nat) : Quiet s (s.prog p) := quiet_raise ..

theorem quiet_hit (s : State) (p b : Nat) (real : Bool) : Quiet s (s.hit p b real).2.2 := by
  unfold State.hit
  split
  · exact quiet_injectTake ..
  · exact .refl s

theorem quiet_settle (s : State) (p : Nat) (busy : Bool) : Quiet s (s.settle p busy) := by
  unfold State.settle
  exact .ite (fun _ => quiet_wr ..) fun _ => .ite (fun _ => quiet_wr ..) (fun _ => .refl s)

theorem quiet_newInc (s : State) : Quiet s s.newInc.2 := quiet_wr ..

theorem quiet_logI (s : State) (inc : Nat) (r : LogRec) : Quiet s (s.logI inc r).2 := by
  unfold State.logI
  split
  · exact (quiet_newInc s).trans .same
  · exact .same

theorem quiet_log (s : State) (r : LogRec) (inc : Nat) : Quiet s (s.log r inc) := quiet_logI ..

theorem quiet_doubt (s : State) (sc : Scope) (inc : Nat) (cont : Bool) : Quiet s (s.doubt sc inc cont) := .same

theorem quiet_doubtInj (s : State) (p b : Nat) : Quiet s (s.doubtInj p b) := .same

theorem quiet_noticePairs (s : State) (p : Nat) : Quiet s (noticePairs s p) :=
  .foldl _ (fun s _ => .ite (fun _ => quiet_wr ..) (fun _ => .refl s)) _ _

theorem quiet_noticeOn (s : State) (p : Nat) : Quiet s (s.noticeOn p) := by
  have h : Quiet s (noticePairs { s with notice := sput s.notice p s.time } p) :=
    Quiet.trans .same (quiet_noticePairs ..)
  unfold State.noticeOn
  exact .ite (fun _ => h) (fun _ => h.trans (quiet_noticePairs ..))

theorem quiet_msix (s : State) (n v : Nat) : Quiet s (s.msix n v) := by
  unfold State.msix
  exact .ite (fun _ => quiet_wrBit ..) (fun _ => .same)

theorem quiet_msixFlush (s : State) (n : Nat) : Quiet s (msixFlush s n) :=
  .foldl _ (fun s _ => .ite (fun _ => (quiet_wrBit ..).trans (quiet_msix ..)) (fun _ => .refl s)) _ _

theorem quiet_semSaturated (s : State) (n : Nat) : Quiet s (semSaturated s n) :=
  ((quiet_bump ..).trans (quiet_raise ..)).trans (quiet_log ..)

theorem quiet_coreWake (s : State) (c : Nat) : Quiet s (coreWake s c) := by
  unfold coreWake
  exact .ite (fun _ => quiet_wr ..) (fun _ => .refl s)

theorem quiet_semWatch (s : State) (n : Nat) : Quiet s (semWatch s n) :=
  .foldl _ (fun s _ => .ite (fun _ => Quiet.trans .same (quiet_coreWake ..)) (fun _ => .refl s)) _ _

theorem quiet_semPostB (s : State) (n : Nat) : Quiet s (s.semPostB n).2 := by
  unfold State.semPostB
  by_cases hc : sget 0 s.sems n = 0xFFFFFFFF
  · simp only [hc, if_true]
    exact quiet_semSaturated ..
  · simp only [hc, if_false]
    generalize hu : { s with sems := sset 0 s.sems n (sget 0 s.sems n + 1) } = u
    have h : Quiet s u := by subst hu; exact .same
    exact h.trans (quiet_semWatch u n)

/-- An operation that reaches its target does at most what it does there (R371). -/
theorem quiet_deliver (s : State) (init part target seq : Nat) {f : State → Nat × State} (h : ∀ u, Quiet u (f u).2) :
    Quiet s (s.deliver init part target seq f).2.2 := by
  unfold State.deliver
  dsimp only
  split
  · exact (h s).trans .same
  · split
    · exact (quiet_bump ..).trans (quiet_raise ..)
    · exact ((quiet_bump ..).trans (quiet_raise ..)).trans (quiet_log ..)

theorem deliver_keeps (s : State) (init part target seq : Nat) {f : State → Nat × State} (h : ∀ u, Keeps u (f u).2) :
    Keeps s (s.deliver init part target seq f).2.2 := by
  unfold State.deliver
  dsimp only
  split
  · exact (h s).trans .same
  · split
    · exact ((quiet_bump ..).trans (quiet_raise ..)).keeps
    · exact (((quiet_bump ..).trans (quiet_raise ..)).trans (quiet_log ..)).keeps

/-- Numbering an operation at its port is quiet (R46, R370). -/
theorem quiet_once_issue (s : State) (init q : Nat) :
    Quiet s (match pageOfInit init with
      | some p => State.perf { s with seqs := sset 1 s.seqs init q } p 0x07
      | none => { s with seqs := sset 1 s.seqs init q }) := by
  have h : Quiet s { s with seqs := sset 1 s.seqs init q } := .same
  split
  · exact h.trans (quiet_perf ..)
  · exact h

theorem quiet_once (s : State) (init part target : Nat) {f : State → Nat × State} (h : ∀ u, Quiet u (f u).2) :
    Quiet s (s.once init part target f).2 :=
  (quiet_once_issue s init _).trans (quiet_deliver _ init part target _ h)

theorem once_keeps (s : State) (init part target : Nat) {f : State → Nat × State} (h : ∀ u, Keeps u (f u).2) :
    Keeps s (s.once init part target f).2 :=
  (quiet_once_issue s init _).keeps.trans (deliver_keeps _ init part target _ h)

theorem quiet_semPost (s : State) (init part n : Nat) : Quiet s (s.semPost init part n) :=
  quiet_once s init part pgFgs (f := fun s => (b2n (s.semPostB n).1, (s.semPostB n).2)) fun u => quiet_semPostB u n

theorem quiet_evtSend (s : State) (p : Nat) (e : EvtRegs) : Quiet s (evtSend s p e) := by
  unfold evtSend
  have h : Quiet s (if s.on p e.irqEn then s.msix (s.ownerOf p) (s.rd p e.vec) else s) :=
    .ite (fun _ => quiet_msix ..) (fun _ => .refl s)
  exact .ite (fun _ => h.trans (quiet_semPost ..)) (fun _ => h)

theorem quiet_event (s : State) (p : Nat) (e : EvtRegs) (b : Nat) : Quiet s (s.event p e b) := by
  unfold State.event
  exact .ite (fun _ => .refl s) fun _ => .ite (fun _ => (quiet_wrBit ..).trans (quiet_evtSend ..)) (fun _ => quiet_wrBit ..)

theorem quiet_free (s : State) (w : Nat) : Quiet s (s.free w).2 := .same

/-! ### Accesses -/

theorem quiet_denialI (s : State) (t : Tag) (op kind fw a inc : Nat) : Quiet s (denialI s t op kind fw a inc).2 := by
  unfold denialI
  dsimp only
  generalize hu : State.wr _ pgFab R.fwLastAddr a = u
  have h : Quiet s u := by
    subst hu
    exact ((((((((quiet_bump ..).trans (quiet_raise ..)).trans (quiet_wr ..)).trans (quiet_wr ..)).trans (quiet_wr ..)).trans
      (quiet_wr ..)).trans (quiet_wr ..)).trans (quiet_wr ..)).trans ((quiet_wr ..).trans (quiet_wr ..))
  refine h.trans ?_
  split
  · split
    · exact .same
    · exact Quiet.trans ((quiet_bump u pgFab R.logSuppressed _ 0).trans (quiet_logI _ inc _)) .same
  · exact Quiet.trans (quiet_logI u inc _) .same

theorem quiet_denial (s : State) (t : Tag) (op kind fw a inc : Nat) : Quiet s (denial s t op kind fw a inc) := quiet_denialI ..

theorem quiet_denyPage (s : State) (i : Ini) (p off op : Nat) : Quiet s (denyPage s i p off op) := by
  unfold denyPage
  dsimp only
  generalize hu : denial s (tagIni s i) op 1 0 (p * 4096 + off) = u
  have h : Quiet s { u with reply := ⟨0, 3⟩ } := by
    have g := quiet_denial s (tagIni s i) op 1 0 (p * 4096 + off) 0
    rw [hu] at g
    exact g.trans .same
  split
  · exact h.trans (quiet_prog ..)
  · exact h

theorem quiet_debugTouch (s : State) : Quiet s (debugTouch s) := by
  unfold debugTouch
  exact .ite (fun _ => .refl s) (fun _ => (quiet_wrBit ..).trans (quiet_wr ..))

theorem quiet_wakeUp (s : State) (src : Nat) : Quiet s (wakeUp s src) := by
  have h : Quiet s ((s.wr pgPwr R.wakeCause (src + 1)).bump pgPwr R.wakeCnt) := (quiet_wr ..).trans (quiet_bump ..)
  unfold wakeUp
  dsimp only
  generalize (s.wr pgPwr R.wakeCause (src + 1)).bump pgPwr R.wakeCnt = u at h ⊢
  refine h.trans (.ite (fun _ => .same) fun _ => ?_)
  exact ((quiet_wr u pgPwr R.exiting 1 0).trans (quiet_wr _ pgPwr R.preq 7 0)).trans .same

theorem quiet_hostWake (s : State) (i : Ini) : Quiet s (hostWake s i) := by
  cases i
  case fn n => exact .ite (fun _ => quiet_wakeUp ..) (fun _ => .refl s)
  all_goals exact .refl s

/-- Reaching a page changes nothing a step must keep. -/
theorem quiet_admitted (s : State) (i : Ini) : Quiet s (admitted s i) := by
  have h : Quiet s (if i = .dap then debugTouch (hostWake s i) else hostWake s i) :=
    .ite (fun _ => (quiet_hostWake ..).trans (quiet_debugTouch ..)) (fun _ => quiet_hostWake ..)
  exact h.trans .same

theorem quiet_popAdmit (s : State) (i : Ini) : Quiet s (popAdmit s i) :=
  .ite (fun _ => (quiet_hostWake ..).trans (quiet_debugTouch ..)) (fun _ => quiet_hostWake ..)

/-- A register write keeps what its own effect keeps. -/
theorem regRow_keeps (s : State) (i : Ini) (p off : Nat) {k : State → State} (h : ∀ u, Keeps u (k u)) :
    Keeps s (regRow s i p off k) := by
  unfold regRow
  split
  · exact .same
  · dsimp only
    split
    · exact (quiet_hostWake s i).keeps.trans .same
    · split
      · exact ((quiet_hostWake ..).trans (quiet_denyPage ..)).keeps
      · exact (quiet_admitted s i).keeps.trans (h _)

/-- So does a write that partition 0 alone may make. -/
theorem regRow0_keeps (s : State) (i : Ini) (p off : Nat) {k : State → State} (h : ∀ u, Keeps u (k u)) :
    Keeps s (regRow0 s i p off k) :=
  regRow_keeps s i p off fun u => by
    split
    · exact h u
    · exact (quiet_prog u p).keeps

/-- A read with a command of its own keeps what its effect keeps. -/
theorem readRow_keeps (s : State) (i : Ini) (p off : Nat) {k : State → Nat × State} (h : ∀ u, Keeps u (k u).2) :
    Keeps s (readRow s i p off k) := by
  unfold readRow
  split
  · exact .same
  · dsimp only
    split
    · exact (quiet_hostWake s i).keeps.trans .same
    · split
      · split
        · exact (quiet_hostWake s i).keeps.trans .same
        · exact ((quiet_hostWake ..).trans (quiet_denyPage ..)).keeps
      · exact ((quiet_hostWake s i).keeps.trans (h _)).trans .same

/-- So does a doorbell. -/
theorem doorbell_keeps (s : State) (n owner bar4 : Nat) {k : State → State} (h : ∀ u, Keeps u (k u)) :
    Keeps s (doorbell s n owner bar4 k) := by
  unfold doorbell
  split
  · exact .same
  · dsimp only
    split
    · have g := (quiet_hostWake s (.fn n)).trans
        (quiet_denial (hostWake s (.fn n)) (tagIni (hostWake s (.fn n)) (.fn n)) opWrite 0 0 bar4 0)
      generalize denial _ _ opWrite 0 0 bar4 = u at g ⊢
      exact g.keeps.trans .same
    · have g : Keeps s { hostWake s (.fn n) with reply := ⟨0, 0⟩ } := (quiet_hostWake s (.fn n)).keeps.trans .same
      exact g.trans (h _)

end Sys2Proof.Machine
end

