-- ==== Sys2Proof/Tests/Slice0.lean ====
section
/-! SUPPORT. Tests: what well-formedness refuses, a tick from reset, and a witness for the hypotheses of every
obligation, clause by clause, at boundary values. -/
open Sys2Proof Sys2Proof.Machine

namespace Tests

-- One theorem after the other: the checks of hundreds of them at once would take a thread and its stack each.
set_option Elab.async false

/-- Ill-formed commands, one for each check of the constructors in turn. -/
theorem test_wf_refuses0 :
  ([.registerWrite (.fn 8) 0 0 0 false, .registerWrite (.core 0) 0x4000 0 0 false,
   .registerWrite (.core 0) 0 4096 0 false, .registerWrite (.core 0) 0 0 (2 ^ 64) false,
   .readLoSnapshot (.fn 8) 0 0 false, .readLoSnapshot (.core 0) 0x4000 0 false,
   .readLoSnapshot (.core 0) 0 4096 false, .readHi (.fn 8) 0 0, .readHi (.core 0) 0x4000 0,
   .readHi (.core 0) 0 4096, .writeLoHold (.fn 8) 0 0 0, .writeLoHold (.core 0) 0x4000 0 0,
   .writeLoHold (.core 0) 0 4096 0, .writeLoHold (.core 0) 0 0 (2 ^ 32), .writeHiCommit (.fn 8) 0 0 0,
   .writeHiCommit (.core 0) 0x4000 0 0, .writeHiCommit (.core 0) 0 4096 0, .writeHiCommit (.core 0) 0 0 (2 ^ 32),
   .accessFault (.fn 8) 0 0 0 false false, .accessFault (.core 0) 0x4000 0 0 false false,
   .accessFault (.core 0) 0 4096 0 false false, .bar2Access 8 false 0 0 [] .ok false,
   .bar2Access 0 false 0x10000000 0 [] .ok false, .bar2Access 0 false 0 513 [] .ok false,
   .bar2Access 0 false 0 0 [0, 256] .ok false, .enable (.fn 8) 0 false, .enable (.core 0) 0x4000 false,
   .softReset (.fn 8) 0, .softReset (.core 0) 0x4000, .softResetDone 0x4000, .lock (.fn 8) 0,
   .lock (.core 0) 0x4000, .perfClear (.fn 8) 0, .perfClear (.core 0) 0x4000, .pageErrClear (.fn 8) 0 0,
   .pageErrClear (.core 0) 0x4000 0, .pageErrClear (.core 0) 0 (2 ^ 32), .injectArm (.fn 8) 0 0,
   .injectArm (.core 0) 0x4000 0, .injectArm (.core 0) 0 (2 ^ 32), .selftestStart (.fn 8) 0 0,
   .selftestStart (.core 0) 0x4000 0, .selftestStart (.core 0) 0 256, .selftestDone 0x4000 0 false,
   .pageOwner (.fn 8) 0 0, .pageOwner (.core 0) 0x4000 0, .pageOwner (.core 0) 0 8, .noticeHoldExpiry 8,
   .frameStart 12 0 0 0 .ok, .frameStart 0 16 0 0 .ok, .frameStart 0 0 65536 0 .ok, .frameEnd 12 0 .ok,
   .frameEnd 0 16 .ok, .testBlockWriteDone 48, .longPacket 12 0 0 .ok false false [],
   .longPacket 0 16 0 .ok false false [], .longPacket 0 0 64 .ok false false [], .sotError 12, .slotPublish 48,
   .lossTimeout 48] : List Instr).all
    (fun i => !i.wf) = true := by decide

/-- Ill-formed commands, one for each check of the constructors in turn. -/
theorem test_wf_refuses1 :
  ([.inEn (.fn 8) 0 false, .inEn (.core 0) 48 false, .cal (.fn 8) 0, .cal (.core 0) 48,
   .consumerIndexWrite (.fn 8) 0 0 0, .consumerIndexWrite (.core 0) 0x4000 0 0,
   .consumerIndexWrite (.core 0) 0 4096 0, .consumerIndexWrite (.core 0) 0 0 (2 ^ 32),
   .ringCountChange (.fn 8) 0 0 0, .ringCountChange (.core 0) 0x4000 0 0, .ringCountChange (.core 0) 0 4096 0,
   .ringCountChange (.core 0) 0 0 (2 ^ 32), .ispDispatch 4, .ispFrameDone 4 ⟨[], noSpot⟩ [],
   .secondAttemptDone 4 ⟨[], noSpot⟩ [], .commit (.fn 8) 0, .commit (.core 0) 48, .toneWindowWrite (.fn 8) 0 0 0,
   .toneWindowWrite (.core 0) 48 0 0, .toneWindowWrite (.core 0) 0 4096 0, .toneWindowWrite (.core 0) 0 0 (2 ^ 32),
   .ctxEn (.fn 8) 0 false, .ctxEn (.core 0) 48 false, .start (.fn 8) 0 0, .start (.core 0) 0x4000 0,
   .start (.core 0) 0 8, .slotCancel (.fn 8) 0 0, .slotCancel (.core 0) 0x4000 0, .slotCancel (.core 0) 0 8,
   .fawnSubmit 0x4000 0, .fawnSubmit 0 (2 ^ 64), .descriptorFetchDone 0x4000 0 cleanHit [],
   .descriptorFetchDone 0 8 cleanHit [], .descriptorFetchDone 0 0 cleanHit [(0, 256)],
   .descriptorFetchDone 0 0 cleanHit [(2 ^ 64, 0)], .unitDone 0x4000 0 ⟨[], false⟩ cleanHit [],
   .unitDone 0 8 ⟨[], false⟩ cleanHit [], .unitDone 0 0 ⟨[], false⟩ cleanHit [(0, 256)],
   .unitDone 0 0 ⟨[], false⟩ cleanHit [(2 ^ 64, 0)], .unitRecomputeDone 0x4000 0 ⟨[], false⟩ cleanHit [],
   .unitRecomputeDone 0 8 ⟨[], false⟩ cleanHit [], .unitRecomputeDone 0 0 ⟨[], false⟩ cleanHit [(0, 256)],
   .unitRecomputeDone 0 0 ⟨[], false⟩ cleanHit [(2 ^ 64, 0)], .jobEnd 0x4000 0 0, .jobEnd 0 8 0,
   .completionRecordDone 0x4000 0 cleanHit, .completionRecordDone 0 8 cleanHit, .jobBudgetExpiry 0x4000 0,
   .jobBudgetExpiry 0 8, .jobDrainDone 0x4000 0 0, .jobDrainDone 0 8 0, .resyncClear 0x4000 0, .resyncClear 0 2,
   .starved 0x4000 0, .starved 0 2, .monitorEnable (.fn 8) 0 0 false, .monitorEnable (.core 0) 0x4000 0 false,
   .monitorEnable (.core 0) 0 2 false, .vectorDone 0x4000 0 0 .ok [] [] cleanHit [],
   .vectorDone 0 8 0 .ok [] [] cleanHit []] : List Instr).all
    (fun i => !i.wf) = true := by decide

/-- Ill-formed commands, one for each check of the constructors in turn. -/
theorem test_wf_refuses2 :
  ([.vectorDone 0 0 0 .ok [] [] cleanHit [(0, 256)], .vectorDone 0 0 0 .ok [] [] cleanHit [(2 ^ 64, 0)],
   .replayDone 0x4000 0 0 .ok [] [] cleanHit [], .replayDone 0 8 0 .ok [] [] cleanHit [],
   .replayDone 0 0 0 .ok [] [] cleanHit [(0, 256)], .replayDone 0 0 0 .ok [] [] cleanHit [(2 ^ 64, 0)],
   .forkRunDone 0x4000 0 0 .ok [] [] cleanHit [], .forkRunDone 0 8 0 .ok [] [] cleanHit [],
   .forkRunDone 0 0 0 .ok [] [] cleanHit [(0, 256)], .forkRunDone 0 0 0 .ok [] [] cleanHit [(2 ^ 64, 0)],
   .arm (.fn 8) 0 0, .arm (.core 0) 0x4000 0, .arm (.core 0) 0 32, .retire (.fn 8) 0 0, .retire (.core 0) 0x4000 0,
   .retire (.core 0) 0 32, .pushGo (.fn 8), .pushOrderStart cleanHit [(0, 256)],
   .pushOrderStart cleanHit [(2 ^ 64, 0)], .planeArrival 0x4000, .planeCaptureEnd 0x4000 false, .load (.fn 8),
   .loadDone 256 cleanHit [], .loadDone 0 cleanHit [(0, 256)], .loadDone 0 cleanHit [(2 ^ 64, 0)], .unload (.fn 8),
   .startDoorbell (.fn 8) 0 0, .startDoorbell (.core 0) 256 0, .startDoorbell (.core 0) 0 65536,
   .instanceStart 256, .nodeAdmit 256 0 0 cleanHit [], .nodeAdmit 0 (2 ^ 32) 0 cleanHit [],
   .nodeAdmit 0 0 1024 cleanHit [], .nodeAdmit 0 0 0 cleanHit [(0, 256)], .nodeAdmit 0 0 0 cleanHit [(2 ^ 64, 0)],
   .nodeEnd 256 0 0 cleanHit, .nodeEnd 0 (2 ^ 32) 0 cleanHit, .nodeEnd 0 0 1024 cleanHit, .trig (.fn 8) 0 0,
   .trig (.core 0) 256 0, .trig (.core 0) 0 1024, .cancel (.fn 8) 0, .cancel (.core 0) 256, .cancelAll (.fn 8) 0,
   .cancelAll (.core 0) 256, .nodeCancel (.fn 8) 0 0, .nodeCancel (.core 0) 256 0, .nodeCancel (.core 0) 0 1024,
   .instanceDeadline 256 0, .instanceDeadline 0 (2 ^ 32), .instanceEnd 256 0 cleanHit,
   .instanceEnd 0 (2 ^ 32) cleanHit, .hoDeadlock 256 0 0, .hoDeadlock 0 (2 ^ 32) 0, .hoDeadlock 0 0 16,
   .post (.fn 8) 0, .post (.core 0) 1024, .tryTake (.fn 8) 0, .tryTake (.core 0) 1024,
       .read (.fn 8) 0] : List Instr).all
    (fun i => !i.wf) = true := by decide

/-- Ill-formed commands, one for each check of the constructors in turn. -/
theorem test_wf_refuses3 :
  ([.read (.core 0) 1024, .set (.fn 8) 0, .set (.core 0) 1024, .semOwn (.fn 8) 0 0, .semOwn (.core 0) 512 0,
   .semOwn (.core 0) 0 8, .mbxPush (.fn 8) 0, .mbxPush (.core 0) 8, .mbxPop 8, .nodeDone 8 0 0 0,
   .nodeDone 0 256 0 0, .nodeDone 0 0 1024 0, .nodeDone 0 0 0 16, .run (.fn 8) 0 false, .run (.core 0) 8 false,
   .coreHalted 8, .tcmData (.fn 8) 0 0, .tcmData (.core 0) 8 0, .tcmData (.core 0) 0 (2 ^ 32),
   .coreAccess 8 .load 0 0 0 .ok [], .coreAccess 0 .load (2 ^ 32) 0 0 .ok [], .coreAccess 0 .load 0 5 0 .ok [],
   .coreAccess 0 .load 0 0 (2 ^ 32) .ok [], .coreAccess 0 .load 0 0 0 .ok [(0, 256)],
   .coreAccess 0 .load 0 0 0 .ok [(2 ^ 64, 0)], .coreTrap 8 0 0, .coreTrap 0 (2 ^ 32) 0, .coreTrap 0 0 (2 ^ 32),
   .coreTimer 8, .startDb (.fn 8) false 0 0, .startDb (.core 0) false 64 0, .startDb (.core 0) false 0 (2 ^ 32),
   .ringDoorbell (.fn 8) false 0 0, .ringDoorbell (.core 0) false 64 0, .ringDoorbell (.core 0) false 0 (2 ^ 32),
   .extend (.fn 8) false 0, .extend (.core 0) false 64, .channelCancel (.fn 8) 0, .channelCancel (.core 0) 64,
   .channelDisable (.fn 8) 0, .channelDisable (.core 0) 64, .smvDescFetch 64 cleanHit [],
   .smvDescFetch 0 cleanHit [(0, 256)], .smvDescFetch 0 cleanHit [(2 ^ 64, 0)],
   .smvReadResponse 64 .ok 0 .ok false [], .smvReadResponse 0 .ok 0 .ok false [(0, 256)],
   .smvReadResponse 0 .ok 0 .ok false [(2 ^ 64, 0)], .smvTransferFail 64 .ok [], .smvTransferFail 0 .ok [(0, 256)],
   .smvTransferFail 0 .ok [(2 ^ 64, 0)], .smvCompletionPoint 64 .ok false, .flushDone 64 cleanHit [],
   .flushDone 0 cleanHit [(0, 256)], .flushDone 0 cleanHit [(2 ^ 64, 0)], .writeBackDone 64 cleanHit,
   .smvRecordDone 64 cleanHit, .tailRereadData 64 cleanHit [], .tailRereadData 0 cleanHit [(0, 256)],
   .tailRereadData 0 cleanHit [(2 ^ 64, 0)], .smvBudgetExpiry 64] : List Instr).all
    (fun i => !i.wf) = true := by decide

/-- Ill-formed commands, one for each check of the constructors in turn. -/
theorem test_wf_refuses4 :
  ([.channelDrainDone 64, .evtClear (.fn 8) 0 0 0, .evtClear (.core 0) 0x4000 0 0, .evtClear (.core 0) 0 (2 ^ 32) 0,
   .evtClear (.core 0) 0 0 (2 ^ 32), .queueStart (.fn 8) false 0 0, .queueStart (.core 0) false 64 0,
   .queueStart (.core 0) false 0 (2 ^ 32), .queueRelease (.fn 8) false 0 0, .queueRelease (.core 0) false 64 0,
   .queueRelease (.core 0) false 0 (2 ^ 32), .streamDescFetch 64 cleanHit [],
   .streamDescFetch 0 cleanHit [(0, 256)], .streamDescFetch 0 cleanHit [(2 ^ 64, 0)], .pfqResponse 64 0 ⟨.ok, cleanHit⟩ [],
   .pfqResponse 0 0 ⟨.ok, cleanHit⟩ [(0, 256)], .pfqResponse 0 0 ⟨.ok, cleanHit⟩ [(2 ^ 64, 0)], .pfqTransferFail 64 ⟨.ok, cleanHit⟩ [],
   .pfqTransferFail 0 ⟨.ok, cleanHit⟩ [(0, 256)], .pfqTransferFail 0 ⟨.ok, cleanHit⟩ [(2 ^ 64, 0)], .creditReturn 64,
   .queueCancel (.fn 8) 0, .queueCancel (.core 0) 64, .queueDrainDone 64, .snap (.fn 8) 0, .snap (.core 0) 64,
   .auditCapture 64, .pfqBudgetExpiry 64, .queueDisable (.fn 8) 0, .queueDisable (.core 0) 64,
   .translationResponse 128 0 0 false false, .translationResponse 0 (2 ^ 52) 0 false false,
   .translationResponse 0 0 (2 ^ 52) false false, .pageResponse 8 0 0, .pageResponse 0 512 0, .pageResponse 0 0 16,
   .atsInvalidate 8 0 0 0, .atsInvalidate 0 (2 ^ 64) 0 0, .atsInvalidate 0 0 0 32, .invalidationComplete 8 0,
   .invalidationComplete 0 32, .transactionArrival 256 0 0 .read 0 0 [] 0 .ok false [],
   .transactionArrival 0 64 0 .read 0 0 [] 0 .ok false [], .transactionArrival 0 0 256 .read 0 0 [] 0 .ok false [],
   .transactionArrival 0 0 0 .read (2 ^ 64) 0 [] 0 .ok false [],
   .transactionArrival 0 0 0 .read 0 513 [] 0 .ok false [],
   .transactionArrival 0 0 0 .read 0 0 [0, 256] 0 .ok false [],
   .transactionArrival 0 0 0 .read 0 0 [] 65536 .ok false [],
   .transactionArrival 0 0 0 .read 0 0 [] 0 .ok false [(0, 256)],
   .transactionArrival 0 0 0 .read 0 0 [] 0 .ok false [(2 ^ 64, 0)], .fabricTimeout 256 0, .fabricTimeout 0 64,
   .responseArrival 256 0 0, .responseArrival 0 64 0, .responseArrival 0 0 16, .regPerm (.fn 8) 0,
   .regPerm (.core 0) (2 ^ 32), .create (.fn 8), .teardown (.fn 8), .teardownDrained 8] : List Instr).all
    (fun i => !i.wf) = true := by decide

/-- Ill-formed commands, one for each check of the constructors in turn. -/
theorem test_wf_refuses5 :
  ([.dramReread (2 ^ 64) .ok, .init (.fn 8) 0, .init (.core 0) 4, .trainingDone 4 0, .bankInh (.fn 8) 0,
   .bankInh (.core 0) (2 ^ 64), .configWrite 8 .bme 0, .configWrite 0 .bme (2 ^ 32), .flr 8, .retrain (.fn 8),
   .queuePairCreate (.fn 8) 0 0, .queuePairCreate (.core 0) 8 0, .queuePairCreate (.core 0) 0 16,
   .delete (.fn 8) 0 0, .delete (.core 0) 8 0, .delete (.core 0) 0 16, .deleteDone 8 0, .deleteDone 0 16,
   .sqTailDoorbell 8 0 0, .sqTailDoorbell 0 16 0, .sqTailDoorbell 0 0 (2 ^ 32), .cqHeadDoorbell 8 0 0,
   .cqHeadDoorbell 0 16 0, .cqHeadDoorbell 0 0 (2 ^ 32), .commandFetch 8 0 cleanHit [],
   .commandFetch 0 16 cleanHit [], .commandFetch 0 0 cleanHit [(0, 256)], .commandFetch 0 0 cleanHit [(2 ^ 64, 0)],
   .nop 8 0, .nop 0 16, .graphLoad 8 0, .graphLoad 0 16, .graphUnload 8 0, .graphUnload 0 16, .graphStart 8 0,
   .graphStart 0 16, .graphCancel 8 0, .graphCancel 0 16, .graphCancelAll 8 0, .graphCancelAll 0 16, .nodeTrig 8 0,
   .nodeTrig 0 16, .nodeCancelCommand 8 0, .nodeCancelCommand 0 16, .semOp 8 0, .semOp 0 16, .attest 8 0,
   .attest 0 16, .commandComplete 8 0 0 cleanHit, .commandComplete 0 16 0 cleanHit, .conditionRecord 8 0 cleanHit,
   .conditionRecord 0 16 cleanHit, .vpRead 65536 false .ok, .announce 65536 0 .ok, .announce 0 (2 ^ 32) .ok,
   .ack 65536 0 .ok, .ack 0 16 .ok, .badWrite 65536 0 false, .badWrite 0 (2 ^ 32) false,
       .eyeLeadingEdge 4] : List Instr).all
    (fun i => !i.wf) = true := by decide

/-- Ill-formed commands, one for each check of the constructors in turn. -/
theorem test_wf_refuses6 :
  ([.eyeTrailingEdge 4, .unpairedEvt 4, .unpairedAnn 65536, .missed 65536, .stagingRequest (.fn 8) 0 0,
   .stagingRequest (.core 0) 65536 0, .stagingRequest (.core 0) 0 (2 ^ 32), .lineCfg (.fn 8) 0 0 0,
   .lineCfg (.core 0) 4 0 0, .lineCfg (.core 0) 0 4096 0, .lineCfg (.core 0) 0 0 (2 ^ 32), .pinCfg (.fn 8) 0 0,
   .pinCfg (.core 0) 24 0, .pinCfg (.core 0) 0 (2 ^ 32), .pinSwitchEnd 24 0, .pinSwitchEnd 0 2, .inputAccept 24 0,
   .inputAccept 0 3, .encoderEdge 4 0 0, .encoderEdge 0 2 0, .encoderEdge 0 0 2, .trigger 8, .triggerLate 8,
   .strobeStart 8, .pulseEnd 8 false, .tgCfg (.fn 8) 0 0 0, .tgCfg (.core 0) 8 0 0, .tgCfg (.core 0) 0 4096 0,
   .tgCfg (.core 0) 0 0 (2 ^ 32), .pwmPeriodStart 4, .uartTx (.fn 8) 0 0, .uartTx (.core 0) 2 0,
   .uartTx (.core 0) 0 (2 ^ 32), .uartRx (.fn 8) 0, .uartRx (.core 0) 2, .uartByteReceived 2 0 false false,
   .uartByteReceived 0 256 false false, .uartByteSent 2, .cmd (.fn 8) 0 0, .cmd (.core 0) 12 0,
   .cmd (.core 0) 0 (2 ^ 32), .cmdStart 12, .cmdDone 12 0 [], .cmdDone 0 16 [], .cmdDone 0 0 [0, 256],
   .txData (.fn 8) 0 0, .txData (.core 0) 12 0, .txData (.core 0) 0 (2 ^ 32), .txData4 (.fn 8) 0 0,
   .txData4 (.core 0) 12 0, .txData4 (.core 0) 0 (2 ^ 32), .rxData (.fn 8) 0, .rxData (.core 0) 12,
   .resp (.fn 8) 0, .resp (.core 0) 12, .ibiArrival 12 0 [], .ibiArrival 0 128 [], .ibiArrival 0 0 [0, 256],
   .ibi (.fn 8) 0, .ibi (.core 0) 12] : List Instr).all
    (fun i => !i.wf) = true := by decide

/-- Ill-formed commands, one for each check of the constructors in turn. -/
theorem test_wf_refuses7 :
  ([.haltClr (.fn 8) 0, .haltClr (.core 0) 12, .planeCommit (.fn 8) 0 0, .planeCommit (.core 0) 4 0,
   .planeCommit (.core 0) 0 4, .release (.fn 8) 0, .release (.core 0) 4, .underrun 4 0 false .ok, .tcommit (.fn 8),
   .monRun (.fn 8) false, .train (.fn 8), .linkOff (.fn 8), .auxGo (.fn 8), .auxReply 0 [0, 256],
   .doubtReq (.fn 8) 0 0, .doubtReq (.core 0) 65536 0, .doubtReq (.core 0) 0 4, .finalConfirm 65536,
   .wdKick (.fn 8), .wdExpired 8, .fawnFramePair 4 0 0 0, .fawnEvaluation 4 false, .fawnStaging 4,
   .resume (.fn 8) 0, .resume (.core 0) (2 ^ 32), .checkerInjection 0x4000 0 0 false,
   .checkerInjection 0 32 0 false, .checkerTimeout 0x4000, .redispatch 256 0 0, .redispatch 0 (2 ^ 32) 0,
   .redispatch 0 0 1024, .unfence (.fn 8) 0, .unfence (.core 0) 0x4000, .ldGo (.fn 8),
   .imageLoadDone cleanHit [(0, 256)], .imageLoadDone cleanHit [(2 ^ 64, 0)], .updMark (.fn 8) 0,
   .updMark (.core 0) (2 ^ 32), .rbGo (.fn 8), .rotpkGo (.fn 8), .debugHalt 8 0, .debugHalt 0 (2 ^ 32),
   .debugStep 8 0, .debugStep 0 (2 ^ 32), .debugResume 8, .debugRegisterWrite 8 0 0,
   .debugRegisterWrite 0 0 (2 ^ 32), .debugTriggerHit 8 0, .debugTriggerHit 0 (2 ^ 32), .sleepGo (.fn 8) 0,
   .sleepGo (.core 0) 8, .wake 6, .tPeak (.fn 8), .por 4, .warm (.fn 8) 0, .warm (.core 0) 256, .cold (.fn 8) 0,
   .cold (.core 0) 256, .bootRom [(0, 256)] false false, .bootRom [(2 ^ 64, 0)] false false] : List Instr).all
    (fun i => !i.wf) = true := by decide

/-- Ill-formed commands, one for each check of the constructors in turn. -/
theorem test_wf_refuses8 :
  ([.recovGo (.fn 8), .ulps 12 0 false, .ulps 0 5 false, .skewCalibration 12, .pwmHighEnd 4,
      .mr4Read 4 0] : List Instr).all
    (fun i => !i.wf) = true := by decide

theorem test_wf_ini : [Ini.fn 8, .core 8].all (fun i => !i.wf) = true := by decide

/-- The table gives no row any bits. -/
theorem test_no_word : decodeTableWord 32 0xFFFFFFFF = none := by decide

theorem test_tick : (tick State.reset).time = 1 := by decide +kernel

/-- The state after reset. -/
def R0 : State := State.reset

/-- Some state meets `w`. -/
def Met (w : State → Prop) : Prop := ∃ s, w s

/-- Some state lets a register write reach its page and there meets `w`. -/
def MetW (ini : Ini) (p off : Nat) (w : State → Prop) : Prop := ∃ s, Reached s ini p off ∧ w (admitted s ini)

/-- Some state lets a popping read through and there meets `w`. -/
def MetP (ini : Ini) (p : Nat) (w : State → Prop) : Prop := ∃ s, Readable s ini p ∧ w (popAdmit s ini)

theorem reached_of {s : State} {ini : Ini} {p off : Nat}
    (h : (busOk s ini && (pageKind p).isSome && mayWrite (hostWake s ini) ini p off) = true) : Reached s ini p off := by
  simp only [Bool.and_eq_true, Option.isSome_iff_ne_none] at h
  exact ⟨h.1.1, h.1.2, h.2⟩

theorem readable_of {s : State} {ini : Ini} {p : Nat}
    (h : (busOk s ini && (pageKind p).isSome && mayRead (hostWake s ini) ini p) = true) : Readable s ini p := by
  simp only [Bool.and_eq_true, Option.isSome_iff_ne_none] at h
  exact ⟨h.1.1, h.1.2, h.2⟩

/-- A page at work and enabled. -/
def wk (s : State) (p : Nat) : State := (s.wr p R.enable 1).wr p R.pstate psIdle

/-- Port 11 at work, with intake of stream 47 enabled. -/
def csi47 : State := (wk R0 (pgCsi 11)).wr (pgCtx 47) R.inEn 1

/-- Pipe 3 at work, with one raw frame waiting in stream 47. -/
def isp47 : State := (((wk R0 (pgIsp 3)).wr (pgCtx 47) R.ctxEn 1).wr (pgCtx 47) R.wrIdx 1).wr (pgCtx 47) R.pipeMask 8

def ispRun : IspRun := ⟨47, 0, 0, [], [], false, false, false, 0, true, false⟩

/-- A wrong sum of step 9 at pixel (0, 0) of the frame: of zeros, it came out as 1. -/
def badSum : SumAt := ⟨false, 9, 0, 0, 0, 1⟩

/-- Every slot of initiator i's port is in use. -/
def portFull (s : State) (i : Nat) : State :=
  { s with txns := (List.range 64).map fun n => (txnKey i n, { busy := true }) }

/-- Encoder 3 on pins 22 and 23, both low. -/
def enc3 : State :=
  ((((((R0.wr pgLio R.pinFunc 3 22).wr pgLio R.pinUnit 3 22).wr pgLio R.pinFunc 4 23).wr pgLio R.pinUnit 3 23).wr
    pgLio R.encEn 1 3).putPin 22 { level := some false }).putPin 23 { level := some false }

/-- Timing generator 7 in time mode, with a cause due. -/
def tg7 : State := (R0.wr pgLio R.tgPeriod 5 7).wr pgLio R.tgMode 2 7

/-- UART 1 enabled, with pin 23 as its input. -/
def ua1 : State := ((R0.wr pgLio R.uartEn 1 1).wr pgLio R.pinFunc 9 23).wr pgLio R.pinUnit 1 23

/-- Region 0 of firewall f covers everything and grants every partition. -/
def openFw (s : State) (f : Nat) : State :=
  (((s.wr pgFab R.regEn 1 (regIx f 0)).wr pgFab R.regLimit (2 ^ 52 - 1) (regIx f 0)).wr pgFab R.regRd 0xFF (regIx f
      0)).wr
    pgFab R.regWr 0xFF (regIx f 0)

/-- Pipe 3 in the first attempt of a frame of one line of one pixel. -/
def isp47r : State := { ((openFw isp47 0).wr (pgCtx 47) R.width 1).wr (pgCtx 47) R.height 1 with ispRuns := [(3, ispRun)] }

/-- Function n has its memory enabled. -/
def fnUp (s : State) (n : Nat) : State := putFn s n { fnOf s n with memEn := true }

/-- All four controllers in a state. -/
def lpcAll (s : State) (v : Nat) : State :=
  (((s.wr (pgLpc 0) R.lpcState v).wr (pgLpc 1) R.lpcState v).wr (pgLpc 2) R.lpcState v).wr (pgLpc 3) R.lpcState v

/-- A step of a unit answers a value that meets `P`. -/
def okAnd {α : Type} (m : JR α) (P : α → JS → Bool) : Bool :=
  match m with
  | .ok a x => P a x
  | _ => false

theorem ex_ok {α : Type} {m : JR α} {P : α → JS → Prop} [∀ a x, Decidable (P a x)]
    (h : okAnd m (fun a x => decide (P a x)) = true) : ∃ a x, m = .ok a x ∧ P a x := by
  cases m with
  | ok a x => exact ⟨a, x, rfl, of_decide_eq_true h⟩
  | wait => cases h
  | fail st x => cases h

/-- A step of a unit fails with a status that meets `P`. -/
def failAnd {α : Type} (m : JR α) (P : Nat → JS → Bool) : Bool :=
  match m with
  | .fail st x => P st x
  | _ => false

theorem ex_fail {α : Type} {m : JR α} {P : Nat → JS → Prop} [∀ a x, Decidable (P a x)]
    (h : failAnd m (fun a x => decide (P a x)) = true) : ∃ a x, m = .fail a x ∧ P a x := by
  cases m with
  | ok a x => cases h
  | wait => cases h
  | fail st x => exact ⟨st, x, rfl, of_decide_eq_true h⟩

/-- The bytes a transfer answered. -/
def okBytes : FabResp → List Byte
  | .ok b => b
  | _ => []

theorem rd_ok {r : FabResp × Bool × State} (h : r.1.isOk = true) : r = (.ok (okBytes r.1), r.2.1, r.2.2) := by
  obtain ⟨f, b, s⟩ := r
  cases f <;> first | rfl | cases h

theorem rd_clean {r : FabResp × Bool × State} (h : (r.1.isOk && !r.2.1) = true) : r = (.ok (okBytes r.1), false,
    r.2.2) := by
  obtain ⟨f, b, s⟩ := r
  cases f <;> cases b <;> first | rfl | cases h

theorem wr_ok {r : FabResp × Bool × Nat × State} (h : r.1.isOk = true) : r = (.ok (okBytes r.1), r.2.1, r.2.2.1,
    r.2.2.2) := by
  obtain ⟨f, b, n, s⟩ := r
  cases f <;> first | rfl | cases h

theorem wr_clean {r : FabResp × Bool × Nat × State} (h : (r.1.isOk && !r.2.1) = true) :
    r = (.ok (okBytes r.1), false, r.2.2.1, r.2.2.2) := by
  obtain ⟨f, b, n, s⟩ := r
  cases f <;> cases b <;> first | rfl | cases h

theorem rp_ok {r : FabResp × State} (h : r.1.isOk = true) : r = (.ok (okBytes r.1), r.2) := by
  obtain ⟨f, s⟩ := r
  cases f <;> first | rfl | cases h

/-- A transfer failed with an uncorrectable error. -/
def failU : FabResp → Bool
  | .uncorr _ => true
  | _ => false

theorem rp_uncorr {r : FabResp × State} (h : failU r.1 = true) : r = (.uncorr (r.1.inc 0), r.2) := by
  obtain ⟨f, s⟩ := r
  cases f <;> first | rfl | cases h

/-- The descriptor of a pyramid of one level of a 16 by 16 plane at address 0. -/
def pyrDesc : List Byte :=
  leBytes 4 0x18 ++ leBytes 20 0 ++ leBytes 4 64 ++ leBytes 4 0x100010 ++ leBytes 8 0 ++ leBytes 4 1 ++ leBytes 20 0

/-- Page 0x80 with that descriptor in memory and a job queued in slot 3. -/
def pyrQ : State := (((openFw (wk R0 0x80) 0).store 0 pyrDesc).putJob 0x80 3 {}).setSlot 0x80 3 slQueued

/-- The job with its descriptor, at its only unit. -/
def pyrJob : Job := { desc := pyrDesc, fetched := true }

/-- The same page with that job's unit in progress. -/
def pyrR (j : Job) : State :=
  { ((openFw (wk R0 0x80) 0).putJob 0x80 3 j).setSlot 0x80 3 slRunning with current := [(0x80, 3)] }

/-- A job that has ended and posts semaphore 5. -/
def semJob : Job := { done := some 0, desc := leBytes 8 0 ++ leBytes 4 0x8005 }

def endS : State := (openFw R0 0).putJob 0x80 3 semJob

/-- The write of its completion record. -/
def endW : FabResp × Bool × Nat × State :=
  writeAll endS (jobTag 0x80 semJob) 0x80 semJob.dtag
    (endS.rd 0x80 (slotF 0x80 R.cqBase) 3 + 16 * ixIdx (endS.rd 0x80 (slotF 0x80 R.cqWrIdx) 3)) (complRecord endS 0x80
        3 semJob stOk)
    cleanHit semJob.inc

/-- One piece of a transfer reads the vision memory, and is allowed to. -/
def pieceOk (s : State) (t : Tag) (p : Nat × Nat) : Bool :=
  judge s t opRead p.1 p.2 == .pass && targetOf p.1 == .svm

theorem readTwice_svm {s : State} {t : Tag} {page tag a n : Nat} {host : Cells} {inc : Nat}
    (hj : judge s t opRead a n = .pass) (ht : targetOf a = .svm) (he : s.eccBad = []) (hp : perfRd s page true = s)
    (hf : (freeTid s t.init).isSome = true) (hi : injectNow s pgFab 12 = false) :
    readTwice s t page tag a n .ok .ok host inc = (.ok (s.bytes a n), false, s) := by
  obtain ⟨tid, hf⟩ := Option.isSome_iff_exists.mp hf
  have : tryRead s t a n .ok host inc = (.ok (s.bytes a n), s) := by
    simp [tryRead, fabRead, passes, State.hit, hf, hi, hj, serveRead, ht, he, respEcc]
  simp [readTwice, this, hp]

theorem readPieces_ok {s : State} {t : Tag} {page tag : Nat} {host : Cells} {inc : Nat} (he : s.eccBad = [])
    (hf : (freeTid s t.init).isSome = true) (hi : injectNow s pgFab 12 = false) (hp : perfRd s page true = s) {l : List (Nat × Nat)} (h : l.all (pieceOk s t) = true) (i : Nat) (acc : List Byte)
    (ret : Bool) : ∃ bs r, readPieces t page tag cleanHit host inc l i acc ret s = (.ok bs, r, s) := by
  induction l generalizing i acc ret with
  | nil => exact ⟨acc, ret, rfl⟩
  | cons p l ih =>
    simp only [List.all_cons, pieceOk, Bool.and_eq_true, beq_iff_eq] at h
    have e1 : (if i = cleanHit.idx then cleanHit.r1 else Resp.ok) = Resp.ok := by split <;> rfl
    have e2 : (if i = cleanHit.idx then cleanHit.r2 else Resp.ok) = Resp.ok := by split <;> rfl
    unfold readPieces
    rw [e1, e2, readTwice_svm h.1.1 h.1.2 he hp hf hi]
    exact ih h.2 _ _ _

/-- A region 0 of firewall 0 that is open to the partition for all of Shared Vision Memory. -/
def openSvm (s : State) (t : Tag) : Bool :=
  t.init != 0xE8 && s.on pgFab R.regEn 0 && s.rd pgFab R.regBase 0 == 0 &&
    s.rd pgFab R.regLimit 0 == 2 ^ 52 - 1 && bitOf (s.rd pgFab R.regRd 0) t.part

theorem pieceOk_open {s : State} {t : Tag} (h : openSvm s t = true) {a n : Nat} (ha : a < 0x06000000)
    (hn : a + n ≤ 0x06000000) : pieceOk s t (a, n) = true := by
  simp only [openSvm, Bool.and_eq_true, bne_iff_ne, beq_iff_eq] at h
  obtain ⟨⟨⟨⟨h1, h2⟩, h3⟩, h4⟩, h5⟩ := h
  have ht : targetOf a = .svm := by simp [targetOf, ha]
  have hr : inRegion s (regIx 0 0) a n = true := by
    have e : regIx 0 0 = 0 := rfl
    have : (a + (n - 1)) / 4096 ≤ 2 ^ 52 - 1 := by omega
    simpa [inRegion, e, h2, h3, h4] using this
  have hf : firstRegion s 0 a n = some (regIx 0 0) := by
    rw [firstRegion, List.range_succ_eq_map, List.map_cons, List.find?_cons, hr]
  have hg : regionGrants s (regIx 0 0) t opRead = true := by
    have e : regIx 0 0 = 0 := rfl
    simp [regionGrants, e, h5]
  simp [pieceOk, judge, ht, h1, fwOf, hf, hg]

theorem pieces_open {s : State} {t : Tag} (h : openSvm s t = true) {a n : Nat} (hn : 0 < n) (hb : a + n ≤ 0x06000000) :
    (linePieces a n).all (pieceOk s t) = true := by
  refine List.all_eq_true.mpr fun p hp => ?_
  obtain ⟨i, hi, rfl⟩ := List.mem_map.mp hp
  have hi := List.mem_range.mp hi
  unfold cdiv at hi
  refine pieceOk_open h ?_ ?_ <;> omega

/-- STA0 at work with memory open and some push orders queued. -/
def pushS (l : List Push) : State := { openFw (wk R0 (pgSta 0)) 0 with pushes := l }

/-- The hypotheses of `Obligations.StepRunsFront` can be met, clause by clause. -/
theorem wit_StepRunsFront :
    (∃ s : State, ∃ c : Instr, ∃ rest : List Instr, s.pending = c :: rest) ∧
    (∃ s : State, s.pending = []) := by
  refine ⟨?_, ?_⟩
  · exact (⟨{ R0 with pending := [.vpClkStop, .latchPoint] }, .vpClkStop, [.latchPoint], (by decide +kernel)⟩)
  · exact (⟨R0, (by decide +kernel)⟩)

/-- The hypotheses of `Obligations.FencedIgnoresEnable` can be met. -/
theorem wit_FencedIgnoresEnable : ∃ ini : Ini, ∃ p : Nat, MetW ini p 0x00C (fun u => u.rd p R.pstate = psFenced) :=
  ⟨.core 0, 0, ⟨R0.wr 0 R.pstate psFenced, reached_of (by decide +kernel), (by decide +kernel)⟩⟩

/-- The hypotheses of `Obligations.RefusedWrites` can be met, clause by clause. -/
theorem wit_RefusedWrites :
    (∃ c : Instr, ∃ ini : Ini, ∃ p : Nat, ∃ off : Nat, ∃ s : State, rowAt c = some (ini, p, off) ∧
        busOk s ini = false) ∧
    (∃ c : Instr, ∃ ini : Ini, ∃ p : Nat, ∃ off : Nat, ∃ s : State, rowAt c = some (ini, p, off) ∧
        busOk s ini = true ∧ pageKind p = none) ∧
    (∃ c : Instr, ∃ ini : Ini, ∃ p : Nat, ∃ off : Nat, ∃ s : State, rowAt c = some (ini, p, off) ∧
        busOk s ini = true ∧ pageKind p ≠ none ∧ mayWrite (hostWake s ini) ini p off = false) := by
  refine ⟨?_, ?_, ?_⟩
  · exact (⟨.wdKick (.fn 0), .fn 0, pgSaf, 0x08C, R0, (by decide +kernel), (by decide +kernel)⟩)
  · exact (⟨.lock .dap 7, .dap, 7, 0x00C, R0, (by decide +kernel), (by decide +kernel), (by decide +kernel)⟩)
  · exact (⟨.enable (.core 0) 0x80 true, .core 0, 0x80, 0x00C, R0.wr 0x80 R.owner 1, (by decide +kernel),
        (by decide +kernel), (by decide +kernel), (by decide +kernel)⟩)

/-- The hypotheses of `Obligations.CanonicalKept` can be met. -/
theorem wit_CanonicalKept : ∃ s : State, ∃ t : State, Canonical s ∧ step s = .next t :=
  ⟨R0, tick R0, ⟨by decide +kernel, by decide +kernel, by decide +kernel⟩, rfl⟩

/-- The hypotheses of `Obligations.OneTimeKept` can be met, clause by clause. -/
theorem wit_OneTimeKept :
    (∃ s : State, ∃ t : State, ∃ n, step s = .next t ∧ bitOf s.fuses n = true) ∧
    (∃ s : State, ∃ t : State, step s = .next t ∧ s.rotpk ≠ 0) ∧
    (∃ s : State, ∃ t : State, step s = .next t) := by
  refine ⟨?_, ?_, ?_⟩
  · exact (⟨{ R0 with fuses := 1 }, tick { R0 with fuses := 1 }, 0, rfl, (by decide +kernel)⟩)
  · exact (⟨{ R0 with rotpk := 5 }, tick { R0 with rotpk := 5 }, rfl, (by decide +kernel)⟩)
  · exact (⟨R0, tick R0, rfl⟩)

/-- The hypotheses of `Obligations.PageEnable` can be met, clause by clause. -/
theorem wit_PageEnable :
    (∃ ini : Ini, ∃ p : Nat, plainPage p = true ∧ MetW ini p 0x00C (fun u => u.rd p R.pstate = psOff)) ∧
    (∃ ini : Ini, ∃ p : Nat, plainPage p = true ∧ MetW ini p 0x00C (fun u => u.rd p R.pstate = psDraining)) ∧
    (∃ ini : Ini, ∃ p : Nat, plainPage p = true ∧ MetW ini p 0x00C (fun u => u.rd p R.pstate = psIdle)) ∧
    (∃ ini : Ini, ∃ p : Nat, plainPage p = true ∧ MetW ini p 0x00C (fun u => u.rd p R.pstate = psActive)) ∧
    (∃ ini : Ini, ∃ p : Nat, plainPage p = true ∧ MetW ini p 0x00C (fun u => u.rd p R.pstate = psFenced)) ∧
    (∃ ini : Ini, ∃ p : Nat, plainPage p = true ∧ MetW ini p 0x00C (fun u => u.rd p R.pstate = psSelftest ∨ u.rd p
        R.pstate = psResetting)) := by
  refine ⟨?_, ?_, ?_, ?_, ?_, ?_⟩
  · exact (⟨.core 0, 0x80, (by decide +kernel), ⟨R0, reached_of (by decide +kernel), (by decide +kernel)⟩⟩)
  · exact (⟨.core 0, 0x80, (by decide +kernel), ⟨R0.wr 0x80 R.pstate psDraining, reached_of (by decide +kernel),
        (by decide +kernel)⟩⟩)
  · exact (⟨.core 0, 0xFD, (by decide +kernel), ⟨R0.wr 0xFD R.pstate psIdle, reached_of (by decide +kernel),
        (by decide +kernel)⟩⟩)
  · exact (⟨.core 0, 0x80, (by decide +kernel), ⟨R0.wr 0x80 R.pstate psActive, reached_of (by decide +kernel),
        (by decide +kernel)⟩⟩)
  · exact (⟨.core 0, 0, (by decide +kernel), ⟨R0.wr 0 R.pstate psFenced, reached_of (by decide +kernel),
        (by decide +kernel)⟩⟩)
  · exact (⟨.core 0, 0x80, (by decide +kernel), ⟨R0.wr 0x80 R.pstate psSelftest, reached_of (by decide +kernel),
        (by decide +kernel)⟩⟩)

/-- The hypotheses of `Obligations.PageSoftReset` can be met, clause by clause. -/
theorem wit_PageSoftReset :
    (∃ ini : Ini, ∃ p : Nat, MetW ini p 0x00C (fun u => u.rd p R.pstate ≠ psResetting)) ∧
    (∃ ini : Ini, ∃ p : Nat, MetW ini p 0x00C (fun u => u.rd p R.pstate = psResetting)) ∧
    (∃ p : Nat, Met (fun s => pageKind p ≠ none ∧ s.rd p R.pstate = psResetting ∧ resetReady s p = true)) := by
  refine ⟨?_, ?_, ?_⟩
  · exact (⟨.core 0, 0x80, ⟨R0, reached_of (by decide +kernel), (by decide +kernel)⟩⟩)
  · exact (⟨.core 0, 0x187, ⟨R0.wr 0x187 R.pstate psResetting, reached_of (by decide +kernel), (by decide +kernel)⟩⟩)
  · exact (⟨0x8D, ⟨{ R0.wr 0x8D R.pstate psResetting with fencedReset := [0x8D] }, (by decide +kernel)⟩⟩)

/-- The hypotheses of `Obligations.PageLockPerfErr` can be met, clause by clause. -/
theorem wit_PageLockPerfErr :
    (∃ ini : Ini, ∃ p : Nat, MetW ini p 0x00C (fun _ => ini ≠ .island)) ∧
    (∃ ini : Ini, ∃ p : Nat, MetW ini p 0x00C (fun _ => ini = .island)) ∧
    (∃ ini : Ini, ∃ p : Nat, MetW ini p 0x00C (fun _ => True)) ∧
    (∃ ini : Ini, ∃ p : Nat, MetW ini p 0x014 (fun _ => True)) ∧
    (∃ ini : Ini, ∃ p : Nat, MetW ini p 0x020 (fun _ => True)) := by
  refine ⟨?_, ?_, ?_, ?_, ?_⟩
  · exact (⟨.core 0, 0, ⟨R0, reached_of (by decide +kernel), (by decide +kernel)⟩⟩)
  · exact (⟨Ini.island, 0x10, ⟨R0, reached_of (by decide +kernel), (by decide +kernel)⟩⟩)
  · exact (⟨.core 0, 0x80, ⟨R0.wr 0x80 R.perf 7 3, reached_of (by decide +kernel), (by decide +kernel)⟩⟩)
  · exact (⟨.core 0, 0x80, ⟨R0.raise 0x80 0, reached_of (by decide +kernel), (by decide +kernel)⟩⟩)
  · exact (⟨.rotation, 0x80, ⟨R0, reached_of (by decide +kernel), (by decide +kernel)⟩⟩)

/-- The hypotheses of `Obligations.PageTestsOwner` can be met, clause by clause. -/
theorem wit_PageTestsOwner :
    (∃ ini : Ini, ∃ p : Nat, ∃ sel : Nat, MetW ini p 0x024 (fun u => (u.rd p R.pstate = psOff ∨ u.rd p R.pstate =
        psIdle) ∧ (sel % 256 = 0 ∨ (sel % 256 = 0x10 ∧ hasCbg p = true)))) ∧
    (∃ ini : Ini, ∃ p : Nat, ∃ sel : Nat, MetW ini p 0x024 (fun u => ¬((u.rd p R.pstate = psOff ∨ u.rd p R.pstate =
        psIdle) ∧ (sel % 256 = 0 ∨ (sel % 256 = 0x10 ∧ hasCbg p = true))))) ∧
    (∃ p : Nat, Met (fun s => plainPage p = true ∧ s.rd p R.pstate = psSelftest ∧ injectNow s p eSelftest = false ∧
        s.unfence ≠ some p ∧ s.rd p R.enable = 0 ∧ (s.rd p R.stSel ≠ 0x10 ∨ katPass = true))) ∧
    (∃ p : Nat, Met (fun s => plainPage p = true ∧ s.rd p R.pstate = psSelftest ∧ injectNow s p eSelftest = false ∧
        s.unfence ≠ some p)) ∧
    (∃ ini : Ini, ∃ p : Nat, ∃ part : Nat, MetW ini p 0x028 (fun u => p0Ok u ini = true ∧ unlocked u p = true ∧
        part % 8 ≠ u.ownerOf p ∧ u.rd p R.pstate = psOff)) ∧
    (∃ ini : Ini, ∃ p : Nat, ∃ part : Nat, MetW ini p 0x028 (fun u => p0Ok u ini = true ∧ unlocked u p = true ∧
        part % 8 ≠ u.ownerOf p ∧ u.rd p R.pstate ≠ psOff)) ∧
    (∃ ini : Ini, ∃ p : Nat, MetW ini p 0x028 (fun u => p0Ok u ini = false)) ∧
    (∃ ini : Ini, ∃ p : Nat, MetW ini p 0x028 (fun u => p0Ok u ini = true ∧ unlocked u p = false)) := by
  refine ⟨?_, ?_, ?_, ?_, ?_, ?_, ?_, ?_⟩
  · exact (⟨.core 0, 0xA0, 0x10, ⟨R0, reached_of (by decide +kernel), (by decide +kernel)⟩⟩)
  · exact (⟨.core 0, 0x80, 0x10, ⟨R0, reached_of (by decide +kernel), (by decide +kernel)⟩⟩)
  · exact (⟨0x80, ⟨R0.wr 0x80 R.pstate psSelftest, (by decide +kernel)⟩⟩)
  · exact (⟨0x80, ⟨R0.wr 0x80 R.pstate psSelftest, (by decide +kernel)⟩⟩)
  · exact (⟨.core 0, 0x80, 7, ⟨R0, reached_of (by decide +kernel), (by decide +kernel)⟩⟩)
  · exact (⟨.core 0, 0x80, 7, ⟨R0.wr 0x80 R.pstate psFenced, reached_of (by decide +kernel), (by decide +kernel)⟩⟩)
  · exact (⟨.core 0, 0x80, ⟨(R0.wr 0xB8 R.owner 1).wr 0x80 R.owner 1, reached_of (by decide +kernel),
        (by decide +kernel)⟩⟩)
  · exact (⟨.core 0, 0x80, ⟨R0.wr 0x80 R.lock 1, reached_of (by decide +kernel), (by decide +kernel)⟩⟩)

/-- The hypotheses of `Obligations.RingsEventsNotice` can be met, clause by clause. -/
theorem wit_RingsEventsNotice :
    (∃ ini : Ini, ∃ p : Nat, ∃ off : Nat, ∃ v : Nat, ∃ i : Nat, ∃ r : Ring, ringAt p off (·.rd) = some (r, i) ∧ r.rd.own
        = true ∧ pageKind p ≠ some .pq ∧ fawnReg p i r.rd = true ∧ MetW ini p off (fun _ => True)) ∧
    (∃ ini : Ini, ∃ p : Nat, ∃ off : Nat, ∃ v : Nat, ∃ i : Nat, ∃ r : Ring, ringAt p off (·.rd) = some (r, i) ∧ r.rd.own
        = true ∧ pageKind p ≠ some .pq ∧ fawnReg p i r.rd = false ∧ MetW ini p off (fun u => ringOkRd (u.rd p r.cnt
        i) (u.rd p r.wr i) (v % 2 ^ r.rd.w) = true)) ∧
    (∃ ini : Ini, ∃ p : Nat, ∃ off : Nat, ∃ v : Nat, ∃ i : Nat, ∃ r : Ring, ringAt p off (·.rd) = some (r, i) ∧ r.rd.own
        = true ∧ pageKind p ≠ some .pq ∧ fawnReg p i r.rd = false ∧ MetW ini p off (fun u => ringOkRd (u.rd p r.cnt
        i) (u.rd p r.wr i) (v % 2 ^ r.rd.w) = false)) ∧
    (∃ ini : Ini, ∃ p : Nat, ∃ off : Nat, ∃ v : Nat, ∃ i : Nat, ∃ r : Ring, ringAt p off (·.cnt) = some (r, i) ∧
        pageKind p ≠ some .pq ∧ p ≠ pgErl ∧ fawnReg p i r.cnt = true ∧ MetW ini p off (fun _ => True)) ∧
    (∃ ini : Ini, ∃ p : Nat, ∃ off : Nat, ∃ v : Nat, ∃ i : Nat, ∃ r : Ring, ringAt p off (·.cnt) = some (r, i) ∧
        pageKind p ≠ some .pq ∧ p ≠ pgErl ∧ fawnReg p i r.cnt = false ∧ MetW ini p off (fun u => unlocked u p = true
        ∧ r.lo ≤ v % 2 ^ r.cnt.w ∧ v % 2 ^ r.cnt.w ≤ r.hi ∧ v % 2 ^ r.cnt.w % r.mult = 0 ∧ v % 2 ^ r.cnt.w ≠ u.rd p
        r.cnt i ∧ r.idle u p i = true)) ∧
    (∃ ini : Ini, ∃ p : Nat, ∃ e : EvtRegs, evtRegs p = some e ∧ MetW ini p e.evt.off (fun _ => True)) ∧
    (∃ part : Nat, ∃ t : Nat, Met (fun s => sfind s.notice part = some t ∧
        t + msTicks (s.rd pgVpt R.noticeHold) ≤ s.time)) := by
  refine ⟨?_, ?_, ?_, ?_, ?_, ?_, ?_⟩
  · exact (⟨.core 0, pgHmp0, 0x1E0, 1, 3, slotRing' pgHmp0, rfl, (by decide +kernel), (by decide +kernel),
        (by decide +kernel), ⟨R0, reached_of (by decide +kernel), trivial⟩⟩)
  · exact (⟨.core 0, 0x80, 0x160, 1, 1, slotRing' 0x80, rfl, (by decide +kernel), (by decide +kernel),
        (by decide +kernel), ⟨(R0.wr 0x80 R.cqWrIdx 1 1), reached_of (by decide +kernel), (by decide +kernel)⟩⟩)
  · exact (⟨.core 0, 0x80, 0x120, 2, 0, slotRing' 0x80, rfl, (by decide +kernel), (by decide +kernel),
        (by decide +kernel), ⟨(R0.wr 0x80 R.cqWrIdx 1), reached_of (by decide +kernel), (by decide +kernel)⟩⟩)
  · exact (⟨.core 0, pgHmp0, 0x1D8, 8, 3, slotRing' pgHmp0, rfl, (by decide +kernel), (by decide +kernel),
        (by decide +kernel), ⟨R0, reached_of (by decide +kernel), trivial⟩⟩)
  · exact (⟨.core 0, 0x80, 0x118, 8, 0, slotRing' 0x80, rfl, (by decide +kernel), (by decide +kernel),
        (by decide +kernel), ⟨R0.wr 0x80 R.cqWrIdx 3, reached_of (by decide +kernel), (by decide +kernel)⟩⟩)
  · exact (⟨.core 0, pgMon, evMon, rfl, ⟨R0.wr pgMon R.monEvt 5, reached_of (by decide +kernel), (by decide +kernel)⟩⟩)
  · exact (⟨7, 0, ⟨{ R0 with notice := [(7, 0)], time := 1000000000 }, (by decide +kernel)⟩⟩)

/-- The hypotheses of `Obligations.CsiPackets` can be met, clause by clause. -/
theorem wit_CsiPackets :
    (∃ port : Nat, ∃ vc : Nat, ∃ k : Nat, port < 12 ∧ Met (fun s => s.working (pgCsi port) = true ∧
        calm s (pgCsi port) = true ∧ routeVc (applySlots s port vc) port vc = some k)) ∧
    (∃ port : Nat, ∃ vc : Nat, port < 12 ∧ Met (fun s => s.working (pgCsi port) = true ∧ calm s (pgCsi port) = true ∧
        routeVc (applySlots s port vc) port vc = none)) ∧
    (∃ port : Nat, ∃ vc : Nat, ∃ k : Nat, port < 12 ∧ Met (fun s => s.working (pgCsi port) = true ∧
        calm s (pgCsi port) = true ∧ routeVc s port vc = some k)) ∧
    (∃ port : Nat, port < 12 ∧ Met (fun s => s.working (pgCsi port) = true ∧ calm s (pgCsi port) = true)) ∧
    (∃ port : Nat, ∃ vc : Nat, ∃ dt : Nat, ∃ k : Nat, port < 12 ∧ Met (fun s => s.working (pgCsi port) = true ∧
        calm s (pgCsi port) = true ∧ routeLong ((s.bump (pgCsi port) R.cntEcc2).raise (pgCsi port) 9) port vc dt =
        some k)) ∧
    (∃ port : Nat, ∃ s : State, s.working (pgCsi port) = false) := by
  refine ⟨?_, ?_, ?_, ?_, ?_, ?_⟩
  · exact (⟨11, 3, 47, (by decide +kernel), ⟨csi47, (by decide +kernel)⟩⟩)
  · exact (⟨11, 2, (by decide +kernel), ⟨csi47, (by decide +kernel)⟩⟩)
  · exact (⟨11, 3, 47, (by decide +kernel), ⟨csi47, (by decide +kernel)⟩⟩)
  · exact (⟨11, (by decide +kernel), ⟨csi47, (by decide +kernel)⟩⟩)
  · exact (⟨11, 3, 0x2B, 47, (by decide +kernel), ⟨csi47, (by decide +kernel)⟩⟩)
  · exact (⟨12, R0, (by decide +kernel)⟩)

/-- The hypotheses of `Obligations.StreamEvents` can be met, clause by clause. -/
theorem wit_StreamEvents :
    (∃ k : Nat, ∃ f : Sys2Proof.Machine.Frm, ∃ rest : List Sys2Proof.Machine.Frm,
        Met (fun s => (s.intake k).closed = f :: rest ∧ f.tb ≠ 1)) ∧
    (∃ k : Nat, ∃ f : Sys2Proof.Machine.Frm, Met (fun s => (s.intake k).closed.find? (fun x => x.tb == 1) = some f)) ∧
    (∃ k : Nat, k < 48 ∧ Met (fun s => s.rd (pgCtx k) R.stream = 2 ∧ s.rd (pgCtx k) R.lossTimeout ≠ 0 ∧ (s.intake
        k).pendOff = false ∧ (s.intake k).lastWr + 1000 * s.rd (pgCtx k) R.lossTimeout ≤ s.time)) ∧
    (∃ ini : Ini, ∃ k : Nat, k < 48 ∧ MetW ini (pgCtx k) 0x080 (fun u => u.on (pgCtx k) R.inEn = false ∧
        ringRulesOk u k = true)) ∧
    (∃ ini : Ini, ∃ k : Nat, k < 48 ∧ MetW ini (pgCtx k) 0x080 (fun u => u.on (pgCtx k) R.inEn = false ∧
        ringRulesOk u k = false)) ∧
    (∃ ini : Ini, ∃ k : Nat, k < 48 ∧ MetW ini (pgCtx k) 0x080 (fun u => u.on (pgCtx k) R.inEn = true ∧
        (u.intake k).cur = none)) ∧
    (∃ ini : Ini, ∃ k : Nat, k < 48 ∧ MetW ini (pgCtx k) 0x080 (fun u => u.on (pgCtx k) R.inEn = true ∧ (u.intake k).cur
        ≠ none)) ∧
    (∃ ini : Ini, ∃ k : Nat, k < 48 ∧ MetW ini (pgCtx k) 0x080 (fun u => u.rd (pgCtx k) R.goldValid ≠ 0xFFFF)) ∧
    (∃ ini : Ini, ∃ k : Nat, k < 48 ∧ MetW ini (pgCtx k) 0x080 (fun u => u.rd (pgCtx k) R.goldValid = 0xFFFF)) ∧
    (∃ port : Nat, ∃ lane : Nat, port < 12 ∧ Met (fun _ => lane < 4)) ∧
    (∃ port : Nat, port < 12) ∧
    (∃ port : Nat, port < 12 ∧ Met (fun s => s.working (pgCsi port) = true)) := by
  refine ⟨?_, ?_, ?_, ?_, ?_, ?_, ?_, ?_, ?_, ?_, ?_, ?_⟩
  · exact (⟨47, {}, [], ⟨R0.putIntake 47 { closed := [{}] }, (by decide +kernel)⟩⟩)
  · exact (⟨47, { tb := 1 }, ⟨R0.putIntake 47 { closed := [{ tb := 1 }] }, (by decide +kernel)⟩⟩)
  · exact (⟨47, (by decide +kernel), ⟨{ (R0.wr (pgCtx 47) R.stream 2).wr (pgCtx 47) R.lossTimeout 1 with time := 1000 },
        (by decide +kernel)⟩⟩)
  · exact (⟨.core 0, 47, (by decide +kernel), ⟨(((R0.wr (pgCtx 47) R.slotSize 4096).wr (pgCtx 47) R.width 64).wr
        (pgCtx 47) R.stride 128).wr (pgCtx 47) R.height 1, reached_of (by decide +kernel), (by decide +kernel)⟩⟩)
  · exact (⟨.core 0, 47, (by decide +kernel), ⟨R0, reached_of (by decide +kernel), (by decide +kernel)⟩⟩)
  · exact (⟨.core 0, 47, (by decide +kernel), ⟨R0.wr (pgCtx 47) R.inEn 1, reached_of (by decide +kernel),
        (by decide +kernel)⟩⟩)
  · exact (⟨.core 0, 47, (by decide +kernel), ⟨(R0.wr (pgCtx 47) R.inEn 1).putIntake 47 { cur := some {} }, reached_of
        (by decide +kernel), (by decide +kernel)⟩⟩)
  · exact (⟨.core 0, 47, (by decide +kernel), ⟨R0, reached_of (by decide +kernel), (by decide +kernel)⟩⟩)
  · exact (⟨.core 0, 47, (by decide +kernel), ⟨R0.wr (pgCtx 47) R.goldValid 0xFFFF, reached_of (by decide +kernel),
        (by decide +kernel)⟩⟩)
  · exact (⟨11, 3, (by decide +kernel), ⟨R0, (by decide +kernel)⟩⟩)
  · exact (⟨11, (by decide +kernel)⟩)
  · exact (⟨11, (by decide +kernel), ⟨wk R0 (pgCsi 11), (by decide +kernel)⟩⟩)

/-- The hypotheses of `Obligations.ImagePipes` can be met, clause by clause. -/
theorem wit_ImagePipes :
    (∃ pipe : Nat, ∃ k : Nat, pipe < 4 ∧ Met (fun s => s.working (pgIsp pipe) = true ∧ sfind s.ispRuns pipe = none ∧
        chooseCtx s pipe = some k)) ∧
    (∃ pipe : Nat, ∃ find : IspFind, ∃ noise : Cells, ∃ r : IspRun, pipe < 4 ∧ Met (fun s => sfind s.ispRuns pipe = some
        r ∧ r.second = false ∧ (ispProcess s pipe r find noise).2.1 = false ∧ injectNow (ispProcess s pipe r find
        noise).2.2 (pgIsp pipe) eResidue = false)) ∧
    (∃ pipe : Nat, ∃ find : IspFind, ∃ noise : Cells, ∃ r : IspRun, pipe < 4 ∧ Met (fun s => sfind s.ispRuns pipe = some
        r ∧ r.second = false ∧ (ispProcess s pipe r find noise).2.1 = true)) ∧
    (∃ pipe : Nat, ∃ find : IspFind, ∃ noise : Cells, ∃ r : IspRun, pipe < 4 ∧ Met (fun s => sfind s.ispRuns pipe = some
        r ∧ r.second = true ∧ (ispProcess s pipe r find noise).2.1 = false ∧ injectNow (ispProcess s pipe r find
        noise).2.2 (pgIsp pipe) eResidue = false)) ∧
    (∃ ini : Ini, ∃ k : Nat, k < 48 ∧ MetW ini (pgCtx k) 0x100 (fun u => cfaBad u k = false)) ∧
    (∃ ini : Ini, ∃ k : Nat, k < 48 ∧ MetW ini (pgCtx k) 0x100 (fun u => cfaBad u k = true)) ∧
    (∃ ini : Ini, ∃ k : Nat, ∃ off : Nat, k < 48 ∧ off % 4 = 0 ∧ 0x400 ≤ off ∧ off < 0xA40 ∧
        MetW ini (pgCtx k) off (fun u => (toneAt off).isSome = true ∧
        u.rd (pgCtx k) R.toneWrBank ≠ ispPar u k R.toneBank 0)) ∧
    (∃ ini : Ini, ∃ k : Nat, ∃ off : Nat, k < 48 ∧ off % 4 = 0 ∧ 0x400 ≤ off ∧ off < 0xA40 ∧
        MetW ini (pgCtx k) off (fun u => (toneAt off).isSome = true ∧
        u.rd (pgCtx k) R.toneWrBank = ispPar u k R.toneBank 0)) ∧
    (∃ ini : Ini, ∃ k : Nat, k < 48 ∧ MetW ini (pgCtx k) 0x100 (fun u => u.on (pgCtx k) R.ctxEn = false ∧
        (outsOf u k).all (fun o => outRulesOk u k o) = true)) ∧
    (∃ ini : Ini, ∃ k : Nat, k < 48 ∧ MetW ini (pgCtx k) 0x100 (fun u => ctxServed u k = false)) ∧
    (∃ ini : Ini, ∃ k : Nat, k < 48 ∧ MetW ini (pgCtx k) 0x100 (fun u => ctxServed u k = true)) := by
  refine ⟨?_, ?_, ?_, ?_, ?_, ?_, ?_, ?_, ?_, ?_, ?_⟩
  · exact (⟨3, 47, (by decide +kernel), ⟨isp47, (by decide +kernel)⟩⟩)
  · exact (⟨3, ⟨[], noSpot⟩, [], ispRun, (by decide +kernel), ⟨isp47r, (by decide +kernel)⟩⟩)
  · exact (⟨3, ⟨[badSum], noSpot⟩, [], ispRun, (by decide +kernel), ⟨isp47r, (by decide +kernel)⟩⟩)
  · exact (⟨3, ⟨[], noSpot⟩, [], { ispRun with second := true }, (by decide +kernel),
        ⟨{ isp47r with ispRuns := [(3, { ispRun with second := true })] }, (by decide +kernel)⟩⟩)
  · exact (⟨.core 0, 47, (by decide +kernel), ⟨R0, reached_of (by decide +kernel), (by decide +kernel)⟩⟩)
  · exact (⟨.core 0, 47, (by decide +kernel), ⟨R0.wr (pgCtx 47) R.cfaHi 0xA00000, reached_of (by decide +kernel),
        (by decide +kernel)⟩⟩)
  · exact (⟨.core 0, 47, 0x600, (by decide +kernel), (by decide +kernel), (by decide +kernel), (by decide +kernel),
        ⟨R0.wr (pgCtx 47) R.toneWrBank 1, reached_of (by decide +kernel), (by decide +kernel)⟩⟩)
  · exact (⟨.core 0, 47, 0x600, (by decide +kernel), (by decide +kernel), (by decide +kernel), (by decide +kernel),
        ⟨R0.wr (pgCtx 47) R.toneWrBank 0, reached_of (by decide +kernel), (by decide +kernel)⟩⟩)
  · exact (⟨.core 0, 47, (by decide +kernel), ⟨R0, reached_of (by decide +kernel), (by decide +kernel)⟩⟩)
  · exact (⟨.core 0, 47, (by decide +kernel), ⟨R0.wr (pgCtx 47) R.ctxEn 1, reached_of (by decide +kernel),
        (by decide +kernel)⟩⟩)
  · exact (⟨.core 0, 47, (by decide +kernel), ⟨{ isp47 with ispRuns := [(3, ispRun)] }, reached_of (by decide +kernel),
        (by decide +kernel)⟩⟩)

/-- The hypotheses of `Obligations.I3cControllers` can be met, clause by clause. -/
theorem wit_I3cControllers :
    (∃ ini : Ini, ∃ i : Nat, ∃ v : Nat, i < 12 ∧ v < 2 ^ 32 ∧ MetW ini (pgI3c i) 0x084 (fun u => v % 4 ≠ 3 ∧
        (u.i3c i).cmds.length < 16)) ∧
    (∃ ini : Ini, ∃ i : Nat, ∃ v : Nat, i < 12 ∧ v < 2 ^ 32 ∧
        MetW ini (pgI3c i) 0x084 (fun u => v % 4 = 3 ∨ 16 ≤ (u.i3c i).cmds.length)) ∧
    (∃ ini : Ini, ∃ i : Nat, i < 12 ∧ MetW ini (pgI3c i) 0x090 (fun u => (u.i3c i).tx.length + 1 ≤ 256)) ∧
    (∃ ini : Ini, ∃ i : Nat, i < 12 ∧ MetW ini (pgI3c i) 0x08C (fun u => (u.i3c i).tx.length + 4 ≤ 256)) ∧
    (∃ ini : Ini, ∃ i : Nat, i < 12 ∧ MetW ini (pgI3c i) 0x0A4 (fun _ => True)) ∧
    (∃ i : Nat, i < 12 ∧ Met (fun s => ∃ c r, (s.i3c i).cmds = c :: r ∧ (s.i3c i).run = false ∧ s.on (pgI3c i)
        R.i3cHalted = false ∧ s.working (pgI3c i) = true ∧ awake s = true ∧ (s.i3c i).resp.length < 16 ∧ (if
        cmdReads c then cmdLen c + (s.i3c i).rx.length ≤ 256 else cmdLen c ≤ (s.i3c i).tx.length))) ∧
    (∃ i : Nat, ∃ c : Nat × Nat, ∃ r : List (Nat × Nat), i < 12 ∧ Met (fun s => (s.i3c i).cmds = c :: r ∧
        (s.i3c i).run = true)) ∧
    (∃ i : Nat, ∃ c : Nat × Nat, ∃ r : List (Nat × Nat), i < 12 ∧ Met (fun s => (s.i3c i).cmds = c :: r ∧
        (s.i3c i).run = true ∧ (s.i3c i).nacked = false)) ∧
    (∃ i : Nat, ∃ a : Nat, ∃ data : List Nat, i < 12 ∧ a < 128 ∧ a ≠ 2 ∧ data.length ≤ 4 ∧
        Met (fun s => s.working (pgI3c i) = true ∧ s.rd (pgI3c i) R.i3cMode = 0 ∧ awake s = true ∧
        (s.i3c i).ibis.length < 8)) ∧
    (∃ i : Nat, ∃ a : Nat, ∃ data : List Nat, i < 12 ∧ a < 128 ∧ a ≠ 2 ∧ data.length ≤ 4 ∧
        Met (fun s => s.working (pgI3c i) = true ∧ s.rd (pgI3c i) R.i3cMode = 0 ∧ awake s = true ∧
        8 ≤ (s.i3c i).ibis.length)) ∧
    (∃ ini : Ini, ∃ i : Nat, ∃ b : Nat, ∃ r : List Nat, i < 12 ∧ MetP ini (pgI3c i) (fun u => (u.i3c i).rx = b :: r)) ∧
    (∃ ini : Ini, ∃ i : Nat, i < 12 ∧ MetP ini (pgI3c i) (fun u => (u.i3c i).rx = [])) ∧
    (∃ ini : Ini, ∃ i : Nat, ∃ b : Nat, ∃ r : List Nat, i < 12 ∧
        MetP ini (pgI3c i) (fun u => (u.i3c i).resp = b :: r)) ∧
    (∃ ini : Ini, ∃ i : Nat, i < 12 ∧ MetP ini (pgI3c i) (fun u => (u.i3c i).resp = [])) ∧
    (∃ ini : Ini, ∃ i : Nat, i < 12 ∧ MetP ini (pgI3c i) (fun u => (u.i3c i).ibis = [])) ∧
    (∃ ini : Ini, ∃ i : Nat, ∃ b : Nat, ∃ d : List Nat, ∃ q : List (Nat × List Nat), i < 12 ∧
        MetP ini (pgI3c i) (fun u => (u.i3c i).ibis = (b, d) :: q)) := by
  refine ⟨?_, ?_, ?_, ?_, ?_, ?_, ?_, ?_, ?_, ?_, ?_, ?_, ?_, ?_, ?_, ?_⟩
  · exact (⟨.core 0, 11, 0xFFFFFFFE, (by decide +kernel), (by decide +kernel), ⟨R0, reached_of (by decide +kernel),
        (by decide +kernel)⟩⟩)
  · exact (⟨.core 0, 11, 3, (by decide +kernel), (by decide +kernel), ⟨R0, reached_of (by decide +kernel),
        (by decide +kernel)⟩⟩)
  · exact (⟨.core 0, 11, (by decide +kernel), ⟨R0.putI3c 11 { tx := List.replicate 255 1 }, reached_of
        (by decide +kernel), (by decide +kernel)⟩⟩)
  · exact (⟨.core 0, 11, (by decide +kernel), ⟨R0.putI3c 11 { tx := List.replicate 252 1 }, reached_of
        (by decide +kernel), (by decide +kernel)⟩⟩)
  · exact (⟨.core 0, 11, (by decide +kernel), ⟨R0.wr (pgI3c 11) R.i3cHalted 1, reached_of (by decide +kernel),
        (by decide +kernel)⟩⟩)
  · exact (⟨11, (by decide +kernel), ⟨(wk R0 (pgI3c 11)).putI3c 11 { cmds := [(0, 0)], tx := [7] }, ⟨(0, 0), [], rfl, by decide +kernel⟩⟩⟩)
  · exact (⟨11, (1, 5), [], (by decide +kernel), ⟨R0.putI3c 11 { cmds := [(1, 5)], run := true }, (by decide +kernel)⟩⟩)
  · exact (⟨11, (1, 5), [], (by decide +kernel), ⟨R0.putI3c 11 { cmds := [(1, 5)], run := true }, (by decide +kernel)⟩⟩)
  · exact (⟨11, 127, [1, 2, 3, 4], (by decide +kernel), (by decide +kernel), (by decide +kernel), (by decide +kernel),
        ⟨wk R0 (pgI3c 11), (by decide +kernel)⟩⟩)
  · exact (⟨11, 127, [1], (by decide +kernel), (by decide +kernel), (by decide +kernel), (by decide +kernel), ⟨(wk R0
        (pgI3c 11)).putI3c 11 { ibis := List.replicate 8 (1, []) }, (by decide +kernel)⟩⟩)
  · exact (⟨.core 0, 11, 255, [3], (by decide +kernel), ⟨R0.putI3c 11 { rx := [255, 3] }, readable_of
        (by decide +kernel), (by decide +kernel)⟩⟩)
  · exact (⟨.core 0, 11, (by decide +kernel), ⟨R0, readable_of (by decide +kernel), (by decide +kernel)⟩⟩)
  · exact (⟨.core 0, 11, 5, [], (by decide +kernel), ⟨R0.putI3c 11 { resp := [5] }, readable_of (by decide +kernel),
        (by decide +kernel)⟩⟩)
  · exact (⟨.core 0, 11, (by decide +kernel), ⟨R0, readable_of (by decide +kernel), (by decide +kernel)⟩⟩)
  · exact (⟨.core 0, 11, (by decide +kernel), ⟨R0, readable_of (by decide +kernel), (by decide +kernel)⟩⟩)
  · exact (⟨.core 0, 11, 127, [1, 2, 3, 4], [], (by decide +kernel), ⟨R0.putI3c 11 { ibis := [(127, [1, 2, 3, 4])] },
        readable_of (by decide +kernel), (by decide +kernel)⟩⟩)

/-- The hypotheses of `Obligations.LineIo` can be met, clause by clause. -/
theorem wit_LineIo :
    (∃ ini : Ini, ∃ p : Nat, ∃ v : Nat, p < 24 ∧ MetW ini pgLio (0x100 + 4 * p) (fun u => unlocked u pgLio = true ∧
        (u.pin p).sw = none ∧ bitsOf v 3 0 ≤ 10 ∧ bitsOf v 6 4 < unitsFor (bitsOf v 3 0) ∧ bitsOf v 3 0 ≠ pinFn u
        p)) ∧
    (∃ ini : Ini, ∃ p : Nat, p < 24 ∧ MetW ini pgLio (0x100 + 4 * p) (fun u => (u.pin p).sw ≠ none)) ∧
    (∃ p : Nat, ∃ t : Nat, p < 24 ∧ Met (fun s => (s.pin p).sw = some t ∧ t ≤ s.time)) ∧
    (∃ p : Nat, ∃ x : Nat, p < 24 ∧ Met (fun s => (s.pin p).sw = none ∧ isInput (pinFn s p) = true ∧ s.rst.ph < 2 ∧
        ((s.pin p).level = none ∨ boardLevel s p x = none))) ∧
    (∃ e : Nat, ∃ a : Nat, ∃ b : Nat, ∃ p : Nat, ∃ q : Nat, ∃ oa : Bool, ∃ ob : Bool, ∃ na : Bool, ∃ nb : Bool, e < 4 ∧
        Met (fun s => serving s 3 e = some p ∧ serving s 4 e = some q ∧ (s.pin p).level = some oa ∧ (s.pin q).level
        = some ob ∧ boardLevel s p a = some na ∧ boardLevel s q b = some nb ∧ s.rst.ph < 2 ∧ oa ≠ na ∧ ob = nb)) ∧
    (∃ e : Nat, ∃ a : Nat, ∃ b : Nat, ∃ p : Nat, ∃ q : Nat, ∃ oa : Bool, ∃ ob : Bool, ∃ na : Bool, ∃ nb : Bool, e < 4 ∧
        Met (fun s => serving s 3 e = some p ∧ serving s 4 e = some q ∧ (s.pin p).level = some oa ∧ (s.pin q).level
        = some ob ∧ boardLevel s p a = some na ∧ boardLevel s q b = some nb ∧ s.rst.ph < 2 ∧ oa ≠ na ∧ ob ≠ nb)) ∧
    (∃ ini : Ini, ∃ t : Nat, ∃ v : Nat, t < 8 ∧ v < 2 ^ 32 ∧ MetW ini pgLio (0x280 + 0x20 * t + 4) (fun _ => True)) ∧
    (∃ ini : Ini, ∃ t : Nat, ∃ v : Nat, t < 8 ∧ v < 2 ^ 32 ∧ MetW ini pgLio (0x280 + 0x20 * t + 8) (fun _ => True)) ∧
    (∃ ini : Ini, ∃ t : Nat, ∃ v : Nat, t < 8 ∧ v < 2 ^ 32 ∧
        MetW ini pgLio (0x280 + 0x20 * t + 0) (fun _ => bitsOf v 1 0 ≠ 3)) ∧
    (∃ ini : Ini, ∃ t : Nat, ∃ v : Nat, t < 8 ∧ v < 2 ^ 32 ∧
        MetW ini pgLio (0x280 + 0x20 * t + 0) (fun _ => bitsOf v 1 0 = 3)) ∧
    (∃ t : Nat, ∃ g : Tg, t < 8 ∧ Met (fun s => awake s = true ∧ s.rst.ph = 0 ∧ causeDue s t = some g ∧
        g.wait = none ∧ g.last = none)) ∧
    (∃ t : Nat, ∃ g : Tg, t < 8 ∧ Met (fun s => awake s = true ∧ s.rst.ph = 0 ∧ causeDue s t = some g ∧
        g.wait ≠ none)) ∧
    (∃ t : Nat, ∃ w : Nat, t < 8 ∧ Met (fun s => (s.tg t).wait = some w ∧ w ≤ s.time)) ∧
    (∃ t : Nat, ∃ w : Nat, ∃ r : List Nat, t < 8 ∧ Met (fun s => (s.tg t).strobes = w :: r ∧ w ≤ s.time)) ∧
    (∃ t : Nat, ∃ w : Nat, t < 8 ∧ Met (fun s => (s.tg t).trigEnd = some w ∧ w ≤ s.time)) ∧
    (∃ t : Nat, ∃ w : Nat, t < 8 ∧ Met (fun s => (s.tg t).strobeEnd = some w ∧ w ≤ s.time)) ∧
    (∃ k : Nat, ∃ t : Nat, k < 4 ∧ Met (fun s => (s.pwm k).next = some t ∧ t ≤ s.time ∧ 2 ≤ s.rd pgLio R.pwmPeriod k ∧
        s.rd pgLio R.pwmHigh k ≤ s.rd pgLio R.pwmPeriod k ∧ 0 < s.rd pgLio R.pwmHigh k)) ∧
    (∃ k : Nat, ∃ t : Nat, k < 4 ∧ Met (fun s => (s.pwm k).next = some t ∧ t ≤ s.time ∧ s.rd pgLio R.pwmPeriod k = 1)) ∧
    (∃ k : Nat, ∃ t : Nat, k < 4 ∧ Met (fun s => (s.pwm k).fall = some t ∧ t ≤ s.time)) := by
  refine ⟨?_, ?_, ?_, ?_, ?_, ?_, ?_, ?_, ?_, ?_, ?_, ?_, ?_, ?_, ?_, ?_, ?_, ?_, ?_⟩
  · exact (⟨.core 0, 23, 0x33, (by decide +kernel), ⟨R0, reached_of (by decide +kernel), (by decide +kernel)⟩⟩)
  · exact (⟨.core 0, 23, (by decide +kernel), ⟨R0.putPin 23 { sw := some 6 }, reached_of (by decide +kernel),
        (by decide +kernel)⟩⟩)
  · exact (⟨23, 6, (by decide +kernel), ⟨{ R0.putPin 23 { sw := some 6 } with time := 6 }, (by decide +kernel)⟩⟩)
  · exact (⟨23, 1, (by decide +kernel), ⟨(R0.wr pgLio R.pinFunc 1 23), (by decide +kernel)⟩⟩)
  · exact (⟨3, 1, 0, 22, 23, false, false, true, false, (by decide +kernel), ⟨enc3, (by decide +kernel)⟩⟩)
  · exact (⟨3, 1, 1, 22, 23, false, false, true, true, (by decide +kernel), ⟨enc3, (by decide +kernel)⟩⟩)
  · exact (⟨.core 0, 7, 0xFFFFFFFF, (by decide +kernel), (by decide +kernel), ⟨R0, reached_of (by decide +kernel),
        (by decide +kernel)⟩⟩)
  · exact (⟨.core 0, 7, 0xFFFFFFFF, (by decide +kernel), (by decide +kernel), ⟨R0, reached_of (by decide +kernel),
        (by decide +kernel)⟩⟩)
  · exact (⟨.core 0, 7, 0xFFFFFFFE, (by decide +kernel), (by decide +kernel), ⟨R0, reached_of (by decide +kernel),
        (by decide +kernel)⟩⟩)
  · exact (⟨.core 0, 7, 3, (by decide +kernel), (by decide +kernel), ⟨R0, reached_of (by decide +kernel),
        (by decide +kernel)⟩⟩)
  · exact (⟨7, { next := 5 }, (by decide +kernel), ⟨tg7, (by decide +kernel)⟩⟩)
  · exact (⟨7, { next := 5, wait := some 3 }, (by decide +kernel), ⟨tg7.putTg 7 { wait := some 3 },
        (by decide +kernel)⟩⟩)
  · exact (⟨7, 0, (by decide +kernel), ⟨R0.putTg 7 { wait := some 0 }, (by decide +kernel)⟩⟩)
  · exact (⟨7, 0, [], (by decide +kernel), ⟨R0.putTg 7 { strobes := [0] }, (by decide +kernel)⟩⟩)
  · exact (⟨7, 0, (by decide +kernel), ⟨R0.putTg 7 { trigEnd := some 0 }, (by decide +kernel)⟩⟩)
  · exact (⟨7, 0, (by decide +kernel), ⟨R0.putTg 7 { strobeEnd := some 0 }, (by decide +kernel)⟩⟩)
  · exact (⟨3, 0, (by decide +kernel), ⟨((R0.wr pgLio R.pwmPeriod 2 3).wr pgLio R.pwmHigh 2 3).putPwm 3
        { next := some 0 }, (by decide +kernel)⟩⟩)
  · exact (⟨3, 0, (by decide +kernel), ⟨(R0.wr pgLio R.pwmPeriod 1 3).putPwm 3 { next := some 0 },
        (by decide +kernel)⟩⟩)
  · exact (⟨3, 0, (by decide +kernel), ⟨R0.putPwm 3 { fall := some 0 }, (by decide +kernel)⟩⟩)

/-- The hypotheses of `Obligations.Uarts` can be met, clause by clause. -/
theorem wit_Uarts :
    (∃ ini : Ini, ∃ n : Nat, n < 2 ∧ MetW ini pgLio (0x384 + 0x20 * n) (fun u => u.on pgLio R.uartEn n = true ∧
        (u.uart n).sending = none)) ∧
    (∃ ini : Ini, ∃ n : Nat, n < 2 ∧ MetW ini pgLio (0x384 + 0x20 * n) (fun u => u.on pgLio R.uartEn n = true ∧
        (u.uart n).sending ≠ none ∧ (u.uart n).tx.length < 64)) ∧
    (∃ ini : Ini, ∃ n : Nat, n < 2 ∧ MetW ini pgLio (0x384 + 0x20 * n) (fun u => u.on pgLio R.uartEn n = true ∧
        (u.uart n).sending ≠ none ∧ 64 ≤ (u.uart n).tx.length)) ∧
    (∃ ini : Ini, ∃ n : Nat, ∃ b : Nat, ∃ r : List Nat, n < 2 ∧ MetP ini pgLio (fun u => (u.uart n).rx = b :: r)) ∧
    (∃ ini : Ini, ∃ n : Nat, n < 2 ∧ MetP ini pgLio (fun u => (u.uart n).rx = [])) ∧
    (∃ n : Nat, n < 2 ∧ Met (fun s => s.on pgLio R.uartEn n = true ∧ (serving s 9 n).isSome = true ∧ awake s = true ∧
        (s.uart n).rx.length < 64 ∧ injectNow s pgLio 10 = false)) ∧
    (∃ n : Nat, n < 2 ∧ Met (fun s => s.on pgLio R.uartEn n = true ∧ (serving s 9 n).isSome = true ∧ awake s = true ∧
        64 ≤ (s.uart n).rx.length)) ∧
    (∃ n : Nat, ∃ b : Nat, n < 2 ∧ Met (fun s => (s.uart n).sending = some b)) := by
  refine ⟨?_, ?_, ?_, ?_, ?_, ?_, ?_, ?_⟩
  · exact (⟨.core 0, 1, (by decide +kernel), ⟨ua1, reached_of (by decide +kernel), (by decide +kernel)⟩⟩)
  · exact (⟨.core 0, 1, (by decide +kernel), ⟨ua1.putUart 1 { sending := some 1, tx := List.replicate 63 2 }, reached_of
        (by decide +kernel), (by decide +kernel)⟩⟩)
  · exact (⟨.core 0, 1, (by decide +kernel), ⟨ua1.putUart 1 { sending := some 1, tx := List.replicate 64 2 }, reached_of
        (by decide +kernel), (by decide +kernel)⟩⟩)
  · exact (⟨.core 0, 1, 0x355, [], (by decide +kernel), ⟨ua1.putUart 1 { rx := [0x355] }, readable_of
        (by decide +kernel), (by decide +kernel)⟩⟩)
  · exact (⟨.core 0, 1, (by decide +kernel), ⟨R0, readable_of (by decide +kernel), (by decide +kernel)⟩⟩)
  · exact (⟨1, (by decide +kernel), ⟨ua1.putUart 1 { rx := List.replicate 63 2 }, (by decide +kernel)⟩⟩)
  · exact (⟨1, (by decide +kernel), ⟨ua1.putUart 1 { rx := List.replicate 64 2 }, (by decide +kernel)⟩⟩)
  · exact (⟨1, 9, (by decide +kernel), ⟨ua1.putUart 1 { sending := some 9, tx := [4, 5] }, (by decide +kernel)⟩⟩)

/-- The hypotheses of `Obligations.RegisterWrites` can be met, clause by clause. -/
theorem wit_RegisterWrites :
    (∃ ini : Ini, ∃ p : Nat, ∃ off : Nat, ∃ v : Nat, off % 4 = 0 ∧ off < 4096 ∧ off ≠ 0x020 ∧ p < 0x100 ∧ v < 2 ^ 32 ∧
        MetW ini p off (fun u => wordFields u p off = [])) ∧
    (∃ ini : Ini, ∃ p : Nat, ∃ off : Nat, ∃ v : Nat, off % 4 = 0 ∧ off < 4096 ∧ off ≠ 0x020 ∧ p < 0x100 ∧ v < 2 ^ 32 ∧
        staHole p off = true ∧ MetW ini p off (fun u => wordFields u p off ≠ [])) ∧
    (∃ ini : Ini, ∃ p : Nat, ∃ off : Nat, ∃ v : Nat, ∃ i : Nat, ∃ f : Fld, off % 4 = 0 ∧ off < 4096 ∧ off ≠ 0x020 ∧ p <
        0x100 ∧ v < 2 ^ 32 ∧ staHole p off = false ∧ f.q = false ∧ fawnReg p i f = true ∧ MetW ini p off (fun u =>
        wordFields u p off = [(f, i)])) ∧
    (∃ ini : Ini, ∃ p : Nat, ∃ off : Nat, ∃ v : Nat, ∃ i : Nat, ∃ f : Fld, off % 4 = 0 ∧ off < 4096 ∧ off ≠ 0x020 ∧ p <
        0x100 ∧ v < 2 ^ 32 ∧ staHole p off = false ∧ f.q = false ∧ f.own = false ∧ fawnReg p i f = false ∧ f.acc =
        .rw ∧ f.guard = .free ∧ f.hook = .none ∧ f.p0 = false ∧ okVal f.ok (partOf f i v) = true ∧ f.off ≠ 0x018 ∧
        MetW ini p off (fun u => wordFields u p off = [(f, i)] ∧ injectNow u p eProg = false)) ∧
    (∃ ini : Ini, ∃ p : Nat, ∃ off : Nat, ∃ v : Nat, ∃ i : Nat, ∃ f : Fld, off % 4 = 0 ∧ off < 4096 ∧ off ≠ 0x020 ∧ p <
        0x100 ∧ v < 2 ^ 32 ∧ staHole p off = false ∧ f.q = false ∧ f.own = false ∧ fawnReg p i f = false ∧ f.acc =
        .rw ∧ f.guard = .free ∧ f.hook = .none ∧ f.p0 = false ∧ 0x080 ≤ f.off ∧ MetW ini p off (fun u => wordFields
        u p off = [(f, i)] ∧ injectNow u p eProg = true)) ∧
    (∃ ini : Ini, ∃ p : Nat, ∃ off : Nat, ∃ v : Nat, ∃ i : Nat, ∃ f : Fld, off % 4 = 0 ∧ off < 4096 ∧ off ≠ 0x020 ∧ p <
        0x100 ∧ v < 2 ^ 32 ∧ staHole p off = false ∧ f.q = false ∧ f.own = false ∧ fawnReg p i f = false ∧ f.acc =
        .rw ∧ f.guard = .free ∧ f.hook = .none ∧ f.p0 = false ∧ okVal f.ok (partOf f i v) = false ∧ f.off ≠ 0x018 ∧
        MetW ini p off (fun u => wordFields u p off = [(f, i)])) ∧
    (∃ ini : Ini, ∃ p : Nat, ∃ off : Nat, ∃ v : Nat, ∃ i : Nat, ∃ f : Fld, off % 4 = 0 ∧ off < 4096 ∧ off ≠ 0x020 ∧ p <
        0x100 ∧ v < 2 ^ 32 ∧ staHole p off = false ∧ f.q = false ∧ f.own = false ∧ fawnReg p i f = false ∧ f.acc =
        .rw ∧ f.guard = .free ∧ f.hook = .none ∧ f.p0 = false ∧ okVal f.ok (Nat.land (partOf f i v) (errMask p)) =
        true ∧ f.off = 0x018 ∧ MetW ini p off (fun u => wordFields u p off = [(f, i)])) ∧
    (∃ ini : Ini, ∃ p : Nat, ∃ off : Nat, ∃ v : Nat, ∃ i : Nat, ∃ f : Fld, off % 4 = 0 ∧ off < 4096 ∧ off ≠ 0x020 ∧ p <
        0x100 ∧ v < 2 ^ 32 ∧ staHole p off = false ∧ f.q = false ∧ f.own = false ∧ fawnReg p i f = false ∧ f.acc =
        .ro ∧ MetW ini p off (fun u => wordFields u p off = [(f, i)])) ∧
    (∃ ini : Ini, ∃ p : Nat, ∃ off : Nat, ∃ v : Nat, ∃ i : Nat, ∃ f : Fld, ∃ l : List (Fld × Nat), off % 4 = 0 ∧ off <
        4096 ∧ off ≠ 0x020 ∧ p < 0x100 ∧ v < 2 ^ 32 ∧ staHole p off = false ∧ f.q = false ∧ f.own = false ∧ fawnReg
        p i f = false ∧ f.acc = .w1c ∧ (∀ x ∈ l, x.1.acc = .ro) ∧ MetW ini p off (fun u => wordFields u p off = l ++
        [(f, i)])) ∧
    (∃ ini : Ini, ∃ p : Nat, ∃ off : Nat, ∃ v : Nat, ∃ i : Nat, ∃ f : Fld, off % 4 = 0 ∧ off < 4096 ∧ off ≠ 0x020 ∧ p <
        0x100 ∧ v < 2 ^ 32 ∧ staHole p off = false ∧ f.q = false ∧ f.own = false ∧ fawnReg p i f = false ∧ f.acc =
        .rwl ∧ MetW ini p off (fun u => wordFields u p off = [(f, i)] ∧ u.rd p R.lock ≠ 0)) := by
  refine ⟨?_, ?_, ?_, ?_, ?_, ?_, ?_, ?_, ?_, ?_⟩
  · exact (⟨.core 0, 0, 0xFFC, 0, (by decide +kernel), (by decide +kernel), (by decide +kernel), (by decide +kernel),
        (by decide +kernel), ⟨R0, reached_of (by decide +kernel), (by decide +kernel)⟩⟩)
  · exact (⟨.core 0, pgSta 1, 0x110, 1, (by decide +kernel), (by decide +kernel), (by decide +kernel),
        (by decide +kernel), (by decide +kernel), (by decide +kernel), ⟨R0, reached_of (by decide +kernel),
        (by decide +kernel)⟩⟩)
  · exact (⟨.core 0, pgHmp0, 0x1D8, 8, 3, R.cqCount, (by decide +kernel), (by decide +kernel), (by decide +kernel),
        (by decide +kernel), (by decide +kernel), (by decide +kernel), (by decide +kernel), (by decide +kernel),
        ⟨R0, reached_of (by decide +kernel), (by decide +kernel)⟩⟩)
  · exact (⟨.core 0, pgPwr, 0x0A8, 800, 0, R.railWait, (by decide +kernel), (by decide +kernel), (by decide +kernel),
        (by decide +kernel), (by decide +kernel), (by decide +kernel), (by decide +kernel), (by decide +kernel),
        (by decide +kernel), (by decide +kernel), (by decide +kernel), (by decide +kernel), (by decide +kernel),
        (by decide +kernel), (by decide +kernel), ⟨R0, reached_of (by decide +kernel), (by decide +kernel)⟩⟩)
  · exact (⟨.core 0, pgPwr, 0x0A8, 800, 0, R.railWait, (by decide +kernel), (by decide +kernel), (by decide +kernel),
        (by decide +kernel), (by decide +kernel), (by decide +kernel), (by decide +kernel), (by decide +kernel),
        (by decide +kernel), (by decide +kernel), (by decide +kernel), (by decide +kernel), (by decide +kernel),
        (by decide +kernel), ⟨(R0.wr pgPwr R.injArm 1).wr pgPwr R.injBit eProg, reached_of (by decide +kernel),
        (by decide +kernel)⟩⟩)
  · exact (⟨.core 0, pgPwr, 0x0A8, 801, 0, R.railWait, (by decide +kernel), (by decide +kernel), (by decide +kernel),
        (by decide +kernel), (by decide +kernel), (by decide +kernel), (by decide +kernel), (by decide +kernel),
        (by decide +kernel), (by decide +kernel), (by decide +kernel), (by decide +kernel), (by decide +kernel),
        (by decide +kernel), (by decide +kernel), ⟨R0, reached_of (by decide +kernel), (by decide +kernel)⟩⟩)
  · exact (⟨.core 0, pgCsi 11, 0x018, 0xFFFFFFFF, 0, R.pageErrMask, (by decide +kernel), (by decide +kernel),
        (by decide +kernel), (by decide +kernel), (by decide +kernel), (by decide +kernel), (by decide +kernel),
        (by decide +kernel), (by decide +kernel), (by decide +kernel), (by decide +kernel), (by decide +kernel),
        (by decide +kernel), (by decide +kernel), (by decide +kernel), ⟨R0, reached_of (by decide +kernel),
        (by decide +kernel)⟩⟩)
  · exact (⟨.core 0, 0, 8, 0xFFFFFFFF, 0, ((wordFields R0 0 8).headD (R.lock, 0)).1, (by decide +kernel),
        (by decide +kernel), (by decide +kernel), (by decide +kernel), (by decide +kernel), (by decide +kernel),
        (by decide +kernel), (by decide +kernel), (by decide +kernel), (by decide +kernel), ⟨R0, reached_of
        (by decide +kernel), (by decide +kernel)⟩⟩)
  · exact (⟨.core 0, 0, 0x010, 0xF00, 0, R.perfOvf, (wordFields R0 0 0x010).take 4, (by decide +kernel),
        (by decide +kernel), (by decide +kernel), (by decide +kernel), (by decide +kernel), (by decide +kernel),
        (by decide +kernel), (by decide +kernel), (by decide +kernel), (by decide +kernel), (by decide +kernel),
        ⟨R0.wr 0 R.perfOvf 3, reached_of (by decide +kernel), (by decide +kernel)⟩⟩)
  · exact (⟨.core 0, 0x10, 0x090, 5, 0, ((wordFields R0 0x10 0x090).headD (R.lock, 0)).1, (by decide +kernel),
        (by decide +kernel), (by decide +kernel), (by decide +kernel), (by decide +kernel), (by decide +kernel),
        (by decide +kernel), (by decide +kernel), (by decide +kernel), (by decide +kernel), ⟨R0.wr 0x10 R.lock 1,
        reached_of (by decide +kernel), (by decide +kernel)⟩⟩)

/-- The hypotheses of `Obligations.WideRegistersAndReads` can be met, clause by clause. -/
theorem wit_WideRegistersAndReads :
    (∃ ini : Ini, ∃ p : Nat, ∃ lo : Nat, ∃ s : State, lo % 4 = 0 ∧ lo < 4096 ∧ Reached s ini p lo ∧ heldQuad s p lo =
        some lo ∧ staHole p lo = false) ∧
    (∃ ini : Ini, ∃ p : Nat, ∃ lo : Nat, ∃ s : State, lo % 4 = 0 ∧ lo < 4096 ∧ Reached s ini p lo ∧ heldQuad s p lo =
        some lo ∧ staHole p lo = false ∧ lo % 8 = 0) ∧
    (∃ ini : Ini, ∃ p : Nat, ∃ lo : Nat, ∃ s : State, ∃ h : Hold, lo % 4 = 0 ∧ lo < 4096 ∧ Reached s ini p (lo + 4) ∧
        heldQuad s p (lo + 4) = some lo ∧ staHole p (lo + 4) = false ∧ (admitted s ini).holds.find? (fun h => h.page
        == p && h.ini == ini && h.off == lo) = some h) ∧
    (∃ ini : Ini, ∃ p : Nat, ∃ lo : Nat, ∃ s : State, lo % 4 = 0 ∧ lo < 4096 ∧ Reached s ini p (lo + 4) ∧ heldQuad s p
        (lo + 4) = some lo ∧ staHole p (lo + 4) = false ∧ (∀ h ∈ (admitted s ini).holds, ¬(h.page = p ∧ h.ini = ini
        ∧ h.off = lo))) ∧
    (∃ ini : Ini, ∃ p : Nat, ∃ off : Nat, ∃ s : State, off % 4 = 0 ∧ off < 4096 ∧ isPop p off = false ∧ Readable s ini p
        ∧ wordFields (hostWake s ini) p off = []) ∧
    (∃ ini : Ini, ∃ p : Nat, ∃ off : Nat, ∃ s : State, off % 4 = 0 ∧ off < 4096 ∧ isPop p off = false ∧ Readable s ini p
        ∧ wordFields (hostWake s ini) p off ≠ [] ∧ tcmShut (hostWake s ini) p off = true) ∧
    (∃ ini : Ini, ∃ p : Nat, ∃ off : Nat, ∃ s : State, off % 4 = 0 ∧ off < 4096 ∧ isPop p off = false ∧ Readable s ini p
        ∧ wordFields (hostWake s ini) p off ≠ [] ∧ tcmShut (hostWake s ini) p off = false ∧ quadOf (hostWake s ini)
        p off = none ∧ snapVal (hostWake s ini) ini p off = none) ∧
    (∃ ini : Ini, ∃ p : Nat, ∃ off : Nat, ∃ s : State, off % 4 = 0 ∧ off < 4096 ∧ isPop p off = false ∧ Readable s ini p
        ∧ wordFields (hostWake s ini) p off ≠ [] ∧ tcmShut (hostWake s ini) p off = false ∧ quadOf (hostWake s ini)
        p off = some off ∧ off ≠ 0x0E8 ∧ snapVal (hostWake s ini) ini p 0x0E8 = none) ∧
    (∃ ini : Ini, ∃ p : Nat, ∃ off : Nat, ∃ lo : Nat, ∃ v : Nat, ∃ s : State, off % 4 = 0 ∧ off < 4096 ∧ isPop p off =
        false ∧ Readable s ini p ∧ wordFields (hostWake s ini) p off ≠ [] ∧ tcmShut (hostWake s ini) p off = false ∧
        quadOf (hostWake s ini) p off = some lo ∧ lo ≠ off ∧ snapVal (hostWake s ini) ini p lo = some v) ∧
    (∃ ini : Ini, ∃ p : Nat, ∃ off : Nat, ∃ lo : Nat, ∃ s : State, off % 4 = 0 ∧ off < 4096 ∧ isPop p off = false ∧
        Readable s ini p ∧ wordFields (hostWake s ini) p off ≠ [] ∧ tcmShut (hostWake s ini) p off = false ∧ quadOf
        (hostWake s ini) p off = some lo ∧ lo ≠ off ∧ snapVal (hostWake s ini) ini p lo = none) := by
  refine ⟨?_, ?_, ?_, ?_, ?_, ?_, ?_, ?_, ?_, ?_⟩
  · exact (⟨.core 0, pgPwr, 0x098, R0, (by decide +kernel), (by decide +kernel), reached_of (by decide +kernel),
        (by decide +kernel), (by decide +kernel)⟩)
  · exact (⟨.core 0, pgPwr, 0x098, R0, (by decide +kernel), (by decide +kernel), reached_of (by decide +kernel),
        (by decide +kernel), (by decide +kernel), (by decide +kernel)⟩)
  · exact (⟨.core 0, pgPwr, 0x098, { R0 with holds := [⟨pgPwr, .core 0, 0x098, 7⟩] }, ⟨pgPwr, .core 0, 0x098, 7⟩,
        (by decide +kernel), (by decide +kernel), reached_of (by decide +kernel), (by decide +kernel),
        (by decide +kernel), (by decide +kernel)⟩)
  · exact (⟨.core 0, pgPwr, 0x098, { R0 with holds := [⟨pgPwr, .dap, 0x098, 7⟩] }, (by decide +kernel),
        (by decide +kernel), reached_of (by decide +kernel), (by decide +kernel), (by decide +kernel),
        (by decide +kernel)⟩)
  · exact (⟨.core 0, 0, 0xFFC, R0, (by decide +kernel), (by decide +kernel), (by decide +kernel), readable_of
        (by decide +kernel), (by decide +kernel)⟩)
  · exact (⟨.core 0, pgCc 0, R.tcmData.off, R0.wr (pgCc 0) R.ccState 1, (by decide +kernel), (by decide +kernel),
        (by decide +kernel), readable_of (by decide +kernel), (by decide +kernel), (by decide +kernel)⟩)
  · exact (⟨.core 0, 0, 0x0, R0, (by decide +kernel), (by decide +kernel), (by decide +kernel), readable_of
        (by decide +kernel), (by decide +kernel), (by decide +kernel), (by decide +kernel), (by decide +kernel)⟩)
  · exact (⟨.core 0, pgPwr, 0x098, R0.wr pgPwr R.wakeTime 0x100000003, (by decide +kernel), (by decide +kernel),
        (by decide +kernel), readable_of (by decide +kernel), (by decide +kernel), (by decide +kernel),
        (by decide +kernel), (by decide +kernel), (by decide +kernel)⟩)
  · exact (⟨.core 0, pgPwr, 0x09C, 0x098, 0x700000000, { R0 with snaps := [⟨pgPwr, .core 0, [(0x098, 0x700000000)]⟩] },
        (by decide +kernel), (by decide +kernel), (by decide +kernel), readable_of (by decide +kernel),
        (by decide +kernel), (by decide +kernel), (by decide +kernel), (by decide +kernel), (by decide +kernel)⟩)
  · exact (⟨.core 0, pgPwr, 0x09C, 0x098, R0.wr pgPwr R.wakeTime 0x100000003, (by decide +kernel), (by decide +kernel),
        (by decide +kernel), readable_of (by decide +kernel), (by decide +kernel), (by decide +kernel),
        (by decide +kernel), (by decide +kernel), (by decide +kernel)⟩)

/-- The hypotheses of `Obligations.HostAccesses` can be met, clause by clause. -/
theorem wit_HostAccesses :
    (∃ ini : Ini, ∃ p : Nat, ∃ off : Nat, ∃ n : Nat, ∃ s : State, n ≠ 0 ∧ off < 4096 ∧ Reached s ini p (off / 4 * 4) ∧
        n ≤ 8 ∧ off + n ≤ 4096 ∧ (¬((n = 4 ∨ n = 8) ∧ off % n = 0))) ∧
    (∃ ini : Ini, ∃ p : Nat, ∃ off : Nat, ∃ n : Nat, ∃ s : State, n ≠ 0 ∧ off < 4096 ∧ busOk s ini = true ∧
        pageKind p ≠ none ∧ (8 < n ∨ 4096 < off + n) ∧ mayWrite (hostWake s ini) ini p (off / 4 * 4) = true) ∧
    (∃ fn : Nat, ∃ off : Nat, ∃ n : Nat, ∃ s : State, n ≠ 0 ∧ off < 4096 ∧ busOk s (.fn fn) = true) ∧
    (∃ n : Nat, ∃ off : Nat, ∃ len : Nat, ∃ s : State, n < 8 ∧ 0 < len ∧ off / 64 = (off + len - 1) / 64 ∧ targetOf off
        = .svm ∧ busOk s (.fn n) = true ∧ freeTid (hostWake s (.fn n)) n = none) ∧
    (∃ n : Nat, ∃ off : Nat, ∃ len : Nat, ∃ s : State, n < 8 ∧ 0 < len ∧ off / 64 = (off + len - 1) / 64 ∧ targetOf off
        = .svm ∧ busOk s (.fn n) = true ∧ freeTid (hostWake s (.fn n)) n ≠ none ∧ injectNow (hostWake s (.fn n))
        pgFab 12 = false ∧ s.eccBad = [] ∧ judge (hostWake s (.fn n)) ⟨n, n, 2⟩ opRead off len = .pass) ∧
    (∃ n : Nat, ∃ off : Nat, ∃ len : Nat, ∃ s : State, n < 8 ∧ 0 < len ∧ off / 64 = (off + len - 1) / 64 ∧ targetOf off
        = .svm ∧ busOk s (.fn n) = true ∧ freeTid (hostWake s (.fn n)) n ≠ none ∧ injectNow (hostWake s (.fn n))
        pgFab 12 = false ∧ s.eccBad = [] ∧ judge (hostWake s (.fn n)) ⟨n, n, 2⟩ opWrite off len = .pass) ∧
    (∃ n : Nat, ∃ off : Nat, ∃ len : Nat, ∃ s : State, n < 8 ∧ 0 < len ∧ off / 64 = (off + len - 1) / 64 ∧ targetOf off
        = .svm ∧ busOk s (.fn n) = true ∧ freeTid (hostWake s (.fn n)) n ≠ none ∧ injectNow (hostWake s (.fn n))
        pgFab 12 = false ∧ judge (hostWake s (.fn n)) ⟨n, n, 2⟩ opRead off len = .deny 0) := by
  refine ⟨?_, ?_, ?_, ?_, ?_, ?_, ?_⟩
  · exact (⟨.core 0, 0, 2, 4, R0, (by decide +kernel), (by decide +kernel), reached_of (by decide +kernel),
        (by decide +kernel), (by decide +kernel), (by decide +kernel)⟩)
  · exact (⟨.core 0, 0, 4092, 5, R0, (by decide +kernel), (by decide +kernel), (by decide +kernel),
        (by decide +kernel), (by decide +kernel), (by decide +kernel)⟩)
  · exact (⟨0, 0, 4, fnUp R0 0, (by decide +kernel), (by decide +kernel), (by decide +kernel)⟩)
  · exact (⟨7, 63, 1, portFull (fnUp R0 7) 7, (by decide +kernel), (by decide +kernel), (by decide +kernel),
        (by decide +kernel), (by decide +kernel), (by decide +kernel)⟩)
  · exact (⟨7, 63, 1, (openFw (fnUp R0 7) 0).store 63 [5], (by decide +kernel), (by decide +kernel),
        (by decide +kernel), (by decide +kernel), (by decide +kernel), (by decide +kernel), (by decide +kernel),
        (by decide +kernel), (by decide +kernel)⟩)
  · exact (⟨7, 0x05FFFFC0, 64, openFw (fnUp R0 7) 0, (by decide +kernel), (by decide +kernel), (by decide +kernel),
        (by decide +kernel), (by decide +kernel), (by decide +kernel), (by decide +kernel), (by decide +kernel),
        (by decide +kernel)⟩)
  · exact (⟨7, 64, 64, fnUp R0 7, (by decide +kernel), (by decide +kernel), (by decide +kernel), (by decide +kernel),
        (by decide +kernel), (by decide +kernel), (by decide +kernel), (by decide +kernel)⟩)

/-- The hypotheses of `Obligations.Partitions` can be met, clause by clause. -/
theorem wit_Partitions :
    (∃ ini : Ini, MetW ini pgFab 0x0A4 (fun u => p0Ok u ini = true ∧ u.rd pgFab R.partSel ≠ 0 ∧
        u.rd pgFab R.partState (u.rd pgFab R.partSel) = ptFree)) ∧
    (∃ ini : Ini, MetW ini pgFab 0x0A4 (fun u => p0Ok u ini = true ∧
        (u.rd pgFab R.partSel = 0 ∨ u.rd pgFab R.partState (u.rd pgFab R.partSel) ≠ ptFree))) ∧
    (∃ ini : Ini, MetW ini pgFab 0x0A4 (fun u => p0Ok u ini = true ∧ u.rd pgFab R.partSel ≠ 0 ∧
        u.rd pgFab R.partState (u.rd pgFab R.partSel) = ptActive ∧ graphsOf u (u.rd pgFab R.partSel) = [] ∧
        pagesOf u (u.rd pgFab R.partSel) = [])) ∧
    (∃ n : Nat, ∃ t : Tear, Met (fun s => s.tears = [t] ∧ t.part = n ∧ t.filling = false ∧ t.fills = [] ∧
        t.shared = [] ∧ n < 8 ∧ outstanding s n = false ∧ pagesOf s n = [])) ∧
    (∃ t : Tear, Met (fun s => s.tears = [t] ∧ t.filling = true ∧ t.part < 8)) ∧
    (∃ ini : Ini, MetW ini pgFab 0x094 (fun u => p0Ok u ini = true ∧ unlocked u pgFab = true ∧
        u.on pgFab R.regEn (regIx (u.rd pgFab R.fwSel) (u.rd pgFab R.regionSel)) = false)) := by
  refine ⟨?_, ?_, ?_, ?_, ?_, ?_⟩
  · exact (⟨.core 0, ⟨R0.wr pgFab R.partSel 7, reached_of (by decide +kernel), (by decide +kernel)⟩⟩)
  · exact (⟨.core 0, ⟨R0, reached_of (by decide +kernel), (by decide +kernel)⟩⟩)
  · exact (⟨.core 0, ⟨(R0.wr pgFab R.partSel 7).wr pgFab R.partState ptActive 7, reached_of (by decide +kernel),
        (by decide +kernel)⟩⟩)
  · exact (⟨7, { part := 7 }, ⟨{ R0.wr pgFab R.partState ptTearing 7 with tears := [{ part := 7 }] },
        (by decide +kernel)⟩⟩)
  · exact (⟨{ part := 7, filling := true, fills := [(extBase, 4096)] },
        ⟨{ R0 with tears := [{ part := 7, filling := true, fills := [(extBase, 4096)] }], mem := [(extBase, 5)] },
        (by decide +kernel)⟩⟩)
  · exact (⟨.core 0, ⟨R0.wr pgFab R.regionSel 31, reached_of (by decide +kernel), (by decide +kernel)⟩⟩)

/-- The hypotheses of `Obligations.Transactions` can be met, clause by clause. -/
theorem wit_Transactions :
    (∃ init : Nat, ∃ tid : Nat, ∃ sub : Nat, ∃ a : Nat, ∃ n : Nat, ∃ g : Tag, Met (fun s => initExists init = true ∧ tid
        < 64 ∧ tagOf s init sub = some g ∧ (s.txn init tid).busy = false ∧ slotHeld (s.txn init tid) = false ∧ 0 < n
        ∧ n ≤ 512 ∧ a / 4096 = (a + n - 1) / 4096 ∧ targetOf a = .svm ∧ s.eccBad = [] ∧ injectNow s pgFab 12 = false
        ∧ judge s g opRead a n = .pass)) ∧
    (∃ init : Nat, ∃ tid : Nat, ∃ epoch : Nat, ∃ x : Txn, Met (fun s => s.txn init tid = x ∧ x.busy = true ∧ x.epoch =
        epoch ∧ x.ready = true ∧ s.time < x.issued + x.limit)) ∧
    (∃ init : Nat, ∃ tid : Nat, ∃ epoch : Nat, ∃ x : Txn, Met (fun s => s.txn init tid = x ∧ x.epoch ≠ epoch)) ∧
    (∃ init : Nat, ∃ tid : Nat, ∃ x : Txn, Met (fun s => s.txn init tid = x ∧ x.busy = true ∧
        x.issued + x.limit ≤ s.time ∧ targetOf x.addr ≠ .pcie ∧ x.old.contains ((x.epoch + 2) % 16) = false ∧
        x.epoch < 16)) := by
  refine ⟨?_, ?_, ?_, ?_⟩
  · exact (⟨0x2B, 63, 3, 0xFC0, 64, ⟨0x2B, 0, 1⟩, ⟨openFw R0 0, (by decide +kernel)⟩⟩)
  · exact (⟨0x20, 63, 15, { busy := true, limit := 400, epoch := 15, ready := true, value := 5 }, ⟨R0.putTxn 0x20 63
        { busy := true, limit := 400, epoch := 15, ready := true, value := 5 }, (by decide +kernel)⟩⟩)
  · exact (⟨0x20, 63, 15, { old := [15] }, ⟨R0.putTxn 0x20 63 { old := [15] }, (by decide +kernel)⟩⟩)
  · exact (⟨0x20, 63, { busy := true, limit := 400, epoch := 15 },
        ⟨{ R0.putTxn 0x20 63 { busy := true, limit := 400, epoch := 15 } with time := 400 }, (by decide +kernel)⟩⟩)

/-- The hypotheses of `Obligations.ExternalMemory` can be met, clause by clause. -/
theorem wit_ExternalMemory :
    (∃ ini : Ini, ∃ i : Nat, i < 4 ∧ MetW ini (pgLpc i) 0x084 (fun u => u.lpc i = lpOff ∧ lpcSame u = true)) ∧
    (∃ ini : Ini, ∃ i : Nat, i < 4 ∧ MetW ini (pgLpc i) 0x084 (fun u => u.lpc i ≠ lpOff)) ∧
    (∃ i : Nat, ∃ k : Nat, i < 4 ∧ Met (fun s => s.lpc i = lpTraining ∧ (∀ k, k < 4 → s.lpc k ≠ lpOff) ∧
        lpcSame s = true)) ∧
    (∃ i : Nat, ∃ k : Nat, i < 4 ∧ Met (fun s => ∀ k, k < 4 → s.lpc k = lpFilling)) ∧
    (∃ i : Nat, i < 4 ∧ Met (fun s => s.on pgScr R.patrolEn = true ∧ extReady s = true ∧
        s.on pgScr R.zfActive = false ∧ s.poisoned = [] ∧ s.rd pgScr R.patrolPos + 64 < usableBytes s ∧
        targetOf (extBase + s.rd pgScr R.patrolPos) = .ext)) ∧
    (∃ i : Nat, ∃ r : Reread, i < 4 ∧ Met (fun s => s.rereads = [r])) ∧
    (∃ ini : Ini, ∃ i : Nat, i < 4 ∧ MetW ini pgSvm 0x080 (fun _ => True)) ∧
    (∃ i : Nat, i < 4 ∧ Met (fun s => s.lpc i = lpReady ∨ s.lpc i = lpFilling)) := by
  refine ⟨?_, ?_, ?_, ?_, ?_, ?_, ?_, ?_⟩
  · exact (⟨.core 0, 3, (by decide +kernel), ⟨R0, reached_of (by decide +kernel), (by decide +kernel)⟩⟩)
  · exact (⟨.core 0, 3, (by decide +kernel), ⟨R0.wr (pgLpc 3) R.lpcState lpReady, reached_of (by decide +kernel),
        (by decide +kernel)⟩⟩)
  · exact (⟨3, 0, (by decide +kernel), ⟨lpcAll R0 lpTraining, (by decide +kernel)⟩⟩)
  · exact (⟨0, 0, (by decide +kernel), ⟨{ lpcAll R0 lpFilling with mem := [(extBase, 5)] }, (by decide +kernel)⟩⟩)
  · exact (⟨0, (by decide +kernel), ⟨(lpcAll R0 lpReady).wr pgScr R.patrolEn 1, (by decide +kernel)⟩⟩)
  · exact (⟨0, ⟨extBase, [1, 2], 0x20, 0, some 5⟩, (by decide +kernel),
        ⟨{ R0 with rereads := [⟨extBase, [1, 2], 0x20, 0, some 5⟩] }, (by decide +kernel)⟩⟩)
  · exact (⟨.core 0, 0, (by decide +kernel), ⟨R0, reached_of (by decide +kernel), (by decide +kernel)⟩⟩)
  · exact (⟨3, (by decide +kernel), ⟨R0.wr (pgLpc 3) R.lpcState lpFilling, (by decide +kernel)⟩⟩)

/-- The hypotheses of `Obligations.JobSubmission` can be met, clause by clause. -/
theorem wit_JobSubmission :
    (∃ ini : Ini, ∃ p : Nat, ∃ n : Nat, isEngine p = true ∧ n < nSlots p ∧ isFawn p n = false ∧ MetW ini p ((slotF p
        R.slotStart).off + 0x40 * n) (fun u => Fresh u (iniId ini) p ∧ u.working p = true ∧ u.slotSt p n = slIdle)) ∧
    (∃ ini : Ini, ∃ p : Nat, ∃ n : Nat, isEngine p = true ∧ n < nSlots p ∧ isFawn p n = false ∧ MetW ini p ((slotF p
        R.slotStart).off + 0x40 * n) (fun u => Fresh u (iniId ini) p ∧ (u.working p = false ∨ u.slotSt p n ≠
        slIdle))) ∧
    (∃ ini : Ini, ∃ p : Nat, ∃ n : Nat, ∃ j : Job, isEngine p = true ∧ n < nSlots p ∧ isFawn p n = false ∧
        MetW ini p ((slotF p R.slotCancel).off + 0x40 * n) (fun u => u.job p n = some j ∧
        (u.slotSt p n = slQueued ∨ u.slotSt p n = slRunning) ∧ (j.done.isSome ∨ j.ending.isSome ∨ allIssued p j))) ∧
    (∃ ini : Ini, ∃ p : Nat, ∃ n : Nat, ∃ j : Job, isEngine p = true ∧ n < nSlots p ∧ isFawn p n = false ∧
        MetW ini p ((slotF p R.slotCancel).off + 0x40 * n) (fun u => u.job p n = some j ∧
        (u.slotSt p n = slQueued ∨ u.slotSt p n = slRunning) ∧ j.done = none ∧ j.ending = none ∧
        allIssued p j = false ∧ j.missed = false ∧ j.phase = 0)) ∧
    (∃ ini : Ini, ∃ p : Nat, isFawn p (nSlots p - 1) = true ∧ MetW ini p ((slotF p R.slotStart).off + 0x40 * (nSlots p -
        1)) (fun u => Fresh u (iniId ini) p)) ∧
    (∃ ini : Ini, ∃ p : Nat, isFawn p (nSlots p - 1) = true ∧ MetW ini p ((slotF p R.slotCancel).off + 0x40 * (nSlots p
        - 1)) (fun _ => True)) ∧
    (∃ p : Nat, isFawn p (nSlots p - 1) = true ∧ Met (fun s => s.working p = true ∧
        s.slotSt p (nSlots p - 1) = slIdle)) := by
  refine ⟨?_, ?_, ?_, ?_, ?_, ?_, ?_⟩
  · exact (⟨.core 0, 0xA3, 7, (by decide +kernel), (by decide +kernel), (by decide +kernel), ⟨wk R0 0xA3,
        reached_of (by decide +kernel), (by decide +kernel)⟩⟩)
  · exact (⟨.core 0, 0x88, 2, (by decide +kernel), (by decide +kernel), (by decide +kernel),
        ⟨(wk R0 0x88).setSlot 0x88 2 slRunning, reached_of (by decide +kernel), (by decide +kernel)⟩⟩)
  · exact (⟨.core 0, 0x80, 3, { ptr := 64, fetched := true }, (by decide +kernel), (by decide +kernel),
        (by decide +kernel), ⟨(R0.putJob 0x80 3 { ptr := 64, fetched := true }).setSlot 0x80 3 slRunning, reached_of
        (by decide +kernel), (by decide +kernel)⟩⟩)
  · exact (⟨.core 0, 0x80, 3, { ptr := 64 }, (by decide +kernel), (by decide +kernel), (by decide +kernel), ⟨(R0.putJob
        0x80 3 { ptr := 64 }).setSlot 0x80 3 slQueued, reached_of (by decide +kernel), (by decide +kernel)⟩⟩)
  · exact (⟨.core 0, pgHmp0, (by decide +kernel), ⟨wk R0 pgHmp0, reached_of (by decide +kernel), (by decide +kernel)⟩⟩)
  · exact (⟨.core 0, pgHmp0, (by decide +kernel), ⟨wk R0 pgHmp0, reached_of (by decide +kernel), trivial⟩⟩)
  · exact (⟨pgLvu1, (by decide +kernel), ⟨wk R0 pgLvu1, (by decide +kernel)⟩⟩)

/-- The hypotheses of `Obligations.JobUnits` can be met, clause by clause. -/
theorem wit_JobUnits :
    (∃ p : Nat, ∃ n : Nat, ∃ hit : Hit, ∃ host : Cells, ∃ s : State, ∃ j : Job, ∃ x : JS, s.job p n = some j ∧ s.slotSt
        p n = slQueued ∧ j.fetched = false ∧ j.ending = none ∧ fetchDesc p (jcOf p n j hit host)
        { job := j, s := s } = .ok () x ∧ injectNow x.s p eProg = false) ∧
    (∃ p : Nat, ∃ n : Nat, ∃ st : Nat, ∃ hit : Hit, ∃ host : Cells, ∃ s : State, ∃ j : Job, ∃ x : JS, s.job p n = some j
        ∧ s.slotSt p n = slQueued ∧ j.fetched = false ∧ j.ending = none ∧ fetchDesc p (jcOf p n j hit host)
        { job := j, s := s } = .fail st x ∧ st ≠ stProg) ∧
    (∃ p : Nat, ∃ n : Nat, ∃ s : State, ∃ j : Job, s.job p n = some j ∧ s.slotSt p n = slQueued ∧ j.fetched = false ∧
        j.ending = none ∧ j.ptr % 64 ≠ 0) ∧
    (∃ p : Nat, ∃ n : Nat, ∃ e : UnitErr, ∃ hit : Hit, ∃ host : Cells, ∃ s : State, ∃ j : Job, ∃ ws : Writes, ∃ x : JS,
        s.job p n = some j ∧ pageKind p ≠ some .sta ∧ inUnit s p n = true ∧ unitRun p (jcOf p n j hit host)
        { job := j, s := s } = .ok ws x ∧ injectNow x.s p eResidue = false ∧ j.missed = false ∧ unitMiss p e =
        false) ∧
    (∃ p : Nat, ∃ n : Nat, ∃ e : UnitErr, ∃ hit : Hit, ∃ host : Cells, ∃ s : State, ∃ j : Job, ∃ ws : Writes, ∃ x : JS,
        s.job p n = some j ∧ pageKind p ≠ some .sta ∧ inUnit s p n = true ∧ unitRun p (jcOf p n j hit host)
        { job := j, s := s } = .ok ws x ∧ injectNow x.s p eResidue = false ∧ j.missed = false ∧ unitMiss p e = true) ∧
    (∃ p : Nat, ∃ n : Nat, ∃ e : UnitErr, ∃ hit : Hit, ∃ host : Cells, ∃ s : State, ∃ j : Job, ∃ ws : Writes, ∃ x : JS,
        s.job p n = some j ∧ pageKind p ≠ some .sta ∧ inUnit s p n = true ∧ unitRun p (jcOf p n j hit host)
        { job := j, s := s } = .ok ws x ∧ injectNow x.s p eResidue = false ∧ j.missed = true ∧ unitMiss p e = false) ∧
    (∃ p : Nat, ∃ n : Nat, ∃ e : UnitErr, ∃ hit : Hit, ∃ host : Cells, ∃ s : State, ∃ j : Job, ∃ ws : Writes, ∃ x : JS,
        s.job p n = some j ∧ pageKind p ≠ some .sta ∧ inUnit s p n = true ∧ unitRun p (jcOf p n j hit host)
        { job := j, s := s } = .ok ws x ∧ injectNow x.s p eResidue = false ∧ j.missed = true ∧ unitMiss p e = true) := by
  refine ⟨?_, ?_, ?_, ?_, ?_, ?_, ?_⟩
  · obtain ⟨ws, x, h, hi⟩ := ex_ok (m := fetchDesc 0x80 (jcOf 0x80 3 {} cleanHit []) { job := {}, s := pyrQ }) (P := fun _ x => injectNow x.s 0x80 eProg = false) (by decide +kernel); exact ⟨0x80, 3, cleanHit, [], pyrQ, {}, x, by decide +kernel, by decide +kernel, by decide +kernel, by decide +kernel, h, hi⟩
  · obtain ⟨st, x, h, hs⟩ := ex_fail (m := fetchDesc 0x80 (jcOf 0x80 3 { ptr := extBase } cleanHit [])
        { job := { ptr := extBase }, s := pyrQ.putJob 0x80 3 { ptr := extBase } }) (P := fun st _ => st ≠ stProg) (by decide +kernel); exact ⟨0x80, 3, st, cleanHit, [], pyrQ.putJob 0x80 3 { ptr := extBase }, { ptr := extBase },
        x, by decide +kernel, by decide +kernel, by decide +kernel, by decide +kernel, h, hs⟩
  · exact (⟨0x80, 3, pyrQ.putJob 0x80 3 { ptr := 32 }, { ptr := 32 }, (by decide +kernel), (by decide +kernel),
        (by decide +kernel), (by decide +kernel), (by decide +kernel)⟩)
  · obtain ⟨ws, x, h, hi⟩ := ex_ok (m := unitRun 0x80 (jcOf 0x80 3 pyrJob cleanHit [])
        { job := pyrJob, s := pyrR pyrJob }) (P := fun _ x => injectNow x.s 0x80 eResidue = false) (by decide +kernel); exact ⟨0x80, 3, ⟨[], true⟩, cleanHit, [], pyrR pyrJob, pyrJob, ws, x, by decide +kernel,
        by decide +kernel, by decide +kernel, h, hi, by decide +kernel, by decide +kernel⟩
  · obtain ⟨ws, x, h, hi⟩ := ex_ok (m := unitRun 0x80 (jcOf 0x80 3 pyrJob cleanHit [])
        { job := pyrJob, s := pyrR pyrJob }) (P := fun _ x => injectNow x.s 0x80 eResidue = false) (by decide +kernel); exact ⟨0x80, 3, ⟨[⟨[(2, 3)], 7⟩], false⟩, cleanHit, [], pyrR pyrJob, pyrJob, ws, x, by decide +kernel,
        by decide +kernel, by decide +kernel, h, hi, by decide +kernel, by decide +kernel⟩
  · obtain ⟨ws, x, h, hi⟩ := ex_ok (m := unitRun 0x80 (jcOf 0x80 3 ({ pyrJob with missed := true }) cleanHit [])
        { job := ({ pyrJob with missed := true }), s := pyrR ({ pyrJob with missed := true }) }) (P := fun _ x =>
        injectNow x.s 0x80 eResidue = false) (by decide +kernel); exact ⟨0x80, 3, ⟨[], true⟩, cleanHit, [],
        pyrR ({ pyrJob with missed := true }), ({ pyrJob with missed := true }), ws, x, by decide +kernel,
        by decide +kernel, by decide +kernel, h, hi, by decide +kernel, by decide +kernel⟩
  · obtain ⟨ws, x, h, hi⟩ := ex_ok (m := unitRun 0x80 (jcOf 0x80 3 ({ pyrJob with missed := true }) cleanHit [])
        { job := ({ pyrJob with missed := true }), s := pyrR ({ pyrJob with missed := true }) }) (P := fun _ x =>
        injectNow x.s 0x80 eResidue = false) (by decide +kernel); exact ⟨0x80, 3, ⟨[⟨[(2, 3)], 7⟩], false⟩, cleanHit, [],
        pyrR ({ pyrJob with missed := true }), ({ pyrJob with missed := true }), ws, x, by decide +kernel,
        by decide +kernel, by decide +kernel, h, hi, by decide +kernel, by decide +kernel⟩

/-- The hypotheses of `Obligations.JobEnds` can be met, clause by clause. -/
theorem wit_JobEnds :
    (∃ p : Nat, ∃ n : Nat, ∃ j : Job, Met (fun s => s.job p n = some j ∧ j.fetched = true ∧ j.done = none ∧
        j.ending = none ∧ allIssued p j = true ∧ pageKind p ≠ some .lvu)) ∧
    (∃ p : Nat, ∃ n : Nat, ∃ st : Nat, ∃ j : Job, Met (fun s => s.job p n = some j ∧ j.fetched = true ∧
        j.done = none ∧ j.ending = some st ∧ st ≤ stResidue)) ∧
    (∃ p : Nat, ∃ n : Nat, ∃ st : Nat, ∃ j : Job, Met (fun s => s.job p n = some j ∧ j.done = none ∧
        j.ending = some st)) ∧
    (∃ p : Nat, ∃ n : Nat, ∃ j : Job, Met (fun s => s.job p n = some j ∧ j.fetched = true ∧ j.done = none ∧
        j.ending = none ∧ allIssued p j = false ∧
        budgetSpent s p j = true ∧ j.missed = false ∧ j.phase = 0)) ∧
    (∃ p : Nat, ∃ n : Nat, ∃ st : Nat, ∃ j : Job, Met (fun s => s.job p n = some j ∧ j.done = some st ∧ cqFull s p n =
        true)) ∧
    (∃ p : Nat, ∃ n : Nat, ∃ st : Nat, ∃ hit : Hit, ∃ j : Job, ∃ s : State, ∃ s' : State, ∃ bs : List Byte, ∃ ret :
        Bool, ∃ k : Nat, s.job p n = some j ∧ j.done = some st ∧ cqFull s p n = false ∧ writeAll (if isFawn p n then
        { s with fawnEnds := sput s.fawnEnds p (st + 16 * b2n j.bit9) } else s) (jobTag p j) p j.dtag (s.rd p (slotF
        p R.cqBase) n + 16 * ixIdx (s.rd p (slotF p R.cqWrIdx) n)) (complRecord (if isFawn p n then
        { s with fawnEnds := sput s.fawnEnds p (st + 16 * b2n j.bit9) } else s) p n j st) hit j.inc = (.ok bs, ret,
        k, s')) := by
  refine ⟨?_, ?_, ?_, ?_, ?_, ?_⟩
  · exact (⟨0x80, 3, { fetched := true }, ⟨(R0.putJob 0x80 3 { fetched := true }).setSlot 0x80 3 slRunning,
        (by decide +kernel)⟩⟩)
  · exact (⟨0x80, 3, 4, { fetched := true, ending := some 4 }, ⟨R0.putJob 0x80 3 { fetched := true, ending := some 4 },
        (by decide +kernel)⟩⟩)
  · exact (⟨0x80, 3, 5, { ending := some 5 }, ⟨R0.putJob 0x80 3 { ending := some 5 }, (by decide +kernel)⟩⟩)
  · exact (⟨0x80, 3, pyrJob, ⟨{ pyrR pyrJob with time := 200000 }, (by decide +kernel)⟩⟩)
  · exact (⟨pgSte1, 3, 0, { done := some 0 }, ⟨((R0.putJob pgSte1 3 { done := some 0 }).wr pgSte1 R.cqCount 4 3).wr
        pgSte1 R.cqWrIdx 0x10000 3, (by decide +kernel)⟩⟩)
  · exact (⟨0x80, 3, 0, cleanHit, semJob, endS, endW.2.2.2, okBytes endW.1, endW.2.1, endW.2.2.1, (by decide +kernel),
        (by decide +kernel), (by decide +kernel), wr_ok (r := endW) (by decide +kernel)⟩)

theorem unit4_lt (d : Draw) (t : Nat) : d.unit 4 t < 16 := by
  unfold Draw.unit
  exact Nat.mod_lt _ (by norm_num)

/-- A tile whose weights and checksum weights are all least. -/
structure Least (x : Tile) : Prop where
  w : ∀ k, k < 262144 → (x.w[k]?).getD 0 = 0x80
  c : ∀ i, i < 512 → (x.chk[i]?).getD 0 = 0x8000
theorem weightBit_least {x : Tile} (h : Least x) {i j g t : Nat} (hi : i < 512) (hj : j ≤ 512) :
    x.weightBit i j g t = false := by
  unfold Tile.weightBit
  by_cases hj' : j < 512
  · simp only [hj', if_true, h.w (512 * i + j) (by omega), decide_eq_false_iff_not]
    have : (0x80 : Byte).toInt = -128 := by decide
    omega
  · simp only [hj', if_false, h.c i hi, decide_eq_false_iff_not]
    have : sgn 16 0x8000 = -32768 := by decide
    omega

theorem count_least {x : Tile} (h : Least x) {j t0 n : Nat} (hj : j ≤ 512) : x.count j t0 n = x.count 512 t0 n := by
  unfold Tile.count
  refine congrArg List.sum (List.map_congr_left fun b _ => congrArg List.sum (List.map_congr_left fun g hg => ?_))
  have hr : x.row g (t0 + b) < 512 := by
    have := unit4_lt { x.draw with s := g, dom := domSel } (t0 + b)
    have := List.mem_range.1 hg
    unfold Tile.row; omega
  simp only [weightBit_least h hr hj, weightBit_least h hr (Nat.le_refl 512)]

theorem centred_least {x : Tile} (h : Least x) {j t0 n : Nat} (hj : j ≤ 512) : x.centred j t0 n = x.centred 512 t0 n
    := by
  unfold Tile.centred
  rw [count_least h hj]

theorem misses_least {s : State} {p : Nat} {a : Pass} {v fork : Nat} {acts : List Byte} (ht : a.tiles = 1) (he : a.ed
    = 0)
    (h : Least (tileOf s p a v fork acts 0)) : (runVector s p a v fork acts []).misses = 0 := by
  have hc : ∀ j ∈ List.range 512, (((colRun a [tileOf s p a v fork acts 0] [] j).2.1[0]?).getD 0)
      = (tileOf s p a v fork acts 0).centred 512 0 a.tc := by
    intro j hj
    have := centred_least h (j := j) (t0 := 0) (n := a.tc) (by have := List.mem_range.1 hj; omega)
    simp [colRun, ht, he, upsetOf, this]
  have hr : List.range a.tiles = [0] := by rw [ht]; rfl
  unfold runVector
  simp only [hr, List.map_cons, List.map_nil, List.zipIdx_cons, List.zipIdx_nil, List.map_map]
  have : (List.range 512).map ((fun c : Int × List Int × Option Nat => (c.2.1[0]?).getD 0) ∘ colRun a [tileOf s p a v
      fork acts 0] [])
      = (List.range 512).map fun _ => (tileOf s p a v fork acts 0).centred 512 0 a.tc := List.map_congr_left fun j hj
          => hc j hj
  rw [this]
  generalize (tileOf s p a v fork acts 0).centred 512 0 a.tc = C
  have hs : ((List.range 512).map fun _ => C).sum = 512 * C := by
    rw [List.map_const', List.length_range, List.sum_replicate]; rfl
  have hu : upsetOf [] 0 512 = 0 := rfl
  simp only [hs, hu, Int.add_zero, Int.sub_self, Int.natAbs_zero, List.filter_cons, Nat.not_lt_zero, decide_false,
    Bool.false_eq_true, if_false, List.filter_nil, List.length_nil]

/-- An array job of one vector on plane slot 0. -/
def arrJob : Job := { fetched := true, desc := leBytes 44 0 ++ leBytes 4 1 }

/-- Array 3 at that job's vector, all weights of plane slot 0 least. -/
def arrS (j : Job) : State :=
  { (R0.putJob 0xA3 7 j).setSlot 0xA3 7 slRunning with
    current := [(0xA3, 7)], planes := [(96, ⟨List.replicate 262144 0x80, List.replicate 512 0x8000, 0⟩)] }

/-- The same with a residue injection armed. -/
def arrI (j : Job) : State := ((arrS j).wr 0xA3 R.injCont 1).wr 0xA3 R.injBit eResidue

theorem tile_least (j : Job) (a : Pass) (ha : a.plane = 0) (v fork : Nat) (acts : List Byte) :
    Least (tileOf (arrS j) 0xA3 a v fork acts 0) := by
  have h : pStore (arrS j) 0xA3 (a.plane + 0) = ⟨List.replicate 262144 0x80, List.replicate 512 0x8000,
      0⟩ := by rw [ha]; rfl
  constructor
  · intro k hk
    simp only [tileOf, h, List.getElem?_toArray, List.getElem?_replicate, if_pos hk, Option.getD_some]
  · intro i hi
    simp only [tileOf, h, List.getElem?_toArray, List.getElem?_replicate, if_pos hi, Option.getD_some]

theorem arrayRun_least {s : State} {p : Nat} {j : Job} {fork : Nat} (ht : (passOf j).tiles = 1) (he : (passOf j).ed = 0)
    (h : Least (tileOf s p (passOf j) j.units fork j.acts 0)) (hi : injectNow s p eResidue = false) :
    arrayRun s p j fork [] = (false, s, { runVector s p (passOf j) j.units fork j.acts [] with upset := false }) := by
  unfold arrayRun State.hit
  simp only [hi, misses_least ht he h, Bool.false_eq_true, if_false]
  rfl

theorem arrayRun_inject {s : State} {p : Nat} {j : Job} {fork : Nat} (hi : injectNow s p eResidue = true) :
    arrayRun s p j fork [] =
      (true, injectTake s p eResidue, { runVector s p (passOf j) j.units fork j.acts [] with upset := true }) := by
  unfold arrayRun State.hit
  simp only [hi, if_true]

theorem counts_ne (s : State) (p : Nat) (a : Pass) (v fork : Nat) (acts : List Byte) :
    (runVector s p a v fork acts []).counts ≠ [] := by
  unfold runVector
  exact List.append_ne_nil_of_right_ne_nil _ (by simp)

theorem acts_next (S : State) : nextActs (jcOf 0xA3 7 arrJob cleanHit []) { job := arrJob, s := S } =
    .ok () ⟨arrJob, S, 0⟩ := by
  have hv : (passOf arrJob).v ≤ arrJob.units + 1 := by decide +kernel
  simp only [nextActs, vectorActs, hv, if_true, jthen, jmod]
  rfl

theorem tileOf_congr {s t : State} (h1 : s.planes = t.planes) (h2 : s.regs = t.regs) (p : Nat) (a : Pass) (v fork : Nat)
    (acts : List Byte) (k : Nat) : tileOf s p a v fork acts k = tileOf t p a v fork acts k := by
  unfold tileOf pStore State.rd
  rw [h1, h2]

theorem runVector_congr {s t : State} (h1 : s.planes = t.planes) (h2 : s.regs = t.regs) (p : Nat) (a : Pass) (v fork :
    Nat)
    (acts : List Byte) : runVector s p a v fork acts [] = runVector t p a v fork acts [] := by
  unfold runVector
  simp only [tileOf_congr h1 h2]

/-- What the replay of the injected run must repeat. -/
def arrRun : ArrRun := { runVector (arrI arrJob) 0xA3 (passOf arrJob) 0 (passOf arrJob).fork [] [] with upset := true }

/-- The job whose replay is awaited. -/
def replayJob (r : ArrRun) : Job := { arrJob with phase := 1, run := some r }

theorem replay_same (r : ArrRun) :
    runVector (arrI (replayJob r)) 0xA3 (passOf (replayJob r)) (replayJob r).units (passOf (replayJob r)).fork
      (replayJob r).acts [] = runVector (arrI arrJob) 0xA3 (passOf arrJob) 0 (passOf arrJob).fork [] [] :=
  runVector_congr rfl rfl _ _ _ _ _

theorem pass_tiles : (passOf arrJob).tiles = 1 := by decide +kernel

theorem pass_ed : (passOf arrJob).ed = 0 := by decide +kernel

theorem pass_plane : (passOf arrJob).plane = 0 := by decide +kernel

theorem arrS_calm : injectNow (arrS arrJob) 0xA3 eResidue = false := by decide +kernel

theorem arrI_armed : injectNow (arrI arrJob) 0xA3 eResidue = true := by decide +kernel

/-- A job whose replay is awaited after a run without counts. -/
def blankJob : Job := { arrJob with phase := 1, run := some {} }

/-- Its replay. -/
def blankRun : ArrRun :=
  { runVector (arrS blankJob) 0xA3 (passOf blankJob) blankJob.units (passOf blankJob).fork blankJob.acts [] with upset := false }

theorem blank_run : arrayRun (arrS blankJob) 0xA3 blankJob (passOf blankJob).fork [] = (false, arrS blankJob,
    blankRun) :=
  arrayRun_least (by decide +kernel) (by decide +kernel) (tile_least _ _ (by decide +kernel) _ _ _) (by decide +kernel)

theorem upset_counts (r : ArrRun) (b : Bool) : ({ r with upset := b } : ArrRun).counts = r.counts := rfl

/-- A second run of it that misses. -/
def blankMiss : ArrRun :=
  { runVector (arrI blankJob) 0xA3 (passOf blankJob) blankJob.units (passOf blankJob).fork blankJob.acts [] with upset := true }

theorem blank_none : (blankJob.run.getD {}).counts = [] := rfl

theorem blank_ne : blankRun.counts ≠ (blankJob.run.getD {}).counts := by
  rw [blank_none]
  unfold blankRun
  rw [upset_counts]
  exact counts_ne _ _ _ _ _ _

theorem arrI_job (j : Job) : (arrI j).job 0xA3 7 = some j := rfl

theorem replay_unit (r : ArrRun) : inUnit (arrI (replayJob r)) 0xA3 7 = true := rfl

theorem replay_armed (r : ArrRun) : injectNow (arrI (replayJob r)) 0xA3 eResidue = true := rfl

theorem replay_run (v r : ArrRun)
    (hv : ∀ q, runVector (arrI (replayJob q)) 0xA3 (passOf (replayJob q)) (replayJob q).units (passOf (replayJob
        q)).fork
      (replayJob q).acts [] = v) (hr : r = { v with upset := true }) :
    ∃ s1, arrayRun (arrI (replayJob r)) 0xA3 (replayJob r) (passOf (replayJob r)).fork [] = (true, s1, r) := by
  refine ⟨injectTake (arrI (replayJob r)) 0xA3 eResidue, (arrayRun_inject (replay_armed r)).trans ?_⟩
  rw [hv r, ← hr]

theorem blank_miss : arrayRun (arrI blankJob) 0xA3 blankJob (passOf blankJob).fork [] =
    (true, injectTake (arrI blankJob) 0xA3 eResidue, blankMiss) := arrayRun_inject (by decide +kernel)

theorem blank_miss_ne : blankMiss.counts ≠ (blankJob.run.getD {}).counts := by
  rw [blank_none]
  unfold blankMiss
  rw [upset_counts]
  exact counts_ne _ _ _ _ _ _

/-- The hypotheses of `Obligations.ArrayVectors` can be met, clause by clause. -/
theorem wit_ArrayVectors :
    (∃ p : Nat, ∃ n : Nat, ∃ upset : Cells, ∃ res : List SumErr, ∃ hit : Hit, ∃ host : Cells, ∃ s : State, ∃ s1 : State,
        ∃ j : Job, ∃ x : JS, ∃ r : ArrRun, s.job p n = some j ∧ pageKind p = some .sta ∧ inUnit s p n = true ∧
        j.missed = false ∧ j.phase = 0 ∧ nextActs (jcOf p n j hit host) { job := j, s := s } = .ok () x ∧ injectNow
        x.s p eEccUncorr = false ∧ injectNow x.s p eEccCorr = false ∧ arrayRun x.s p x.job (passOf j).fork upset =
        (false, s1, r) ∧ residueMiss res = false) ∧
    (∃ p : Nat, ∃ n : Nat, ∃ upset : Cells, ∃ res : List SumErr, ∃ hit : Hit, ∃ host : Cells, ∃ s : State, ∃ s1 : State,
        ∃ j : Job, ∃ x : JS, ∃ r : ArrRun, s.job p n = some j ∧ pageKind p = some .sta ∧ inUnit s p n = true ∧
        j.missed = false ∧ j.phase = 0 ∧ nextActs (jcOf p n j hit host) { job := j, s := s } = .ok () x ∧ injectNow
        x.s p eEccUncorr = false ∧ injectNow x.s p eEccCorr = false ∧ arrayRun x.s p x.job (passOf j).fork upset =
        (false, s1, r) ∧ residueMiss res = true) ∧
    (∃ p : Nat, ∃ n : Nat, ∃ upset : Cells, ∃ res : List SumErr, ∃ hit : Hit, ∃ host : Cells, ∃ s : State, ∃ s1 : State,
        ∃ j : Job, ∃ x : JS, ∃ r : ArrRun, s.job p n = some j ∧ pageKind p = some .sta ∧ inUnit s p n = true ∧
        j.missed = false ∧ j.phase = 0 ∧ nextActs (jcOf p n j hit host) { job := j, s := s } = .ok () x ∧ injectNow
        x.s p eEccUncorr = false ∧ injectNow x.s p eEccCorr = false ∧ arrayRun x.s p x.job (passOf j).fork upset =
        (true, s1, r)) ∧
    (∃ p : Nat, ∃ n : Nat, ∃ hit : Hit, ∃ host : Cells, ∃ s : State, ∃ j : Job, ∃ x : JS, s.job p n = some j ∧ pageKind
        p = some .sta ∧ inUnit s p n = true ∧ j.missed = false ∧ j.phase = 0 ∧ nextActs (jcOf p n j hit host)
        { job := j, s := s } = .ok () x ∧ injectNow x.s p eEccUncorr = false) ∧
    (∃ p : Nat, ∃ n : Nat, ∃ upset : Cells, ∃ s : State, ∃ s1 : State, ∃ j : Job, ∃ r : ArrRun, s.job p n = some j ∧
        pageKind p = some .sta ∧ inUnit s p n = true ∧ j.missed = false ∧ injectNow s p eEccUncorr = false ∧
        injectNow s p eEccCorr = false ∧ j.phase = 1 ∧ arrayRun s p j (passOf j).fork upset = (true, s1, r) ∧
        r.counts = (j.run.getD {}).counts ∧ r.stops = (j.run.getD {}).stops ∧ r.upset = (j.run.getD {}).upset) ∧
    (∃ p : Nat, ∃ n : Nat, ∃ upset : Cells, ∃ res : List SumErr, ∃ s : State, ∃ s1 : State, ∃ j : Job, ∃ r : ArrRun,
        s.job p n = some j ∧ pageKind p = some .sta ∧ inUnit s p n = true ∧ j.missed = false ∧ injectNow s p
        eEccUncorr = false ∧ injectNow s p eEccCorr = false ∧ j.phase = 1 ∧ arrayRun s p j (passOf j).fork upset =
        (false, s1, r) ∧ r.counts ≠ (j.run.getD {}).counts ∧ residueMiss res = false) ∧
    (∃ p : Nat, ∃ n : Nat, ∃ upset : Cells, ∃ s : State, ∃ s1 : State, ∃ j : Job, ∃ r : ArrRun, s.job p n = some j ∧
        pageKind p = some .sta ∧ inUnit s p n = true ∧ j.missed = false ∧ injectNow s p eEccUncorr = false ∧
        injectNow s p eEccCorr = false ∧ j.phase = 1 ∧ arrayRun s p j (passOf j).fork upset = (true, s1, r) ∧
        r.counts ≠ (j.run.getD {}).counts) ∧
    (∃ p : Nat, ∃ n : Nat, ∃ upset : Cells, ∃ res : List SumErr, ∃ s : State, ∃ s1 : State, ∃ j : Job, ∃ r : ArrRun,
        s.job p n = some j ∧ pageKind p = some .sta ∧ inUnit s p n = true ∧ j.missed = false ∧ injectNow s p
        eEccUncorr = false ∧ injectNow s p eEccCorr = false ∧ j.phase = 2 ∧ arrayRun s p j ((passOf j).fork ^^^
        0x80) upset = (false, s1, r) ∧ residueMiss res = false) ∧
    (∃ p : Nat, ∃ n : Nat, ∃ upset : Cells, ∃ s : State, ∃ s1 : State, ∃ j : Job, ∃ r : ArrRun, s.job p n = some j ∧
        pageKind p = some .sta ∧ inUnit s p n = true ∧ j.missed = false ∧ injectNow s p eEccUncorr = false ∧
        injectNow s p eEccCorr = false ∧ j.phase = 2 ∧ arrayRun s p j ((passOf j).fork ^^^ 0x80) upset = (true, s1,
        r)) := by
  refine ⟨?_, ?_, ?_, ?_, ?_, ?_, ?_, ?_, ?_⟩
  · exact (⟨0xA3, 7, [], [], cleanHit, [], arrS arrJob, _, arrJob, _, _, by decide +kernel, by decide +kernel,
        by decide +kernel, by decide +kernel, by decide +kernel, acts_next _, by decide +kernel, by decide +kernel,
        arrayRun_least pass_tiles pass_ed (tile_least _ _ pass_plane _ _ _) arrS_calm, by decide +kernel⟩)
  · exact (⟨0xA3, 7, [], [⟨[(2, 3)], 7⟩], cleanHit, [], arrS arrJob, _, arrJob, _, _, by decide +kernel,
        by decide +kernel, by decide +kernel, by decide +kernel, by decide +kernel, acts_next _, by decide +kernel,
        by decide +kernel, arrayRun_least pass_tiles pass_ed (tile_least _ _ pass_plane _ _ _) arrS_calm,
        by decide +kernel⟩)
  · exact (⟨0xA3, 7, [], [], cleanHit, [], arrI arrJob, _, arrJob, _, _, by decide +kernel, by decide +kernel,
        by decide +kernel, by decide +kernel, by decide +kernel, acts_next _, by decide +kernel, by decide +kernel,
        arrayRun_inject arrI_armed⟩)
  · exact (⟨0xA3, 7, cleanHit, [], arrS arrJob, arrJob, _, by decide +kernel, by decide +kernel, by decide +kernel,
        by decide +kernel, by decide +kernel, acts_next _, by decide +kernel⟩)
  · obtain ⟨r, hr⟩ : ∃ r, r = arrRun := ⟨_, rfl⟩; obtain ⟨s1, h⟩ := replay_run _ r replay_same hr; exact ⟨0xA3, 7, [], arrI (replayJob r), s1, replayJob r, r, arrI_job _, rfl, replay_unit r, rfl, rfl, rfl, rfl, h, rfl, rfl, rfl⟩
  · exact (⟨0xA3, 7, [], [], arrS blankJob, arrS blankJob, blankJob, blankRun, by decide +kernel, by decide +kernel,
        by decide +kernel, by decide +kernel, by decide +kernel, by decide +kernel, by decide +kernel, blank_run,
        blank_ne, by decide +kernel⟩)
  · exact (⟨0xA3, 7, [], arrI blankJob, _, blankJob, blankMiss, by decide +kernel, by decide +kernel, by decide +kernel,
        by decide +kernel, by decide +kernel, by decide +kernel, by decide +kernel, blank_miss, blank_miss_ne⟩)
  · exact (⟨0xA3, 7, [], [], arrS { arrJob with phase := 2 }, _, { arrJob with phase := 2 }, _, by decide +kernel,
        by decide +kernel, by decide +kernel, by decide +kernel, by decide +kernel, by decide +kernel,
        by decide +kernel, arrayRun_least (by decide +kernel) (by decide +kernel) (tile_least _ _
        (by decide +kernel) _ _ _) (by decide +kernel), by decide +kernel⟩)
  · exact (⟨0xA3, 7, [], arrI { arrJob with phase := 2 }, _, { arrJob with phase := 2 }, _, by decide +kernel,
        by decide +kernel, by decide +kernel, by decide +kernel, by decide +kernel, by decide +kernel,
        by decide +kernel, arrayRun_inject (by decide +kernel)⟩)

/-- The hypotheses of `Obligations.SpeedMonitors` can be met, clause by clause. -/
theorem wit_SpeedMonitors :
    (∃ p : Nat, ∃ m : Nat, (p = 0x90 ∨ p = 0x91) ∧ m < 2 ∧ Met (fun s => s.on p R.monEn m = true ∧
        s.on p R.monResync m = true ∧ s.rd p R.nClear m ≤ s.rd p R.agreeRun m ∧
        (s.rd p R.holdCounts m : Int) ≤ diff32 (s.rd pgLio R.encCnt (s.rd p R.monEncSel m)) (s.mon p m).missEnc ∧
        (s.mon p m).missTime + s.rd p R.holdTime m ≤ s.time)) ∧
    (∃ p : Nat, ∃ m : Nat, (p = 0x90 ∨ p = 0x91) ∧ m < 2 ∧ Met (fun s => s.rd p R.agreeRun m < s.rd p R.nClear m)) ∧
    (∃ p : Nat, ∃ m : Nat, (p = 0x90 ∨ p = 0x91) ∧ m < 2 ∧ Met (fun s => s.on p R.monEn m = true ∧
        s.rd p R.starveTime m ≠ 0 ∧ (s.mon p m).lastSample + s.rd p R.starveTime m ≤ s.time ∧
        s.on p R.monStarved m = false)) ∧
    (∃ ini : Ini, ∃ p : Nat, ∃ m : Nat, (p = 0x90 ∨ p = 0x91) ∧ m < 2 ∧
        MetW ini p (0x0C0 + 0x20 * m) (fun u => u.on p R.monEn m = false)) ∧
    (∃ ini : Ini, ∃ p : Nat, ∃ m : Nat, (p = 0x90 ∨ p = 0x91) ∧ m < 2 ∧
        MetW ini p (0x0C0 + 0x20 * m) (fun _ => True)) := by
  refine ⟨?_, ?_, ?_, ?_, ?_⟩
  · exact (⟨0x91, 1, (by decide +kernel), (by decide +kernel),
        ⟨{ ((R0.wr 0x91 R.monEn 1 1).wr 0x91 R.monResync 1 1).wr 0x91 R.agreeRun 255 1 with time := 10000000000 },
        (by decide +kernel)⟩⟩)
  · exact (⟨0x90, 0, (by decide +kernel), (by decide +kernel), ⟨R0.wr 0x90 R.nClear 2, (by decide +kernel)⟩⟩)
  · exact (⟨0x91, 1, (by decide +kernel), (by decide +kernel),
        ⟨{ (R0.wr 0x91 R.monEn 1 1).wr 0x91 R.starveTime 5 1 with time := 5 }, (by decide +kernel)⟩⟩)
  · exact (⟨.core 0, 0x91, 1, (by decide +kernel), (by decide +kernel), ⟨R0, reached_of (by decide +kernel),
        (by decide +kernel)⟩⟩)
  · exact (⟨.core 0, 0x90, 0, (by decide +kernel), (by decide +kernel), ⟨R0, reached_of (by decide +kernel),
        (by decide +kernel)⟩⟩)

/-- The hypotheses of `Obligations.WeightPlanes` can be met, clause by clause. -/
theorem wit_WeightPlanes :
    (∃ ini : Ini, ∃ p : Nat, ∃ k : Nat, isSta p = true ∧ k < 32 ∧
        MetW ini p (0x204 + 8 * k) (fun u => u.rd p R.planeState k = 0 ∧ ∀ m, m < 32 → m ≠ k →
        u.rd p R.planeId m = u.rd p R.planeId k → ¬(1 ≤ u.rd p R.planeState m ∧ u.rd p R.planeState m ≤ 3))) ∧
    (∃ ini : Ini, ∃ p : Nat, ∃ k : Nat, isSta p = true ∧ k < 32 ∧
        MetW ini p (0x204 + 8 * k) (fun u => u.rd p R.planeState k = 2)) ∧
    (∃ ini : Ini, ∃ p : Nat, ∃ k : Nat, isSta p = true ∧ k < 32 ∧
        MetW ini p (0x204 + 8 * k) (fun u => u.rd p R.planeState k = 3)) ∧
    (∃ ini : Ini, ∃ p : Nat, ∃ k : Nat, isSta p = true ∧ k < 32 ∧ MetW ini (pgSta 0) 0x110 (fun u => Fresh u (iniId ini)
        (pgSta 0) ∧ u.pushes.length < 8 ∧ u.rd (pgSta 0) R.pushSrc % 64 = 0 ∧ u.rd (pgSta 0) R.pushDig % 64 = 0)) ∧
    (∃ ini : Ini, ∃ p : Nat, ∃ k : Nat, isSta p = true ∧ k < 32 ∧ MetW ini (pgSta 0) 0x110 (fun u => Fresh u (iniId ini)
        (pgSta 0) ∧ 8 ≤ u.pushes.length)) ∧
    (∃ hit : Hit, ∃ host : Cells, ∃ s : State, ∃ s' : State, ∃ o : Push, ∃ rest : List Push, ∃ bs : List Byte, ∃ ret :
        Bool, s.pushes = o :: rest ∧ s.working (pgSta 0) = true ∧ (∀ t ∈ s.transits, t.sent = true) ∧ o.dig = 0 ∧
        readAll (({ s with pushes := rest } : State).wr (pgSta 0) R.pushQ rest.length) ⟨0x50, o.part, 1⟩ (pgSta 0) 0
        o.src planeBytes hit host 0 = (.ok bs, ret, s')) ∧
    (∃ a : Nat, ∃ k : Nat, ∃ x : Transit, a < 4 ∧ k < 32 ∧ Met (fun s => s.transits = [x] ∧ x.arrived = a ∧ x.ended ≤ a
        ∧ (List.range 32).find? (fun n => s.rd (pgSta a) R.planeState n == 1 && s.rd (pgSta a) R.planeId n == wordAt
        x.bytes 0) = some k)) ∧
    (∃ a : Nat, ∃ k : Nat, ∃ x : Transit, a < 4 ∧ k < 32 ∧ Met (fun s => s.transits = [x] ∧ a < x.arrived ∧ x.ended = a
        ∧ x.sent = false ∧ s.rd (pgSta a) R.planeState k = 2)) ∧
    (∃ a : Nat, ∃ x : Transit, a < 4 ∧ Met (fun s => s.transits = [x] ∧ a < x.arrived ∧ x.ended = a)) ∧
    (∃ a : Nat, ∃ k : Nat, ∃ x : Transit, a < 4 ∧ k < 32 ∧ Met (fun s => s.transits = [x] ∧ x.sent = false ∧
        1 ≤ x.ended ∧ x.order.node = none ∧ x.order.part < 8)) := by
  refine ⟨?_, ?_, ?_, ?_, ?_, ?_, ?_, ?_, ?_, ?_⟩
  · exact (⟨.core 0, 0xA3, 31, (by decide +kernel), (by decide +kernel), ⟨R0.wr 0xA3 R.planeId 7 31,
        reached_of (by decide +kernel), (by decide +kernel)⟩⟩)
  · exact (⟨.core 0, 0xA3, 31, (by decide +kernel), (by decide +kernel), ⟨R0.wr 0xA3 R.planeState 2 31,
        reached_of (by decide +kernel), (by decide +kernel)⟩⟩)
  · exact (⟨.core 0, 0xA3, 31, (by decide +kernel), (by decide +kernel), ⟨R0.wr 0xA3 R.planeState 3 31,
        reached_of (by decide +kernel), (by decide +kernel)⟩⟩)
  · exact (⟨.core 0, 0xA0, 0, (by decide +kernel), (by decide +kernel),
        ⟨{ R0 with pushes := List.replicate 7 ⟨0, 0, 0, none, [], false⟩ }, reached_of (by decide +kernel),
        (by decide +kernel)⟩⟩)
  · exact (⟨.core 0, 0xA0, 0, (by decide +kernel), (by decide +kernel),
        ⟨{ R0 with pushes := List.replicate 8 ⟨0, 0, 0, none, [], false⟩ }, reached_of (by decide +kernel),
        (by decide +kernel)⟩⟩)
  · obtain ⟨bs, ret, h⟩ := readPieces_ok (s := (pushS [] : State).wr (pgSta 0) R.pushQ 0) (t := ⟨0x50, 0, 1⟩)
      (page := pgSta 0) (tag := 0) (host := []) (inc := 0) rfl (by decide +kernel) (by decide +kernel)
      (by decide +kernel) (pieces_open (a := 0) (n := planeBytes) (by decide +kernel) (by decide) (by decide)) 0 [] false
    exact ⟨cleanHit, [], pushS [⟨0, 0, 0, none, [], false⟩], (pushS [] : State).wr (pgSta 0) R.pushQ 0,
      ⟨0, 0, 0, none, [], false⟩, [], bs, ret, by decide +kernel, by decide +kernel, by decide +kernel, by decide +kernel,
      h⟩
  · exact (⟨3, 31, { order := ⟨0, 0, 0, none, [], false⟩, bytes := leBytes 4 9, arrived := 3 }, (by decide +kernel),
        (by decide +kernel), ⟨{ (R0.wr 0xA3 R.planeState 1 31).wr 0xA3 R.planeId 9 31 with transits :=
        [{ order := ⟨0, 0, 0, none, [], false⟩, bytes := leBytes 4 9, arrived := 3 }] }, (by decide +kernel)⟩⟩)
  · exact (⟨3, 31, { order := ⟨0, 0, 0, none, [], false⟩, bytes := [], arrived := 4, ended := 3 }, (by decide +kernel),
        (by decide +kernel), ⟨{ R0.wr 0xA3 R.planeState 2 31 with transits :=
        [{ order := ⟨0, 0, 0, none, [], false⟩, bytes := [], arrived := 4, ended := 3 }] }, (by decide +kernel)⟩⟩)
  · exact (⟨3, { order := ⟨0, 0, 0, none, [], false⟩, bytes := [], arrived := 4, ended := 3 }, (by decide +kernel),
        ⟨{ R0 with transits := [{ order := ⟨0, 0, 0, none, [], false⟩, bytes := [], arrived := 4, ended := 3 }] },
        (by decide +kernel)⟩⟩)
  · exact (⟨0, 0, { order := ⟨0, 0, 7, none, [], false⟩, bytes := [], arrived := 4, ended := 4 }, (by decide +kernel),
        (by decide +kernel),
        ⟨{ R0 with transits := [{ order := ⟨0, 0, 7, none, [], false⟩, bytes := [], arrived := 4, ended := 4 }] },
        (by decide +kernel)⟩⟩)

/-- A graph of one JOIN node. -/
def joinHdr : List Byte := leBytes 4 0x10128 ++ leBytes 4 0x10000 ++ leBytes 56 0

def joinNode : List Byte := leBytes 64 5

/-- Entry 7 loading that graph from address 64. -/
def loadS : State := ((openFw R0 0).store 64 (joinHdr ++ joinNode)).putGraph 7 { st := gLoading, base := 64 }

def loadR (s : State) (a : Nat) : FabResp × Bool × State := readAll s (fgsTag 0) pgFgs 0 a 64 cleanHit [] 0

/-- The hypotheses of `Obligations.GraphEntries` can be met, clause by clause. -/
theorem wit_GraphEntries :
    (∃ ini : Ini, MetW ini pgFgs 0x090 (fun u => (u.graph (u.rd pgFgs R.gtSel)).st = gEmpty ∧ u.working pgFgs = true)) ∧
    (∃ ini : Ini, MetW ini pgFgs 0x090 (fun u => (u.graph (u.rd pgFgs R.gtSel)).st ≠ gEmpty)) ∧
    (∃ ini : Ini, MetW ini pgFgs 0x090 (fun u => let x := u.graph (u.rd pgFgs R.gtSel); x.st = gReady ∧ x.insts = [] ∧
        (x.stream.isSome = true ∨ x.req = x.started))) ∧
    (∃ (g n : Nat) (host : Cells) (s s1 s2 : State) (hb nb : List Byte) (r1 r2 : Bool) (y : Graph), g < 256 ∧ (s.graph
        g).st = gLoading ∧ (s.graph g).base % 64 = 0 ∧ headerOf hb (s.graph g) = (y, n) ∧ readAll s (fgsTag (s.graph
        g).owner) pgFgs 0 (s.graph g).base 64 cleanHit host 0 = (.ok hb, r1, s1) ∧ headerOk s1 hb y n = true ∧
        readAll s1 (fgsTag (s.graph g).owner) pgFgs 0 ((s.graph g).base + 64) (64 * n) cleanHit host 0 = (.ok nb,
        r2, s2) ∧ let z : Graph :=
        { y with nodes := (List.range n).map fun i => nodeOf ((nb.drop (64 * i)).take 64) }; (∀ i, i < n → nodeOk s2
        z i (z.node i) = true) ∧ s2.rd pgFgs R.stateUsed + z.room ≤ 8192) ∧
    (∃ g : Nat, ∃ s : State, g < 256 ∧ (s.graph g).st = gLoading ∧ (s.graph g).base % 64 ≠ 0) ∧
    (∃ g : Nat, ∃ n : Nat, ∃ req : Nat, ∃ s : State, g < 256 ∧ busOk s (.fn n) = true ∧ (s.graph g).st = gReady ∧
        (s.graph g).owner = n ∧ (s.graph g).stream = none ∧ (hostWake s (.fn n)).rd pgFab R.partState n = 1 ∧
        (req % 65536 + 65536 - (s.graph g).started) % 65536 < 0x8000) ∧
    (∃ g : Nat, ∃ s : State, g < 256 ∧ (s.graph g).st = gReady ∧ (s.graph g).stream = none ∧
        (s.graph g).req ≠ (s.graph g).started ∧ (s.graph g).insts.length < (s.graph g).instMax ∧
        s.working pgFgs = true) := by
  refine ⟨?_, ?_, ?_, ?_, ?_, ?_, ?_⟩
  · exact (⟨.core 0, ⟨wk R0 pgFgs, reached_of (by decide +kernel), (by decide +kernel)⟩⟩)
  · exact (⟨.core 0, ⟨R0.putGraph 0 { st := gReady }, reached_of (by decide +kernel), (by decide +kernel)⟩⟩)
  · exact (⟨.core 0, ⟨R0.putGraph 0 { st := gReady, stream := some 3, started := 9 }, reached_of (by decide +kernel),
        (by decide +kernel)⟩⟩)
  · exact (⟨7, 1, [], loadS, (loadR loadS 64).2.2, (loadR (loadR loadS 64).2.2 128).2.2, joinHdr, joinNode,
        (loadR loadS 64).2.1, (loadR (loadR loadS 64).2.2 128).2.1, (headerOf joinHdr (loadS.graph 7)).1,
        by decide +kernel, by decide +kernel, by decide +kernel, by decide +kernel, by decide +kernel,
        by decide +kernel, by decide +kernel, by decide +kernel, by decide +kernel⟩)
  · exact (⟨7, R0.putGraph 7 { st := gLoading, base := 65 }, (by decide +kernel), (by decide +kernel),
        (by decide +kernel)⟩)
  · exact (⟨7, 0, 3, (fnUp (R0.wr pgFab R.partState 1 0) 0).putGraph 7 { st := gReady }, (by decide +kernel),
        (by decide +kernel), (by decide +kernel), (by decide +kernel), (by decide +kernel), (by decide +kernel),
        (by decide +kernel)⟩)
  · exact (⟨7, (wk R0 pgFgs).putGraph 7 { st := gReady, req := 3 }, (by decide +kernel), (by decide +kernel),
        (by decide +kernel), (by decide +kernel), (by decide +kernel), (by decide +kernel)⟩)

/-- Instance 9 of a graph of one node, with the execution of that node. -/
def gInst (e : Exec) : Inst := { num := 9, execs := if e = {} then [] else [(0, e)] }

def gOne (nd : Node) (e : Exec) : Graph := { st := gReady, nodes := [nd], insts := [gInst e] }

/-- Entry 7 holding that graph. -/
def gS (nd : Node) (e : Exec) : State := (openFw (wk R0 pgFgs) 0).putGraph 7 (gOne nd e)

def joinN : Node := { kind := nkJoin, ins := [3] }

def engN : Node := { kind := nkEngine, page := 0x84, slot := 2 }

/-- A warp that hands its lines over. -/
def hoN : Node := { kind := nkEngine, page := 0x84, slot := 2, fused := true, fuseId := 5, cfg := 0x12 }

/-- The descriptor of a warp of 16 by 16 pixels at address 0. -/
def wrpDesc : List Byte :=
  leBytes 4 0x19 ++ leBytes 20 0 ++ leBytes 4 64 ++ leBytes 4 0x10001 ++ leBytes 8 0 ++ leBytes 4 64 ++ leBytes 4
      0x100010 ++ leBytes 16 0

/-- Its job, in progress. -/
def wrpJob : Job := { desc := wrpDesc, aux := leBytes 64 0, fetched := true, node := some (execKey 7 9 0) }

/-- The warp's lines go to a line buffer that has no room. -/
def stuckS : State :=
  { ((wk (gS hoN { st := 1 }) 0x84).putJob 0x84 2 wrpJob).setSlot 0x84 2 slRunning with
    current := [(0x84, 2)], lbs := [(2, { prod := execKey 7 9 0, cons := execKey 7 9 1, stride := 64, lines := 16 })] }

/-- The hypotheses of `Obligations.GraphNodes` can be met, clause by clause. -/
theorem wit_GraphNodes :
    (∃ g : Nat, ∃ i : Nat, ∃ n : Nat, ∃ s : State, ∃ x : Graph, ∃ a : Inst, ∃ key : Nat, g < 256 ∧ s.graph g = x ∧ x.st
        = gReady ∧ x.inst i = some a ∧ n < x.nodes.length ∧ s.elig.head? = some key ∧ key ∈ eligNow s) ∧
    (∃ g : Nat, ∃ i : Nat, ∃ n : Nat, ∃ s : State, ∃ x : Graph, ∃ a : Inst, g < 256 ∧ s.graph g = x ∧ x.st = gReady ∧
        x.inst i = some a ∧ n < x.nodes.length ∧ s.working pgFgs = true ∧ (noteElig s).elig.head? = some (execKey g
        a.num (x.lead n))) ∧
    (∃ g : Nat, ∃ i : Nat, ∃ n : Nat, ∃ s : State, ∃ x : Graph, ∃ a : Inst, ∃ s' : State, g < 256 ∧ s.graph g = x ∧ x.st
        = gReady ∧ x.inst i = some a ∧ n < x.nodes.length ∧ s.working pgFgs = true ∧ (noteElig s).elig.head? = some
        (execKey g a.num (x.lead n)) ∧ (x.node n).fused = false ∧ takeAll (noteElig s) (x.node n).takes = some s' ∧
        skips x a n = false) ∧
    (∃ g : Nat, ∃ i : Nat, ∃ n : Nat, ∃ s : State, ∃ x : Graph, ∃ a : Inst, ∃ s' : State, g < 256 ∧ s.graph g = x ∧ x.st
        = gReady ∧ x.inst i = some a ∧ n < x.nodes.length ∧ s.working pgFgs = true ∧ (noteElig s).elig.head? = some
        (execKey g a.num (x.lead n)) ∧ (x.node n).fused = false ∧ takeAll (noteElig s) (x.node n).takes = some s' ∧
        skips x a n = true) ∧
    (∃ g : Nat, ∃ i : Nat, ∃ n : Nat, ∃ s : State, ∃ x : Graph, ∃ a : Inst, g < 256 ∧ s.graph g = x ∧ x.st = gReady ∧
        x.inst i = some a ∧ n < x.nodes.length ∧ s.working pgFgs = true ∧ takeAll (noteElig s) ((x.group n).flatMap
        fun m => (x.node m).takes) = none) ∧
    (∃ g : Nat, ∃ i : Nat, ∃ n : Nat, ∃ s : State, ∃ x : Graph, ∃ a : Inst, ∃ e : Exec, g < 256 ∧ s.graph g = x ∧
        x.st = gReady ∧ x.inst i = some a ∧ n < x.nodes.length ∧ execOf s (execKey g i n) = some e ∧ e.st = 3) ∧
    (∃ g : Nat, ∃ i : Nat, ∃ n : Nat, ∃ s : State, ∃ x : Graph, ∃ a : Inst, ∃ e : Exec, g < 256 ∧ s.graph g = x ∧ x.st =
        gReady ∧ x.inst i = some a ∧ n < x.nodes.length ∧ execOf s (execKey g i n) = some e ∧ e.st = 1 ∧ e.start +
        usTicks e.budget ≤ s.time ∧ e.force = none ∧ (x.node n).kind = nkCore) ∧
    (∃ g : Nat, ∃ i : Nat, ∃ n : Nat, ∃ s : State, ∃ x : Graph, ∃ a : Inst, g < 256 ∧ s.graph g = x ∧ x.st = gReady ∧
        x.inst i = some a ∧ n < x.nodes.length ∧ (a.exec n).st = 1 ∧ (a.exec n).again = true ∧
        s.slotSt (x.node n).page (slotIn (x.node n) a) = slIdle) ∧
    (∃ g : Nat, ∃ i : Nat, ∃ n : Nat, ∃ s : State, ∃ x : Graph, ∃ a : Inst, ∃ fuse : Nat, g < 256 ∧ s.graph g = x ∧
        x.st = gReady ∧ x.inst i = some a ∧ n < x.nodes.length ∧
        ((x.members fuse).filter fun m => (a.exec m).st == 1) = [n] ∧ memberWaits s (execKey g i n) = true) := by
  refine ⟨?_, ?_, ?_, ?_, ?_, ?_, ?_, ?_, ?_⟩
  · exact (⟨7, 9, 0, { gS joinN {} with sems := [(6, 5)], elig := [execKey 7 9 0] }, gOne joinN {}, gInst {}, execKey 7
        9 0, (by decide +kernel), (by decide +kernel), (by decide +kernel), (by decide +kernel),
        (by decide +kernel), (by decide +kernel), (by decide +kernel)⟩)
  · exact (⟨7, 9, 0, { gS joinN {} with sems := [(6, 5)] }, gOne joinN {}, gInst {}, (by decide +kernel),
        (by decide +kernel), (by decide +kernel), (by decide +kernel), (by decide +kernel), (by decide +kernel),
        (by decide +kernel)⟩)
  · exact (⟨7, 9, 0, { gS joinN {} with sems := [(6, 5)] }, gOne joinN {}, gInst {},
        { gS joinN {} with sems := [(6, 4)], elig := [execKey 7 9 0] }, (by decide +kernel), (by decide +kernel),
        (by decide +kernel), (by decide +kernel), (by decide +kernel), (by decide +kernel), (by decide +kernel),
        (by decide +kernel), (by decide +kernel), (by decide +kernel)⟩)
  · exact (⟨7, 9, 0, { gS { joinN with skip := true } { tainted := true } with sems := [(6, 5)] }, gOne
        { joinN with skip := true } { tainted := true }, gInst { tainted := true },
        { gS { joinN with skip := true } { tainted := true } with sems := [(6, 4)], elig := [execKey 7 9 0] },
        (by decide +kernel), (by decide +kernel), (by decide +kernel), (by decide +kernel), (by decide +kernel),
        (by decide +kernel), (by decide +kernel), (by decide +kernel), (by decide +kernel), (by decide +kernel)⟩)
  · exact (⟨7, 9, 0, gS joinN {}, gOne joinN {}, gInst {}, (by decide +kernel), (by decide +kernel),
        (by decide +kernel), (by decide +kernel), (by decide +kernel), (by decide +kernel), (by decide +kernel)⟩)
  · exact (⟨7, 9, 0, gS joinN { st := 3 }, gOne joinN { st := 3 }, gInst { st := 3 }, { st := 3 }, (by decide +kernel),
        (by decide +kernel), (by decide +kernel), (by decide +kernel), (by decide +kernel), (by decide +kernel),
        (by decide +kernel)⟩)
  · exact (⟨7, 9, 0, { gS { kind := nkCore } { st := 1 } with time := 1000 }, gOne { kind := nkCore } { st := 1 }, gInst
        { st := 1 }, { st := 1 }, (by decide +kernel), (by decide +kernel), (by decide +kernel),
        (by decide +kernel), (by decide +kernel), (by decide +kernel), (by decide +kernel), (by decide +kernel),
        (by decide +kernel), (by decide +kernel)⟩)
  · exact (⟨7, 9, 0, wk (gS engN { st := 1, again := true }) 0x84, gOne engN { st := 1, again := true }, gInst
        { st := 1, again := true }, (by decide +kernel), (by decide +kernel), (by decide +kernel),
        (by decide +kernel), (by decide +kernel), (by decide +kernel), (by decide +kernel), (by decide +kernel)⟩)
  · exact (⟨7, 9, 0, stuckS, gOne hoN { st := 1 }, gInst { st := 1 }, 5, (by decide +kernel), (by decide +kernel),
        (by decide +kernel), (by decide +kernel), (by decide +kernel), (by decide +kernel), (by decide +kernel)⟩)

/-- Instance 9 of a graph of one node, with the execution of that node. -/
def iInst (e : Exec) : Inst := { num := 9, first := some 0, execs := if e = {} then [] else [(0, e)] }

def iOne (nd : Node) (e : Exec) : Graph := { st := gReady, nodes := [nd], deadline := 1000, insts := [iInst e] }

/-- Entry 7 holding that graph, some time later. -/
def iS (nd : Node) (e : Exec) : State := { (wk R0 pgFgs).putGraph 7 (iOne nd e) with time := 1000000000000 }

/-- The hypotheses of `Obligations.GraphInstances` can be met, clause by clause. -/
theorem wit_GraphInstances :
    (∃ g : Nat, ∃ i : Nat, ∃ x : Graph, ∃ a : Inst, g < 256 ∧ x.inst i = some a ∧ Met (fun s => s.graph g = x ∧
        x.cqEn = false ∧ x.doneEn = false ∧ a.ending = none ∧ ∀ m, m < x.nodes.length → (a.exec m).st = 2)) ∧
    (∃ g : Nat, ∃ i : Nat, ∃ x : Graph, ∃ a : Inst, g < 256 ∧ x.inst i = some a ∧ Met (fun s => s.graph g = x ∧ i < 2 ^
        32 ∧ x.nodes.length ≤ 1024 ∧ x.deadline ≠ 0 ∧ a.ending = none ∧ (∃ t, a.first = some t ∧ t + usTicks
        x.deadline ≤ s.time) ∧ (∃ m, m < x.nodes.length ∧ (a.exec m).st ≠ 2) ∧ ∀ m, m < x.nodes.length → (a.exec
        m).st ≠ 1)) ∧
    (∃ ini : Ini, ∃ g : Nat, ∃ n : Nat, (∀ c, ini ≠ .core c) ∧ g < 256 ∧ MetW ini pgFgs 0x0A4 (fun u => (u.graph g).st =
        gReady ∧ n < (u.graph g).nodes.length ∧ ((u.graph g).node n).trig = true ∧ credit (u.graph g) n < 15 ∧ Fresh
        u (iniId ini) pgFgs)) ∧
    (∃ ini : Ini, ∃ g : Nat, ∃ n : Nat, (∀ c, ini ≠ .core c) ∧ g < 256 ∧ MetW ini pgFgs 0x0A4 (fun u => 15 ≤ credit
        (u.graph g) n ∧ Fresh u (iniId ini) pgFgs)) ∧
    (∃ ini : Ini, ∃ g : Nat, (∀ c, ini ≠ .core c) ∧ g < 256 ∧ MetW ini pgFgs 0x090 (fun _ => True)) ∧
    (∃ ini : Ini, ∃ g : Nat, ∃ a : Inst, (∀ c, ini ≠ .core c) ∧ g < 256 ∧ MetW ini pgFgs 0x090 (fun u => u.rd pgFgs
        R.gtSel = g ∧ (u.graph g).insts = [a] ∧ (u.graph g).nodes = [] ∧ a.ending = none)) ∧
    (∃ ini : Ini, ∃ g : Nat, ∃ n : Nat, ∃ i : Nat, (∀ c, ini ≠ .core c) ∧ g < 256 ∧
        MetW ini pgFgs 0x0A0 (fun u => oldestRun u g n = some i)) ∧
    (∃ ini : Ini, ∃ g : Nat, ∃ c, (∀ c, ini ≠ .core c) ∧ g < 256 ∧ Met (fun s => (s.graph g).st = gReady ∧
        (s.graph g).owner ≠ s.ownerOf (pgCc c))) := by
  refine ⟨?_, ?_, ?_, ?_, ?_, ?_, ?_, ?_⟩
  · exact (⟨7, 9, iOne {} { st := 2 }, iInst { st := 2 }, (by decide +kernel), (by decide +kernel), ⟨iS {} { st := 2 },
        (by refine ⟨?_, ?_, ?_, ?_, ?_⟩ <;> decide +kernel)⟩⟩)
  · exact (⟨7, 9, iOne {} {}, iInst {}, (by decide +kernel), (by decide +kernel), ⟨iS {} {}, ⟨by decide +kernel,
        by decide +kernel, by decide +kernel, by decide +kernel, by decide +kernel, ⟨0, rfl, by decide +kernel⟩, ⟨0,
        by decide +kernel, by decide +kernel⟩, by decide +kernel⟩⟩⟩)
  · exact (⟨.dap, 7, 0, (fun _ h => by cases h), (by decide +kernel), ⟨iS { trig := true } {}, reached_of
        (by decide +kernel), (by decide +kernel)⟩⟩)
  · exact (⟨.dap, 7, 0, (fun _ h => by cases h), (by decide +kernel), ⟨(wk R0 pgFgs).putGraph 7
        { iOne {} {} with credits := [(0, 15)] }, reached_of (by decide +kernel), (by decide +kernel)⟩⟩)
  · exact (⟨.dap, 7, (fun _ h => by cases h), (by decide +kernel), ⟨iS {} {}, reached_of (by decide +kernel),
        (by decide +kernel)⟩⟩)
  · exact (⟨.dap, 7, iInst {}, (fun _ h => by cases h), (by decide +kernel), ⟨((wk R0 pgFgs).wr pgFgs R.gtSel
        7).putGraph 7 { iOne {} {} with nodes := [] }, reached_of (by decide +kernel), (by decide +kernel)⟩⟩)
  · exact (⟨.dap, 7, 0, 9, (fun _ h => by cases h), (by decide +kernel), ⟨iS {} { st := 1 }, reached_of
        (by decide +kernel), (by decide +kernel)⟩⟩)
  · exact (⟨.dap, 7, default, (fun _ h => by cases h), (by decide +kernel), ⟨(wk R0 pgFgs).putGraph 7
        { iOne {} {} with owner := 6 }, (by decide +kernel)⟩⟩)

/-- The hypotheses of `Obligations.Semaphores` can be met, clause by clause. -/
theorem wit_Semaphores :
    (∃ ini : Ini, ∃ n : Nat, ∃ c : Nat, ∃ pair : Nat, ∃ part : Nat, (∀ c, ini ≠ .core c) ∧ n < 1024 ∧ pair < 512 ∧ part
        < 8 ∧ MetW ini pgFgs 0x0A8 (fun u => sget 0 u.sems n < 0xFFFFFFFF ∧ Fresh u (iniId ini) pgFgs)) ∧
    (∃ ini : Ini, ∃ n : Nat, ∃ c : Nat, ∃ pair : Nat, ∃ part : Nat, (∀ c, ini ≠ .core c) ∧ n < 1024 ∧ pair < 512 ∧ part
        < 8 ∧ MetW ini pgFgs 0x0A8 (fun u => sget 0 u.sems n = 0xFFFFFFFF ∧ Fresh u (iniId ini) pgFgs)) ∧
    (∃ ini : Ini, ∃ n : Nat, ∃ c : Nat, ∃ pair : Nat, ∃ part : Nat, (∀ c, ini ≠ .core c) ∧ n < 1024 ∧ pair < 512 ∧ part
        < 8 ∧ MetW ini pgFgs 0x0A8 (fun u => sget 0 u.sems n ≠ 0 ∧ Fresh u (iniId ini) pgFgs)) ∧
    (∃ ini : Ini, ∃ n : Nat, ∃ c : Nat, ∃ pair : Nat, ∃ part : Nat, (∀ c, ini ≠ .core c) ∧ n < 1024 ∧ pair < 512 ∧ part
        < 8 ∧ MetW ini pgFgs 0x0A8 (fun u => sget 0 u.sems n = 0 ∧ Fresh u (iniId ini) pgFgs)) ∧
    (∃ ini : Ini, ∃ n : Nat, ∃ c : Nat, ∃ pair : Nat, ∃ part : Nat, (∀ c, ini ≠ .core c) ∧ n < 1024 ∧ pair < 512 ∧
        part < 8 ∧ MetW ini pgFgs 0x0A8 (fun _ => True)) ∧
    (∃ ini : Ini, ∃ n : Nat, ∃ c : Nat, ∃ pair : Nat, ∃ part : Nat, (∀ c, ini ≠ .core c) ∧ n < 1024 ∧ pair < 512 ∧
        part < 8 ∧ MetW ini pgFgs 0x0A8 (fun u => pairInUse u (n / 2) = false)) ∧
    (∃ ini : Ini, ∃ n : Nat, ∃ c : Nat, ∃ pair : Nat, ∃ part : Nat, (∀ c, ini ≠ .core c) ∧ n < 1024 ∧ pair < 512 ∧
        part < 8 ∧ Met (fun s => sget 0 s.semOwner (n / 2) ≠ s.ownerOf (pgCc c))) ∧
    (∃ ini : Ini, ∃ n : Nat, ∃ c : Nat, ∃ pair : Nat, ∃ part : Nat, (∀ c, ini ≠ .core c) ∧ n < 1024 ∧ pair < 512 ∧
        part < 8 ∧ MetW ini pgFgs 0x0B8 (fun u => pairInUse u pair = false)) ∧
    (∃ ini : Ini, ∃ n : Nat, ∃ c : Nat, ∃ pair : Nat, ∃ part : Nat, (∀ c, ini ≠ .core c) ∧ n < 1024 ∧ pair < 512 ∧
        part < 8 ∧ MetW ini pgFgs 0x0B8 (fun u => pairInUse u pair = true)) := by
  refine ⟨?_, ?_, ?_, ?_, ?_, ?_, ?_, ?_, ?_⟩
  · exact (⟨.dap, 1023, 0, 0, 0, (fun _ h => by cases h), (by decide +kernel), (by decide +kernel),
        (by decide +kernel), ⟨R0, reached_of (by decide +kernel), (by decide +kernel)⟩⟩)
  · exact (⟨.dap, 1023, 0, 0, 0, (fun _ h => by cases h), (by decide +kernel), (by decide +kernel), (by decide +kernel),
        ⟨{ R0 with sems := [(1023, 0xFFFFFFFF)] }, reached_of (by decide +kernel), (by decide +kernel)⟩⟩)
  · exact (⟨.dap, 1023, 0, 0, 0, (fun _ h => by cases h), (by decide +kernel), (by decide +kernel), (by decide +kernel),
        ⟨{ R0 with sems := [(1023, 1)] }, reached_of (by decide +kernel), (by decide +kernel)⟩⟩)
  · exact (⟨.dap, 1023, 0, 0, 0, (fun _ h => by cases h), (by decide +kernel), (by decide +kernel),
        (by decide +kernel), ⟨R0, reached_of (by decide +kernel), (by decide +kernel)⟩⟩)
  · exact (⟨.dap, 1023, 0, 0, 0, (fun _ h => by cases h), (by decide +kernel), (by decide +kernel),
        (by decide +kernel), ⟨R0, reached_of (by decide +kernel), (by decide +kernel)⟩⟩)
  · exact (⟨.dap, 1023, 0, 0, 0, (fun _ h => by cases h), (by decide +kernel), (by decide +kernel),
        (by decide +kernel), ⟨R0, reached_of (by decide +kernel), (by decide +kernel)⟩⟩)
  · exact (⟨.dap, 1023, 0, 0, 0, (fun _ h => by cases h), (by decide +kernel), (by decide +kernel), (by decide +kernel),
        ⟨{ R0 with semOwner := [(511, 7)] }, (by decide +kernel)⟩⟩)
  · exact (⟨.dap, 0, 0, 511, 7, (fun _ h => by cases h), (by decide +kernel), (by decide +kernel),
        (by decide +kernel), ⟨R0, reached_of (by decide +kernel), (by decide +kernel)⟩⟩)
  · exact (⟨.dap, 0, 0, 511, 7, (fun _ h => by cases h), (by decide +kernel), (by decide +kernel), (by decide +kernel),
        ⟨R0.putGraph 7 { nodes := [{ ins := [511] }], insts := [{ num := 1 }] }, reached_of (by decide +kernel),
        (by decide +kernel)⟩⟩)

/-- The hypotheses of `Obligations.Cores` can be met, clause by clause. -/
theorem wit_Cores :
    (∃ ini : Ini, ∃ c : Nat, c < 8 ∧ MetW ini (pgCc c) 0x0C0 (fun u => (u.core c).inbox.length < 16 ∧ Fresh u (iniId
        ini) (pgCc c))) ∧
    (∃ ini : Ini, ∃ c : Nat, c < 8 ∧ MetW ini (pgCc c) 0x0C0 (fun u => 16 ≤ (u.core c).inbox.length ∧ Fresh u (iniId
        ini) (pgCc c))) ∧
    (∃ c : Nat, c < 8 ∧ Met (fun s => Fresh s (0x10 + c) (pgCc c))) ∧
    (∃ ini : Ini, ∃ c : Nat, c < 8 ∧ MetW ini (pgCc c) 0x080 (fun u => coreCanRun u c = true ∧ u.coreSt c = 0)) ∧
    (∃ ini : Ini, ∃ c : Nat, c < 8 ∧ MetW ini (pgCc c) 0x080 (fun u => u.coreSt c ≠ 0)) ∧
    (∃ c : Nat, c < 8 ∧ Met (fun s => (s.core c).halting = true ∧ s.coreSt c ≠ 0 ∧ s.on (pgCc c) R.ccRun = false)) ∧
    (∃ ini : Ini, ∃ c : Nat, ∃ v : Nat, c < 8 ∧ MetW ini (pgCc c) 0x094 (fun u => u.coreSt c = 0 ∧ v < 2 ^ 32)) ∧
    (∃ ini : Ini, ∃ c : Nat, c < 8 ∧ MetW ini (pgCc c) 0x094 (fun u => u.coreSt c ≠ 0)) ∧
    (∃ c : Nat, ∃ g : Nat, ∃ n : Nat, ∃ st : Nat, ∃ e : Exec, c < 8 ∧ Met (fun s => st ≤ 6 ∧
        execOf s (execKey g (s.core c).doneInst n) = some e ∧ e.st = 1 ∧ e.force = none ∧
        ((s.graph g).node n).kind = nkCore ∧ ((s.graph g).node n).page = pgCc c)) ∧
    (∃ c : Nat, ∃ g : Nat, ∃ n : Nat, ∃ st : Nat, c < 8 ∧ Met (fun s => st ≤ 6 ∧
        execOf s (execKey g (s.core c).doneInst n) = none)) ∧
    (∃ c : Nat, c < 8 ∧ Met (fun s => s.coreSt c ≠ 0)) ∧
    (∃ c : Nat, c < 8 ∧ Met (fun s => (s.core c).timerCmp ≤ s.time)) := by
  refine ⟨?_, ?_, ?_, ?_, ?_, ?_, ?_, ?_, ?_, ?_, ?_, ?_⟩
  · exact (⟨.dap, 7, (by decide +kernel), ⟨R0, reached_of (by decide +kernel), (by decide +kernel)⟩⟩)
  · exact (⟨.dap, 7, (by decide +kernel), ⟨R0.putCore 7 { inbox := List.replicate 16 [] }, reached_of
        (by decide +kernel), (by decide +kernel)⟩⟩)
  · exact (⟨7, (by decide +kernel), ⟨R0, (by decide +kernel)⟩⟩)
  · exact (⟨.dap, 7, (by decide +kernel), ⟨(wk R0 (pgCc 7)).wr (pgCc 7) R.resetPc 0x80,
        reached_of (by decide +kernel), (by decide +kernel)⟩⟩)
  · exact (⟨.dap, 7, (by decide +kernel), ⟨R0.wr (pgCc 7) R.ccState 2, reached_of (by decide +kernel),
        (by decide +kernel)⟩⟩)
  · exact (⟨7, (by decide +kernel), ⟨(R0.wr (pgCc 7) R.ccState 1).putCore 7 { halting := true }, (by decide +kernel)⟩⟩)
  · exact (⟨.dap, 7, 0x89ABCDEF, (by decide +kernel), ⟨R0.wr (pgCc 7) R.tcmAddr 0xFFFF,
        reached_of (by decide +kernel), (by decide +kernel)⟩⟩)
  · exact (⟨.dap, 7, (by decide +kernel), ⟨R0.wr (pgCc 7) R.ccState 1, reached_of (by decide +kernel),
        (by decide +kernel)⟩⟩)
  · exact (⟨7, 255, 1, 6, { st := 1 }, (by decide +kernel), ⟨(R0.putCore 7 { doneInst := 9 }).putGraph 255
        { nodes := [{}, { kind := nkCore, page := pgCc 7 }], insts := [{ num := 9, execs := [(1, { st := 1 })] }] },
        (by decide +kernel)⟩⟩)
  · exact (⟨7, 255, 1, 6, (by decide +kernel), ⟨R0, (by decide +kernel)⟩⟩)
  · exact (⟨7, (by decide +kernel), ⟨R0.wr (pgCc 7) R.ccState 2, (by decide +kernel)⟩⟩)
  · exact (⟨7, (by decide +kernel), ⟨{ R0.putCore 7 { timerCmp := 5 } with time := 5 }, (by decide +kernel)⟩⟩)

/-- The hypotheses of `Obligations.CoreAccesses` can be met, clause by clause. -/
theorem wit_CoreAccesses :
    (∃ c : Nat, ∃ a : Nat, ∃ n : Nat, c < 8 ∧ (n = 1 ∨ n = 2 ∨ n = 4) ∧ a + n ≤ tcmSize ∧ n ≠ 1 ∧
        Met (fun s => s.coreSt c = 1 ∧ (s.core c).dbg = false ∧ s.tcmBad = [] ∧ calm s (pgCc c) = true)) ∧
    (∃ c : Nat, ∃ a : Nat, ∃ n : Nat, c < 8 ∧ (n = 1 ∨ n = 2 ∨ n = 4) ∧ a + n ≤ tcmSize ∧
        Met (fun s => s.coreSt c = 1 ∧ (s.core c).dbg = false ∧ s.tcmBad = [] ∧ calm s (pgCc c) = true)) ∧
    (∃ c : Nat, ∃ a : Nat, ∃ n : Nat, c < 8 ∧ (n = 1 ∨ n = 2 ∨ n = 4) ∧ a + n ≤ tcmSize ∧ Met (fun s => s.coreSt c = 1 ∧
        (s.core c).dbg = false ∧ s.tcmBad = [] ∧ calm s (pgCc c) = true)) ∧
    (∃ c : Nat, ∃ a : Nat, ∃ n : Nat, c < 8 ∧ (n = 1 ∨ n = 2 ∨ n = 4) ∧ 0x00101000 ≤ a ∧ a < 0x40000000 ∧
        Met (fun s => s.coreSt c = 1 ∧ (s.core c).dbg = false)) ∧
    (∃ c : Nat, ∃ n : Nat, c < 8 ∧ (n = 1 ∨ n = 2 ∨ n = 4) ∧ Met (fun s => s.coreSt c = 1 ∧ (s.core c).dbg = false ∧
        (s.core c).irqEn = 0)) := by
  refine ⟨?_, ?_, ?_, ?_, ?_⟩
  · exact (⟨7, 262140, 4, (by decide +kernel), (by decide +kernel), (by decide +kernel), (by decide +kernel),
        ⟨(wk R0 (pgCc 7)).wr (pgCc 7) R.ccState 1, (by decide +kernel)⟩⟩)
  · exact (⟨7, 262143, 1, (by decide +kernel), (by decide +kernel), (by decide +kernel),
        ⟨(wk R0 (pgCc 7)).wr (pgCc 7) R.ccState 1, (by decide +kernel)⟩⟩)
  · exact (⟨7, 262143, 1, (by decide +kernel), (by decide +kernel), (by decide +kernel),
        ⟨(wk R0 (pgCc 7)).wr (pgCc 7) R.ccState 1, (by decide +kernel)⟩⟩)
  · exact (⟨7, 0x3FFFFFFF, 2, (by decide +kernel), (by decide +kernel), (by decide +kernel), (by decide +kernel),
        ⟨(wk R0 (pgCc 7)).wr (pgCc 7) R.ccState 1, (by decide +kernel)⟩⟩)
  · exact (⟨7, 4, (by decide +kernel), (by decide +kernel), ⟨(wk R0 (pgCc 7)).wr (pgCc 7) R.ccState 1,
        (by decide +kernel)⟩⟩)

/-- The hypotheses of `Obligations.ChannelDoorbells` can be met, clause by clause. -/
theorem wit_ChannelDoorbells :
    (∃ ini : Ini, ∃ c : Nat, ∃ v : Nat, c < 64 ∧ MetW ini (pgCh c) 0x0D8 (fun u => chRing u c = false ∧
        u.chSt c = cIdle ∧ u.working (pgCh c) = true ∧ v % 65536 = (u.rd (pgCh c) R.chStarted + 1) % 65536 ∧
        v % 65536 ≠ u.rd (pgCh c) R.chStarted)) ∧
    (∃ ini : Ini, ∃ c : Nat, ∃ v : Nat, c < 64 ∧ MetW ini (pgCh c) 0x0D8 (fun u => chRing u c = false ∧
        v % 65536 ≠ u.rd (pgCh c) R.chStarted ∧ v % 65536 ≠ (u.rd (pgCh c) R.chStarted + 1) % 65536)) ∧
    (∃ ini : Ini, ∃ c : Nat, ∃ v : Nat, c < 64 ∧ MetW ini (pgCh c) 0x0D8 (fun u => chRing u c = true ∧ u.chSt c = cIdle
        ∧ u.working (pgCh c) = true ∧ u.on (pgCh c) R.enable = true ∧ v % 131072 ≠ u.rd (pgCh c) R.chRingTail ∧ v %
        131072 ≠ u.rd (pgCh c) R.chRingHead ∧ ixIdx v < u.rd (pgCh c) R.chRingCount ∧ ringOkRd (u.rd (pgCh c)
        R.chRingCount) (v % 131072) (u.rd (pgCh c) R.chRingHead) = true)) ∧
    (∃ ini : Ini, ∃ c : Nat, c < 64 ∧ MetW ini (pgCh c) 0x0DC (fun u => chRing u c = false ∧ u.chSt c = cParked)) ∧
    (∃ ini : Ini, ∃ c : Nat, c < 64 ∧ MetW ini (pgCh c) 0x0DC (fun u => chRing u c = false ∧ u.chSt c = cRun)) ∧
    (∃ ini : Ini, ∃ c : Nat, c < 64 ∧ MetW ini (pgCh c) 0x0DC (fun u => chRing u c = true)) ∧
    (∃ ini : Ini, ∃ c : Nat, c < 64 ∧ MetW ini (pgCh c) 0x0E0 (fun u => chRing u c = false ∧ u.chSt c = cRun ∧
        (u.chan c).st = 0 ∧ (u.chan c).node = none)) ∧
    (∃ ini : Ini, ∃ c : Nat, c < 64 ∧ MetW ini (pgCh c) 0x00C (fun u => u.chSt c ≠ cOff ∧ u.fenced (pgCh c) = false ∧
        u.rd (pgCh c) R.pstate ≠ psResetting)) := by
  refine ⟨?_, ?_, ?_, ?_, ?_, ?_, ?_, ?_⟩
  · exact (⟨.core 0, 63, 65537, (by decide +kernel), ⟨((wk R0 (pgCh 63)).setChSt 63 cIdle).wr (pgCh 63) R.chainPtr
        4096, reached_of (by decide +kernel), (by decide +kernel)⟩⟩)
  · exact (⟨.core 0, 63, 2, (by decide +kernel), ⟨(wk R0 (pgCh 63)).setChSt 63 cIdle, reached_of (by decide +kernel),
        (by decide +kernel)⟩⟩)
  · exact (⟨.core 0, 63, 3, (by decide +kernel), ⟨(((wk R0 (pgCh 63)).setChSt 63 cIdle).wr (pgCh 63) R.chMode 1).wr
        (pgCh 63) R.chRingCount 8, reached_of (by decide +kernel), (by decide +kernel)⟩⟩)
  · exact (⟨.core 0, 63, (by decide +kernel), ⟨(wk R0 (pgCh 63)).setChSt 63 cParked, reached_of (by decide +kernel),
        (by decide +kernel)⟩⟩)
  · exact (⟨.core 0, 63, (by decide +kernel), ⟨(wk R0 (pgCh 63)).setChSt 63 cRun, reached_of (by decide +kernel),
        (by decide +kernel)⟩⟩)
  · exact (⟨.core 0, 63, (by decide +kernel), ⟨(wk R0 (pgCh 63)).wr (pgCh 63) R.chMode 1,
        reached_of (by decide +kernel), (by decide +kernel)⟩⟩)
  · exact (⟨.core 0, 63, (by decide +kernel), ⟨((wk R0 (pgCh 63)).setChSt 63 cRun).putChan 63 { fetch := some 64 },
        reached_of (by decide +kernel), (by decide +kernel)⟩⟩)
  · exact (⟨.core 0, 63, (by decide +kernel), ⟨((wk R0 (pgCh 63)).setChSt 63 cRun).putChan 63
        { st := 1, rdIss := 5, rdDone := 2 }, reached_of (by decide +kernel), (by decide +kernel)⟩⟩)

/-- Channel 7 at work, with what it holds. -/
def chS (k : Chan) : State := (openFw (wk R0 (pgCh 7)) 0).putChan 7 k

/-- The descriptor of a copy of 128 bytes from address 0 to address 4096, which ends its chain. -/
def cpyDesc : List Byte := leBytes 8 0x31 ++ leBytes 8 1 ++ leBytes 8 0 ++ leBytes 8 4096 ++ leBytes 8 128 ++ leBytes
    24 0

/-- A descriptor that another follows. -/
def chnDesc : List Byte := leBytes 8 0x31 ++ leBytes 8 64 ++ leBytes 8 0 ++ leBytes 8 4096 ++ leBytes 8 128 ++ leBytes
    24 0

def rdD (s : State) (a : Nat) : FabResp × Bool × State := readAll s (chTag s 7) (pgCh 7) 0 a 64 cleanHit [] 0

def gtD (s : State) (b : Nat) (r : Resp) : FabResp × State := chGet s 7 b r []

/-- The hypotheses of `Obligations.ChannelData` can be met, clause by clause. -/
theorem wit_ChannelData :
    (∃ c : Nat, ∃ a : Nat, ∃ hit : Hit, ∃ host : Cells, ∃ s : State, ∃ s' : State, ∃ bs : List Byte, ∃ ret : Bool,
        c < 64 ∧ (s.chan c).fetch = some a ∧ (s.chan c).ahead = none ∧
        readAll s (chTag s c) (pgCh c) 0 a 64 hit host 0 = (.ok bs, ret, s')) ∧
    (∃ c : Nat, ∃ a : Nat, ∃ s : State, ∃ bs : List Byte, c < 64 ∧ (s.chan c).fetch = some a ∧ (s.chan c).ahead = some
        (a, bs)) ∧
    (∃ c : Nat, ∃ a : Nat, ∃ hit : Hit, ∃ host : Cells, ∃ s : State, ∃ s' : State, ∃ bs : List Byte, ∃ ret : Bool,
        c < 64 ∧ (s.chan c).fetch = none ∧ chAhead s c (s.chan c) = some a ∧
        readAll s (chTag s c) (pgCh c) 0 a 64 hit host 0 = (.ok bs, ret, s')) ∧
    (∃ c : Nat, ∃ host : Cells, ∃ r : Resp, ∃ s : State, ∃ s' : State, ∃ bs : List Byte, c < 64 ∧ (s.chan c).st = 1 ∧
        (s.chan c).fail = none ∧ (s.chan c).inflight ≠ 0 ∧ chGet s c (s.chan c).rdDone r host = (.ok bs, s')) ∧
    (∃ c : Nat, ∃ i : Nat, ∃ host : Cells, ∃ r : Resp, ∃ s : State, ∃ s' : State, c < 64 ∧ (s.chan c).st = 1 ∧ (s.chan
        c).fail = none ∧ (s.chan c).inflight ≠ 0 ∧ chGet s c (s.chan c).rdDone r host = (.timeout i, s')) ∧
    (∃ c : Nat, ∃ i : Nat, ∃ host : Cells, ∃ r : Resp, ∃ s : State, ∃ s' : State, c < 64 ∧ (s.chan c).st = 1 ∧ (s.chan
        c).fail = none ∧ (s.chan c).inflight ≠ 0 ∧ chGet s c (s.chan c).rdDone r host = (.denied i, s')) ∧
    (∃ c : Nat, ∃ host : Cells, ∃ r : Resp, ∃ s : State, ∃ s' : State, ∃ bs : List Byte, c < 64 ∧
        (s.chan c).fail = some 0 ∧ chGet (s.perf (pgCh c) 0x0C) c (s.chan c).rdDone r host = (.ok bs, s')) ∧
    (∃ c : Nat, ∃ i : Nat, ∃ host : Cells, ∃ r : Resp, ∃ s : State, ∃ s' : State, c < 64 ∧ (s.chan c).fail = some 0 ∧
        chGet (s.perf (pgCh c) 0x0C) c (s.chan c).rdDone r host = (.uncorr i, s')) := by
  refine ⟨?_, ?_, ?_, ?_, ?_, ?_, ?_, ?_⟩
  · exact (⟨7, 64, cleanHit, [], (chS { fetch := some 64 }).store 64 cpyDesc, (rdD ((chS { fetch := some 64 }).store 64
        cpyDesc) 64).2.2, cpyDesc, (rdD ((chS { fetch := some 64 }).store 64 cpyDesc) 64).2.1, (by decide +kernel),
        (by decide +kernel), (by decide +kernel), (by decide +kernel)⟩)
  · exact (⟨7, 64, chS { fetch := some 64, ahead := some (64, cpyDesc), aheadAt := 5 }, cpyDesc, (by decide +kernel),
        (by decide +kernel), (by decide +kernel)⟩)
  · exact (⟨7, 64, cleanHit, [], (chS { st := 1, desc := chnDesc, rdIss := 2, next := some 64 }).store 64 cpyDesc, (rdD
        ((chS { st := 1, desc := chnDesc, rdIss := 2, next := some 64 }).store 64 cpyDesc) 64).2.2, cpyDesc, (rdD
        ((chS { st := 1, desc := chnDesc, rdIss := 2, next := some 64 }).store 64 cpyDesc) 64).2.1,
        (by decide +kernel), (by decide +kernel), (by decide +kernel), (by decide +kernel)⟩)
  · exact (⟨7, [], .ok, chS { st := 1, desc := cpyDesc, rdIss := 2 }, (gtD (chS
        { st := 1, desc := cpyDesc, rdIss := 2 }) 0 .ok).2, okBytes (gtD (chS
        { st := 1, desc := cpyDesc, rdIss := 2 }) 0 .ok).1, (by decide +kernel), (by decide +kernel),
        (by decide +kernel), (by decide +kernel), (by decide +kernel)⟩)
  · exact (⟨7, (gtD (chS { st := 1, desc := cpyDesc, rdIss := 2 }) 0 .timeout).1.inc 0, [], .timeout, chS
        { st := 1, desc := cpyDesc, rdIss := 2 }, (gtD (chS { st := 1, desc := cpyDesc, rdIss := 2 }) 0 .timeout).2,
        (by decide +kernel), (by decide +kernel), (by decide +kernel), (by decide +kernel), (by decide +kernel)⟩)
  · exact (⟨7, (gtD (R0.putChan 7 { st := 1, desc := cpyDesc, rdIss := 2 }) 0 .ok).1.inc 0, [], .ok, R0.putChan 7
        { st := 1, desc := cpyDesc, rdIss := 2 }, (gtD (R0.putChan 7 { st := 1, desc := cpyDesc, rdIss := 2 }) 0
        .ok).2, (by decide +kernel), (by decide +kernel), (by decide +kernel), (by decide +kernel),
        (by decide +kernel)⟩)
  · exact (⟨7, [], .ok, chS { st := 1, desc := cpyDesc, rdIss := 2, fail := some 0 }, (gtD ((chS
        { st := 1, desc := cpyDesc, rdIss := 2, fail := some 0 }).perf (pgCh 7) 0x0C) 0 .ok).2, okBytes (gtD ((chS
        { st := 1, desc := cpyDesc, rdIss := 2, fail := some 0 }).perf (pgCh 7) 0x0C) 0 .ok).1, (by decide +kernel),
        (by decide +kernel), (by decide +kernel)⟩)
  · exact (⟨7, (gtD ((chS { st := 1, desc := cpyDesc, rdIss := 2, fail := some 0 }).perf (pgCh 7) 0x0C) 0 .uncorr).1.inc
        0, [], .uncorr, chS { st := 1, desc := cpyDesc, rdIss := 2, fail := some 0 }, (gtD ((chS
        { st := 1, desc := cpyDesc, rdIss := 2, fail := some 0 }).perf (pgCh 7) 0x0C) 0 .uncorr).2,
        (by decide +kernel), (by decide +kernel), (rp_uncorr (by decide +kernel))⟩)

def rdE (s : State) (a : Nat) : FabResp × Bool × State := readAll s (chTag s 7) (pgCh 7) (s.chan 7).tag a 64 cleanHit
    [] 0

def wbE (s : State) : FabResp × Bool × Nat × State :=
  writeAll s (chTag s 7) (pgCh 7) (s.chan 7).tag ((s.chan 7).addr + 0x30) (chGroup s 7 (s.chan 7)) cleanHit 0

def rcE (s : State) : FabResp × Bool × Nat × State :=
  writeAll s (chTag s 7) (pgCh 7) (s.chan 7).tag (s.rd (pgCh 7) R.chCrBase + 16 * ixIdx (s.rd (pgCh 7) R.chCrWrIdx))
    (chRecord s 7 (s.chan 7)) cleanHit 0

/-- The hypotheses of `Obligations.ChannelEnds` can be met, clause by clause. -/
theorem wit_ChannelEnds :
    (∃ c : Nat, ∃ s : State, c < 64 ∧ (s.chan c).st = 1 ∧ (s.chan c).fail = none ∧
        (s.chan c).rdDone = (s.chan c).beats ∧ (s.chan c).wrDone = (s.chan c).beats) ∧
    (∃ c : Nat, ∃ hit : Hit, ∃ host : Cells, ∃ s : State, ∃ s' : State, ∃ bs : List Byte, ∃ ret : Bool, c < 64 ∧ (s.chan
        c).st = 3 ∧ readAll s (chTag s c) (pgCh c) (s.chan c).tag ((s.chan c).lastPcie.getD 0) 64 hit host (s.chan
        c).inc = (.ok bs, ret, s')) ∧
    (∃ c : Nat, ∃ hit : Hit, ∃ s : State, ∃ s' : State, ∃ bs : List Byte, ∃ n : Nat, c < 64 ∧ (s.chan c).st = 4 ∧
        chRing s c = false ∧ writeAll s (chTag s c) (pgCh c) (s.chan c).tag ((s.chan c).addr + 0x30) (chGroup s c
        (s.chan c)) hit (s.chan c).inc = (.ok bs, false, n, s') ∧ chRing s' c = false) ∧
    (∃ c : Nat, ∃ hit : Hit, ∃ s : State, ∃ s' : State, ∃ bs : List Byte, ∃ n : Nat, c < 64 ∧ (s.chan c).st = 5 ∧ crFull
        s c = false ∧ s.chSt c ≠ cCqWait ∧ writeAll s (chTag s c) (pgCh c) (s.chan c).tag (s.rd (pgCh c) R.chCrBase
        + 16 * ixIdx (s.rd (pgCh c) R.chCrWrIdx)) (chRecord s c (s.chan c)) hit (s.chan c).inc = (.ok bs, false, n,
        s')) ∧
    (∃ c : Nat, ∃ a : Nat, ∃ hit : Hit, ∃ host : Cells, ∃ s : State, ∃ s' : State, ∃ bs : List Byte, c < 64 ∧ (s.chan
        c).tailDue = true ∧ (s.chan c).st = 6 ∧ readAll s (chTag s c) (pgCh c) (s.chan c).tag (s.chan c).addr 64 hit
        host (s.chan c).inc = (.ok bs, false, s') ∧ nextBad bs = false ∧ nextOf bs = some a) ∧
    (∃ c : Nat, ∃ hit : Hit, ∃ host : Cells, ∃ s : State, ∃ s' : State, ∃ bs : List Byte, c < 64 ∧ (s.chan c).tailDue =
        true ∧ (s.chan c).st = 6 ∧ readAll s (chTag s c) (pgCh c) (s.chan c).tag (s.chan c).addr 64 hit host (s.chan
        c).inc = (.ok bs, false, s') ∧ nextBad bs = false ∧ nextOf bs = none ∧ s'.on (pgCh c) R.extPend = false) ∧
    (∃ c : Nat, ∃ s : State, c < 64 ∧ (s.chan c).st = 1 ∧ (s.chan c).fail = none ∧
        (s.chan c).start + usTicks (s.chan c).budget ≤ s.time) ∧
    (∃ c : Nat, ∃ s : State, c < 64 ∧ s.on (pgCh c) R.enable = false ∧ s.chSt c = cDraining ∧ s.fenced (pgCh c) = false
        ∧ s.rd (pgCh c) R.pstate ≠ psResetting) ∧
    (∃ c : Nat, ∃ s : State, c < 64 ∧ s.on (pgCh c) R.enable = true ∧ (s.chan c).st = 2 ∧ s.chSt c = cRun ∧
        (s.chan c).status = stBusErr) := by
  refine ⟨?_, ?_, ?_, ?_, ?_, ?_, ?_, ?_, ?_⟩
  · exact (⟨7, chS { st := 1, desc := cpyDesc, rdIss := 2, rdDone := 2, wrDone := 2 }, (by decide +kernel),
        (by decide +kernel), (by decide +kernel), (by decide +kernel), (by decide +kernel)⟩)
  · exact (⟨7, cleanHit, [], chS
        { st := 3, desc := cpyDesc, rdIss := 2, rdDone := 2, wrDone := 2, lastPcie := some 64 }, (rdE (chS
        { st := 3, desc := cpyDesc, rdIss := 2, rdDone := 2, wrDone := 2, lastPcie := some 64 }) 64).2.2, okBytes
        (rdE (chS { st := 3, desc := cpyDesc, rdIss := 2, rdDone := 2, wrDone := 2, lastPcie := some 64 }) 64).1,
        false, (by decide +kernel), (by decide +kernel), (by decide +kernel)⟩)
  · exact (⟨7, cleanHit, chS { st := 4, desc := cpyDesc, rdIss := 2, rdDone := 2, wrDone := 2 }, (wbE (chS
        { st := 4, desc := cpyDesc, rdIss := 2, rdDone := 2, wrDone := 2 })).2.2.2, okBytes (wbE (chS
        { st := 4, desc := cpyDesc, rdIss := 2, rdDone := 2, wrDone := 2 })).1, (wbE (chS
        { st := 4, desc := cpyDesc, rdIss := 2, rdDone := 2, wrDone := 2 })).2.2.1, (by decide +kernel),
        (by decide +kernel), (by decide +kernel), (wr_clean (by decide +kernel)), (by decide +kernel)⟩)
  · exact (⟨7, cleanHit, (chS { st := 5, desc := cpyDesc, rdIss := 2, rdDone := 2, wrDone := 2 }).wr (pgCh 7)
        R.chCrCount 4, (rcE ((chS { st := 5, desc := cpyDesc, rdIss := 2, rdDone := 2, wrDone := 2 }).wr (pgCh 7)
        R.chCrCount 4)).2.2.2, okBytes (rcE ((chS
        { st := 5, desc := cpyDesc, rdIss := 2, rdDone := 2, wrDone := 2 }).wr (pgCh 7) R.chCrCount 4)).1, (rcE
        ((chS { st := 5, desc := cpyDesc, rdIss := 2, rdDone := 2, wrDone := 2 }).wr (pgCh 7) R.chCrCount 4)).2.2.1,
        (by decide +kernel), (by decide +kernel), (by decide +kernel), (by decide +kernel), (wr_clean
        (by decide +kernel))⟩)
  · exact (⟨7, 64, cleanHit, [], (chS { st := 6, desc := cpyDesc, tailDue := true, addr := 128 }).store 128 chnDesc,
        (rdE ((chS { st := 6, desc := cpyDesc, tailDue := true, addr := 128 }).store 128 chnDesc) 128).2.2, chnDesc,
        (by decide +kernel), (by decide +kernel), (by decide +kernel), (by decide +kernel), (by decide +kernel),
        (by decide +kernel)⟩)
  · exact (⟨7, cleanHit, [], (chS { st := 6, desc := cpyDesc, tailDue := true, addr := 128 }).store 128 cpyDesc, (rdE
        ((chS { st := 6, desc := cpyDesc, tailDue := true, addr := 128 }).store 128 cpyDesc) 128).2.2, cpyDesc,
        (by decide +kernel), (by decide +kernel), (by decide +kernel), (by decide +kernel), (by decide +kernel),
        (by decide +kernel), (by decide +kernel)⟩)
  · exact (⟨7, { chS { st := 1, desc := cpyDesc, rdIss := 2 } with time := 1000000000000 }, (by decide +kernel),
        (by decide +kernel), (by decide +kernel), (by decide +kernel)⟩)
  · exact (⟨7, R0.setChSt 7 cDraining, (by decide +kernel), (by decide +kernel), (by decide +kernel),
        (by decide +kernel), (by decide +kernel)⟩)
  · exact (⟨7, (chS { st := 2, desc := cpyDesc, rdIss := 2, rdDone := 1, status := stBusErr }).setChSt 7 cRun,
        (by decide +kernel), (by decide +kernel), (by decide +kernel), (by decide +kernel), (by decide +kernel)⟩)

/-- Queue 7 at work, with what it holds. -/
def pqS (k : Pq) : State := ((openFw (wk R0 (pgPq 7)) 0).putPq 7 k).setQSt 7 qRun

/-- The descriptor of a stream of two elements 64 bytes apart, from address 4096. -/
def strDesc : List Byte := leBytes 8 0x33 ++ leBytes 8 4096 ++ leBytes 4 64 ++ leBytes 4 2 ++ leBytes 40 0

def rdQ (s : State) : FabResp × Bool × State := readAll s (qTag s 7) (pgPq 7) 0 (s.rd (pgPq 7) R.streamPtr) 64
    cleanHit [] 0

/-- The hypotheses of `Obligations.QueueStreams` can be met, clause by clause. -/
theorem wit_QueueStreams :
    (∃ ini : Ini, ∃ q : Nat, ∃ v : Nat, q < 64 ∧ MetW ini (pgPq q) 0x0B0 (fun u => u.qSt q = qIdle ∧
        u.working (pgPq q) = true ∧ v % 65536 = (u.rd (pgPq q) R.qStarted + 1) % 65536 ∧
        v % 65536 ≠ u.rd (pgPq q) R.qStarted)) ∧
    (∃ ini : Ini, ∃ q : Nat, ∃ v : Nat, q < 64 ∧ MetW ini (pgPq q) 0x0B0 (fun u => v % 65536 ≠ u.rd (pgPq q)
        R.qStarted ∧ u.qSt q ≠ qIdle)) ∧
    (∃ ini : Ini, ∃ q : Nat, ∃ v : Nat, q < 64 ∧ MetW ini (pgPq q) 0x0B4 (fun u => (u.pq q).snap = false ∧
        u.qSt q ≠ qDrain ∧ v < 131072 ∧ v ≠ u.rd (pgPq q) R.consIdx ∧
        ringBetween (u.rd (pgPq q) R.qCap) (u.rd (pgPq q) R.prodIdx) (u.rd (pgPq q) R.consIdx) v = true)) ∧
    (∃ ini : Ini, ∃ q : Nat, ∃ v : Nat, q < 64 ∧ MetW ini (pgPq q) 0x0B4 (fun u => (u.pq q).snap = false ∧
        u.qSt q ≠ qDrain ∧ v < 131072 ∧ v ≠ u.rd (pgPq q) R.consIdx ∧
        ringBetween (u.rd (pgPq q) R.qCap) (u.rd (pgPq q) R.prodIdx) (u.rd (pgPq q) R.consIdx) v = false)) ∧
    (∃ q : Nat, ∃ n : Nat, ∃ s : State, q < 64 ∧ DoorOpen s n (s.ownerOf (pgPq q))) ∧
    (∃ q : Nat, ∃ hit : Hit, ∃ host : Cells, ∃ s : State, ∃ s' : State, ∃ bs : List Byte, ∃ ret : Bool, q < 64 ∧ (s.pq
        q).fetch = true ∧ readAll s (qTag s q) (pgPq q) 0 (s.rd (pgPq q) R.streamPtr) 64 hit host 0 = (.ok bs, ret,
        s') ∧ injectNow s' (pgPq q) eProg = false) ∧
    (∃ q : Nat, q < 64 ∧ Met (fun s => s.rd (pgPq q) R.qReturning ≠ 0)) ∧
    (∃ ini : Ini, ∃ q : Nat, q < 64 ∧ MetW ini (pgPq q) 0x0B8 (fun u => u.qSt q = qRun ∨ u.qSt q = qHaltd)) ∧
    (∃ ini : Ini, ∃ q : Nat, q < 64 ∧ MetW ini (pgPq q) 0x00C (fun u => u.qSt q = qRun ∧ u.fenced (pgPq q) = false ∧
        u.rd (pgPq q) R.pstate ≠ psResetting)) := by
  refine ⟨?_, ?_, ?_, ?_, ?_, ?_, ?_, ?_, ?_⟩
  · exact (⟨.core 0, 63, 65537, (by decide +kernel), ⟨(wk R0 (pgPq 63)).setQSt 63 qIdle,
        reached_of (by decide +kernel), (by decide +kernel)⟩⟩)
  · exact (⟨.core 0, 63, 65537, (by decide +kernel), ⟨(wk R0 (pgPq 63)).setQSt 63 qRun,
        reached_of (by decide +kernel), (by decide +kernel)⟩⟩)
  · exact (⟨.core 0, 63, 2, (by decide +kernel), ⟨((((wk R0 (pgPq 63)).setQSt 63 qRun).wr (pgPq 63) R.qCap 8).wr (pgPq
        63) R.prodIdx 3).wr (pgPq 63) R.qOccupied 3, reached_of (by decide +kernel), (by decide +kernel)⟩⟩)
  · exact (⟨.core 0, 63, 4, (by decide +kernel), ⟨((((wk R0 (pgPq 63)).setQSt 63 qRun).wr (pgPq 63) R.qCap 8).wr (pgPq
        63) R.prodIdx 3).wr (pgPq 63) R.qOccupied 3, reached_of (by decide +kernel), (by decide +kernel)⟩⟩)
  · exact (⟨63, 0, fnUp (R0.wr pgFab R.partState 1 0) 0, (by decide +kernel), (by decide +kernel), (by decide +kernel),
        (by decide +kernel)⟩)
  · exact (⟨7, cleanHit, [], (pqS { fetch := true }).store 0 strDesc, (rdQ ((pqS { fetch := true }).store 0
        strDesc)).2.2, strDesc, false, (by decide +kernel), (by decide +kernel), (by decide +kernel),
        (by decide +kernel)⟩)
  · exact (⟨63, (by decide +kernel), ⟨((wk R0 (pgPq 63)).setQSt 63 qIdle).wr (pgPq 63) R.qReturning 4,
        (by decide +kernel)⟩⟩)
  · exact (⟨.core 0, 63, (by decide +kernel), ⟨(wk R0 (pgPq 63)).setQSt 63 qRun, reached_of (by decide +kernel),
        (by decide +kernel)⟩⟩)
  · exact (⟨.core 0, 63, (by decide +kernel), ⟨(wk R0 (pgPq 63)).setQSt 63 qRun, reached_of (by decide +kernel),
        (by decide +kernel)⟩⟩)

/-- Queue 7 at work, with what it holds, in a state. -/
def pqE (k : Pq) (st : Nat) : State :=
  (((openFw (wk R0 (pgPq 7)) 0).putPq 7 k).setQSt 7 st).wr (pgPq 7) R.qCap 8

/-- The descriptor of a stream of two elements 64 bytes apart, from address 4096. -/
def strE : List Byte := leBytes 8 0x33 ++ leBytes 8 4096 ++ leBytes 4 64 ++ leBytes 4 2 ++ leBytes 40 0

/-- A request for the first of them. -/
def reqE : PqReq := ⟨0, 0, 64, 4096, 4096, false, false, false, []⟩

/-- The same, awaiting its second attempt. -/
def reqA : PqReq := { reqE with again := true }

def oneReq : Pq := { desc := strE, reqs := [reqE] }

def attE (s : State) (r : Resp) : FabResp × State := qAttempt s 7 reqE r []

/-- The second attempt of that request. -/
def attA (r : Resp) : FabResp × State :=
  qAttempt (((pqE { oneReq with reqs := [reqA] } qRun).perf (pgPq 7) 0x0C).perf (pgPq 7) 0x06) 7 reqA r []

theorem timE : (attE (pqE oneReq qRun) .timeout).1 = .timeout ((attE (pqE oneReq qRun) .timeout).1.inc 0) := by
  decide +kernel

/-- The hypotheses of `Obligations.QueueEnds` can be met, clause by clause. -/
theorem wit_QueueEnds :
    (∃ q : Nat, ∃ i : Nat, ∃ b : Back, ∃ host : Cells, ∃ s : State, ∃ s' : State, ∃ v : FabResp, ∃ x : PqReq, q < 64 ∧
        (s.pq q).reqs[i]? = some x ∧ x.again = false ∧ qAttempt s q x b.r host = (v, s') ∧ s'.qSt q = qDrain) ∧
    (∃ q : Nat, ∃ i : Nat, ∃ b : Back, ∃ host : Cells, ∃ s : State, ∃ s' : State, ∃ v : FabResp, ∃ x : PqReq, q < 64 ∧
        (s.pq q).reqs[i]? = some x ∧ x.again = false ∧ qAttempt s q x b.r host = (v, s') ∧ s'.qSt q ≠ qDrain ∧ ∃ bs,
        v = .ok bs) ∧
    (∃ q : Nat, ∃ i : Nat, ∃ b : Back, ∃ host : Cells, ∃ s : State, ∃ s' : State, ∃ v : FabResp, ∃ x : PqReq, q < 64 ∧
        (s.pq q).reqs[i]? = some x ∧ x.again = false ∧ qAttempt s q x b.r host = (v, s') ∧ s'.qSt q ≠ qDrain ∧ ∃ k,
        v = .denied k) ∧
    (∃ q : Nat, ∃ i : Nat, ∃ b : Back, ∃ host : Cells, ∃ s : State, ∃ s' : State, ∃ v : FabResp, ∃ x : PqReq, q < 64 ∧
        (s.pq q).reqs[i]? = some x ∧ x.again = false ∧ qAttempt s q x b.r host = (v, s') ∧ s'.qSt q ≠ qDrain ∧ (∀
        bs, v ≠ .ok bs) ∧ ∀ k, v ≠ .denied k) ∧
    (∃ q : Nat, ∃ i : Nat, ∃ b : Back, ∃ host : Cells, ∃ s : State, ∃ s' : State, ∃ v : FabResp, ∃ x : PqReq, q < 64 ∧
        (s.pq q).reqs.zipIdx.find? (fun y => y.1.again) = some (x, i) ∧ qAttempt ((s.perf (pgPq q) 0x0C).perf (pgPq
        q) 0x06) q x b.r host = (v, s') ∧ ∃ bs, v = .ok bs) ∧
    (∃ q : Nat, ∃ i : Nat, ∃ b : Back, ∃ host : Cells, ∃ s : State, ∃ s' : State, ∃ v : FabResp, ∃ x : PqReq, q < 64 ∧
        (s.pq q).reqs.zipIdx.find? (fun y => y.1.again) = some (x, i) ∧ qAttempt ((s.perf (pgPq q) 0x0C).perf (pgPq
        q) 0x06) q x b.r host = (v, s') ∧ ∃ k, v = .uncorr k) ∧
    (∃ q : Nat, ∃ i : Nat, ∃ b : Back, ∃ host : Cells, ∃ s : State, ∃ s' : State, ∃ v : FabResp, ∃ x : PqReq, q < 64 ∧
        (s.pq q).reqs.zipIdx.find? (fun y => y.1.again) = some (x, i) ∧ qAttempt ((s.perf (pgPq q) 0x0C).perf (pgPq
        q) 0x06) q x b.r host = (v, s') ∧ ∃ k, v = .timeout k) ∧
    (∃ q : Nat, ∃ s : State, q < 64 ∧ (s.pq q).desc ≠ [] ∧ s.qSt q = qRun ∧ (s.pq q).start + usTicks (s.pq q).budget ≤
        s.time ∧ ∀ y ∈ (s.pq q).reqs, y.again = false) ∧
    (∃ q : Nat, ∃ s : State, q < 64 ∧ s.qSt q = qDrain ∧ (s.pq q).reqs = [] ∧ s.on (pgPq q) R.enable = false ∧ s.fenced
        (pgPq q) = false ∧ s.rd (pgPq q) R.pstate ≠ psResetting) ∧
    (∃ q : Nat, ∃ s : State, q < 64 ∧ s.qSt q = qDrain ∧ (s.pq q).reqs = [] ∧ s.on (pgPq q) R.enable = true ∧
        (s.pq q).ending = some stBusErr) ∧
    (∃ ini : Ini, ∃ q : Nat, q < 64 ∧ MetW ini (pgPq q) 0x0D0 (fun _ => True)) ∧
    (∃ q : Nat, ∃ s : State, q < 64 ∧ (s.pq q).snap = true ∧ s.rd (pgPq q) R.qReturning = 0 ∧ (s.pq q).held = [] ∧ calm
        s (pgPq q) = true ∧ qFreeOf s q + s.rd (pgPq q) R.qReserved + s.rd (pgPq q) R.qOccupied = s.rd (pgPq q)
        R.qCap) := by
  refine ⟨?_, ?_, ?_, ?_, ?_, ?_, ?_, ?_, ?_, ?_, ?_, ?_⟩
  · exact (⟨7, 0, ⟨.ok, cleanHit⟩, [], pqE oneReq qDrain, (attE (pqE oneReq qDrain) .ok).2, (attE (pqE oneReq qDrain)
        .ok).1, reqE, (by decide +kernel), (by decide +kernel), (by decide +kernel), rfl, (by decide +kernel)⟩)
  · exact (⟨7, 0, ⟨.ok, cleanHit⟩, [], pqE oneReq qRun, (attE (pqE oneReq qRun) .ok).2, (attE (pqE oneReq qRun) .ok).1,
        reqE, (by decide +kernel), (by decide +kernel), (by decide +kernel), rfl, (by decide +kernel), ⟨okBytes
        (attE (pqE oneReq qRun) .ok).1, (by decide +kernel)⟩⟩)
  · exact (⟨7, 0, ⟨.ok, cleanHit⟩, [], ((wk R0 (pgPq 7)).putPq 7 oneReq).setQSt 7 qRun, (attE (((wk R0 (pgPq 7)).putPq 7
        oneReq).setQSt 7 qRun) .ok).2, (attE (((wk R0 (pgPq 7)).putPq 7 oneReq).setQSt 7 qRun) .ok).1, reqE,
        (by decide +kernel), (by decide +kernel), (by decide +kernel), rfl, (by decide +kernel), ⟨(attE (((wk R0
        (pgPq 7)).putPq 7 oneReq).setQSt 7 qRun) .ok).1.inc 0, (by decide +kernel)⟩⟩)
  · exact (⟨7, 0, ⟨.timeout, cleanHit⟩, [], pqE oneReq qRun, (attE (pqE oneReq qRun) .timeout).2, (attE (pqE oneReq
        qRun) .timeout).1, reqE, (by decide +kernel), (by decide +kernel), (by decide +kernel), rfl,
        (by decide +kernel), (fun bs h => by rw [timE] at h; cases h), fun k h => by rw [timE] at h; cases h⟩)
  · exact (⟨7, 0, ⟨.ok, cleanHit⟩, [], pqE { oneReq with reqs := [reqA] } qRun, (attA .ok).2, (attA .ok).1, reqA,
        (by decide +kernel), (by decide +kernel), rfl, ⟨okBytes (attA .ok).1, (by decide +kernel)⟩⟩)
  · exact (⟨7, 0, ⟨.uncorr, cleanHit⟩, [], pqE { oneReq with reqs := [reqA] } qRun, (attA .uncorr).2, (attA .uncorr).1,
        reqA, (by decide +kernel), (by decide +kernel), rfl, ⟨(attA .uncorr).1.inc 0, congrArg Prod.fst (rp_uncorr
        (r := attA .uncorr) (by decide +kernel))⟩⟩)
  · exact (⟨7, 0, ⟨.timeout, cleanHit⟩, [], pqE { oneReq with reqs := [reqA] } qRun, (attA .timeout).2, (attA
        .timeout).1, reqA, (by decide +kernel), (by decide +kernel), rfl, ⟨(attA .timeout).1.inc 0,
        (by decide +kernel)⟩⟩)
  · exact (⟨7, { pqE oneReq qRun with time := 1000000000000 }, (by decide +kernel), (by decide +kernel),
        (by decide +kernel), (by decide +kernel), (by decide +kernel)⟩)
  · exact (⟨7, (pqE {} qDrain).wr (pgPq 7) R.enable 0, (by decide +kernel), (by decide +kernel), (by decide +kernel),
        (by decide +kernel), (by decide +kernel), (by decide +kernel)⟩)
  · exact (⟨7, pqE { desc := strE, ending := some stBusErr } qDrain, (by decide +kernel), (by decide +kernel),
        (by decide +kernel), (by decide +kernel), (by decide +kernel)⟩)
  · exact (⟨.core 0, 7, (by decide +kernel), ⟨R0, reached_of (by decide +kernel), (by decide +kernel)⟩⟩)
  · exact (⟨7, pqE { snap := true } qRun, (by decide +kernel), (by decide +kernel), (by decide +kernel),
        (by decide +kernel), (by decide +kernel), (by decide +kernel)⟩)

/-- Queue 7 at work on a stream from host memory, with what it holds. -/
def pqT (k : Pq) : State :=
  (((wk R0 (pgPq 7)).putPq 7 k).setQSt 7 qRun).wr (pgPq 7) R.qCap 8

/-- A stream of two elements from the first page of host memory. -/
def strT : List Byte := leBytes 8 0x33 ++ leBytes 8 pcieBase ++ leBytes 4 64 ++ leBytes 4 2 ++ leBytes 40 0

def haltT : Halt := { write := false, addr := pcieBase, prg := some 5 }

/-- The hypotheses of `Obligations.Translations` can be met, clause by clause. -/
theorem wit_Translations :
    (∃ q : Nat, ∃ page : Nat, q < 64 ∧ Met (fun s => s.on (pgPq q) R.qAtMode = true ∧
        wantsPage (qWants s q) page = true ∧ (s.pq q).halt = none)) ∧
    (∃ q : Nat, q < 64 ∧ Met (fun s => s.on (pgPq q) R.qAtMode = false)) ∧
    (∃ q : Nat, ∃ h : Halt, q < 64 ∧ Met (fun s => s.on (pgPq q) R.qAtMode = true ∧ wantsPage (qWants s q) (h.addr /
        4096) = true ∧ (s.pq q).halt = some h)) ∧
    (∃ q : Nat, ∃ fn : Nat, ∃ prg : Nat, ∃ h : Halt, Met (fun s => s.prgs = [⟨fn, prg, 64 + q⟩] ∧
        (s.pq q).halt = some h ∧ h.prg = some prg ∧ unitFn s (64 + q) = fn)) ∧
    (∃ q : Nat, Met (fun _ => q < 64)) ∧
    (∃ v : Inval, Met (fun s => s.invals = [v] ∧ underInval s v = false)) ∧
    (∃ v : Inval, Met (fun s => s.invals = [v] ∧ underInval s v = true)) := by
  refine ⟨?_, ?_, ?_, ?_, ?_, ?_, ?_⟩
  · exact (⟨7, pcieBase / 4096, (by decide +kernel), ⟨(pqT { desc := strT }).wr (pgPq 7) R.qAtMode 1,
        (by decide +kernel)⟩⟩)
  · exact (⟨7, (by decide +kernel), ⟨pqT { desc := strT }, (by decide +kernel)⟩⟩)
  · exact (⟨7, { haltT with prg := none, again := true }, (by decide +kernel), ⟨(pqT
        { desc := strT, halt := some { haltT with prg := none, again := true } }).wr (pgPq 7) R.qAtMode 1,
        (by decide +kernel)⟩⟩)
  · exact (⟨7, 0, 5, haltT, ⟨{ pqT { desc := strT, halt := some haltT } with prgs := [⟨0, 5, 71⟩] },
        (by decide +kernel)⟩⟩)
  · exact (⟨63, ⟨pqT { trans := [⟨6, 3, true, true⟩] }, (by decide +kernel)⟩⟩)
  · exact (⟨⟨0, 9, 5, 2⟩, ⟨{ R0 with invals := [⟨0, 9, 5, 2⟩] }, (by decide +kernel)⟩⟩)
  · exact (⟨⟨0, 9, 5, 2⟩, ⟨{ (pqT { reqs := [⟨0, 0, 64, 5 * 4096, 0, false, true, false, [invKey 0 9]⟩] }).wr (pgPq 7)
        R.qAtMode 1 with invals := [⟨0, 9, 5, 2⟩] }, (by decide +kernel)⟩⟩)

/-- The hypotheses of `Obligations.PcieLink` can be met, clause by clause. -/
theorem wit_PcieLink :
    (∃ n : Nat, n < 8 ∧ Met (fun s => n = 0 ∨ (fnOf s 0).vfEn = true)) ∧
    (∃ n : Nat, n < 8 ∧ Met (fun s => n ≠ 0 ∧ ∀ u, u < 128 → haltOf s u = none)) ∧
    (∃ n : Nat, n < 8 ∧ Met (fun s => s.on pgPci R.dlUp = true ∧ ∀ u, u < 128 → haltOf s u = none)) ∧
    (∃ n : Nat, n < 8 ∧ Met (fun s => s.on pgPci R.dlUp = false)) ∧
    (∃ ini : Ini, ∃ n : Nat, n < 8 ∧ MetW ini pgPci 0x084 (fun u => u.on pgPci R.dlUp = true ∧
        u.rd pgPci R.ltssm ≠ 4)) ∧
    (∃ n : Nat, ∃ width : Nat, ∃ rate : Nat, n < 8 ∧ Met (fun s => s.on pgPci R.dlUp = false ∧
        (width = 1 ∨ width = 2 ∨ width = 4 ∨ width = 8) ∧ rate ≠ 0 ∧ rate ≤ s.rd pgPci R.rateCap)) ∧
    (∃ n : Nat, n < 8 ∧ Met (fun s => s.on pgPci R.dlUp = true ∧ s.rd pgPci R.ltssm ≠ 4)) ∧
    (∃ n : Nat, ∃ width : Nat, ∃ rate : Nat, n < 8 ∧ Met (fun s => s.on pgPci R.dlUp = true ∧ s.rd pgPci R.ltssm = 4 ∧
        (width = 1 ∨ width = 2 ∨ width = 4 ∨ width = 8) ∧ rate ≠ 0 ∧ rate < 8 ∧ rate ≤ s.rd pgPci R.rateCap)) ∧
    (∃ n : Nat, ∃ v : Nat, n < 8 ∧ Met (fun s => s.on pgPci R.dlUp = true ∧ v ≠ 0)) ∧
    (∃ n : Nat, n < 8 ∧ Met (fun s => s.on pgPci R.dlUp = true ∧ s.rd pgPci R.ltssm = 3)) ∧
    (∃ n : Nat, n < 8 ∧ Met (fun s => s.on pgPci R.dlUp = true ∧ s.rd pgPci R.ltssm = 5)) := by
  refine ⟨?_, ?_, ?_, ?_, ?_, ?_, ?_, ?_, ?_, ?_, ?_⟩
  · exact (⟨0, (by decide +kernel), ⟨R0, (by decide +kernel)⟩⟩)
  · exact (⟨7, (by decide +kernel), ⟨fnUp R0 7, (by decide +kernel)⟩⟩)
  · exact (⟨0, (by decide +kernel), ⟨fnUp (R0.wr pgPci R.dlUp 1) 7, (by decide +kernel)⟩⟩)
  · exact (⟨0, (by decide +kernel), ⟨R0, (by decide +kernel)⟩⟩)
  · exact (⟨.core 0, 0, (by decide +kernel), ⟨R0.wr pgPci R.dlUp 1, reached_of (by decide +kernel),
        (by decide +kernel)⟩⟩)
  · exact (⟨0, 8, 1, (by decide +kernel), ⟨R0.wr pgPci R.dlUp 0, (by decide +kernel)⟩⟩)
  · exact (⟨0, (by decide +kernel), ⟨R0.wr pgPci R.dlUp 1, (by decide +kernel)⟩⟩)
  · exact (⟨0, 8, 1, (by decide +kernel), ⟨(R0.wr pgPci R.dlUp 1).wr pgPci R.ltssm 4, (by decide +kernel)⟩⟩)
  · exact (⟨0, 7, (by decide +kernel), ⟨R0.wr pgPci R.dlUp 1, (by decide +kernel)⟩⟩)
  · exact (⟨0, (by decide +kernel), ⟨(R0.wr pgPci R.dlUp 1).wr pgPci R.ltssm 3, (by decide +kernel)⟩⟩)
  · exact (⟨0, (by decide +kernel), ⟨(R0.wr pgPci R.dlUp 1).wr pgPci R.ltssm 5, (by decide +kernel)⟩⟩)

/-- Pair 5 of function 7 ACTIVE, with rings of 8 entries; the function's pages are its own and its partition is there.
    -/
def qpS (k : HPair) : State :=
  ((((((openFw (fnUp ((R0.wr pgFab R.partState 1 7).wr (pgHq 7) R.owner 7) 7) 0).putQp 7 5 k).wr
    (pgHq 7) R.qpState qpActive 5).wr (pgHq 7) R.sqSize 8 5).wr (pgHq 7) R.hqCqSize 8 5).wr (pgHq 7) R.cqTail 4 5).wr
    (pgHq 7) R.sqTail 3 5

/-- A NOP with tag 9. -/
def nopCmd : List Byte := leBytes 4 0 ++ leBytes 4 9 ++ leBytes 56 0

def rdP (s : State) : FabResp × Bool × State :=
  readAll s (hqTag 7) (pgHq 7) 0 (s.rd (pgHq 7) R.sqBase 5 + 64 * ixIdx (s.rd (pgHq 7) R.sqHead 5)) 64 cleanHit [] 0

/-- A command that breaks R415, first in its pair. -/
def badCmd : HCmd := { tag := 9, op := 77, bad := true }

def dupCmd : HCmd := { tag := 9, op := 0, st := 2, dup := true, result := 77 }

/-- The hypotheses of `Obligations.QueuePairs` can be met, clause by clause. -/
theorem wit_QueuePairs :
    (∃ ini : Ini, ∃ n : Nat, ∃ q : Nat, n < 8 ∧ q < 16 ∧ MetW ini (pgHq n) (0x118 + 0x40 * q) (fun u => u.rd (pgHq n)
        R.qpState q = qpOff ∧ u.rd (pgHq n) R.sqBase q % 64 = 0 ∧ u.rd (pgHq n) R.hqCqBase q % 64 = 0 ∧
        qpSizeOk (u.rd (pgHq n) R.sqSize q) = true ∧ qpSizeOk (u.rd (pgHq n) R.hqCqSize q) = true)) ∧
    (∃ ini : Ini, ∃ n : Nat, ∃ q : Nat, n < 8 ∧ q < 16 ∧ MetW ini (pgHq n) (0x118 + 0x40 * q) (fun u => u.rd (pgHq n)
        R.qpState q ≠ qpOff)) ∧
    (∃ ini : Ini, ∃ n : Nat, ∃ q : Nat, n < 8 ∧ q < 16 ∧ MetW ini (pgHq n) (0x118 + 0x40 * q) (fun u => u.rd (pgHq n)
        R.qpState q = qpActive ∨ u.rd (pgHq n) R.qpState q = qpError)) ∧
    (∃ n : Nat, ∃ q : Nat, ∃ s : State, n < 8 ∧ q < 16 ∧ Met (fun s => s.rd (pgHq n) R.qpState q = qpDeleting ∧
        (s.qp n q).cmds = [])) ∧
    (∃ n : Nat, ∃ q : Nat, ∃ v : Nat, ∃ s : State, n < 8 ∧ q < 16 ∧ DoorOpen s n (s.ownerOf (pgHq n)) ∧ v < 131072 ∧
        (doorAdmit s n).rd (pgHq n) R.qpState q = qpActive ∧ ixIdx v < (doorAdmit s n).rd (pgHq n) R.sqSize q ∧
        ixPh v = ixPh ((doorAdmit s n).rd (pgHq n) R.sqHead q) ∧
        ixIdx ((doorAdmit s n).rd (pgHq n) R.sqHead q) ≤ ixIdx v) ∧
    (∃ n : Nat, ∃ q : Nat, ∃ s : State, n < 8 ∧ q < 16 ∧ DoorOpen s n (s.ownerOf (pgHq n)) ∧
        (doorAdmit s n).rd (pgHq n) R.qpState q ≠ qpActive) ∧
    (∃ n : Nat, ∃ q : Nat, ∃ v : Nat, ∃ s : State, n < 8 ∧ q < 16 ∧ DoorOpen s n (s.ownerOf (pgHq n)) ∧ v < 131072 ∧
        (doorAdmit s n).rd (pgHq n) R.qpState q = qpActive ∧ v ≠ (doorAdmit s n).rd (pgHq n) R.cqHead q ∧
        ((doorAdmit s n).qp n q).condAt = none ∧ (doorAdmit s n).on (pgHq n) R.hqIrqEn q = false ∧ ringBetween
        ((doorAdmit s n).rd (pgHq n) R.hqCqSize q) ((doorAdmit s n).rd (pgHq n) R.cqTail q) ((doorAdmit s n).rd
        (pgHq n) R.cqHead q) v = true) ∧
    (∃ n : Nat, ∃ q : Nat, ∃ hit : Hit, ∃ host : Cells, ∃ s : State, ∃ s' : State, ∃ bs : List Byte, ∃ ret : Bool, n < 8
        ∧ q < 16 ∧ s.working (pgHq n) = true ∧ s.rd (pgHq n) R.qpState q = qpActive ∧ s.rd (pgHq n) R.sqHead q ≠
        s.rd (pgHq n) R.sqTail q ∧ (s.qp n q).cmds = [] ∧ cqUsed s n q + 1 < s.rd (pgHq n) R.hqCqSize q ∧ readAll s
        (hqTag n) (pgHq n) 0 (s.rd (pgHq n) R.sqBase q + 64 * ixIdx (s.rd (pgHq n) R.sqHead q)) 64 hit host 0 = (.ok
        bs, ret, s')) ∧
    (∃ n : Nat, ∃ q : Nat, ∃ i : Nat, ∃ st : Nat, ∃ r : Nat, ∃ c : HCmd, ∃ s : State, n < 8 ∧ q < 16 ∧ (s.qp n
        q).cmds[i]? = some c ∧ c.bad = false ∧ awaited s c = some (st, r)) ∧
    (∃ n : Nat, ∃ q : Nat, ∃ i : Nat, ∃ c : HCmd, ∃ s : State, n < 8 ∧ q < 16 ∧ (s.qp n q).cmds[i]? = some c ∧ c.bad =
        true ∧ c.dup = false ∧ (nextCmd s n q).map (·.1) = some i) ∧
    (∃ n : Nat, ∃ q : Nat, ∃ s : State, n < 8 ∧ q < 16 ∧ (s.rd (pgHq n) R.qpState q = qpDeleting ∨ s.rd (pgHq n)
        R.qpState q = qpError) ∧ s.on (pgHq n) R.condEvt q = true ∧ (s.qp n q).condAt = none ∧ (s.qp n q).cond ≠
        (condNoNotice s n).code) ∧
    (∃ n : Nat, ∃ q : Nat, ∃ s : State, n < 8 ∧ q < 16 ∧ s.rd (pgHq n) R.qpState q = qpActive ∧
        s.on (pgHq n) R.condEvt q = true ∧ (s.qp n q).condAt = none ∧ (s.qp n q).cond ≠ (condNoNotice s n).code ∧
        cqRoom s n q = true) := by
  refine ⟨?_, ?_, ?_, ?_, ?_, ?_, ?_, ?_, ?_, ?_, ?_, ?_⟩
  · exact (⟨.core 0, 7, 15, (by decide +kernel), (by decide +kernel),
        ⟨((R0.wr (pgHq 7) R.sqSize 8 15).wr (pgHq 7) R.hqCqSize 8 15).wr (pgHq 7) R.hqCqBase 4096 15,
        reached_of (by decide +kernel), (by decide +kernel)⟩⟩)
  · exact (⟨.dap, 7, 5, (by decide +kernel), (by decide +kernel), ⟨qpS {}, reached_of (by decide +kernel),
        (by decide +kernel)⟩⟩)
  · exact (⟨.dap, 7, 5, (by decide +kernel), (by decide +kernel), ⟨qpS {}, reached_of (by decide +kernel),
        (by decide +kernel)⟩⟩)
  · exact (⟨7, 15, R0.wr (pgHq 7) R.qpState qpDeleting 15, (by decide +kernel), (by decide +kernel),
        ⟨R0.wr (pgHq 7) R.qpState qpDeleting 15, (by decide +kernel)⟩⟩)
  · exact (⟨7, 5, 7, qpS {}, (by decide +kernel), (by decide +kernel), ⟨by decide +kernel, by decide +kernel,
        by decide +kernel⟩, (by decide +kernel), (by decide +kernel), (by decide +kernel), (by decide +kernel),
        (by decide +kernel)⟩)
  · exact (⟨7, 6, qpS {}, (by decide +kernel), (by decide +kernel), ⟨by decide +kernel, by decide +kernel,
        by decide +kernel⟩, (by decide +kernel)⟩)
  · exact (⟨7, 5, 4, qpS {}, (by decide +kernel), (by decide +kernel), ⟨by decide +kernel, by decide +kernel,
        by decide +kernel⟩, (by decide +kernel), (by decide +kernel), (by decide +kernel), (by decide +kernel),
        (by decide +kernel), (by decide +kernel)⟩)
  · exact (⟨7, 5, cleanHit, [], (wk (qpS {}) (pgHq 7)).store 0 nopCmd, (rdP ((wk (qpS {}) (pgHq 7)).store 0
        nopCmd)).2.2, nopCmd, false, (by decide +kernel), (by decide +kernel), (by decide +kernel),
        (by decide +kernel), (by decide +kernel), (by decide +kernel), (by decide +kernel), (by decide +kernel)⟩)
  · exact (⟨7, 5, 0, 0, 77, dupCmd, qpS { cmds := [dupCmd] }, (by decide +kernel), (by decide +kernel),
        (by decide +kernel), (by decide +kernel), (by decide +kernel)⟩)
  · exact (⟨7, 5, 0, badCmd, qpS { cmds := [badCmd] }, (by decide +kernel), (by decide +kernel), (by decide +kernel),
        (by decide +kernel), (by decide +kernel), (by decide +kernel)⟩)
  · exact (⟨7, 5, ((qpS { cond := 5 }).wr (pgHq 7) R.condEvt 1 5).wr (pgHq 7) R.qpState qpError 5, (by decide +kernel),
        (by decide +kernel), (by decide +kernel), (by decide +kernel), (by decide +kernel), (by decide +kernel)⟩)
  · exact (⟨7, 5, (qpS { cond := 5 }).wr (pgHq 7) R.condEvt 1 5, (by decide +kernel), (by decide +kernel),
        (by decide +kernel), (by decide +kernel), (by decide +kernel), (by decide +kernel), (by decide +kernel)⟩)

/-- Pair 5 of function 0 with one command to be performed. -/
def hcS (c : HCmd) : State := (openFw (wk R0 pgFgs) 0).putQp 0 5 { cmds := [c] }

/-- Entry 7 holds a graph of one triggered node, with instance 3 of it. -/
def hcG (c : HCmd) (l : List Inst) : State := (hcS c).putGraph 7
    { st := gReady, nodes := [{ trig := true }], insts := l }

def cmdOp (op : Nat) : HCmd := { tag := 9, op := op, graph := 7, arg := 3 }

def atJob : Attest := { fn := 0, qp := 5, tag := 9, addr := 64, nonce := 3, report := some [1, 2, 3, 4] }

def atS : State := { hcS { cmdOp 9 with st := 1 } with attests := [atJob] }

def atW : FabResp × Bool × Nat × State := writeAll { atS with attests := [] } (hqTag 0) (pgHq 0) 9 64 [1, 2, 3,
    4] cleanHit 0

/-- The hypotheses of `Obligations.HostCommands` can be met, clause by clause. -/
theorem wit_HostCommands :
    (∃ n : Nat, ∃ q : Nat, ∃ c : HCmd, ∃ rest : List HCmd, n < 8 ∧ q < 16 ∧ c.st = 0 ∧ c.bad = false ∧ Met (fun s =>
        (s.qp n q).cmds = c :: rest ∧ c.op = 0)) ∧
    (∃ n : Nat, ∃ q : Nat, ∃ c : HCmd, ∃ rest : List HCmd, n < 8 ∧ q < 16 ∧ c.st = 0 ∧ c.bad = false ∧ Met (fun s =>
        (s.qp n q).cmds = c :: rest ∧ c.op = 1 ∧ (s.graph c.graph).st = gEmpty ∧ s.working pgFgs = true)) ∧
    (∃ n : Nat, ∃ q : Nat, ∃ c : HCmd, ∃ rest : List HCmd, n < 8 ∧ q < 16 ∧ c.st = 0 ∧ c.bad = false ∧ Met (fun s =>
        (s.qp n q).cmds = c :: rest ∧ c.op = 2 ∧ (s.graph c.graph).owner = n ∧ (s.graph c.graph).st = gReady ∧
        (s.graph c.graph).insts = [] ∧ ((s.graph c.graph).stream.isSome = true ∨ (s.graph c.graph).req = (s.graph
        c.graph).started))) ∧
    (∃ n : Nat, ∃ q : Nat, ∃ c : HCmd, ∃ rest : List HCmd, n < 8 ∧ q < 16 ∧ c.st = 0 ∧ c.bad = false ∧ Met (fun s =>
        (s.qp n q).cmds = c :: rest ∧ c.op = 3 ∧ (s.graph c.graph).owner = n ∧ (s.graph c.graph).st = gReady ∧
        (s.graph c.graph).stream = none ∧ s.rd pgFab R.partState n ≠ 2 ∧ (c.arg % 65536 + 65536 - (s.graph
        c.graph).started) % 65536 < 0x8000)) ∧
    (∃ n : Nat, ∃ q : Nat, ∃ c : HCmd, ∃ rest : List HCmd, n < 8 ∧ q < 16 ∧ c.st = 0 ∧ c.bad = false ∧ Met (fun s =>
        (s.qp n q).cmds = c :: rest ∧ c.op = 4 ∧ (s.graph c.graph).owner = n ∧ (s.graph c.graph).st ≠ gEmpty)) ∧
    (∃ n : Nat, ∃ q : Nat, ∃ c : HCmd, ∃ rest : List HCmd, n < 8 ∧ q < 16 ∧ c.st = 0 ∧ c.bad = false ∧ Met (fun s =>
        (s.qp n q).cmds = c :: rest ∧ c.op = 5 ∧ (s.graph c.graph).owner = n ∧ (s.graph c.graph).st ≠ gEmpty)) ∧
    (∃ n : Nat, ∃ q : Nat, ∃ c : HCmd, ∃ rest : List HCmd, n < 8 ∧ q < 16 ∧ c.st = 0 ∧ c.bad = false ∧ Met (fun s =>
        (s.qp n q).cmds = c :: rest ∧ c.op = 6 ∧ (s.graph c.graph).owner = n ∧ (s.graph c.graph).st = gReady ∧
        c.node < (s.graph c.graph).nodes.length ∧ ((s.graph c.graph).node c.node).trig = true ∧ credit (s.graph
        c.graph) c.node < 15 ∧ Fresh s n pgFgs)) ∧
    (∃ n : Nat, ∃ q : Nat, ∃ i : Nat, ∃ c : HCmd, ∃ rest : List HCmd, n < 8 ∧ q < 16 ∧ c.st = 0 ∧ c.bad = false ∧ Met
        (fun s => (s.qp n q).cmds = c :: rest ∧ c.op = 7 ∧ (s.graph c.graph).owner = n ∧ (s.graph c.graph).st ≠
        gEmpty ∧ oldestRun s c.graph c.node = some i)) ∧
    (∃ n : Nat, ∃ q : Nat, ∃ c : HCmd, ∃ rest : List HCmd, n < 8 ∧ q < 16 ∧ c.st = 0 ∧ c.bad = false ∧ Met (fun s =>
        (s.qp n q).cmds = c :: rest ∧ c.op = 8 ∧ sget 0 s.semOwner (c.sem / 2) = n ∧ c.semop = 2 ∧ sget 0 s.sems
        c.sem ≠ 0 ∧ Fresh s n pgFgs)) ∧
    (∃ n : Nat, ∃ q : Nat, ∃ c : HCmd, ∃ rest : List HCmd, n < 8 ∧ q < 16 ∧ c.st = 0 ∧ c.bad = false ∧ Met (fun s =>
        (s.qp n q).cmds = c :: rest ∧ c.op = 9 ∧ c.addr % 64 = 0)) ∧
    (∃ n : Nat, ∃ q : Nat, ∃ hit : Hit, ∃ c : HCmd, ∃ rest : List HCmd, ∃ s : State, ∃ s' : State, ∃ bs : List Byte, ∃
        ws : List Byte, ∃ ret : Bool, ∃ k : Nat, ∃ a : Attest, n < 8 ∧ q < 16 ∧ c.st = 0 ∧ c.bad = false ∧ c.op = 9
        ∧ s.attests = [a] ∧ a.report = some bs ∧ a.fn = n ∧ a.qp = q ∧ a.tag = c.tag ∧ (s.qp n q).cmds =
        { c with st := 1 } :: rest ∧ writeAll { s with attests := [] } (hqTag n) (pgHq n) c.tag a.addr bs hit 0 =
        (.ok ws, ret, k, s')) := by
  refine ⟨?_, ?_, ?_, ?_, ?_, ?_, ?_, ?_, ?_, ?_, ?_⟩
  · exact (⟨0, 5, cmdOp 0, default, (by decide +kernel), (by decide +kernel), (by decide +kernel), (by decide +kernel),
        ⟨hcS (cmdOp 0), (by decide +kernel)⟩⟩)
  · exact (⟨0, 5, cmdOp 1, default, (by decide +kernel), (by decide +kernel), (by decide +kernel), (by decide +kernel),
        ⟨hcS (cmdOp 1), (by decide +kernel)⟩⟩)
  · exact (⟨0, 5, cmdOp 2, default, (by decide +kernel), (by decide +kernel), (by decide +kernel), (by decide +kernel),
        ⟨hcG (cmdOp 2) [], (by decide +kernel)⟩⟩)
  · exact (⟨0, 5, cmdOp 3, default, (by decide +kernel), (by decide +kernel), (by decide +kernel), (by decide +kernel),
        ⟨hcG (cmdOp 3) [], (by decide +kernel)⟩⟩)
  · exact (⟨0, 5, cmdOp 4, default, (by decide +kernel), (by decide +kernel), (by decide +kernel), (by decide +kernel),
        ⟨hcG (cmdOp 4) [{ num := 3 }], (by decide +kernel)⟩⟩)
  · exact (⟨0, 5, cmdOp 5, default, (by decide +kernel), (by decide +kernel), (by decide +kernel), (by decide +kernel),
        ⟨hcG (cmdOp 5) [{ num := 3 }], (by decide +kernel)⟩⟩)
  · exact (⟨0, 5, cmdOp 6, default, (by decide +kernel), (by decide +kernel), (by decide +kernel), (by decide +kernel),
        ⟨hcG (cmdOp 6) [], (by decide +kernel)⟩⟩)
  · exact (⟨0, 5, 3, cmdOp 7, default, (by decide +kernel), (by decide +kernel), (by decide +kernel),
        (by decide +kernel), ⟨hcG (cmdOp 7) [{ num := 3, execs := [(0, { st := 1 })] }], (by decide +kernel)⟩⟩)
  · exact (⟨0, 5, { cmdOp 8 with semop := 2, sem := 5 }, default, (by decide +kernel), (by decide +kernel),
        (by decide +kernel), (by decide +kernel),
        ⟨{ hcS { cmdOp 8 with semop := 2, sem := 5 } with sems := [(5, 2)] }, (by decide +kernel)⟩⟩)
  · exact (⟨0, 5, cmdOp 9, default, (by decide +kernel), (by decide +kernel), (by decide +kernel), (by decide +kernel),
        ⟨hcS (cmdOp 9), (by decide +kernel)⟩⟩)
  · exact (⟨0, 5, cleanHit, cmdOp 9, default, atS, atW.2.2.2, [1, 2, 3, 4], okBytes atW.1, atW.2.1, atW.2.2.1, atJob,
        (by decide +kernel), (by decide +kernel), (by decide +kernel), (by decide +kernel), (by decide +kernel),
        (by decide +kernel), (by decide +kernel), (by decide +kernel), (by decide +kernel), (by decide +kernel),
        (by decide +kernel), (wr_ok (by decide +kernel))⟩)

/-- Line 3 enabled, with every ID its own. -/
def vpl3 : State := ((R0.wr pgVpt R.lineEn 1 3).wr pgVpt R.idHi 65535 3).wr pgVpt R.idLo 1 3

/-- The hypotheses of `Obligations.VerdictPort` can be met, clause by clause. -/
theorem wit_VerdictPort :
    (∃ id : Nat, id < 65536 ∧ Met (fun s => vpUp s = true ∧ (s.entry id).poisoned = false)) ∧
    (∃ id : Nat, id < 65536 ∧ Met (fun s => vpUp s = true)) ∧
    (∃ id : Nat, id < 65536 ∧ Met (fun s => vpUp s = false)) ∧
    (∃ id : Nat, ∃ pos : Nat, ∃ seq : Nat, ∃ l : Nat, id < 65536 ∧ Met (fun s => vpUp s = true ∧ pos < 2 ^ 24 ∧ lineOfId
        (vpCycle s) id = some l ∧ s.entry id = { seq := seq } ∧ listedOf s l = [])) ∧
    (∃ id : Nat, ∃ seq : Nat, ∃ l : Nat, id < 65536 ∧ Met (fun s => vpUp s = true ∧ seq < 16 ∧
        lineOfId (vpCycle s) id = some l ∧ (s.entry id).poisoned = false ∧ (s.entry id).st ≠ vEmpty ∧
        (s.entry id).seq = seq)) ∧
    (∃ id : Nat, ∃ seq : Nat, ∃ l : Nat, id < 65536 ∧ Met (fun s => vpUp s = true ∧ seq < 16 ∧
        lineOfId (vpCycle s) id = some l ∧ (s.entry id).poisoned = false ∧ (s.entry id).st ≠ vEmpty ∧
        (s.entry id).seq ≠ seq)) ∧
    (∃ id : Nat, ∃ w : Nat, id < 65536 ∧ Met (fun s => vpUp s = true ∧ w < 2 ^ 32)) ∧
    (∃ id : Nat, ∃ w : Nat, id < 65536 ∧ Met (fun s => vpUp s = true ∧ w < 2 ^ 32 ∧ vpGood w = false)) ∧
    (∃ id : Nat, id < 65536 ∧ Met (fun s => s.on pgVpt R.clkActive = true ∧ s.vpLast + usTicks 10 ≤ s.time)) := by
  refine ⟨?_, ?_, ?_, ?_, ?_, ?_, ?_, ?_, ?_⟩
  · exact (⟨65535, (by decide +kernel), ⟨R0.putEntry 65535 { st := vFinal, seq := 5, lane := 3, dim := 2 },
        (by decide +kernel)⟩⟩)
  · exact (⟨65535, (by decide +kernel), ⟨R0, (by decide +kernel)⟩⟩)
  · exact (⟨65535, (by decide +kernel), ⟨{ R0 with rst := { R0.rst with ph := 3 } }, (by decide +kernel)⟩⟩)
  · exact (⟨65535, 16777215, 15, 3, (by decide +kernel), ⟨vpl3.putEntry 65535 { seq := 15 }, (by decide +kernel)⟩⟩)
  · exact (⟨65535, 15, 3, (by decide +kernel), ⟨vpl3.putEntry 65535 { st := vFinal, seq := 15 }, (by decide +kernel)⟩⟩)
  · exact (⟨65535, 14, 3, (by decide +kernel), ⟨vpl3.putEntry 65535 { st := vFinal, seq := 15 }, (by decide +kernel)⟩⟩)
  · exact (⟨65535, 0x10000000, (by decide +kernel), ⟨R0, (by decide +kernel)⟩⟩)
  · exact (⟨65535, 0x30000000, (by decide +kernel), ⟨R0, (by decide +kernel)⟩⟩)
  · exact (⟨0, (by decide +kernel), ⟨{ R0.wr pgVpt R.clkActive 1 with time := 1000000000 }, (by decide +kernel)⟩⟩)

/-- Its photo-eye on pin 22, at a level. -/
def eye3 (b : Bool) : State :=
  (((vpl3.wr pgVpt R.eyePin 22 3).wr pgLio R.pinFunc 5 22).wr pgLio R.pinUnit 3 22).putPin 22 { level := some b }

/-- An event of that line that nothing has paired. -/
def evt3 : Parcel := { line := 3, c := 0, time := 0, done := true }

/-- The hypotheses of `Obligations.EyeEvents` can be met, clause by clause. -/
theorem wit_EyeEvents :
    (∃ l : Nat, ∃ p : Nat, ∃ x : Pin, l < 4 ∧ Met (fun s => s.rd pgVpt R.eyePin l = p ∧ sget {} s.pins p = x ∧ x.sw =
        none ∧ x.level = some false ∧ s.rd pgLio R.pinFunc p = 5 ∧ s.rd pgLio R.pinUnit p = l ∧ awake s = true ∧
        s.vt = [] ∧ listedOf s l = [] ∧ eyeWorks { s with pins := sset {} s.pins p { x with level := some true } } l
        p = true)) ∧
    (∃ l : Nat, ∃ p : Nat, ∃ x : Pin, ∃ o : Parcel, l < 4 ∧ Met (fun s => s.rd pgVpt R.eyePin l = p ∧ sget {} s.pins p =
        x ∧ x.sw = none ∧ x.level = some true ∧ s.rd pgLio R.pinFunc p = 5 ∧ s.rd pgLio R.pinUnit p = l ∧ awake s =
        true ∧ s.parcels = [o] ∧ o.line = l ∧ o.trail = none ∧ o.id = none ∧ o.listed = true ∧ eyeWorks
        { s with pins := sset {} s.pins p { x with level := some false } } l p = true)) ∧
    (∃ l : Nat, ∃ o : Parcel, l < 4 ∧ Met (fun s => lineOn s l = true ∧ s.parcels = [o] ∧ o.line = l ∧
        o.listed = true ∧ o.pos + (s.rd pgVpt R.annWait l : Nat) ≤ linePos s l)) ∧
    (∃ l : Nat, ∃ id : Nat, l < 4 ∧ Met (fun s => lineOfId s id = some l ∧ waiting s l (id, s.entry id) = true ∧
        (s.entry id).poisoned = false ∧ (s.entry id).epos + (s.rd pgVpt R.annWait l : Nat) ≤ linePos s l)) ∧
    (∃ l : Nat, ∃ id : Nat, l < 4 ∧ Met (fun s => lineOfId s id = some l ∧ (s.entry id).origin ≠ none ∧
        ((s.entry id).st = vAnnounced ∨ (s.entry id).st = vPending) ∧ (s.entry id).poisoned = false ∧
        (s.entry id).epos + (s.rd pgVpt R.divertDist l : Nat) ≤ linePos s l)) := by
  refine ⟨?_, ?_, ?_, ?_, ?_⟩
  · exact (⟨3, 22, { level := some false }, (by decide +kernel), ⟨eye3 false, (by decide +kernel)⟩⟩)
  · exact (⟨3, 22, { level := some true }, evt3, (by decide +kernel), ⟨{ eye3 true with parcels := [evt3] },
        (by decide +kernel)⟩⟩)
  · exact (⟨3, evt3, (by decide +kernel), ⟨{ vpl3 with parcels := [evt3] }, (by decide +kernel)⟩⟩)
  · exact (⟨3, 65535, (by decide +kernel), ⟨vpl3.putEntry 65535 { st := vAnnounced, pos := some 5 },
        (by decide +kernel)⟩⟩)
  · exact (⟨3, 65535, (by decide +kernel), ⟨vpl3.putEntry 65535
        { st := vPending, pos := some 5, origin := some 0, fawn := some 4 }, (by decide +kernel)⟩⟩)

/-- The hypotheses of `Obligations.StagingAndLines` can be met, clause by clause. -/
theorem wit_StagingAndLines :
    (∃ id : Nat, ∃ w : Nat, ∃ l : Nat, ∃ v : Nat, id < 65536 ∧ w < 2 ^ 32 ∧ l < 4 ∧ v < 2 ^ 32 ∧ Met (fun s => s.on
        pgSaf R.fault = false ∧ judge s tagIsland opWrite (vtBase + 4 * id) 4 = .pass ∧ freeTid s 0x18 ≠ none ∧
        injectNow s pgFab 12 = false ∧ (s.entry id).poisoned = false ∧ (s.entry id).st = vAnnounced ∧ bitsOf w 11 9
        = vPending)) ∧
    (∃ id : Nat, ∃ w : Nat, ∃ l : Nat, ∃ v : Nat, ∃ n : Nat, id < 65536 ∧ w < 2 ^ 32 ∧ l < 4 ∧ v < 2 ^ 32 ∧ Met (fun s
        => judge s ⟨n, n, 2⟩ opWrite (vtBase + 4 * id) 4 = .pass ∧ (s.entry id).poisoned = false ∧ n < 8 ∧ freeTid s
        n ≠ none ∧ injectNow s pgFab 12 = false ∧ (s.entry id).st = vPending ∧ bitsOf w 11 9 = vFinal ∧ finalBarred
        s id = false ∧ heldOfLine s id < 256)) ∧
    (∃ id : Nat, ∃ w : Nat, ∃ l : Nat, ∃ v : Nat, ∃ n : Nat, id < 65536 ∧ w < 2 ^ 32 ∧ l < 4 ∧ v < 2 ^ 32 ∧ Met (fun s
        => judge s ⟨n, n, 2⟩ opWrite (vtBase + 4 * id) 4 = .pass ∧ (s.entry id).poisoned = false ∧ freeTid s n ≠
        none ∧ injectNow s pgFab 12 = false ∧ (s.entry id).st = vEmpty ∧ n < 8)) ∧
    (∃ ini : Ini, ∃ id : Nat, ∃ w : Nat, ∃ l : Nat, ∃ v : Nat, id < 65536 ∧ w < 2 ^ 32 ∧ l < 4 ∧ v < 2 ^ 32 ∧ MetW ini
        pgVpt (0x100 + 0x40 * l + 0x10) (fun u => unlocked u pgVpt = true ∧ u.on pgVpt R.lineEn l = false)) ∧
    (∃ ini : Ini, ∃ id : Nat, ∃ w : Nat, ∃ l : Nat, ∃ v : Nat, id < 65536 ∧ w < 2 ^ 32 ∧ l < 4 ∧ v < 2 ^ 32 ∧
        MetW ini pgVpt (0x100 + 0x40 * l + 4) (fun u => unlocked u pgVpt = true ∧ u.on pgVpt R.lineEn l = true ∧
        bitsOf v 31 16 < bitsOf v 15 0)) ∧
    (∃ ini : Ini, ∃ id : Nat, ∃ w : Nat, ∃ l : Nat, ∃ off : Nat, ∃ v : Nat, id < 65536 ∧ w < 2 ^ 32 ∧ l < 4 ∧
        v < 2 ^ 32 ∧ (off = 0 ∨ off = 4 ∨ off = 8 ∨ off = 0xC ∨ off = 0x10 ∨ off = 0x14) ∧
        MetW ini pgVpt (0x100 + 0x40 * l + off) (fun u => unlocked u pgVpt = false)) := by
  refine ⟨?_, ?_, ?_, ?_, ?_, ?_⟩
  · exact (⟨65535, 0x3400, 0, 0, (by decide +kernel), (by decide +kernel), (by decide +kernel), (by decide +kernel),
        ⟨(openFw R0 1).putEntry 65535 { st := vAnnounced }, (by decide +kernel)⟩⟩)
  · exact (⟨65535, 0x33600, 0, 0, 7, (by decide +kernel), (by decide +kernel), (by decide +kernel), (by decide +kernel),
        ⟨(openFw (R0.wr pgSaf R.fallbackAll 0) 1).putEntry 65535 { st := vPending }, (by decide +kernel)⟩⟩)
  · exact (⟨65535, 0x33600, 0, 0, 7, (by decide +kernel), (by decide +kernel), (by decide +kernel),
        (by decide +kernel), ⟨openFw R0 1, (by decide +kernel)⟩⟩)
  · exact (⟨.dap, 0, 0, 3, 0xFFFFFFFF, (by decide +kernel), (by decide +kernel), (by decide +kernel),
        (by decide +kernel), ⟨R0, reached_of (by decide +kernel), (by decide +kernel)⟩⟩)
  · exact (⟨.dap, 0, 0, 3, 0x00010002, (by decide +kernel), (by decide +kernel), (by decide +kernel),
        (by decide +kernel), ⟨R0.wr pgVpt R.lineEn 1 3, reached_of (by decide +kernel), (by decide +kernel)⟩⟩)
  · exact (⟨.dap, 0, 0, 3, 0x14, 7, (by decide +kernel), (by decide +kernel), (by decide +kernel),
        (by decide +kernel), (by decide +kernel), ⟨R0.wr pgVpt R.lock 1, reached_of (by decide +kernel),
        (by decide +kernel)⟩⟩)

/-- A timing of 640 by 480 pixels. -/
def vga : Timing :=
    { hActive := 640, hFp := 16, hSync := 96, hBp := 48, vActive := 480, vFp := 10, vSync := 2, vBp := 33, pixN := 1200, pixDiv := 48 }

/-- The shadows hold that timing. -/
def vgaShadow (s : State) : State :=
  ((((((((s.wr pgMon R.hActive 640).wr pgMon R.hFp 16).wr pgMon R.hBp 48).wr pgMon R.vActive 480).wr pgMon R.vFp 10).wr
    pgMon R.vBp 33).wr pgMon R.vSync 2).wr pgMon R.pixN 1200).wr pgMon R.pixDiv 48

/-- The generator runs, and a frame has passed. -/
def monGen : State :=
  { (wk R0 pgMon).wr pgMon R.monRun 1 with time := 1000000000000, disp := { R0.disp with work := vga, gen := true, commits := [(3, [1])] } }

/-- Plane 3 shows its slot 1 of 480 lines. -/
def monShow : State :=
  (((((openFw monGen 0).setPlSlot 3 1 slShown).wr pgMon R.plEn 1 3).wr pgMon R.plFmt 2 3).wr pgMon R.slW 16 13).wr
      pgMon R.slH 480 13

/-- The same behind a firewall that lets nothing through. -/
def monShut : State :=
  ((((monGen.setPlSlot 3 1 slShown).wr pgMon R.plEn 1 3).wr pgMon R.plFmt 2 3).wr pgMon R.slW 16 13).wr pgMon R.slH 480 13

def lineRd (s : State) : List Byte × Bool × State :=
  readOnce s ⟨0xE0, 0, 0⟩ pgMon (s.rd pgMon R.slBase 13 + 479 * s.rd pgMon R.slPitch 13) 64
    ⟨s.rd pgMon R.slBase 13 + 479 * s.rd pgMon R.slPitch 13, ofEcc .ok⟩

theorem ro_bad {x : List Byte × Bool × State} (h : x.2.1 = true) : x = (x.1, true, x.2.2) := by
  obtain ⟨a, b, c⟩ := x
  cases h
  rfl

/-- The hypotheses of `Obligations.Compositor` can be met, clause by clause. -/
theorem wit_Compositor :
    (∃ ini : Ini, ∃ k : Nat, ∃ n : Nat, k < 4 ∧ n < 4 ∧ MetW ini pgMon (0x110 + 0x100 * k) (fun u => u.plSlot k n =
        slFree ∧ slotOk u k n = true)) ∧
    (∃ ini : Ini, ∃ k : Nat, ∃ n : Nat, k < 4 ∧ n < 4 ∧ MetW ini pgMon (0x110 + 0x100 * k) (fun u => u.plSlot k n ≠
        slFree ∨ slotOk u k n = false)) ∧
    (∃ ini : Ini, ∃ k : Nat, ∃ n : Nat, k < 4 ∧ n < 4 ∧ MetW ini pgMon (0x110 + 0x100 * k) (fun u => u.plSlot k n =
        slShown ∧ ∀ m, m < n → u.plSlot k m ≠ slShown)) ∧
    (∃ ini : Ini, ∃ k : Nat, ∃ n : Nat, k < 4 ∧ n < 4 ∧ MetW ini pgMon (0x110 + 0x100 * k) (fun u => ∀ m, m < 4 →
        u.plSlot k m ≠ slShown)) ∧
    (Met (fun s => s.disp.gen = true ∧ s.disp.pll = false ∧ frameDone s = true)) ∧
    (∃ k : Nat, ∃ n : Nat, k < 4 ∧ n < 4 ∧ Met (fun s => s.disp.gen = true ∧ s.disp.pll = false ∧ frameDone s = true ∧
        s.on pgMon R.tcommit = false ∧ s.on pgMon R.monRun = true)) ∧
    (∃ k : Nat, ∃ n : Nat, ∃ line : Nat, ∃ late : Bool, ∃ bad : Bool, ∃ e : Ecc, ∃ s : State, ∃ s' : State, ∃ bs : List
        Byte, k < 4 ∧ shownSlot s k = some n ∧ s.disp.gen = true ∧ line < s.rd pgMon R.slH (4 * k + n) ∧ readOnce s
        ⟨0xE0, 0, 0⟩ pgMon (s.rd pgMon R.slBase (4 * k + n) + line * s.rd pgMon R.slPitch (4 * k + n)) (max 1
        (fmtBytes (s.rd pgMon R.plFmt k) * s.rd pgMon R.slW (4 * k + n))) ⟨s.rd pgMon R.slBase (4 * k + n) + line *
        s.rd pgMon R.slPitch (4 * k + n), ofEcc e⟩ = (bs, bad, s') ∧ injectNow s' pgMon 8 = false ∧ injectNow s'
        pgMon 9 = false ∧ bad = false ∧ late = false) ∧
    (∃ k : Nat, ∃ n : Nat, ∃ line : Nat, ∃ late : Bool, ∃ bad : Bool, ∃ e : Ecc, ∃ s : State, ∃ s' : State, ∃ bs : List
        Byte, k < 4 ∧ shownSlot s k = some n ∧ s.disp.gen = true ∧ line < s.rd pgMon R.slH (4 * k + n) ∧ readOnce s
        ⟨0xE0, 0, 0⟩ pgMon (s.rd pgMon R.slBase (4 * k + n) + line * s.rd pgMon R.slPitch (4 * k + n)) (max 1
        (fmtBytes (s.rd pgMon R.plFmt k) * s.rd pgMon R.slW (4 * k + n))) ⟨s.rd pgMon R.slBase (4 * k + n) + line *
        s.rd pgMon R.slPitch (4 * k + n), ofEcc e⟩ = (bs, bad, s') ∧ injectNow s' pgMon 8 = false ∧ injectNow s'
        pgMon 9 = false ∧ bad = false ∧ late = true) ∧
    (∃ k : Nat, ∃ n : Nat, ∃ line : Nat, ∃ late : Bool, ∃ bad : Bool, ∃ e : Ecc, ∃ s : State, ∃ s' : State, ∃ bs : List
        Byte, k < 4 ∧ shownSlot s k = some n ∧ s.disp.gen = true ∧ line < s.rd pgMon R.slH (4 * k + n) ∧ readOnce s
        ⟨0xE0, 0, 0⟩ pgMon (s.rd pgMon R.slBase (4 * k + n) + line * s.rd pgMon R.slPitch (4 * k + n)) (max 1
        (fmtBytes (s.rd pgMon R.plFmt k) * s.rd pgMon R.slW (4 * k + n))) ⟨s.rd pgMon R.slBase (4 * k + n) + line *
        s.rd pgMon R.slPitch (4 * k + n), ofEcc e⟩ = (bs, bad, s') ∧ injectNow s' pgMon 8 = false ∧ injectNow s'
        pgMon 9 = false ∧ bad = true) ∧
    (∃ ini : Ini, MetW ini pgMon 0x080 (fun u => (shadows u).ok = true)) ∧
    (∃ ini : Ini, MetW ini pgMon 0x080 (fun u => (shadows u).ok = false)) ∧
    (Met (fun s => s.disp.gen = true ∧ s.disp.pll = true ∧ s.on pgMon R.tcommit = false)) := by
  refine ⟨?_, ?_, ?_, ?_, ?_, ?_, ?_, ?_, ?_, ?_, ?_, ?_⟩
  · exact (⟨.dap, 3, 3, (by decide +kernel), (by decide +kernel), ⟨R0, reached_of (by decide +kernel),
        (by decide +kernel)⟩⟩)
  · exact (⟨.dap, 3, 3, (by decide +kernel), (by decide +kernel), ⟨R0.setPlSlot 3 3 slShown,
        reached_of (by decide +kernel), (by decide +kernel)⟩⟩)
  · exact (⟨.dap, 3, 3, (by decide +kernel), (by decide +kernel), ⟨R0.setPlSlot 3 3 slShown,
        reached_of (by decide +kernel), (by decide +kernel)⟩⟩)
  · exact (⟨.dap, 3, 3, (by decide +kernel), (by decide +kernel), ⟨R0, reached_of (by decide +kernel),
        (by decide +kernel)⟩⟩)
  · exact (⟨monGen, (by decide +kernel)⟩)
  · exact (⟨3, 1, (by decide +kernel), (by decide +kernel), ⟨(monGen.setPlSlot 3 1 slCommitted).wr pgMon R.plEn 1 3,
        (by decide +kernel)⟩⟩)
  · exact (⟨3, 1, 479, false, false, .ok, monShow, (lineRd monShow).2.2, (lineRd monShow).1, (by decide +kernel),
        (by decide +kernel), (by decide +kernel), (by decide +kernel), (by decide +kernel), (by decide +kernel),
        (by decide +kernel), (by decide +kernel), (by decide +kernel)⟩)
  · exact (⟨3, 1, 479, true, false, .ok, monShow, (lineRd monShow).2.2, (lineRd monShow).1, (by decide +kernel),
        (by decide +kernel), (by decide +kernel), (by decide +kernel), (by decide +kernel), (by decide +kernel),
        (by decide +kernel), (by decide +kernel), (by decide +kernel)⟩)
  · exact (⟨3, 1, 479, false, true, .ok, monShut, (lineRd monShut).2.2, (lineRd monShut).1, (by decide +kernel),
        (by decide +kernel), (by decide +kernel), (by decide +kernel), ro_bad (by decide +kernel),
        (by decide +kernel), (by decide +kernel), (by decide +kernel)⟩)
  · exact (⟨.dap, ⟨vgaShadow R0, reached_of (by decide +kernel), (by decide +kernel)⟩⟩)
  · exact (⟨.dap, ⟨R0, reached_of (by decide +kernel), (by decide +kernel)⟩⟩)
  · exact (⟨{ monGen with disp := { monGen.disp with pll := true } }, (by decide +kernel)⟩)

/-- The hypotheses of `Obligations.GeneratorStart` can be met, clause by clause. -/
theorem wit_GeneratorStart :
    (∃ ini : Ini, MetW ini pgMon 0x080 (fun u => u.on pgMon R.monRun = false ∧
        (u.on pgMon R.tcommit = true ∨ u.disp.work.ok = true))) ∧
    (∃ ini : Ini, MetW ini pgMon 0x080 (fun u => u.on pgMon R.monRun = false ∧
        (u.on pgMon R.tcommit = true ∨ u.disp.work.ok = true) ∧ u.disp.gen = false)) ∧
    (∃ ini : Ini, MetW ini pgMon 0x080 (fun u => u.on pgMon R.monRun = false ∧ u.on pgMon R.tcommit = false ∧
        u.disp.work.ok = false)) ∧
    (∃ ini : Ini, MetW ini pgMon 0x080 (fun _ => True)) := by
  refine ⟨?_, ?_, ?_, ?_⟩
  · exact (⟨.dap, ⟨(vgaShadow (wk R0 pgMon)).wr pgMon R.tcommit 1, reached_of (by decide +kernel),
        (by decide +kernel)⟩⟩)
  · exact (⟨.dap, ⟨{ wk R0 pgMon with disp := { R0.disp with work := vga } }, reached_of (by decide +kernel),
        (by decide +kernel)⟩⟩)
  · exact (⟨.dap, ⟨wk R0 pgMon, reached_of (by decide +kernel), (by decide +kernel)⟩⟩)
  · exact (⟨.dap, ⟨wk R0 pgMon, reached_of (by decide +kernel), (by decide +kernel)⟩⟩)

/-- The hypotheses of `Obligations.DisplayPort` can be met, clause by clause. -/
theorem wit_DisplayPort :
    (∃ ini : Ini, MetW ini pgDp 0x084 (fun u => u.link ≠ dpUnplugged)) ∧
    (∃ ini : Ini, MetW ini pgDp 0x084 (fun u => u.link = dpUnplugged)) ∧
    (∃ ini : Ini, MetW ini pgDp 0x08C (fun u => u.on pgDp R.auxBusy = false)) ∧
    (∃ ini : Ini, MetW ini pgDp 0x08C (fun u => u.on pgDp R.auxBusy = true)) ∧
    (∃ sw : Nat, ∃ pre : Nat, sw < 4 ∧ pre < 4 ∧ Met (fun s => s.link = dpTraining)) ∧
    (∃ sw : Nat, ∃ pre : Nat, sw < 4 ∧ pre < 4 ∧ Met (fun s => s.link ≠ dpTraining)) ∧
    (Met (fun s => s.on pgDp R.hpd = true)) ∧
    (Met (fun s => s.on pgDp R.hpd = true ∧ (s.link = dpVideo ∨ s.link = dpIdle))) ∧
    (Met (fun s => s.on pgDp R.hpd = false)) ∧
    (Met (fun s => s.on pgDp R.auxBusy = true ∧ s.rd pgDp R.auxType % 2 = 0)) ∧
    (Met (fun s => s.on pgDp R.auxBusy = true ∧ s.rd pgDp R.auxType % 2 = 1 ∧ injectNow s pgDp 9 = false)) ∧
    (Met (fun s => s.on pgDp R.auxBusy = true)) ∧
    (Met (fun s => s.on pgDp R.auxBusy = true ∧ s.dp.defers < 7)) ∧
    (Met (fun s => s.on pgDp R.auxBusy = true ∧ 7 ≤ s.dp.defers)) ∧
    (Met (fun s => s.on pgDp R.auxBusy = true ∧ s.dp.sent + usTicks 400 ≤ s.time ∧ s.dp.timeouts = 0)) ∧
    (Met (fun s => s.on pgDp R.auxBusy = true ∧ s.dp.sent + usTicks 400 ≤ s.time ∧ s.dp.timeouts ≠ 0)) := by
  refine ⟨?_, ?_, ?_, ?_, ?_, ?_, ?_, ?_, ?_, ?_, ?_, ?_, ?_, ?_, ?_, ?_⟩
  · exact (⟨.dap, ⟨R0.setLink dpFailed, reached_of (by decide +kernel), (by decide +kernel)⟩⟩)
  · exact (⟨.dap, ⟨R0.setLink dpUnplugged, reached_of (by decide +kernel), (by decide +kernel)⟩⟩)
  · exact (⟨.dap, ⟨wk R0 pgDp, reached_of (by decide +kernel), (by decide +kernel)⟩⟩)
  · exact (⟨.dap, ⟨R0.wr pgDp R.auxBusy 1, reached_of (by decide +kernel), (by decide +kernel)⟩⟩)
  · exact (⟨3, 3, (by decide +kernel), (by decide +kernel),
        ⟨{ R0.setLink dpTraining with dp := { R0.dp with retry := true } }, (by decide +kernel)⟩⟩)
  · exact (⟨3, 3, (by decide +kernel), (by decide +kernel), ⟨R0.setLink dpIdle, (by decide +kernel)⟩⟩)
  · exact (⟨R0.wr pgDp R.hpd 1, (by decide +kernel)⟩)
  · exact (⟨(R0.wr pgDp R.hpd 1).setLink dpVideo, (by decide +kernel)⟩)
  · exact (⟨R0.wr pgDp R.hpd 0, (by decide +kernel)⟩)
  · exact (⟨R0.wr pgDp R.auxBusy 1, (by decide +kernel)⟩)
  · exact (⟨((R0.wr pgDp R.auxBusy 1).wr pgDp R.auxType 1).wr pgDp R.auxLen 15, (by decide +kernel)⟩)
  · exact (⟨R0.wr pgDp R.auxBusy 1, (by decide +kernel)⟩)
  · exact (⟨R0.wr pgDp R.auxBusy 1, (by decide +kernel)⟩)
  · exact (⟨{ R0.wr pgDp R.auxBusy 1 with dp := { R0.dp with defers := 7 } }, (by decide +kernel)⟩)
  · exact (⟨{ R0.wr pgDp R.auxBusy 1 with time := 1000000000 }, (by decide +kernel)⟩)
  · exact (⟨{ R0.wr pgDp R.auxBusy 1 with time := 1000000000, dp := { R0.dp with timeouts := 1 } },
        (by decide +kernel)⟩)

/-- Line 3 enabled, with every ID its own, and partition 0 mapped to it. -/
def dl3 : State := (((R0.wr pgVpt R.lineEn 1 3).wr pgVpt R.idHi 65535 3).wr pgVpt R.idLo 1 3).wr pgVpt R.lineParts 1 3

def dEntry (inj : Bool) : Doubt := { scope := .entry 65535, injected := inj }

/-- The hypotheses of `Obligations.Doubts` can be met, clause by clause. -/
theorem wit_Doubts :
    (∃ d : Doubt, ∃ rest : List Doubt, Met (fun s => s.doubtQ = d :: rest ∧ d.injected = true)) ∧
    (∃ d : Doubt, ∃ rest : List Doubt, Met (fun s => s.doubtQ = d :: rest ∧ d.injected = false ∧ d.cont = false)) ∧
    (∃ d : Doubt, ∃ rest : List Doubt, ∃ id : Nat, d.scope = .entry id ∧ Met (fun s => s.doubtQ = d :: rest ∧
        d.injected = false ∧ (s.entry id).st = vEmpty)) ∧
    (∃ d : Doubt, ∃ rest : List Doubt, ∃ id : Nat, d.scope = .entry id ∧ Met (fun s => s.doubtQ = d :: rest ∧ d.injected
        = false ∧ ((s.entry id).st = vAnnounced ∨ (s.entry id).st = vPending ∨ (s.entry id).st = vFinal) ∧ s.on
        pgSaf R.fault = false ∧ (s.entry id).poisoned = false ∧ id < 65536 ∧ injectNow s pgFab 12 = false ∧ judge
        (({ s with doubtQ := rest } : State).bump pgSaf R.doubtCnt) tagIsland opWrite (vtBase + 4 * id) 4 = .pass)) ∧
    (∃ k : Nat, ∃ e0 : Nat, Met (fun s => islandRuns s = true ∧ s.conts = [(k, e0)] ∧ streamSound s k = false ∧ ∀ j,
        j < 48 → j ≠ k → s.on pgSaf R.camSafe j = false)) ∧
    (∃ ini : Ini, ∃ line : Nat, MetW ini pgSaf 0x088 (fun u => line < 4 ∧ lineOn u line = true ∧
        mapsTo u (iniPart u ini) line = true)) ∧
    (∃ ini : Ini, ∃ line : Nat, MetW ini pgSaf 0x088 (fun u => 4 ≤ line ∨ lineOn u line = false ∨ mapsTo u (iniPart u
        ini) line = false)) := by
  refine ⟨?_, ?_, ?_, ?_, ?_, ?_, ?_⟩
  · exact (⟨dEntry true, default, ⟨{ dl3 with doubtQ := [dEntry true] }, (by decide +kernel)⟩⟩)
  · exact (⟨{ scope := .line 3 }, default,
        ⟨{ dl3.putEntry 65535 { st := vFinal } with doubtQ := [{ scope := .line 3 }] }, (by decide +kernel)⟩⟩)
  · exact (⟨dEntry false, default, 65535, (by decide +kernel), ⟨{ dl3 with doubtQ := [dEntry false] },
        (by decide +kernel)⟩⟩)
  · exact (⟨dEntry false, default, 65535, (by decide +kernel),
        ⟨{ (openFw dl3 1).putEntry 65535 { st := vFinal } with doubtQ := [dEntry false] }, (by decide +kernel)⟩⟩)
  · exact (⟨47, 7, ⟨{ R0 with conts := [(47, 7)] }, (by decide +kernel)⟩⟩)
  · exact (⟨.dap, 3, ⟨dl3, reached_of (by decide +kernel), (by decide +kernel)⟩⟩)
  · exact (⟨.dap, 3, ⟨R0, reached_of (by decide +kernel), (by decide +kernel)⟩⟩)

/-- Line 3 with a held FINAL of entry 65535, which a passing block beyond the parcel's footprint confirms. -/
def heldS : State :=
  { (((R0.wr pgSaf R.fallbackAll 0).wr pgVpt R.lineEn 1 3).wr pgVpt R.idHi 65535 3).putEntry 65535
      { st := vPending, origin := some 0, trail := some 10, fawn := some 4, held := some ⟨9, 5, 0⟩ } with confE :=
          [(47, 1000)] }

/-- The hypotheses of `Obligations.IslandSafety` can be met, clause by clause. -/
theorem wit_IslandSafety :
    (∃ id : Nat, ∃ l : Nat, ∃ h : Held, Met (fun s => lineOfId s id = some l ∧ (s.entry id).held = some h ∧
        confirmed s l (s.entry id) = true ∧ s.on pgSaf R.fault = false ∧ (s.entry id).poisoned = false ∧
        islandRuns s = true ∧ finalBarred s id = false ∧ ∃ f, (s.entry id).fawn = some f ∧ f ≠ 0xF ∧
        f ≤ h.dim + s.rd pgSaf R.classSlack l)) ∧
    (∃ ini : Ini, MetW ini pgSaf 0x08C (fun _ => True)) ∧
    (∃ p : Nat, p < 8 ∧ Met (fun s => (s.wd p).on = true ∧ (s.wd p).expired = false ∧
        (s.wd p).last + wdTicks 250 ≤ s.time ∧ islandRuns s = true ∧ s.on pgPwr R.entering = false)) ∧
    (Met (fun s => s.on pgRst R.romDone = true ∧ s.isl.halted = false ∧ islandRuns s = true ∧
        s.on pgPwr R.entering = false)) ∧
    (Met (fun s => islandRuns s = true ∧ s.on pgSaf R.fault = false)) ∧
    (Met (fun s => s.isl.wdOn = true ∧ s.isl.lastKick + wdTicks 500 ≤ s.time ∧ islandRuns s = true ∧
        s.on pgPwr R.entering = false ∧ s.on pgSaf R.fault = false)) ∧
    (Met (fun s => islandRuns s = true ∧ s.on pgPwr R.entering = false ∧ s.on pgPwr R.exiting = false ∧
        s.on pgClk R.pllLock = true ∧ s.on pgSaf R.fault = false)) := by
  refine ⟨?_, ?_, ?_, ?_, ?_, ?_, ?_⟩
  · exact (⟨65535, 3, ⟨9, 5, 0⟩, ⟨((heldS.wr pgSaf R.camSafe 1 47).wr pgSaf R.camLine 3 47), ⟨by decide +kernel,
        by decide +kernel, by decide +kernel, by decide +kernel, by decide +kernel, by decide +kernel,
        by decide +kernel, 4, by decide +kernel, by decide +kernel, by decide +kernel⟩⟩⟩)
  · exact (⟨.dap, ⟨R0, reached_of (by decide +kernel), (by decide +kernel)⟩⟩)
  · exact (⟨7, (by decide +kernel), ⟨{ R0.putWd 7 { on := true } with time := 1000000000 }, (by decide +kernel)⟩⟩)
  · exact (⟨R0.wr pgRst R.romDone 1, (by decide +kernel)⟩)
  · exact (⟨R0, (by decide +kernel)⟩)
  · exact (⟨{ R0 with time := 1000000000, isl := { R0.isl with wdOn := true } }, (by decide +kernel)⟩)
  · exact (⟨R0.wr pgClk R.pllLock 1, (by decide +kernel)⟩)

/-- The rotation may begin. -/
def rotS : State := (R0.wr pgChk R.rotEn 1).wr pgRst R.romDone 1

/-- An injection armed on a page. -/
def injS (p : Nat) : Injection := { page := p, bit := 6, armed := 0 }

/-- The hypotheses of `Obligations.Recovery` can be met, clause by clause. -/
theorem wit_Recovery :
    (∃ ini : Ini, ∃ v : Nat, MetW ini pgSaf 0x084 (fun u => p0Ok u ini = true ∧ v % 32 ≠ 0 ∧
        mayResume u ((List.range 4).filter fun l => bitOf v l || (bitOf v 4 && lineOn u l)) = false)) ∧
    (∃ ini : Ini, ∃ v : Nat, MetW ini pgSaf 0x084 (fun u => p0Ok u ini = true ∧ v % 32 ≠ 0 ∧ u.vt = [] ∧
        mayResume u ((List.range 4).filter fun l => bitOf v l || (bitOf v 4 && lineOn u l)) = true)) ∧
    (∃ page : Nat, ∃ bit : Nat, ∃ turn : Nat, Met (fun s => s.on pgChk R.rotEn = true ∧ s.on pgRst R.romDone = true ∧
        s.rst.ph = 0 ∧ islandRuns s = true ∧ s.injections = [] ∧ rotDue s (page, bit, turn) = true ∧
        workPending (rotBegin s) (page, bit, turn) = false)) ∧
    (∃ page : Nat, ∃ bit : Nat, ∃ turn : Nat, Met (fun s => s.on pgChk R.rotEn = true ∧ s.on pgRst R.romDone = true ∧
        s.rst.ph = 0 ∧ islandRuns s = true ∧ s.injections = [] ∧ rotDue s (page, bit, turn) = true ∧
        workPending (rotBegin s) (page, bit, turn) = true ∧ pageKind page ≠ some .pq)) ∧
    (∃ page : Nat, Met (fun s => s.injections.find? (fun k => k.page == page) = none)) ∧
    (∃ page : Nat, ∃ j : Injection, Met (fun s => s.injections.find? (fun k => k.page == page) = some j ∧
        j.confirmed = false ∧
        ((∃ t, j.taken = some t ∧ t + msTicks 2 ≤ s.time) ∨
          (j.taken = none ∧ pageKind page ≠ some .ctx ∧ j.armed + msTicks 1 ≤ s.time)))) ∧
    (∃ ini : Ini, ∃ page : Nat, MetW ini pgErl 0x0A0 (fun u => p0Ok u ini = true ∧ pageKind page ≠ none ∧
        u.fenced page = true ∧ u.unfence = none ∧ noUnfence page = false)) ∧
    (∃ ini : Ini, ∃ page : Nat, MetW ini pgErl 0x0A0 (fun u => p0Ok u ini = true ∧
        (pageKind page = none ∨ u.fenced page = false ∨ u.unfence ≠ none ∨ noUnfence page = true))) := by
  refine ⟨?_, ?_, ?_, ?_, ?_, ?_, ?_, ?_⟩
  · exact (⟨.dap, 0x11, ⟨R0, reached_of (by decide +kernel), (by decide +kernel)⟩⟩)
  · exact (⟨.dap, 0x1F, ⟨{ R0 with isl := { R0.isl with cleanEnd := some 9 } }, reached_of (by decide +kernel),
        (by decide +kernel)⟩⟩)
  · exact (⟨pgSaf, 3, 0, ⟨rotS, (by decide +kernel)⟩⟩)
  · exact (⟨0xA8, 6, 0, ⟨(wk rotS 0xA8).putJob 0xA8 7 {}, (by decide +kernel)⟩⟩)
  · exact (⟨0xA8, ⟨R0, (by decide +kernel)⟩⟩)
  · exact (⟨0xA8, injS 0xA8, ⟨{ R0 with time := 1000000000, injections := [injS 0xA8] }, ⟨by decide +kernel, by decide +kernel, Or.inr (by decide +kernel)⟩⟩⟩)
  · exact (⟨.dap, 0xA8, ⟨R0.wr 0xA8 R.pstate psFenced, reached_of (by decide +kernel), (by decide +kernel)⟩⟩)
  · exact (⟨.dap, 0xA8, ⟨R0, reached_of (by decide +kernel), (by decide +kernel)⟩⟩)

/-- The log with room for 8 records at address 0. -/
def logS : State := ((openFw R0 0).wr pgErl R.logEn 1).wr pgErl R.logCount 8

def logE : LogRec := { event := 5 }

/-- The log with 3 records lost. -/
def lostS : State := { logS with lostRecs := 3 }

/-- The hypotheses of `Obligations.ErrorLog` can be met, clause by clause. -/
theorem wit_ErrorLog :
    (∃ r : LogRec, ∃ rest : List LogRec, Met (fun s => s.rst.ph < 3 ∧ s.rst.badCopy = [] ∧ s.lostRecs = 0 ∧
        s.logQ = r :: rest ∧ logRoom s = true)) ∧
    (∃ r : LogRec, ∃ rest : List LogRec, Met (fun s => s.rst.ph < 3 ∧ s.rst.badCopy = [] ∧ s.logQ = r :: rest ∧
        logRoom s = false)) ∧
    (Met (fun s => s.rst.ph < 3 ∧ s.rst.badCopy = [] ∧ s.lostRecs = 0 ∧ s.logQ = [])) ∧
    (∃ hit : Hit, ∃ t : State, Met (fun s => s.rst.ph < 3 ∧ s.rst.badCopy = [] ∧ s.lostRecs ≠ 0 ∧ logRoom s = true ∧
        logWrite s.newInc.2
        { event := 0x3F, incident := s.newInc.1, first := true, time := s.time, page := pgErl, count := s.lostRecs }
        hit = (true, t))) ∧
    (Met (fun s => s.on pgSaf R.fault = true ∧ s.on pgErl R.autoReset = true ∧
        s.rd pgErl R.autoResetCnt < s.rd pgErl R.autoLimit ∧ s.rst.ph = 0 ∧
        s.faultTime + msTicks (s.rd pgErl R.faultHold) ≤ s.time)) ∧
    (Met (fun s => s.rd pgErl R.autoLimit ≤ s.rd pgErl R.autoResetCnt)) := by
  refine ⟨?_, ?_, ?_, ?_, ?_, ?_⟩
  · exact (⟨logE, default, ⟨{ logS with logQ := [logE] }, (by decide +kernel)⟩⟩)
  · exact (⟨logE, default, ⟨{ R0 with logQ := [logE] }, (by decide +kernel)⟩⟩)
  · exact (⟨R0, (by decide +kernel)⟩)
  · exact (⟨cleanHit, (logWrite lostS.newInc.2
        { event := 0x3F, incident := lostS.newInc.1, first := true, time := lostS.time, page := pgErl,
          count := lostS.lostRecs } cleanHit).2, ⟨lostS, ⟨by decide +kernel, by decide +kernel, by decide +kernel, by decide +kernel, Prod.ext (by decide +kernel) rfl⟩⟩⟩)
  · exact (⟨{ ((R0.wr pgSaf R.fault 1).wr pgErl R.autoReset 1).wr pgErl R.autoLimit 3 with time := 1000000000000 },
        (by decide +kernel)⟩)
  · exact (⟨R0.wr pgErl R.autoLimit 0, (by decide +kernel)⟩)

/-- The Fawn pipeline of line 3 enabled, with pair 7. -/
def fwn : State := (wk (wk R0 pgSte1) pgHmp0).wr pgSaf R.fawnEn 1 3 |>.wr pgSaf R.fawnPairs 0x80 3

def fRun (st : Nat) : FawnRun :=
    { line := 3, pair := 7, left := 0, right := 4096, cntL := 0, cntR := 0, enc := 0, w := 16, h := 16, st := st }

/-- A parcel of that line whose trailing edge has gone by. -/
def fPar : Parcel := { line := 3, c := 0, time := 0, trail := some 100 }

theorem ro_ok {x : List Byte × Bool × State} (h : x.2.1 = false) : x = (x.1, false, x.2.2) := by
  obtain ⟨a, b, c⟩ := x
  cases h
  rfl

theorem wo_ok {x : Bool × State} (h : x.1 = false) : x = (false, x.2) := by
  obtain ⟨b, c⟩ := x
  cases h
  rfl

/-- A fold every step of which is clean and leaves the state runs as one over the first component alone. -/
theorem foldl_clean {α β : Type} {f : β × Bool × State → α → β × Bool × State} {g : β → α → β} {s : State} {l : List α}
    (h : ∀ p ∈ l, ∀ a, f (a, false, s) p = (g a p, false, s)) (a : β) :
    l.foldl f (a, false, s) = (l.foldl g a, false, s) := by
  induction l generalizing a with
  | nil => rfl
  | cons p l ih =>
    rw [List.foldl_cons, h p List.mem_cons_self, ih fun q hq => h q (List.mem_cons_of_mem _ hq)]
    rfl

/-- What a pipe reads of the vision memory where every piece is allowed and nothing is counted. -/
theorem readOnce_svm {s : State} {t : Tag} {page a n : Nat} (he : s.eccBad = []) (hf : (freeTid s t.init).isSome = true)
    (hi : injectNow s pgFab 12 = false) (hp : perfRd s page true = s) (h : (linePieces a n).all (pieceOk s t) = true) :
    readOnce s t page a n = ((linePieces a n).foldl (fun acc p => acc ++ s.bytes p.1 p.2) [], false, s) := by
  obtain ⟨tid, hf⟩ := Option.isSome_iff_exists.mp hf
  unfold readOnce
  have e : ∀ y, respAt noSpot y = Resp.ok := fun y => by simp [respAt, noSpot]
  refine foldl_clean (fun p hp' acc => ?_) []
  have hq := List.all_eq_true.mp h p hp'
  simp only [pieceOk, Bool.and_eq_true, beq_iff_eq] at hq
  have : tryRead s t p.1 p.2 .ok [] = (.ok (s.bytes p.1 p.2), s) := by
    simp [tryRead, fabRead, passes, State.hit, hf, hi, hq.1, serveRead, hq.2, he, respEcc]
  simp only [e, this, hp]

/-- A fold that never loses a value, and gains one at some entry, ends with one. -/
theorem foldl_gain {α β : Type} {f : Option β → α → Option β} (hk : ∀ o x, o.isSome = true → (f o x).isSome = true)
    {l : List α} {x : α} (hx : x ∈ l) (hg : ∀ o, (f o x).isSome = true) (o : Option β) :
    (l.foldl f o).isSome = true := by
  have keep : ∀ (l : List α) (o : Option β), o.isSome = true → (l.foldl f o).isSome = true := fun l => by
    induction l with
    | nil => exact fun _ h => h
    | cons y l ih => exact fun o h => ih _ (hk o y h)
  induction l generalizing o with
  | nil => cases hx
  | cons y l ih =>
    rcases List.mem_cons.mp hx with rfl | h
    · exact keep l _ (hg o)
    · exact ih h _

theorem spanAdd_some (o : Option Span) (x y : Nat) (h : Int) : (Span.add o x y h).isSome = true := by
  cases o <;> rfl

/-- Row y of a grid, as its reads bring it. -/
def gridRow (s : State) (l g y : Nat) : List Byte :=
  (linePieces (fawnGrid s l g + 4096 * y) 4096).foldl (fun acc p => acc ++ s.bytes p.1 p.2) []

theorem gridRead_clean {s : State} {l g y : Nat} (he : s.eccBad = []) (hf : (freeTid s tagIsland.init).isSome = true)
    (hi : injectNow s pgFab 12 = false) (hp : perfRd s pgSaf true = s)
    (h : (linePieces (fawnGrid s l g + 4096 * y) 4096).all (pieceOk s tagIsland) = true) :
    gridRead s l g y = (gridRow s l g y, false, s) := by
  unfold gridRead gridRow
  generalize 4096 = n at h ⊢
  exact readOnce_svm he hf hi hp h

/-- A grid all of whose rows can be read, with an occupied cell in its row 0. -/
theorem gridSpan_some {s : State} {l g x : Nat} {lp : Int} (he : s.eccBad = []) (hf : (freeTid s tagIsland.init).isSome = true)
    (hi : injectNow s pgFab 12 = false) (hp : perfRd s pgSaf true = s)
    (h : (List.range 128).all (fun y => (linePieces (fawnGrid s l g + 4096 * y) 4096).all (pieceOk s tagIsland)) = true)
    (hx : x < 256)
    (hc : cellOccupied s l lp x (((gridRow s l g 0).drop (16 * x)).take 16) = true) :
    ∃ v, gridSpan s l lp g = (some v, false, s) := by
  have rows : gridSpan s l lp g =
      ((List.range 128).foldl (fun o y => spanRow s l lp y (gridRow s l g y) o) none, false, s) := by
    have hr : ∀ y ∈ List.range 128, gridRead s l g y = (gridRow s l g y, false, s) :=
      fun y hy => gridRead_clean he hf hi hp (List.all_eq_true.mp h y hy)
    refine foldl_clean (fun y hy o => ?_) none
    unfold gridStep
    rw [hr y hy]
    rfl
  have keep : ∀ (o : Option Span) (y : Nat), o.isSome = true → (spanRow s l lp y (gridRow s l g y) o).isSome = true := by
    intro o y ho
    unfold spanRow
    generalize List.range 256 = m
    induction m generalizing o with
    | nil => exact ho
    | cons z m ih =>
      refine ih _ ?_
      dsimp only
      split
      · exact spanAdd_some _ _ _ _
      · exact ho
  have gain : ∀ o, (spanRow s l lp 0 (gridRow s l g 0) o).isSome = true := by
    intro o
    unfold spanRow
    refine foldl_gain ?_ (List.mem_range.mpr hx) ?_ o
    · intro o z ho
      dsimp only
      split
      · exact spanAdd_some _ _ _ _
      · exact ho
    · intro o
      simp only [hc, if_true]
      exact spanAdd_some _ _ _ _
  obtain ⟨v, hv⟩ := Option.isSome_iff_exists.mp (foldl_gain keep (List.mem_range.mpr (by decide : 0 < 128)) gain none)
  exact ⟨v, rows.trans (by rw [hv])⟩

/-- That line with memory open and its two streams: 46 left, 47 right. -/
def fwnP : State :=
  ((((((openFw fwn 0).wr pgSaf R.camLine 3 46).wr pgSaf R.camPair 7 46).wr pgSaf R.camLine 3 47).wr pgSaf R.camPair 7
    47).wr pgSaf R.camRight 1 47).wr pgSaf R.fMincnt 0 3 |>.wr pgSaf R.fHmin 0 3

def fHl : List Byte × Bool × State := readOnce fwnP tagIsland pgSaf (fawnSlot fwnP 46 0) 64
def fHr : List Byte × Bool × State := readOnce fHl.2.2 tagIsland pgSaf (fawnSlot fwnP 47 0) 64
def fDesc : Bool × State :=
  writeOnce fHr.2.2 tagIsland pgSaf (fawnSteDesc fHr.2.2 3) (fawnSteBytes fHr.2.2 3 46 (fawnSlot fwnP 46 0)
    (fawnSlot fwnP 47 0) (wordAt fHl.1 0x24 % 65536) (wordAt fHl.1 0x24 / 65536))

/-- The same line with a parcel whose grid 15 has been begun, at encoder count 1,000. -/
def fGrid : State := { fwnP.wr pgLio R.encCnt 1000 (R0.rd pgVpt R.lineEnc 3) with parcels := [{ fPar with grid := some 15, begun := true }] }

/-- The state once the scale has been read. -/
def fScaled : State := (fawnScale fGrid 3).2

theorem perfRd_off {s : State} {p : Nat} (h : s.rd p R.perfEn = 0) : perfRd s p true = s := by
  simp [perfRd, State.perf, h]

/-- The same line with a classified parcel, listed as entry 65,535. -/
def fStage : State :=
  { (openFw fwnP 1).putEntry 65535 { st := vAnnounced, origin := some 0 } with
    parcels := [{ fPar with cls := some 15, id := some 65535 }] }

theorem fGrid_reads : (List.range 128).all (fun y =>
    (linePieces (fawnGrid fScaled 3 15 + 4096 * y) 4096).all (pieceOk fScaled tagIsland)) = true := by
  have hb : fawnGrid fScaled 3 15 = 0xF80000 := by decide +kernel
  refine List.all_eq_true.mpr fun y hy => pieces_open (by decide +kernel) (by decide) ?_
  have := List.mem_range.mp hy
  omega

theorem fGrid_cell : cellOccupied fScaled 3 (cdiv ((diff32 (fPar.trail.getD fPar.c) fPar.c).toNat * 0) 4096 : Nat) 255
    (((gridRow fScaled 3 15 0).drop (16 * 255)).take 16) = true := by decide +kernel

/-- Its grid has a span: of zeros, every cell in range is occupied. -/
theorem fGrid_span : ∃ v, gridSpan fScaled 3 (cdiv ((diff32 (fPar.trail.getD fPar.c) fPar.c).toNat * 0) 4096 : Nat) 15 = (some v, false, fScaled) := by
  refine gridSpan_some ?_ ?_ ?_ (perfRd_off ?_) fGrid_reads ?_ fGrid_cell <;> decide +kernel

/-- The hypotheses of `Obligations.FawnPipeline` can be met, clause by clause. -/
theorem wit_FawnPipeline :
    (∃ line pair left right : Nat, ∃ s s1 s2 s3 : State, ∃ kl kr : Nat, ∃ hl hr : List Byte, islandRuns s = true ∧ s.on
        pgSaf R.fault = false ∧ s.fawnRun = none ∧ line < 4 ∧ pair < 8 ∧ s.on pgSaf R.fawnEn line = true ∧ bitOf
        (s.rd pgSaf R.fawnPairs line) pair = true ∧ fawnFree s pgSte1 = true ∧ pairStream s line pair false = some
        kl ∧ pairStream s line pair true = some kr ∧ readOnce s tagIsland pgSaf (fawnSlot s kl left) 64 = (hl,
        false, s1) ∧ readOnce s1 tagIsland pgSaf (fawnSlot s kr right) 64 = (hr, false, s2) ∧ max (quadAt hl 8)
        (quadAt hr 8) - min (quadAt hl 8) (quadAt hr 8) ≤ 100000 ∧ fawnPitch (cdiv (wordAt hl 0x24 % 65536) 2) *
        cdiv (wordAt hl 0x24 / 65536) 2 ≤ 0x7F0000 ∧ writeOnce s2 tagIsland pgSaf (fawnSteDesc s2 line)
        (fawnSteBytes s2 line kl (fawnSlot s kl left) (fawnSlot s kr right) (wordAt hl 0x24 % 65536) (wordAt hl 0x24
        / 65536)) = (false, s3)) ∧
    (∃ line : Nat, ∃ pair : Nat, ∃ r : FawnRun, ∃ st : Nat, Met (fun s => islandRuns s = true ∧
        s.on pgSaf R.fault = false ∧ s.fawnRun = some r ∧ r.line = line ∧ r.pair = pair ∧ r.st = 0 ∧
        sfind s.fawnEnds pgSte1 = some st)) ∧
    (∃ line : Nat, ∃ pair : Nat, ∃ r : FawnRun, Met (fun s => islandRuns s = true ∧ s.on pgSaf R.fault = false ∧
        s.fawnRun = some r ∧ r.line = line ∧ r.pair = pair ∧ r.st ≠ 0 ∧ fawnFree s pgHmp0 = true)) ∧
    (∃ line : Nat, ∃ q : Parcel, line < 4 ∧ Met (fun s => islandRuns s = true ∧ s.on pgSaf R.fault = false ∧ s.on pgSaf
        R.fawnEn line = true ∧ parcelOf s line (fun q => q.cls.isNone && q.trail.isSome && decide (q.tpos + (s.rd
        pgSaf R.fExit line : Nat) ≤ linePos s line)) = some q)) ∧
    (∃ line : Nat, ∃ q : Parcel, line < 4 ∧ Met (fun s => islandRuns s = true ∧ s.on pgSaf R.fault = false ∧ s.on pgSaf
        R.fawnEn line = true ∧ q.grid = none ∧ parcelOf s line (fun q => q.cls.isNone && q.trail.isSome && decide
        (q.tpos + (s.rd pgSaf R.fExit line : Nat) ≤ linePos s line)) = some q)) ∧
    (∃ line : Nat, ∃ q : Parcel, ∃ s s1 s2 : State, ∃ scale g : Nat, ∃ v : Span, line < 4 ∧ islandRuns s = true ∧ s.on
        pgSaf R.fault = false ∧ s.on pgSaf R.fawnEn line = true ∧ parcelOf s line (fun q => q.cls.isNone &&
        q.trail.isSome && decide (q.tpos + (s.rd pgSaf R.fExit line : Nat) ≤ linePos s line)) = some q ∧ fawnScale s
        line = (some scale, s1) ∧ q.grid = some g ∧ q.begun = true ∧ gridSpan s1 line (cdiv ((diff32 (q.trail.getD
        q.c) q.c).toNat * scale) 4096 : Nat) g = (some v, false, s2) ∧ ((cdiv ((diff32 (q.trail.getD q.c) q.c).toNat
        * scale) 4096 : Nat) : Int) + 2 * (s1.rd pgSaf R.fGuard line : Nat) ≤ 2560 ∧ (∀ p, p < 8 → bitOf (s2.rd
        pgSaf R.fawnPairs line) p = true → pairGap s2 line p q (diff32 (q.trail.getD q.c) q.c) = false ∧ stillSeen
        s2 line p q = false)) ∧
    (∃ line : Nat, ∃ q : Parcel, line < 4 ∧ Met (fun s => islandRuns s = true ∧ s.on pgSaf R.fault = false ∧
        s.on pgSaf R.fawnEn line = false ∧ parcelOf s line (fun q => q.cls.isNone && q.trail.isSome && decide
        (q.tpos + (s.rd pgSaf R.fExit line : Nat) ≤ linePos s line)) = some q)) ∧
    (∃ line id c : Nat, ∃ q : Parcel, line < 4 ∧ c < 16 ∧ id < 65536 ∧ Met (fun s => islandRuns s = true ∧
        s.on pgSaf R.fault = false ∧ parcelOf s line (fun q => q.cls.isSome) = some q ∧
        s.fawnRun = none ∧ q.cls = some c ∧ parcelEntry s q = some id ∧ (s.entry id).st = vAnnounced ∧
        (s.entry id).poisoned = false ∧ injectNow s pgFab 12 = false ∧
        judge s tagIsland opWrite (vtBase + 4 * id) 4 = .pass ∧ s.rd pgSaf R.fResBase line % 64 = 0 ∧
        targetOf (s.rd pgSaf R.fResBase line + 64 * (s.rd pgSaf R.fResIdx line % 256)) = .svm)) ∧
    (∃ line : Nat, ∃ q : Parcel, line < 4 ∧ Met (fun s => islandRuns s = true ∧ s.on pgSaf R.fault = false ∧
        parcelOf s line (fun q => q.cls.isSome) = some q ∧ s.fawnRun = none ∧ parcelEntry s q = none)) := by
  refine ⟨?_, ?_, ?_, ?_, ?_, ?_, ?_, ?_, ?_⟩
  · refine ⟨3, 7, 0, 0, fwnP, fHl.2.2, fHr.2.2, fDesc.2, 46, 47, fHl.1, fHr.1, ?_, ?_, ?_, ?_, ?_, ?_, ?_, ?_, ?_, ?_,
      ro_ok ?_, ro_ok ?_, ?_, ?_, wo_ok ?_⟩ <;> decide +kernel
  · exact (⟨3, 7, fRun 0, 0, ⟨{ fwn with fawnRun := some (fRun 0), fawnEnds := [(pgSte1, 0)] }, (by decide +kernel)⟩⟩)
  · exact (⟨3, 7, fRun 1, ⟨{ fwn with fawnRun := some (fRun 1) }, (by decide +kernel)⟩⟩)
  · exact (⟨3, fPar, (by decide +kernel), ⟨{ fwn with parcels := [fPar] }, (by decide +kernel)⟩⟩)
  · exact (⟨3, fPar, (by decide +kernel), ⟨{ fwn with parcels := [fPar] }, (by decide +kernel)⟩⟩)
  · obtain ⟨v, hv⟩ := fGrid_span
    refine ⟨3, { fPar with grid := some 15, begun := true }, fGrid, fScaled, fScaled, 0, 15, v, ?_, ?_, ?_, ?_, ?_,
      Prod.ext ?_ rfl, rfl, rfl, hv, ?_, ?_⟩ <;> decide +kernel
  · exact (⟨3, fPar, (by decide +kernel), ⟨{ R0 with parcels := [fPar] }, (by decide +kernel)⟩⟩)
  · exact ⟨3, 65535, 15, { fPar with cls := some 15, id := some 65535 }, (by decide +kernel), (by decide +kernel), (by decide +kernel), ⟨fStage, (by decide +kernel)⟩⟩
  · exact (⟨3, { fPar with cls := some 4 }, (by decide +kernel),
        ⟨{ openFw fwn 0 with parcels := [{ fPar with cls := some 4 }] }, (by decide +kernel)⟩⟩)

/-- The header of a core image of 64 bytes. -/
def imgHdr : List Byte := leBytes 4 0xDA0DE101 ++ leBytes 4 3 ++ leBytes 4 64 ++ leBytes 244 0

def loadJob : Load := { src := 0, core := 7 }

/-- A load in progress of what stands at address 0. -/
def ldS : State := { openFw R0 0 with load := some loadJob }

def ldRd (s : State) (a n : Nat) : FabResp × Bool × State := readAll s tagLoader pgSec 0 a n cleanHit [] 0

/-- The hypotheses of `Obligations.LoadsAndFuses` can be met, clause by clause. -/
theorem wit_LoadsAndFuses :
    (∃ ini : Ini, MetW ini pgSec 0x0EC (fun u => (iniPart u ini = 0 ∨ u.ownerOf (pgCc (u.rd pgSec R.ldCore)) = iniPart
        u ini) ∧ u.coreSt (u.rd pgSec R.ldCore) = 0 ∧ u.load = none)) ∧
    (∃ ini : Ini, MetW ini pgSec 0x0EC (fun u => u.coreSt (u.rd pgSec R.ldCore) ≠ 0 ∨ u.load ≠ none)) ∧
    (∃ ini : Ini, MetW ini pgSec 0x0F4 (fun _ => True)) ∧
    (∃ ini : Ini, MetW ini pgFus 0x088 (fun u => p0Ok u ini = true ∧ u.rd pgFus R.rbState ≠ 1 ∧
        rbCountOf u < u.rd pgFus R.rbTarget ∧ u.rd pgFus R.rbTarget ≤ 64 ∧
        svnsAtLeast u (u.rd pgFus R.rbTarget) = true)) ∧
    (∃ ini : Ini, MetW ini pgFus 0x088 (fun u => p0Ok u ini = true ∧ u.rd pgFus R.rbState ≠ 1 ∧
        ¬(rbCountOf u < u.rd pgFus R.rbTarget ∧ u.rd pgFus R.rbTarget ≤ 64 ∧
        svnsAtLeast u (u.rd pgFus R.rbTarget) = true))) ∧
    (∃ ini : Ini, MetW ini pgFus 0x0F0 (fun u => p0Ok u ini = true ∧ u.rotpk = 0)) ∧
    (∃ ini : Ini, MetW ini pgFus 0x0F0 (fun u => p0Ok u ini = true ∧ u.rotpk ≠ 0)) ∧
    (∃ hit : Hit, ∃ host : Cells, ∃ d : Load, ∃ h : List Byte, ∃ b1 : Bool, ∃ s : State, ∃ s1 : State, ∃ st : Nat,
        s.load = some d ∧ readAll s tagLoader pgSec 0 d.src 256 hit host 0 = (.ok h, b1, s1) ∧
        imHeaderFail s1 3 h = some st) ∧
    (∃ hit : Hit, ∃ host : Cells, ∃ d : Load, ∃ h : List Byte, ∃ body : List Byte, ∃ b1 : Bool, ∃ b2 : Bool,
        ∃ s : State, ∃ s1 : State, ∃ s2 : State, s.load = some d ∧
        readAll s tagLoader pgSec 0 d.src 256 hit host 0 = (.ok h, b1, s1) ∧ imFormatOk 3 h = true ∧
        (s1.rotpk = 0 ∨ rotpkBytes s1 = shaBytes (imKey h)) ∧
        readAll s1 tagLoader pgSec 0 (d.src + 256) (imLen h) ⟨hit.idx - 4, if hit.idx < 4 then .ok else hit.r1,
        if hit.idx < 4 then .ok else hit.r2⟩ host 0 = (.ok body, b2, s2)) := by
  refine ⟨?_, ?_, ?_, ?_, ?_, ?_, ?_, ?_, ?_⟩
  · exact (⟨.dap, ⟨R0, reached_of (by decide +kernel), (by decide +kernel)⟩⟩)
  · exact (⟨.dap, ⟨{ R0 with load := some loadJob }, reached_of (by decide +kernel), (by decide +kernel)⟩⟩)
  · exact (⟨.dap, ⟨R0, reached_of (by decide +kernel), (by decide +kernel)⟩⟩)
  · exact (⟨.dap, ⟨R0.wr pgFus R.rbTarget 64, reached_of (by decide +kernel), (by decide +kernel)⟩⟩)
  · exact (⟨.dap, ⟨R0, reached_of (by decide +kernel), (by decide +kernel)⟩⟩)
  · exact (⟨.dap, ⟨R0.wr pgFus R.rotpkProg 5 11, reached_of (by decide +kernel), (by decide +kernel)⟩⟩)
  · exact (⟨.dap, ⟨{ R0 with rotpk := 5 }, reached_of (by decide +kernel), (by decide +kernel)⟩⟩)
  · exact (⟨cleanHit, [], loadJob, okBytes (ldRd ldS 0 256).1, (ldRd ldS 0 256).2.1, ldS, (ldRd ldS 0 256).2.2,
        ldFormat, (by decide +kernel), (by decide +kernel), (by decide +kernel)⟩)
  · exact (⟨cleanHit, [], loadJob, imgHdr, okBytes (ldRd (ldRd (ldS.store 0 imgHdr) 0 256).2.2 256 64).1,
        (ldRd (ldS.store 0 imgHdr) 0 256).2.1, (ldRd (ldRd (ldS.store 0 imgHdr) 0 256).2.2 256 64).2.1,
        ldS.store 0 imgHdr, (ldRd (ldS.store 0 imgHdr) 0 256).2.2,
        (ldRd (ldRd (ldS.store 0 imgHdr) 0 256).2.2 256 64).2.2, (by decide +kernel), (by decide +kernel),
        (by decide +kernel), (Or.inl (by decide +kernel)), (by decide +kernel)⟩)

/-- The hypotheses of `Obligations.RollbackCount` can be met, clause by clause. -/
theorem wit_RollbackCount :
    (∃ s : State, ∃ n, n < 64 ∧ bitOf s.fuses n = true) ∧
    (∃ s : State, rbCountOf s ≠ 0) ∧
    (Met (fun s => s.rd pgFus R.rbState = 1)) ∧
    (Met (fun s => romReady s = true ∧ s.rd pgRst R.bootMode = 0 ∧ fuseFaultOf s = true)) := by
  refine ⟨?_, ?_, ?_, ?_⟩
  · exact (⟨{ R0 with fuses := 2 ^ 63 }, 63, (by decide +kernel), (by decide +kernel)⟩)
  · exact (⟨{ R0 with fuses := 2 ^ 63 }, (by decide +kernel)⟩)
  · exact (⟨{ R0.wr pgFus R.rbState 1 with fuses := 7, blowTo := 64 }, (by decide +kernel)⟩)
  · exact (⟨{ R0 with fuses := 4 }, (by decide +kernel)⟩)

/-- The hypotheses of `Obligations.DebugAndTrace` can be met, clause by clause. -/
theorem wit_DebugAndTrace :
    (∃ c : Nat, c < 8) ∧
    (∃ c : Nat, c < 8 ∧ Met (fun s => (s.core c).dbg = true)) ∧
    (∃ c : Nat, c < 8 ∧ Met (fun s => (s.core c).dbg = false)) ∧
    (∃ c : Nat, 8 ≤ c ∧ c < 10) ∧
    (∃ c : Nat, 8 ≤ c ∧ c < 10 ∧ Met (fun s => s.isl.halted = false)) ∧
    (∃ c : Nat, 10 ≤ c) ∧
    (Met (fun s => bitOf (s.rd pgDbg R.traceSrcEn) 11 = true ∧
        s.trace.last + usTicks (s.rd pgDbg R.sampleUs) ≤ s.time ∧ s.trace.fifo.length < traceDepth)) ∧
    (Met (fun s => bitOf (s.rd pgDbg R.traceSrcEn) 11 = true ∧
        s.trace.last + usTicks (s.rd pgDbg R.sampleUs) ≤ s.time ∧ traceDepth ≤ s.trace.fifo.length)) ∧
    (Met (fun s => bitOf (s.rd pgDbg R.traceSrcEn) 11 = false)) := by
  refine ⟨?_, ?_, ?_, ?_, ?_, ?_, ?_, ?_, ?_⟩
  · exact (⟨7, (by decide +kernel)⟩)
  · exact (⟨7, (by decide +kernel), ⟨R0.putCore 7 { dbg := true }, (by decide +kernel)⟩⟩)
  · exact (⟨7, (by decide +kernel), ⟨R0, (by decide +kernel)⟩⟩)
  · exact (⟨9, (by decide +kernel), (by decide +kernel)⟩)
  · exact (⟨9, (by decide +kernel), (by decide +kernel), ⟨R0, (by decide +kernel)⟩⟩)
  · exact (⟨10, (by decide +kernel)⟩)
  · exact (⟨{ R0.wr pgDbg R.traceSrcEn 0x800 with time := 1000000000 }, (by decide +kernel)⟩)
  · exact (⟨{ R0.wr pgDbg R.traceSrcEn 0x800 with time := 1000000000, trace :=
        { R0.trace with fifo := List.replicate traceDepth default } }, (by decide +kernel)⟩)
  · exact (⟨R0, (by decide +kernel)⟩)

/-- The hypotheses of `Obligations.PowerLadder` can be met, clause by clause. -/
theorem wit_PowerLadder :
    (Met (fun s => s.rd pgPwr R.autoFloor ≠ 0 ∧ s.rd pgPwr R.rung = 0 ∧ rungSettled s = true ∧ s.rst.ph < 3 ∧
        computeAtRest s = true ∧ s.rd pgPwr R.idleHold ≤ s.pw.idle)) ∧
    (Met (fun s => s.rd pgPwr R.autoFloor = 2 ∧ s.rd pgPwr R.rung = 1 ∧ rungSettled s = true ∧
        computeAtRest s = true ∧ s.rd pgPwr R.idleHold + s.rd pgPwr R.idleNap ≤ s.pw.idle)) ∧
    (Met (fun s => (s.rd pgPwr R.rung = 1 ∨ s.rd pgPwr R.rung = 2) ∧ rungSettled s = true)) ∧
    (Met (fun s => s.rd pgPwr R.rung = 0)) ∧
    (∃ ini : Ini, ∃ r : Nat, r < 8 ∧ MetW ini pgPwr 0x080 (fun u => p0Ok u ini = true ∧
        sleepRefusal (u.wr pgPwr R.sleepReq r) r = 0)) ∧
    (∃ ini : Ini, ∃ r : Nat, ∃ c : Nat, r < 8 ∧ c ≠ 0 ∧ MetW ini pgPwr 0x080 (fun u => p0Ok u ini = true ∧
        sleepRefusal (u.wr pgPwr R.sleepReq r) r = c)) ∧
    (∃ ini : Ini, ∃ r : Nat, r < 8 ∧ MetW ini pgPwr 0x080 (fun u => p0Ok u ini = true ∧
        sleepRefusal (u.wr pgPwr R.sleepReq r) r = 0 ∧ u.vt = [])) ∧
    (∃ ini : Ini, ∃ r : Nat, r < 8 ∧ MetP ini pgPwr (fun _ => True)) ∧
    (Met (fun s => s.on pgPwr R.entering = false)) ∧
    (Met (fun s => s.on pgPwr R.entering = true ∧ s.pw.back = false ∧ s.pw.target = 3)) ∧
    (Met (fun s => s.on pgPwr R.entering = true ∧ s.pw.back = true)) ∧
    (∃ src : Nat, Met (fun s => wakeActs s src = true)) ∧
    (∃ src : Nat, Met (fun s => wakeActs s src = false)) ∧
    (Met (fun s => s.on pgPwr R.exiting = false)) ∧
    (Met (fun s => s.on pgPwr R.exiting = true ∧ (s.rd pgPwr R.rung = 1 ∨ s.rd pgPwr R.rung = 2))) ∧
    (Met (fun s => s.on pgPwr R.exiting = true ∧ s.rd pgPwr R.rung = 3)) ∧
    (Met (fun s => s.on pgPwr R.exiting = true ∧ s.rd pgPwr R.rung = 4)) ∧
    (Met (fun s => s.on pgPwr R.exiting = true ∧ s.rd pgPwr R.rung = 5 ∧
        s.pw.since + usTicks (s.rd pgPwr R.railWait) ≤ s.time)) ∧
    (∃ v : Int, -400 ≤ v ∧ v ≤ 1200 ∧ Met (fun s => s.time % 100000 = 0 ∧ s.pw.upd ≠ s.time + 1 ∧ s.rst.ph < 3 ∧
        s.rd pgPwr R.rung ≤ 3 ∧ s.rd pgPwr R.sensFail = 0 ∧ s.rd pgPwr R.thermLevel < 8)) := by
  refine ⟨?_, ?_, ?_, ?_, ?_, ?_, ?_, ?_, ?_, ?_, ?_, ?_, ?_, ?_, ?_, ?_, ?_, ?_, ?_⟩
  · exact (⟨{ R0.wr pgPwr R.autoFloor 1 with pw := { R0.pw with idle := 1000000000000 } }, (by decide +kernel)⟩)
  · exact (⟨{ (R0.wr pgPwr R.autoFloor 2).wr pgPwr R.rung 1 with pw := { R0.pw with idle := 1000000000000 } },
        (by decide +kernel)⟩)
  · exact (⟨R0.wr pgPwr R.rung 2, (by decide +kernel)⟩)
  · exact (⟨R0, (by decide +kernel)⟩)
  · exact (⟨.dap, 5, (by decide +kernel), ⟨R0, reached_of (by decide +kernel), (by decide +kernel)⟩⟩)
  · exact (⟨.dap, 6, 7, (by decide +kernel), (by decide +kernel), ⟨R0, reached_of (by decide +kernel),
        (by decide +kernel)⟩⟩)
  · exact (⟨.dap, 5, (by decide +kernel), ⟨R0, reached_of (by decide +kernel), (by decide +kernel)⟩⟩)
  · exact (⟨.dap, 5, (by decide +kernel), ⟨R0, readable_of (by decide +kernel), (by decide +kernel)⟩⟩)
  · exact (⟨R0, (by decide +kernel)⟩)
  · exact (⟨{ R0.wr pgPwr R.entering 1 with pw := { R0.pw with target := 3 } }, (by decide +kernel)⟩)
  · exact (⟨{ R0.wr pgPwr R.entering 1 with pw := { R0.pw with target := 3, back := true } }, (by decide +kernel)⟩)
  · exact (⟨1, ⟨(R0.wr pgPwr R.wakeEn 2).wr pgPwr R.rung 3, (by decide +kernel)⟩⟩)
  · exact (⟨0, ⟨R0, (by decide +kernel)⟩⟩)
  · exact (⟨R0, (by decide +kernel)⟩)
  · exact (⟨(R0.wr pgPwr R.exiting 1).wr pgPwr R.rung 2, (by decide +kernel)⟩)
  · exact (⟨(R0.wr pgPwr R.exiting 1).wr pgPwr R.rung 3, (by decide +kernel)⟩)
  · exact (⟨(R0.wr pgPwr R.exiting 1).wr pgPwr R.rung 4, (by decide +kernel)⟩)
  · exact (⟨{ (R0.wr pgPwr R.exiting 1).wr pgPwr R.rung 5 with time := 1000000000000 }, (by decide +kernel)⟩)
  · exact (⟨1200, (by decide +kernel), (by decide +kernel), ⟨R0, (by decide +kernel)⟩⟩)

/-- The hypotheses of `Obligations.ResetsAndBoot` can be met, clause by clause. -/
theorem wit_ResetsAndBoot :
    (Met (fun s => s.rst.ph = 4)) ∧
    (∃ ini : Ini, ∃ key : Nat, MetW ini pgRst 0x080 (fun _ => key % 256 = 0xA5)) ∧
    (∃ ini : Ini, ∃ key : Nat, MetW ini pgRst 0x080 (fun _ => key % 256 ≠ 0xA5)) ∧
    (∃ ini : Ini, MetW ini pgRst 0x09C (fun u => u.rst.recov = true)) ∧
    (Met (fun s => s.rst.ph = 0 ∧ s.rd pgPwr R.rung < 4)) ∧
    (Met (fun s => s.rst.ph ≠ 0)) ∧
    (Met (fun s => s.rst.ph = 1 ∧ s.rst.reqAt + usTicks 10 ≤ s.time)) ∧
    (Met (fun s => s.rst.ph = 2 ∧ s.rst.reqAt + usTicks 20 ≤ s.time)) ∧
    (Met (fun s => s.rst.ph = 3)) ∧
    (Met (fun s => s.rst.ph = 0 ∧ s.rst.booted = true ∧ s.on pgRst R.romDone = false ∧ s.on pgRst R.bootFail = false)) ∧
    (Met (fun s => s.on pgRst R.starting = true ∧ s.on pgRst R.romDone = true ∧ s.isl.kicked = true ∧ s.rst.ph = 0 ∧
        (s.isl.rotSince = true ∨ s.on pgChk R.rotEn = false) ∧ ∀ l, l < 4 → s.lpc l ≠ lpTraining ∧
        s.lpc l ≠ lpFilling)) ∧
    (Met (fun s => romReady s = false)) ∧
    (Met (fun s => romReady s = true ∧ s.rd pgRst R.bootMode = 0)) ∧
    (Met (fun s => romReady s = true ∧ s.rd pgRst R.bootMode = 3)) ∧
    (Met (fun s => romReady s = true ∧ s.rd pgRst R.bootMode = 2 ∧ s.rd pgRst R.bootStep ≠ 3)) := by
  refine ⟨?_, ?_, ?_, ?_, ?_, ?_, ?_, ?_, ?_, ?_, ?_, ?_, ?_, ?_, ?_⟩
  · exact (⟨{ R0 with rst := { R0.rst with ph := 4 } }, (by decide +kernel)⟩)
  · exact (⟨.dap, 0xA5, ⟨R0, reached_of (by decide +kernel), (by decide +kernel)⟩⟩)
  · exact (⟨.dap, 0, ⟨R0, reached_of (by decide +kernel), (by decide +kernel)⟩⟩)
  · exact (⟨.dap, ⟨{ R0 with rst := { R0.rst with recov := true } }, reached_of (by decide +kernel),
        (by decide +kernel)⟩⟩)
  · exact (⟨R0, (by decide +kernel)⟩)
  · exact (⟨{ R0 with rst := { R0.rst with ph := 1 } }, (by decide +kernel)⟩)
  · exact (⟨{ R0 with rst := { R0.rst with ph := 1 }, time := 1000 }, (by decide +kernel)⟩)
  · exact (⟨{ R0 with rst := { R0.rst with ph := 2 }, time := 2000, vt := [(65535, { st := vFinal })] },
        (by decide +kernel)⟩)
  · exact (⟨{ R0.wr (pgLpc 3) R.lpcState lpSelfRefresh with rst := { R0.rst with ph := 3 } }, (by decide +kernel)⟩)
  · exact (⟨{ R0 with rst := { R0.rst with booted := true } }, (by decide +kernel)⟩)
  · exact (⟨{ (R0.wr pgRst R.romDone 1).wr pgRst R.starting 1 with isl :=
        { R0.isl with kicked := true, rotSince := true } }, (by decide +kernel)⟩)
  · exact (⟨R0.wr pgRst R.romDone 1, (by decide +kernel)⟩)
  · exact (⟨R0, (by decide +kernel)⟩)
  · exact (⟨R0.wr pgRst R.bootMode 3, (by decide +kernel)⟩)
  · exact (⟨R0.wr pgRst R.bootMode 2, (by decide +kernel)⟩)

end Tests
end

section
/-! PROOFS. Register pages: a write of PAGE_CTRL.ENABLE (R37, R38, R43). -/
namespace Sys2Proof.Machine
open Sys2Proof

/-- What an ENABLE write that reaches its page answers, whatever the page's state. -/
theorem exec_enable_reached {s : State} {ini : Ini} {p : Nat} (h : Reached s ini p 0x00C) (on : Bool) :
    exec (.enable ini p on) s = .next (writeEnable (admitted s ini) p on) :=
  congrArg Host.Outcome.next (regRow_reached h fun u => writeEnable u p on)

/-- FENCED is neither SELFTEST nor RESETTING, so the write that would enable the page reaches R38's case (R37). -/
theorem writeEnable_true_of_fenced {u : State} {p : Nat} (h : u.rd p R.pstate = psFenced) :
    writeEnable u p true = u := by
  have notHeld : ¬(u.rd p R.pstate = psSelftest ∨ u.rd p R.pstate = psResetting) := by
    rw [h]; decide
  exact (if_neg notHeld).trans (if_pos ⟨h, rfl⟩)

/-- Settles O3: a write that reaches the page runs `writeEnable`, which leaves a FENCED page as it is. -/
theorem fencedIgnoresEnable : Obligations.FencedIgnoresEnable := by
  intro ini p s reached fenced
  rw [exec_enable_reached reached, writeEnable_true_of_fenced fenced]

end Sys2Proof.Machine
end

section
/-! PROOFS. What the shared operations leave of the registers of the monitor page beyond its header, and of the compositor:
everything but the bits of EVT. -/
namespace Sys2Proof.Machine
open Sys2Proof

/-- The cell lies on the monitor page, beyond the common header (R34, R478). -/
def MonBody (c : Nat) : Prop := pgMon * 1048576 + 1024 ≤ c ∧ c < (pgMon + 1) * 1048576

/-- Cell c and the compositor are as before. -/
structure Spares (c : Nat) (s t : State) : Prop where
  cell : sfind t.regs c = sfind s.regs c
  disp : t.disp = s.disp

variable {c : Nat}

theorem Spares.refl (s : State) : Spares c s s := ⟨rfl, rfl⟩

theorem Spares.trans {s t u : State} (h : Spares c s t) (k : Spares c t u) : Spares c s u :=
  ⟨k.cell.trans h.cell, k.disp.trans h.disp⟩

/-- An update of other fields of the state. -/
theorem Spares.same {s t : State} (hr : t.regs = s.regs := by rfl) (hd : t.disp = s.disp := by rfl) : Spares c s t :=
  ⟨by rw [hr], hd⟩

theorem Spares.ite {q : Prop} [Decidable q] {s t u : State} (h : Spares c s t) (k : Spares c s u) :
    Spares c s (if q then t else u) := by
  split
  · exact h
  · exact k

theorem Spares.foldl {α : Type} (f : State → α → State) (l : List α) (h : ∀ a ∈ l, ∀ s, Spares c s (f s a)) (s : State) :
    Spares c s (l.foldl f s) := by
  induction l generalizing s with
  | nil => exact .refl s
  | cons a t ih => exact (h a List.mem_cons_self s).trans (ih (fun b hb => h b (List.mem_cons_of_mem _ hb)) _)

theorem spares_wr {p i : Nat} {f : Fld} (h : c ≠ cellKey p f i) (s : State) (v : Nat) : Spares c s (s.wr p f v i) :=
  ⟨State.wr_cell _ _ _ _ _ h, rfl⟩

section
variable (hc : MonBody c)
include hc

/-- A header field of any page lies before the cell. -/
theorem spares_wr_header {i : Nat} {f : Fld} (hf : fldPos f i < 1024) (s : State) (p v : Nat) :
    Spares c s (s.wr p f v i) := by
  refine spares_wr ?_ s v
  unfold MonBody at hc
  unfold cellKey
  omega

/-- A field of another page has another cell. -/
theorem spares_wr_page {p i : Nat} {f : Fld} (hp : p ≠ pgMon) (hf : fldPos f i < 1048576) (s : State) (v : Nat) :
    Spares c s (s.wr p f v i) := by
  refine spares_wr ?_ s v
  unfold MonBody at hc
  unfold cellKey
  omega

theorem spares_perf (s : State) (p code n : Nat) : Spares c s (s.perf p code n) := by
  have counter (k : Nat) (hk : k ∈ [0, 1, 2, 3]) : fldPos R.perf k < 1024 := by
    revert k; decide
  have add (k : Nat) (hk : k ∈ [0, 1, 2, 3]) (u : State) : Spares c u (perfAdd u p k n) := by
    have count := spares_wr_header hc (counter k hk) u p (u.rd p R.perf k + n)
    exact .ite count (count.trans (spares_wr_header hc (by decide) _ p _))
  unfold State.perf
  exact .ite (.refl s) (.foldl _ _ (fun k hk u => .ite (add k hk u) (.refl u)) s)

theorem spares_flag (s : State) (p b : Nat) : Spares c s (s.flag p b) := by
  have header {f : Fld} (hf : fldPos f 0 < 1024) (u : State) (v : Nat) : Spares c u (u.wr p f v) :=
    spares_wr_header hc hf u p v
  have first : Spares c s ((s.wr p R.errFirstBit b).wr p R.errFirstValid 1) :=
    (header (by decide) _ _).trans (header (by decide) _ _)
  have report (u : State) (v : Nat) : Spares c u ((u.wr p R.pageErr v).perf p 0x0B) :=
    (header (by decide) _ _).trans (spares_perf hc ..)
  unfold State.flag
  exact .ite (.refl s) ((Spares.ite first (.refl s)).trans ((report _ _).trans .same))

theorem spares_raise (s : State) (p b : Nat) : Spares c s (s.raise p b) := by
  have disarm : Spares c s (s.wr p R.injArm 0) := spares_wr_header hc (by decide) s p 0
  have take : Spares c s (injectTake s p b) := disarm.trans .same
  have injected (u : State) : Spares c u (u.raiseI p b true) :=
    ((spares_flag hc u p b).trans (spares_flag hc _ p eInjected)).trans .same
  exact .ite (take.trans (injected _)) (spares_flag hc s p b)

theorem spares_log (s : State) (r : LogRec) (inc : Nat) : Spares c s (s.log r inc) := by
  have number : Spares c s s.newInc.2 := spares_wr_page hc (by decide) (by decide) s _
  unfold State.log State.logI
  split
  · exact number.trans .same
  · exact .same

theorem spares_msix (s : State) (n v : Nat) : Spares c s (s.msix n v) := by
  have page : pgHq n ≠ pgMon := by unfold pgHq pgMon; omega
  exact .ite (spares_wr_page hc page (by decide) s _) .same

theorem spares_semWatch (s : State) (n : Nat) : Spares c s (semWatch s n) := by
  have wake (u : State) (k : Nat) (hk : k < 8) : Spares c u (coreWake u k) := by
    have page : pgCc k ≠ pgMon := by unfold pgCc pgMon; omega
    exact .ite (spares_wr_page hc page (by decide) u _) (.refl u)
  exact .foldl _ _ (fun k hk u => .ite (Spares.trans .same (wake _ k (List.mem_range.1 hk))) (.refl u)) s

theorem spares_semPostB (s : State) (n : Nat) : Spares c s (s.semPostB n).2 := by
  unfold State.semPostB
  extract_lets
  split <;> dsimp only
  · exact ((spares_wr_page hc (by decide) (by decide) s _).trans (spares_raise hc _ pgFgs 8)).trans (spares_log hc _ _ 0)
  · exact Spares.trans .same (spares_semWatch hc _ n)

/-- An operation that reaches its target does at most what it does there (R371). -/
theorem spares_deliver (s : State) (init part target seq : Nat) {f : State → Nat × State} (h : ∀ u, Spares c u (f u).2) :
    Spares c s (s.deliver init part target seq f).2.2 := by
  have count {g : Fld} (hg : fldPos g 0 < 1048576) (b : Nat) : Spares c s ((s.bump pgFab g).raise pgFab b) :=
    (spares_wr_page hc (by decide) hg s _).trans (spares_raise hc _ pgFab b)
  unfold State.deliver
  dsimp only
  split
  case isTrue => exact (h s).trans .same
  case isFalse =>
    split
    · exact count (by decide) 10
    · exact (count (by decide) 9).trans (spares_log hc _ _ 0)

theorem spares_semPost (s : State) (init part n : Nat) : Spares c s (s.semPost init part n) := by
  unfold State.semPost State.semPostI State.once
  dsimp only
  refine Spares.trans ?_ (spares_deliver hc _ init part pgFgs _ fun u => spares_semPostB hc u n)
  split
  · exact Spares.trans .same (spares_perf hc _ _ 0x07 1)
  · exact .same

/-- An event of the compositor touches its bit of EVT, and what its message and its post touch (R301). -/
theorem spares_event_mon (he : c ≠ cellKey pgMon R.monEvt 0) (s : State) (b : Nat) : Spares c s (s.event pgMon evMon b) := by
  have mark : Spares c s (s.wrBit pgMon evMon.evt b true) := spares_wr he s _
  have send (u : State) : Spares c u (evtSend u pgMon evMon) := by
    have message : Spares c u (if u.on pgMon evMon.irqEn then u.msix (u.ownerOf pgMon) (u.rd pgMon evMon.vec) else u) :=
      .ite (spares_msix hc u _ _) (.refl u)
    exact .ite (message.trans (spares_semPost hc _ _ _ _)) message
  exact .ite (.refl s) (.ite (mark.trans (send _)) mark)

end

end Sys2Proof.Machine
end

section
/-! PROOFS. The start of the timing generator (R471): nothing of a latch point but a stop that waits takes RUN or the
running generator back. -/
namespace Sys2Proof.Machine
open Sys2Proof

/-- RUN reads as before, and the generator runs or stands as before. -/
structure RunKept (s t : State) : Prop where
  run : t.on pgMon R.monRun = s.on pgMon R.monRun
  gen : t.disp.gen = s.disp.gen

theorem RunKept.refl (s : State) : RunKept s s := ⟨rfl, rfl⟩

theorem RunKept.trans {s t u : State} (h : RunKept s t) (k : RunKept t u) : RunKept s u :=
  ⟨k.run.trans h.run, k.gen.trans h.gen⟩

/-- An update of other parts of the state or of the compositor. -/
theorem RunKept.same {s t : State} (hr : t.regs = s.regs := by rfl) (hg : t.disp.gen = s.disp.gen := by rfl) :
    RunKept s t :=
  ⟨by rw [State.on, State.rd, hr]; rfl, hg⟩

theorem RunKept.ite {q : Prop} [Decidable q] {s t u : State} (h : RunKept s t) (k : RunKept s u) :
    RunKept s (if q then t else u) := by
  split
  · exact h
  · exact k

theorem RunKept.foldl {α : Type} (f : State → α → State) (h : ∀ s a, RunKept s (f s a)) (l : List α) (s : State) :
    RunKept s (l.foldl f s) := by
  induction l generalizing s with
  | nil => exact .refl s
  | cons a t ih => exact (h s a).trans (ih _)

theorem Spares.runKept {s t : State} (h : Spares (cellKey pgMon R.monRun 0) s t) : RunKept s t :=
  ⟨by rw [State.on, State.rd, sget, h.cell]; rfl, by rw [h.disp]⟩

/-- RUN lies beyond the header of the monitor page. -/
theorem monBody_monRun : MonBody (cellKey pgMon R.monRun 0) := by
  unfold MonBody; decide

/-- Whatever its index, a field in a later word than MON_CTRL lies beyond RUN. -/
theorem runKept_wr_beyond {f : Fld} (ho : R.monRun.off < f.off) (hw : f.win = false) (s : State) (v i : Nat) :
    RunKept s (s.wr pgMon f v i) := by
  refine (spares_wr (cellKey_ne_pos _ ?_) s v).runKept
  have run : fldPos R.monRun 0 = R.monRun.off * 8 := by decide
  rw [run, fldPos, hw]
  simp only [Bool.false_eq_true, if_false]
  omega

theorem runKept_event (s : State) (b : Nat) : RunKept s (s.event pgMon evMon b) :=
  (spares_event_mon monBody_monRun (by decide) s b).runKept

theorem runKept_perf (s : State) (code n : Nat) : RunKept s (s.perf pgMon code n) :=
  (spares_perf monBody_monRun s pgMon code n).runKept

theorem runKept_setLink (s : State) (v : Nat) : RunKept s (s.setLink v) :=
  (spares_wr_page monBody_monRun (by decide) (by decide) s v).runKept

theorem runKept_settle (s : State) (busy : Bool) : RunKept s (s.settle pgMon busy) := by
  have state (v : Nat) : RunKept s (s.wr pgMon R.pstate v) :=
    (spares_wr_header monBody_monRun (by decide) s pgMon v).runKept
  exact .ite (state _) (.ite (state _) (.refl s))

theorem runKept_applyTiming (s : State) : RunKept s (applyTiming s) := by
  unfold applyTiming
  extract_lets _ _ _ taken _ _ _ locking
  have take : RunKept s taken :=
    (RunKept.trans .same (spares_wr (by decide) _ 0).runKept).trans (runKept_wr_beyond (by decide) rfl _ _ 0)
  have lock : RunKept s locking := .ite (take.trans .same) take
  exact .ite (lock.trans (runKept_setLink ..)) (.ite (lock.trans (runKept_setLink ..)) lock)

theorem runKept_setPlSlot (s : State) (k n v : Nat) : RunKept s (s.setPlSlot k n v) := by
  have beyond : R.monRun.off < (slotFld n).off ∧ (slotFld n).win = false := by
    unfold slotFld
    split_ifs <;> decide
  exact runKept_wr_beyond beyond.1 beyond.2 s v k

theorem runKept_freeSlots (s : State) (k : Nat) (test : Nat → Bool) : RunKept s (freeSlots s k test) :=
  (RunKept.foldl _ (fun u n => runKept_setPlSlot u k n slFree) _ s).trans (runKept_wr_beyond (by decide) rfl _ _ k)

theorem runKept_planeMiss (s : State) (k : Nat) : RunKept s (planeMiss s k) := by
  unfold planeMiss
  exact (runKept_wr_beyond (by decide) rfl s _ k).trans (runKept_event ..)

theorem runKept_latchPlane (s : State) (k : Nat) : RunKept s (latchPlane s k) := by
  unfold latchPlane
  extract_lets l _ erased
  have freed (test : Nat → Bool) : RunKept s (freeSlots erased k test) :=
    RunKept.trans .same (runKept_freeSlots erased k test)
  refine .ite (freed _) ?_
  split
  case h_1 n _ =>
    extract_lets shown
    have shows : RunKept s shown := (freed _).trans (runKept_setPlSlot ..)
    exact (shows.trans (runKept_wr_beyond (by decide) rfl _ _ k)).trans (runKept_event ..)
  case h_2 => exact .ite ((freed _).trans (runKept_wr_beyond (by decide) rfl _ _ k)) ((freed _).trans (runKept_planeMiss ..))

/-- A latch point at which no stop waits leaves the generator running (R463, R471). -/
theorem runKept_latchPoint {s : State} (hrun : s.on pgMon R.monRun = true) : RunKept s (latchPoint s) := by
  unfold latchPoint
  extract_lets counted resumed _ begun timed latched
  have count : RunKept s counted :=
    ((runKept_wr_beyond (by decide) rfl s _ 0).trans (runKept_event ..)).trans (runKept_perf ..)
  have resume : RunKept s resumed := .ite (count.trans (runKept_setLink ..)) count
  have begins : RunKept s begun := resume.trans .same
  have time : RunKept s timed := .ite (begins.trans (runKept_applyTiming _)) begins
  have latch : RunKept s latched := time.trans (.foldl _ runKept_latchPlane _ _)
  rw [if_pos (latch.run.trans hrun)]
  exact latch

/-- RUN is set and the generator runs, before the latch point of the start (R471). -/
def generatorOn (u : State) : State :=
  { u.wr pgMon R.monRun 1 with disp := { u.disp with gen := true, resume := false } }

theorem on_monRun_wr_one (u : State) : (u.wr pgMon R.monRun 1).on pgMon R.monRun = true := by
  rw [State.on, State.rd_wr_same]; decide

theorem generatorOn_monRun (u : State) : (generatorOn u).on pgMon R.monRun = true := on_monRun_wr_one u

theorem generatorOn_gen (u : State) : (generatorOn u).disp.gen = true := rfl

/-- What an accepted start of a stopped generator leaves: a latch point, after which the link goes to video (R470, R471). -/
def startGenerator (u : State) : State :=
  let t := latchPoint (generatorOn u)
  (if t.disp.pll = false ∧ t.link = dpIdle then t.setLink dpVideo else t).settle pgMon true

theorem runKept_startGenerator (u : State) : RunKept (generatorOn u) (startGenerator u) := by
  have latch : RunKept (generatorOn u) (latchPoint (generatorOn u)) := runKept_latchPoint (generatorOn_monRun u)
  exact (RunKept.ite (latch.trans (runKept_setLink ..)) latch).trans (runKept_settle _ true)

/-- The effect of a write of RUN on the page it finds, as `execMonRun` gives it. -/
def writeRun (on : Bool) (u : State) : State :=
  if on = false then u.wr pgMon R.monRun 0
  else if u.on pgMon R.monRun then u
  else if u.on pgMon R.tcommit = false ∧ u.disp.work.ok = false then u.prog pgMon
  else if u.disp.gen then u.wr pgMon R.monRun 1
  else startGenerator u

theorem exec_monRun_reached {s : State} {ini : Ini} (h : Reached s ini pgMon 0x080) (on : Bool) :
    exec (.monRun ini on) s = .next (writeRun on (admitted s ini)) := by
  have write := regRow_reached h (writeRun on)
  unfold writeRun startGenerator generatorOn at write ⊢
  exact congrArg Host.Outcome.next write

theorem writeRun_false (u : State) : writeRun false u = u.wr pgMon R.monRun 0 := rfl

section
variable {u : State} (stopped : u.on pgMon R.monRun = false)
include stopped

/-- Neither a pending commit nor a working set that keeps R469: the start is refused. -/
theorem writeRun_refused (ht : u.on pgMon R.tcommit = false) (hw : u.disp.work.ok = false) :
    writeRun true u = u.prog pgMon := by
  simp [writeRun, stopped, ht, hw]

theorem writeRun_accepted (h : u.on pgMon R.tcommit = true ∨ u.disp.work.ok = true) :
    writeRun true u = if u.disp.gen then u.wr pgMon R.monRun 1 else startGenerator u := by
  have accepted : ¬(u.on pgMon R.tcommit = false ∧ u.disp.work.ok = false) := by
    rintro ⟨ht, hw⟩
    simp [ht, hw] at h
  simp [writeRun, stopped, accepted]

theorem writeRun_starts (h : u.on pgMon R.tcommit = true ∨ u.disp.work.ok = true) (idle : u.disp.gen = false) :
    writeRun true u = startGenerator u := by
  rw [writeRun_accepted stopped h, idle]
  exact if_neg Bool.false_ne_true

/-- An accepted start leaves RUN set and the generator running, whether it had to start or was yet to stop. -/
theorem writeRun_accepted_runs (h : u.on pgMon R.tcommit = true ∨ u.disp.work.ok = true) :
    (writeRun true u).on pgMon R.monRun = true ∧ (writeRun true u).disp.gen = true := by
  rw [writeRun_accepted stopped h]
  split
  case isTrue running => exact ⟨on_monRun_wr_one u, running⟩
  case isFalse =>
    have kept := runKept_startGenerator u
    exact ⟨kept.run.trans (generatorOn_monRun u), kept.gen.trans (generatorOn_gen u)⟩

end

/-- Settles O49: RUN goes by `writeRun`, whose accepted start keeps RUN and the generator through its latch point. -/
theorem generatorStart : Obligations.GeneratorStart := by
  refine ⟨rfl, by decide, fun ini => ⟨?runs, ?starts, ?refused, ?stops⟩⟩
  case runs =>
    intro s reached ⟨stopped, accepted⟩
    exact ⟨_, exec_monRun_reached reached true, writeRun_accepted_runs stopped accepted⟩
  case starts =>
    intro s reached ⟨stopped, accepted, idle⟩
    rw [exec_monRun_reached reached, writeRun_starts stopped accepted idle, startGenerator, generatorOn]
  case refused =>
    intro s reached ⟨stopped, commit, work⟩
    rw [exec_monRun_reached reached, writeRun_refused stopped commit work]
  case stops =>
    intro s reached _
    exact exec_monRun_reached reached false

end Sys2Proof.Machine
end

section
/-! PROOFS. Single bits of a number, and PAGE_ERR of any page: a flag sets its bit and leaves the other bits (R39, R42). -/
namespace Sys2Proof.Machine
open Sys2Proof

theorem bitOf_eq_testBit (x i : Nat) : bitOf x i = x.testBit i :=
  (Nat.testBit_eq_decide_div_mod_eq).symm

theorem bitOf_mod_two_pow {w k : Nat} (x : Nat) (hk : k < w) : bitOf (x % 2 ^ w) k = bitOf x k := by
  simp [bitOf_eq_testBit, hk]

/-- Adding a power of two whose bit is clear carries nowhere. -/
theorem bitOf_add_two_pow {x i : Nat} (clear : bitOf x i = false) (j : Nat) :
    bitOf (x + 2 ^ i) j = (bitOf x j || decide (j = i)) := by
  simp only [bitOf_eq_testBit] at *
  rcases lt_trichotomy j i with below | rfl | above
  · rw [Nat.add_comm, Nat.testBit_two_pow_add_gt below]
    simp [below.ne]
  · rw [Nat.add_comm, Nat.testBit_two_pow_add_eq]
    simp [clear]
  · obtain ⟨k, rfl⟩ : ∃ k, j = k + 1 + i := ⟨j - i - 1, by omega⟩
    have even : x / 2 ^ i % 2 = 0 := by
      rw [Nat.testBit_eq_decide_div_mod_eq, decide_eq_false_iff_not] at clear
      omega
    have half : (x / 2 ^ i + 1) / 2 = x / 2 ^ i / 2 := by omega
    have high : (x + 2 ^ i).testBit (k + 1 + i) = x.testBit (k + 1 + i) := by
      rw [Nat.testBit_add _ (k + 1) i, Nat.testBit_add _ (k + 1) i, Nat.add_div_right _ i.two_pow_pos,
        Nat.testBit_add_one, Nat.testBit_add_one, half]
    simp [high]

theorem bitOf_setBit (x i j : Nat) : bitOf (setBit x i) j = (bitOf x j || decide (j = i)) := by
  unfold setBit
  split
  case isTrue set =>
    by_cases same : j = i
    · simp [same, set]
    · simp [same]
  case isFalse clear => exact bitOf_add_two_pow (Bool.eq_false_iff.2 clear) j

/-- Setting the bits of a list that pass a test sets these and no other bit. -/
theorem bitOf_foldl_setBit (q : Nat → Prop) [DecidablePred q] (l : List Nat) (x n : Nat) :
    bitOf (l.foldl (fun m i => if q i then setBit m i else m) x) n = (bitOf x n || decide (n ∈ l ∧ q n)) := by
  induction l generalizing x with
  | nil => simp
  | cons a t ih =>
    rw [List.foldl_cons, ih]
    by_cases here : n = a
    · subst here
      by_cases hq : q n <;> simp [hq, bitOf_setBit]
    · split <;> simp [here, bitOf_setBit]

variable {s t : State} {p : Nat}

theorem Spares.rd {f : Fld} {i : Nat} (h : Spares (cellKey p f i) s t) : t.rd p f i = s.rd p f i := by
  rw [State.rd, sget, h.cell]; rfl

/-- Another field of the page than PAGE_ERR leaves PAGE_ERR. -/
theorem spares_wr_beside {f : Fld} {i : Nat} (hf : fldPos R.pageErr 0 ≠ fldPos f i) (s : State) (v : Nat) :
    Spares (cellKey p R.pageErr 0) s (s.wr p f v i) :=
  spares_wr (cellKey_ne_pos p hf) s v

theorem spares_perf_pageErr (s : State) (p code n : Nat) : Spares (cellKey p R.pageErr 0) s (s.perf p code n) := by
  have counter (k : Nat) (hk : k ∈ [0, 1, 2, 3]) : fldPos R.pageErr 0 ≠ fldPos R.perf k := by
    revert k; decide
  have add (k : Nat) (hk : k ∈ [0, 1, 2, 3]) (u : State) : Spares (cellKey p R.pageErr 0) u (perfAdd u p k n) := by
    have count := spares_wr_beside (p := p) (counter k hk) u (u.rd p R.perf k + n)
    exact .ite count (count.trans (spares_wr_beside (by decide) _ _))
  exact .ite (.refl s) (.foldl _ _ (fun k hk u => .ite (add k hk u) (.refl u)) s)

/-- A flag sets its own bit of PAGE_ERR and no other (R39). -/
theorem bitOf_pageErr_flag (s : State) (p b : Nat) {k : Nat} (hk : k < 32) :
    bitOf ((s.flag p b).rd p R.pageErr) k = (bitOf (s.rd p R.pageErr) k || decide (k = b)) := by
  unfold State.flag
  extract_lets e first marked
  split
  case isTrue set =>
    by_cases same : k = b
    · simpa [same] using set
    · simp [same]
  case isFalse =>
    have mark : (marked.perf p 0x0B).rd p R.pageErr = setBit e b % 2 ^ R.pageErr.w :=
      (spares_perf_pageErr marked p 0x0B 1).rd.trans (State.rd_wr_same ..)
    calc bitOf ((marked.perf p 0x0B).rd p R.pageErr) k
        = bitOf (setBit e b) k := by rw [mark]; exact bitOf_mod_two_pow _ hk
      _ = (bitOf e k || decide (k = b)) := bitOf_setBit ..

theorem bitOf_pageErr_raiseI (s : State) (p : Nat) {b : Nat} (hb : b < 32) (inj : Bool) :
    bitOf ((s.raiseI p b inj).rd p R.pageErr) b = true := by
  cases inj with
  | false =>
    show bitOf ((s.flag p b).rd p R.pageErr) b = true
    simp [bitOf_pageErr_flag s p b hb]
  | true =>
    show bitOf (((s.flag p b).flag p eInjected).rd p R.pageErr) b = true
    simp [bitOf_pageErr_flag _ p _ hb]

/-- Whether an injection fires or not, the flag that is raised sets (R42). -/
theorem bitOf_pageErr_raise (s : State) (p : Nat) {b : Nat} (hb : b < 32) :
    bitOf ((s.raise p b).rd p R.pageErr) b = true := by
  unfold State.raise
  split
  case isTrue => exact bitOf_pageErr_raiseI _ p hb true
  case isFalse => exact bitOf_pageErr_raiseI s p hb false

end Sys2Proof.Machine
end

section
/-! PROOFS. The anti-rollback fuses: their count, the fault of a gap, an advance and the read at boot (R547, R548, R598). -/
namespace Sys2Proof.Machine
open Sys2Proof

/-- c is one more than the highest set bit of x below bit n, or 0 when there is none. -/
structure HighestSet (x n c : Nat) : Prop where
  le : c ≤ n
  above : ∀ i, i < n → bitOf x i = true → i < c
  top : c ≠ 0 → bitOf x (c - 1) = true

theorem HighestSet.succ {x n c : Nat} (h : HighestSet x n c) : HighestSet x (n + 1) (if bitOf x n then n + 1 else c) := by
  split
  case isTrue set => exact ⟨le_rfl, fun i hi _ => hi, fun _ => set⟩
  case isFalse clear =>
    refine ⟨h.le.trans n.le_succ, fun i hi set => ?_, h.top⟩
    have other : i ≠ n := fun same => clear (same ▸ set)
    exact h.above i (by omega) set

theorem highestSet_foldl (x n : Nat) :
    HighestSet x n ((List.range n).foldl (fun c i => if bitOf x i then i + 1 else c) 0) := by
  induction n with
  | zero => exact ⟨le_rfl, fun i hi => absurd hi i.not_lt_zero, fun h => absurd rfl h⟩
  | succ n ih =>
    rw [List.range_succ, List.foldl_append]
    exact ih.succ

/-- RB_COUNT goes over all 64 fuses (R547). -/
theorem highestSet_rbCountOf (s : State) : HighestSet s.fuses 64 (rbCountOf s) := highestSet_foldl s.fuses 64

theorem fuseFaultOf_iff (s : State) : fuseFaultOf s = true ↔ ∃ n, n < rbCountOf s ∧ bitOf s.fuses n = false := by
  have full : fuseFaultOf s = false ↔ ∀ n, n < rbCountOf s → bitOf s.fuses n = true := by
    simp [fuseFaultOf, Nat.eq_iff_testBit_eq, bitOf_eq_testBit]
  rw [← Bool.not_eq_false, full]
  simp

theorem fuseFaultOf_congr {s t : State} (h : t.fuses = s.fuses) : fuseFaultOf t = fuseFaultOf s := by
  simp only [fuseFaultOf, rbCountOf, h]

/-! ### Reading the fuses -/

/-- The fuses are read, at boot or back after an advance: a gap raises FUSE_FAULT (R547). -/
def readFuses (s : State) : State := if fuseFaultOf s then s.raise pgFus 9 else s

theorem readFuses_fuses (s : State) : (readFuses s).fuses = s.fuses :=
  (Quiet.ite (fun _ => quiet_raise s pgFus 9) (fun _ => Quiet.refl s)).fuses

theorem readFuses_flags {s : State} (gap : fuseFaultOf s = true) :
    bitOf ((readFuses s).rd pgFus R.pageErr) 9 = true := by
  rw [readFuses, if_pos gap]
  exact bitOf_pageErr_raise s pgFus (by decide)

/-! ### An advance -/

/-- The fuses after the blow of an advance (R548). -/
def blowFuses (s : State) : State :=
  { s with
    fuses := (List.range 64).foldl (fun m i => if rbCountOf s ≤ i ∧ i < s.blowTo then setBit m i else m) s.fuses
    blowTo := 0 }

theorem bitOf_blowFuses (s : State) (n : Nat) :
    bitOf (blowFuses s).fuses n = (bitOf s.fuses n || decide (rbCountOf s ≤ n ∧ n < s.blowTo ∧ n < 64)) := by
  have blown := bitOf_foldl_setBit (fun i => rbCountOf s ≤ i ∧ i < s.blowTo) (List.range 64) s.fuses n
  have order : (n ∈ List.range 64 ∧ rbCountOf s ≤ n ∧ n < s.blowTo) ↔ (rbCountOf s ≤ n ∧ n < s.blowTo ∧ n < 64) := by
    rw [List.mem_range]; tauto
  exact blown.trans (by rw [decide_eq_decide.2 order])

theorem exec_fuseBlowDone_blowing {s : State} (blowing : s.rd pgFus R.rbState = 1) :
    exec .fuseBlowDone s = .next ((readFuses (blowFuses s)).wr pgFus R.rbState 2) :=
  congrArg Host.Outcome.next (if_neg (not_not.2 blowing))

/-! ### The read at boot -/

/-- Without a flash the boot ends right after its initialisation (R598, R609). -/
theorem exec_bootRom_noFlash {s : State} (flash : Cells) (quad : Bool) (ready : romReady s = true)
    (mode : s.rd pgRst R.bootMode = 0) :
    exec (.bootRom flash false quad) s = .next (bootFailed (romInit s) bsNoFlash) := by
  show execBootRom flash false quad s = _
  simp [execBootRom, ready, mode]

/-- The steps of R598 before the fuses are read: the PLL locks and memory is initialised. -/
def romClocks (s : State) : State := ((s.wr pgClk R.pllLock 1).wr pgClk R.slowFromRef 0).wr pgSvm R.initDone 1

theorem romInit_flags {s : State} (gap : fuseFaultOf s = true) :
    bitOf ((romInit s).rd pgFus R.pageErr) 9 = true := by
  have steps : Spares (cellKey pgFus R.pageErr 0) (readFuses (romClocks s)) (romInit s) :=
    (spares_wr (by decide) _ _).trans (spares_wr (by decide) _ _)
  rw [steps.rd]
  exact readFuses_flags gap

theorem spares_bootFailed (s : State) (st : Nat) : Spares (cellKey pgFus R.pageErr 0) s (bootFailed s st) :=
  have status : Spares _ s (s.wr pgRst R.bootStatus st) := spares_wr (by decide) ..
  have fail : Spares _ s ((s.wr pgRst R.bootStatus st).wr pgRst R.bootFail 1) := status.trans (spares_wr (by decide) ..)
  fail.trans .same

/-- Settles O57: the fold over the fuses finds the highest one, and both reads of the fuses raise FUSE_FAULT at a gap. -/
theorem rollbackCount : Obligations.RollbackCount := by
  refine ⟨fun s => ?count, ?advance, ?boot⟩
  case count =>
    obtain ⟨le, above, top⟩ := highestSet_rbCountOf s
    exact ⟨le, above, top, fuseFaultOf_iff s⟩
  case advance =>
    intro s blowing
    have fuses : ((readFuses (blowFuses s)).wr pgFus R.rbState 2).fuses = (blowFuses s).fuses := readFuses_fuses _
    refine ⟨_, exec_fuseBlowDone_blowing blowing, State.rd_wr_same .., fun n => ?_, fun gap => ?_⟩
    · rw [fuses]
      exact bitOf_blowFuses s n
    · rw [fuseFaultOf_congr fuses] at gap
      rw [State.rd_wr_ne _ _ _ _ _ (by decide)]
      exact readFuses_flags gap
  case boot =>
    intro flash quad s ⟨ready, mode, gap⟩
    refine ⟨_, exec_bootRom_noFlash flash quad ready mode, ?_⟩
    show bitOf ((bootFailed (romInit s) bsNoFlash).rd pgFus R.pageErr) 9 = true
    rw [(spares_bootFailed ..).rd]
    exact romInit_flags gap

end Sys2Proof.Machine
end

section
/-! PROOFS. What every step keeps, as rules that go along the text of an operation: `h.wr.raise` says that a register write
and then a flag keep what `h` says is kept so far. -/
namespace Sys2Proof.Machine
-- Declarations are elaborated one after another: side by side, each takes a thread and its stack.
set_option Elab.async false
open Sys2Proof
set_option Elab.async false

variable {s u : State}

protected theorem Keeps.rfl : Keeps s s := .refl s

theorem Keeps.ite {c : Prop} [Decidable c] {t : State} (h : Keeps s u) (k : Keeps s t) : Keeps s (if c then u else t) := by
  split
  · exact h
  · exact k

/-- An update of other fields of the state: the kept ones are written out, so that a goal `Keeps s {u with …}` matches. -/
theorem Keeps.upd (h : Keeps s u)
    {time freeCtr snaps holds logQ logSeq lostRecs doubtQ conts notice denials reports sems semOwner fns outs
    reply vt parcels txns dedups seqs eccBad poisoned injections faultTime fbCauseTime fbSleep fbAllRaised confE
    encHist jobs toRuns intakes graphs cores tcmBad ispCtxs ispRuns tones jobSeq served current lbs elig mons
    planes pushes transits chans smvServed pqs prgs invals semIfs wds qps rereads tears linkInc pins encPos tgs
    pwms uarts i3cs vpLast disp dp fawnEnds isl fawnRun unfence attests load blowTo tap trace pw rst fencedReset
    filled} :
    Keeps s
      ⟨u.pending, time, u.regs, u.mem, freeCtr, snaps, holds, logQ, logSeq, lostRecs, doubtQ, conts, notice,
      denials, reports, sems, semOwner, fns, outs, reply, vt, parcels, txns, dedups, seqs, eccBad, poisoned,
      injections, faultTime, fbCauseTime, fbSleep, fbAllRaised, confE, encHist, jobs, toRuns, intakes, graphs,
      cores, u.tcm, tcmBad, ispCtxs, ispRuns, tones, jobSeq, served, current, lbs, elig, mons, planes, pushes,
      transits, chans, smvServed, pqs, prgs, invals, semIfs, wds, qps, rereads, tears, linkInc, pins, encPos,
      tgs, pwms, uarts, i3cs, vpLast, disp, dp, fawnEnds, isl, fawnRun, unfence, attests, load, u.fuses,
      u.rotpk, blowTo, tap, trace, pw, rst, fencedReset, filled⟩ :=
  h.trans .same

/-- The state in an answer that a case split has taken apart. -/
theorem Keeps.got {α : Type} {x : α × State} {a : α} {t : State} (h : Keeps s x.2) (e : x = (a, t) := by assumption) :
    Keeps s t := by
  subst e; exact h

theorem Keeps.got₂ {α β : Type} {x : α × β × State} {a : α} {b : β} {t : State} (h : Keeps s x.2.2)
    (e : x = (a, b, t) := by assumption) : Keeps s t := by
  subst e; exact h

theorem Keeps.got₃ {α β γ : Type} {x : α × β × γ × State} {a : α} {b : β} {c : γ} {t : State} (h : Keeps s x.2.2.2)
    (e : x = (a, b, c, t) := by assumption) : Keeps s t := by
  subst e; exact h

theorem Keeps.folded {α : Type} {f : State → α → State} {l : List α} (h : Keeps s u)
    (hf : ∀ v a, Keeps s v → Keeps s (f v a)) : Keeps s (l.foldl f u) := by
  induction l generalizing u with
  | nil => exact h
  | cons a t ih => exact ih (hf u a h)

theorem Keeps.ite₂ {α : Type} {c : Prop} [Decidable c] {x y : α × State} (h : Keeps s x.2) (k : Keeps s y.2) :
    Keeps s (if c then x else y).2 := by
  split
  · exact h
  · exact k

/-- A fold whose value carries the state beside what it collects. -/
theorem Keeps.folded₂ {α β : Type} {f : β × State → α → β × State} {l : List α} {x : β × State} (h : Keeps s x.2)
    (hf : ∀ y a, Keeps s y.2 → Keeps s (f y a).2) : Keeps s (l.foldl f x).2 := by
  induction l generalizing x with
  | nil => exact h
  | cons a t ih => exact ih (hf x a h)

theorem Keeps.folded₃ {α β γ : Type} {f : β × γ × State → α → β × γ × State} {l : List α} {x : β × γ × State}
    (h : Keeps s x.2.2) (hf : ∀ y a, Keeps s y.2.2 → Keeps s (f y a).2.2) : Keeps s (l.foldl f x).2.2 := by
  induction l generalizing x with
  | nil => exact h
  | cons a t ih => exact ih (hf x a h)

theorem Keeps.quiet {t : State} (h : Keeps s u) (q : Quiet u t) : Keeps s t := h.trans q.keeps

theorem Keeps.stored (h : Keeps s u) {a : Nat} {bs : List Byte} : Keeps s (u.store a bs) := h.trans (.store u a bs)

/-! ### The shared operations -/

section
variable (h : Keeps s u)
include h

protected theorem Keeps.wr {p : Nat} {f : Fld} {v i : Nat} : Keeps s (u.wr p f v i) := h.quiet (quiet_wr ..)
protected theorem Keeps.bump {p : Nat} {f : Fld} {n i : Nat} : Keeps s (u.bump p f n i) := h.wr
protected theorem Keeps.wrBit {p : Nat} {f : Fld} {b : Nat} {v : Bool} {i : Nat} : Keeps s (u.wrBit p f b v i) := h.wr
protected theorem Keeps.perfAdd {p k n : Nat} : Keeps s (perfAdd u p k n) := h.quiet (quiet_perfAdd ..)
protected theorem Keeps.perf {p code n : Nat} : Keeps s (u.perf p code n) := h.quiet (quiet_perf ..)
protected theorem Keeps.flag {p b : Nat} : Keeps s (u.flag p b) := h.quiet (quiet_flag ..)
protected theorem Keeps.raiseI {p b : Nat} {inj : Bool} : Keeps s (u.raiseI p b inj) := h.quiet (quiet_raiseI ..)
protected theorem Keeps.injectTake {p b : Nat} : Keeps s (injectTake u p b) := h.quiet (quiet_injectTake ..)
protected theorem Keeps.raise {p b : Nat} : Keeps s (u.raise p b) := h.quiet (quiet_raise ..)
protected theorem Keeps.prog {p : Nat} : Keeps s (u.prog p) := h.raise
protected theorem Keeps.hit {p b : Nat} {real : Bool} : Keeps s (u.hit p b real).2.2 := h.quiet (quiet_hit ..)
protected theorem Keeps.settle {p : Nat} {busy : Bool} : Keeps s (u.settle p busy) := h.quiet (quiet_settle ..)
protected theorem Keeps.newInc : Keeps s u.newInc.2 := h.quiet (quiet_newInc _)
protected theorem Keeps.logI {inc : Nat} {r : LogRec} : Keeps s (u.logI inc r).2 := h.quiet (quiet_logI ..)
protected theorem Keeps.log {r : LogRec} {inc : Nat} : Keeps s (u.log r inc) := h.quiet (quiet_log ..)
protected theorem Keeps.doubt {sc : Scope} {inc : Nat} {cont : Bool} : Keeps s (u.doubt sc inc cont) := h.quiet (quiet_doubt ..)
protected theorem Keeps.doubtInj {p b : Nat} : Keeps s (u.doubtInj p b) := h.quiet (quiet_doubtInj ..)
protected theorem Keeps.noticePairs {p : Nat} : Keeps s (noticePairs u p) := h.quiet (quiet_noticePairs ..)
protected theorem Keeps.noticeOn {p : Nat} : Keeps s (u.noticeOn p) := h.quiet (quiet_noticeOn ..)
protected theorem Keeps.msix {n v : Nat} : Keeps s (u.msix n v) := h.quiet (quiet_msix ..)
protected theorem Keeps.msixFlush {n : Nat} : Keeps s (msixFlush u n) := h.quiet (quiet_msixFlush ..)
protected theorem Keeps.semSaturated {n : Nat} : Keeps s (semSaturated u n) := h.quiet (quiet_semSaturated ..)
protected theorem Keeps.coreWake {c : Nat} : Keeps s (coreWake u c) := h.quiet (quiet_coreWake ..)
protected theorem Keeps.semWatch {n : Nat} : Keeps s (semWatch u n) := h.quiet (quiet_semWatch ..)
protected theorem Keeps.semPostB {n : Nat} : Keeps s (u.semPostB n).2 := h.quiet (quiet_semPostB ..)
protected theorem Keeps.semPost {init part n : Nat} : Keeps s (u.semPost init part n) := h.quiet (quiet_semPost ..)
protected theorem Keeps.semPostI {init part n : Nat} : Keeps s (u.semPostI init part n).2 := h.semPost
protected theorem Keeps.evtSend {p : Nat} {e : EvtRegs} : Keeps s (evtSend u p e) := h.quiet (quiet_evtSend ..)
protected theorem Keeps.event {p : Nat} {e : EvtRegs} {b : Nat} : Keeps s (u.event p e b) := h.quiet (quiet_event ..)
protected theorem Keeps.free {w : Nat} : Keeps s (u.free w).2 := h.quiet (quiet_free ..)
protected theorem Keeps.denialI {t : Tag} {op kind fw a inc : Nat} : Keeps s (denialI u t op kind fw a inc).2 := h.quiet (quiet_denialI ..)
protected theorem Keeps.denial {t : Tag} {op kind fw a inc : Nat} : Keeps s (denial u t op kind fw a inc) := h.denialI
protected theorem Keeps.denyPage {i : Ini} {p off op : Nat} : Keeps s (denyPage u i p off op) := h.quiet (quiet_denyPage ..)
protected theorem Keeps.debugTouch : Keeps s (debugTouch u) := h.quiet (quiet_debugTouch _)
protected theorem Keeps.wakeUp {src : Nat} : Keeps s (wakeUp u src) := h.quiet (quiet_wakeUp ..)
protected theorem Keeps.hostWake {i : Ini} : Keeps s (hostWake u i) := h.quiet (quiet_hostWake ..)

/-! ### What runs an operation of its caller keeps what that operation keeps -/

protected theorem Keeps.deliver {init part target seq : Nat} {f : State → Nat × State} (hf : ∀ v, Keeps v (f v).2) :
    Keeps s (u.deliver init part target seq f).2.2 :=
  h.trans (deliver_keeps u init part target seq hf)

protected theorem Keeps.once {init part target : Nat} {f : State → Nat × State} (hf : ∀ v, Keeps v (f v).2) :
    Keeps s (u.once init part target f).2 :=
  h.trans (once_keeps u init part target hf)

protected theorem Keeps.onceDo {init part target : Nat} {f : State → State} (hf : ∀ v, Keeps v (f v)) :
    Keeps s (u.onceDo init part target f) :=
  h.once hf

protected theorem Keeps.regRow {i : Ini} {p off : Nat} {k : State → State} (hk : ∀ v, Keeps v (k v)) :
    Keeps s (regRow u i p off k) :=
  h.trans (regRow_keeps u i p off hk)

protected theorem Keeps.regRow0 {i : Ini} {p off : Nat} {k : State → State} (hk : ∀ v, Keeps v (k v)) :
    Keeps s (regRow0 u i p off k) :=
  h.trans (regRow0_keeps u i p off hk)

protected theorem Keeps.readRow {i : Ini} {p off : Nat} {k : State → Nat × State} (hk : ∀ v, Keeps v (k v).2) :
    Keeps s (readRow u i p off k) :=
  h.trans (readRow_keeps u i p off hk)

protected theorem Keeps.popRow {i : Ini} {p off : Nat} {k : State → Nat × State} (hk : ∀ v, Keeps v (k v).2) :
    Keeps s (popRow u i p off k) :=
  h.readRow fun _ => (Keeps.ite Keeps.rfl.debugTouch .rfl).trans (hk _)

protected theorem Keeps.doorbell {n owner bar4 : Nat} {k : State → State} (hk : ∀ v, Keeps v (k v)) :
    Keeps s (doorbell u n owner bar4 k) :=
  h.trans (doorbell_keeps u n owner bar4 hk)

end

/-! ### Steps of a unit -/

/-- The state in which a step of a unit ends, with a value or with a status, keeps what every step must keep. -/
inductive JKeeps {α : Type} (s : State) : JR α → Prop
  | ok {a : α} {y : JS} (h : Keeps s y.s) : JKeeps s (.ok a y)
  | wait : JKeeps s .wait
  | fail {st : Nat} {y : JS} (h : Keeps s y.s) : JKeeps s (.fail st y)

section
variable {α β : Type} {x y : JS}

theorem JKeeps.done {r : JR α} {a : α} (h : JKeeps s r) (e : r = .ok a y := by assumption) : Keeps s y.s := by
  subst e
  cases h with
  | ok h => exact h

theorem JKeeps.failed {r : JR α} {st : Nat} (h : JKeeps s r) (e : r = .fail st y := by assumption) : Keeps s y.s := by
  subst e
  cases h with
  | fail h => exact h

protected theorem JKeeps.jret (h : Keeps s x.s) {a : α} : JKeeps s (jret a x) := .ok h

protected theorem JKeeps.jmod (h : Keeps s x.s) {f : Job → Job} : JKeeps s (jmod f x) := .ok h

protected theorem JKeeps.jthen {m : J α} {f : α → J β} (h : JKeeps s (m x)) (hf : ∀ a y, Keeps s y.s → JKeeps s (f a y)) :
    JKeeps s (jthen m f x) := by
  unfold jthen
  split
  · exact hf _ _ h.done
  · exact .wait
  · exact .fail h.failed

protected theorem JKeeps.jmap {f : α → J β} {l : List α} (h : Keeps s x.s) (hf : ∀ a y, Keeps s y.s → JKeeps s (f a y)) :
    JKeeps s (jmap f l x) := by
  induction l generalizing x with
  | nil => exact .jret h
  | cons a l ih => exact .jthen (hf a x h) fun _ _ h => .jthen (ih h) fun _ _ h => .jret h

protected theorem JKeeps.jfold {f : β → α → J β} {l : List α} {b : β} (h : Keeps s x.s)
    (hf : ∀ b a y, Keeps s y.s → JKeeps s (f b a y)) : JKeeps s (jfold f l b x) := by
  induction l generalizing x b with
  | nil => exact .jret h
  | cons a l ih => exact .jthen (hf b a x h) fun _ _ h => ih h

/-- A unit's step that keeps what every step must keep, whatever job and state it starts from. -/
def JSound (s : State) (m : J α) : Prop := ∀ x : JS, Keeps s x.s → JKeeps s (m x)

theorem JSound.run {m : J α} (hm : JSound s m) (h : Keeps s x.s) : JKeeps s (m x) := hm x h

end

/-- The state that a command answers keeps what every step must keep. -/
def Kept (s : State) : Result → Prop
  | .next t => Keeps s t
  | _ => True

theorem Kept.next {t : State} (h : Keeps s t) : Kept s (.next t) := h

end Sys2Proof.Machine
end

section
/-! PROOFS. What every operation keeps, in the order of the model's files: one rule per operation, each put together from
the rules of the operations it is made of. -/
namespace Sys2Proof.Machine
set_option Elab.async false
open Sys2Proof
set_option Elab.async false

variable {s u : State} {x : JS}

/-! ### Ops -/

protected theorem Keeps.found (h : Keeps s u) {p bit : Nat} {real : Bool} : Keeps s (u.found p bit real).2 :=
  h.hit.raiseI.ite h.hit

/-! ### Firewall -/

protected theorem Keeps.refuse (h : Keeps s u) {t : Tag} {op a : Nat} {v : Verdict} {inc : Nat} :
    Keeps s (refuse u t op a v inc).2 := by
  unfold refuse
  split
  · exact h
  · exact h
  · exact h.denialI
  · exact h.denialI
  · exact h.bump.raise.denialI

protected theorem Keeps.raiseFault (h : Keeps s u) {cause inc : Nat} {inj : Bool} :
    Keeps s (raiseFault u cause inc inj) :=
  h.log.ite h.log.wr.wr.wr.upd

protected theorem Keeps.disagree (h : Keeps s u) {t : Tag} {op a inc : Nat} {inj : Bool} :
    Keeps s (disagree u t op a inc inj).2 :=
  h.denialI.raiseI.doubtInj.ite h.denialI.raiseI.raiseFault

protected theorem Keeps.passes (h : Keeps s u) {t : Tag} {op a n : Nat} {clash : Bool} {inc : Nat} :
    Keeps s (passes u t op a n clash inc).2.2 := by
  unfold passes
  split
  · exact h.refuse
  · rcases hx : u.hit pgFab 12 clash with ⟨bad, inj, t'⟩
    have found : Keeps s t' := h.hit.got₂ hx
    dsimp only
    split
    · exact found.disagree
    · split
      · exact found
      · exact found.refuse

/-! ### Verdict -/

protected theorem Keeps.putEntry (h : Keeps s u) {id : Nat} {e : Entry} : Keeps s (u.putEntry id e) :=
  h.upd

protected theorem Keeps.chgEntry (h : Keeps s u) {id : Nat} {e : Entry} : Keeps s (u.chgEntry id e) :=
  h.putEntry.ite h.putEntry

protected theorem Keeps.acceptFinal (h : Keeps s u) {id : Nat} {e : Entry} {lane dim flags : Nat} :
    Keeps s (acceptFinal u id e lane dim flags) :=
  h.chgEntry.ite (h.chgEntry.ite h.bump.putEntry)

protected theorem Keeps.stage (h : Keeps s u) {t : Tag} {id word : Nat} : Keeps s (stage u t id word) :=
  h.chgEntry.ite (h.acceptFinal.ite (h.chgEntry.ite h.bump))

protected theorem Keeps.islandStage (h : Keeps s u) {id word : Nat} : Keeps s (islandStage u id word) :=
  h.ite (h.passes.stage.ite h.passes.raiseFault)

protected theorem Keeps.islandFallback (h : Keeps s u) {id : Nat} : Keeps s (islandFallback u id) :=
  h.islandStage

protected theorem Keeps.lateDoubt (h : Keeps s u) {id inc : Nat} : Keeps s (lateDoubt u id inc) :=
  h.bump.raise.log

protected theorem Keeps.doubtEntry (h : Keeps s u) {id : Nat} : Keeps s (doubtEntry u id) :=
  h.islandFallback.ite h

protected theorem Keeps.markEvents (h : Keeps s u) {l : Nat} {test : Parcel → Bool} : Keeps s (markEvents u l test) :=
  h.upd

protected theorem Keeps.doubtFrame (h : Keeps s u) {k e0 e1 : Nat} : Keeps s (doubtFrame u k e0 e1) :=
  .markEvents (.folded h (fun _ _ h => h.doubtEntry))

protected theorem Keeps.doubtLine (h : Keeps s u) {l : Nat} : Keeps s (doubtLine u l) :=
  .markEvents (.folded h (fun _ _ h => h.doubtEntry))

protected theorem Keeps.applyScope (h : Keeps s u) {sc : Scope} {inc : Nat} : Keeps s (applyScope u sc inc) := by
  unfold applyScope
  split
  · exact h.lateDoubt.ite h.doubtEntry
  · exact h.doubtFrame
  · exact h.doubtLine
  · exact .folded h (fun _ _ h => h.doubtLine)
  · exact h
  · exact .folded h (fun _ _ h => h.doubtLine)

protected theorem Keeps.moveOpen (h : Keeps s u) {l : Nat} {finals : Bool} : Keeps s (moveOpen u l finals) :=
  .folded h (fun _ _ h => h.islandFallback)

protected theorem Keeps.setFallbackAll (h : Keeps s u) : Keeps s (setFallbackAll u) :=
  h.wr

protected theorem Keeps.raiseFallbackAll (h : Keeps s u) {finals : Bool} : Keeps s (raiseFallbackAll u finals) :=
  .folded h.upd.setFallbackAll (fun _ _ h => h.moveOpen)

protected theorem Keeps.raiseFallback (h : Keeps s u) {ls : List Nat} {finals : Bool} :
    Keeps s (raiseFallback u ls finals) :=
  .ite h.raiseFallbackAll (.folded h.upd (fun _ _ h => h.wrBit.moveOpen))

protected theorem Keeps.storeFinal (h : Keeps s u) {l id : Nat} {e : Entry} {h' : Held} :
    Keeps s (storeFinal u l id e h') :=
  h.chgEntry.ite (h.bump.chgEntry.ite h.chgEntry)

protected theorem Keeps.missEntry (h : Keeps s u) {id : Nat} : Keeps s (missEntry u id) :=
  h.ite h.chgEntry

protected theorem Keeps.resyncEntry (h : Keeps s u) {id : Nat} : Keeps s (resyncEntry u id) :=
  h.ite (h.chgEntry.ite (h.chgEntry.ite h))

protected theorem Keeps.resyncLine (h : Keeps s u) {l : Nat} : Keeps s (resyncLine u l) :=
  .folded h (fun _ _ h => h.resyncEntry)

/-! ### Fabric -/

protected theorem Keeps.fenceJobs (h : Keeps s u) {p : Nat} : Keeps s (fenceJobs u p) := by
  unfold fenceJobs
  refine .folded h (fun _ _ h => ?_)
  split
  · exact h.wr.upd.ite h
  · exact h

protected theorem Keeps.fenceEffects (h : Keeps s u) {p inc : Nat} {finals : Bool} :
    Keeps s (fenceEffects u p inc finals) := by
  unfold fenceEffects
  split
  · exact h.raiseFault
  · exact h.raiseFault
  · exact h.raiseFallbackAll
  · exact h.raiseFault.ite h.raiseFallback
  · exact h.raiseFault.ite h.raiseFallback
  · exact h.raiseFallback
  · exact h.raiseFallback
  · exact h.raiseFallback
  · exact h.raiseFallback
  · exact h.raiseFallback
  · exact h.raiseFallback
  · exact h.raiseFallback
  · exact h.raiseFallback
  · exact h.raiseFallback
  · exact h.raiseFallback
  · exact h

protected theorem Keeps.noPipes (h : Keeps s u) : Keeps s (noPipes u) :=
  .folded h (fun _ _ h => h.raise.ite h)

protected theorem Keeps.fencePage (h : Keeps s u) {p inc : Nat} {checker : Bool} :
    Keeps s (fencePage u p inc checker) :=
  h.ite h.log.wr.fenceJobs.noPipes.fenceEffects

protected theorem Keeps.checkerFail (h : Keeps s u) {p bit : Nat} : Keeps s (checkerFail u p bit) := by
  unfold checkerFail
  dsimp only
  exact h.logI.wr.wr.wr.bump.raise.raiseFault.ite (h.logI.wr.wr.wr.bump.raise.raiseFault.ite
    h.logI.wr.wr.wr.bump.raise.fencePage)

protected theorem Keeps.wdExpire (h : Keeps s u) {p inc : Nat} : Keeps s (wdExpire u p inc) :=
  h.upd.raise.log.raiseFallbackAll.ite h.upd.raise.log.raiseFallback

protected theorem Keeps.eccDoubt (h : Keeps s u) {t : Tag} {inc : Nat} : Keeps s (eccDoubt u t inc) :=
  h.ite (h.doubt.ite h.doubt)

protected theorem Keeps.svmCorr (h : Keeps s u) {t : Tag} {a : Nat} {vt : Bool} : Keeps s (svmCorr u t a vt) := by
  unfold svmCorr
  dsimp only
  exact (h.bump.raise.raise.ite h.bump.raise).free.wr.wr.wr.wr.noticeOn

protected theorem Keeps.svmUncorr (h : Keeps s u) {t : Tag} {a : Nat} {vt : Bool} {inc : Nat} :
    Keeps s (svmUncorr u t a vt inc).2 := by
  unfold svmUncorr
  exact (h.bump.raise.raise.ite h.bump.raise).free.wr.wr.wr.wr.logI.eccDoubt

protected theorem Keeps.extTransient (h : Keeps s u) {t : Tag} {a inc : Nat} : Keeps s (extTransient u t a inc) :=
  h.bump.wr.log.noticeOn

protected theorem Keeps.extCorr (h : Keeps s u) {t : Tag} {a : Nat} : Keeps s (extCorr u t a) :=
  h.bump.raise.wr.noticeOn

protected theorem Keeps.extPoison (h : Keeps s u) {t : Tag} {a inc : Nat} : Keeps s (extPoison u t a inc).2 :=
  h.bump.raise.wr.logI.eccDoubt.ite (h.bump.raise.wr.logI.eccDoubt.upd.wr.ite
    h.bump.raise.wr.logI.eccDoubt.raise.log.fencePage)

protected theorem Keeps.extListed (h : Keeps s u) {t : Tag} {a : Nat} {q : Poison} {inc : Nat} :
    Keeps s (extListed u t a q inc).2 := by
  unfold extListed
  extract_lets p line v recent
  have counted : Keeps s v := h.bump.raise.wr
  cases recent
  · exact counted.logI.upd.eccDoubt
  · exact counted.upd.eccDoubt

protected theorem Keeps.serveRead (h : Keeps s u) {t : Tag} {a n : Nat} {e : Ecc} {host : Cells} {inc : Nat} :
    Keeps s (serveRead u t a n e host inc).2 := by
  unfold serveRead
  split
  · split
    · exact h.svmUncorr.ite h.svmUncorr.upd
    · exact h.ite h.svmCorr
  · split
    · exact h.svmUncorr.ite h.svmUncorr.putEntry
    · exact h.ite h.svmCorr
  · split
    · exact h.extListed
    · split
      · exact h
      · exact h.extCorr
      · exact h.extTransient
      · exact h.extTransient
      · exact h.extPoison
  · exact h
  · exact h

/-- Bytes kept or replaced one by one leave memory in canonical form (R378). -/
theorem memWf_foldl_put (q : Nat → Bool) (a : Nat) (b : Nat → Byte) (l : List Nat) {m : List Host.Cell}
    (h : memWf m = true) :
    memWf (l.foldl (fun m i => if q i then memPut m (a + i) (b i) else m) m) = true := by
  induction l generalizing m with
  | nil => exact h
  | cons i l ih =>
    refine ih ?_
    show memWf (if q i then memPut m (a + i) (b i) else m) = true
    split
    · exact memWf_put _ _ h
    · exact h

protected theorem Keeps.svmStore (h : Keeps s u) {a : Nat} {bs : List Byte} : Keeps s (svmStore u a bs) :=
  h.trans ⟨rfl, fun c => ⟨memWf_foldl_put _ _ _ _ c.1, c.2.1, c.2.2⟩, fun _ => id, fun _ => rfl⟩

protected theorem Keeps.svmReadPart (h : Keeps s u) {t : Tag} {a n : Nat} {e : Ecc} :
    Keeps s (svmReadPart u t a n e) := by
  unfold svmReadPart
  split
  · exact h
  · exact h.ite (h.upd.ite h.svmCorr)

protected theorem Keeps.vtReadPart (h : Keeps s u) {t : Tag} {a n : Nat} {e : Ecc} :
    Keeps s (vtReadPart u t a n e) := by
  unfold vtReadPart
  split
  · exact h
  · exact h.ite (h.putEntry.ite h.svmCorr)

protected theorem Keeps.extLine (h : Keeps s u) {t : Tag} {a : Nat} {bs : List Byte} {e : Ecc} {inc : Nat} :
    Keeps s (extLine u t a bs e inc).2 := by
  unfold extLine
  dsimp only
  split
  · exact h.stored.upd.wr
  · split
    · exact h.extListed
    · exact h.extPoison
    · exact h.extCorr.stored
    · exact h.extTransient.stored
    · exact h.extTransient.stored
    · exact h.stored

protected theorem Keeps.extWrite (h : Keeps s u) {t : Tag} {a : Nat} {bs : List Byte} {e : Ecc} {inc : Nat} :
    Keeps s (extWrite u t a bs e inc).2 := by
  unfold extWrite
  refine .folded₂ h (fun ⟨_, _⟩ ⟨_, _⟩ h => ?_)
  dsimp only
  split
  · exact h.extLine.got
  · exact h.extLine.got

protected theorem Keeps.serveWrite (h : Keeps s u) {t : Tag} {a : Nat} {bs : List Byte} {e : Ecc} {inc : Nat} :
    Keeps s (serveWrite u t a bs e inc).2 := by
  unfold serveWrite
  dsimp only
  split
  · split
    · exact h.svmReadPart.svmStore.svmUncorr
    · exact h.svmReadPart.svmStore
  · split
    · exact .svmUncorr (.folded h.vtReadPart (fun _ _ h => h.stage))
    · exact .folded h.vtReadPart (fun _ _ h => h.stage)
  · exact h.extWrite
  · exact h.stored
  · exact h

protected theorem Keeps.fabRead (h : Keeps s u) {t : Tag} {a n : Nat} {e : Ecc} {host : Cells} {clash : Bool}
    {inc : Nat} :
    Keeps s (fabRead u t a n e host clash inc).2 := by
  unfold fabRead
  split
  · exact h.passes.got₂.serveRead
  · exact h.passes.got₂

protected theorem Keeps.fabWrite (h : Keeps s u) {t : Tag} {a : Nat} {bs : List Byte} {e : Ecc} {clash : Bool}
    {inc : Nat} :
    Keeps s (fabWrite u t a bs e clash inc).2 := by
  unfold fabWrite
  split
  · exact (h.debugTouch.ite h).passes.got₂.serveWrite
  · exact (h.debugTouch.ite h).passes.got₂

protected theorem Keeps.putTxn (h : Keeps s u) {init tid : Nat} {t : Txn} : Keeps s (u.putTxn init tid t) :=
  h.upd

protected theorem Keeps.portHeld (h : Keeps s u) {init inc : Nat} : Keeps s (portHeld u init inc) := by
  unfold portHeld
  split
  · split
    · exact h.fencePage
    · exact h
  · exact h

protected theorem Keeps.expire (h : Keeps s u) {init tid : Nat} {x : Txn} : Keeps s (expire u init tid x).2 :=
  (h.logI.bump.bump.raise.upd.ite h.logI.bump).putTxn.raise.portHeld.ite
    (h.logI.bump.bump.raise.upd.ite h.logI.bump).putTxn

protected theorem Keeps.tryRead (h : Keeps s u) {t : Tag} {a n : Nat} {r : Resp} {host : Cells} {inc : Nat} :
    Keeps s (tryRead u t a n r host inc).2 := by
  unfold tryRead
  split
  · exact h
  · split
    · split
      · exact h.passes.got₂.expire
      · exact h.passes.got₂
    · exact h.fabRead

protected theorem Keeps.tryWrite (h : Keeps s u) {t : Tag} {a : Nat} {bs : List Byte} {r : Resp} {inc : Nat} :
    Keeps s (tryWrite u t a bs r inc).2 := by
  unfold tryWrite
  split
  · exact h
  · split
    · exact h.fabWrite.got
    · split
      · exact h.fabWrite.got.expire
      · exact h.fabWrite.got

protected theorem Keeps.perfRd (h : Keeps s u) {page : Nat} {ok : Bool} : Keeps s (perfRd u page ok) :=
  h.perf.perf.ite h.perf

protected theorem Keeps.perfWr (h : Keeps s u) {page : Nat} : Keeps s (perfWr u page) :=
  h.perf.perf

protected theorem Keeps.retryRec (h : Keeps s u) {t : Tag} {page tag a cls inc : Nat} :
    Keeps s (retryRec u t page tag a cls inc) :=
  h.log

protected theorem Keeps.readTwice (h :
    Keeps s u) {t : Tag} {page tag a n : Nat} {r1 r2 : Resp} {host : Cells} {inc : Nat} :
    Keeps s (readTwice u t page tag a n r1 r2 host inc).2.2 := by
  unfold readTwice
  split
  case h_3 v v' _ _ first =>
    have again := (h.tryRead.got first).perfRd (page := page) (ok := false) |>.perf (p := page) (code := 0x0C) (n := 1)
    extract_lets inc
    split
    all_goals
      rename_i second
      dsimp only
      exact (again.tryRead.got second).perfRd.retryRec
  all_goals
    rename_i first
    dsimp only
    exact (h.tryRead.got first).perfRd

protected theorem Keeps.writeTwice (h :
    Keeps s u) {t : Tag} {page tag a : Nat} {bs : List Byte} {r1 r2 : Resp} {inc : Nat} :
    Keeps s (writeTwice u t page tag a bs r1 r2 inc).2.2 := by
  unfold writeTwice
  split
  case h_3 v v' _ _ first =>
    have again := (h.tryWrite.got first).perfWr (page := page) |>.perf (p := page) (code := 0x0C) (n := 1)
    extract_lets inc
    split
    all_goals
      rename_i second
      dsimp only
      exact (again.tryWrite.got second).perfWr.retryRec
  all_goals
    rename_i first
    dsimp only
    exact (h.tryWrite.got first).perfWr

protected theorem Keeps.readPieces (h : Keeps s u) {t : Tag} {page tag : Nat} {hit : Hit} {host : Cells} {inc : Nat}
    {l : List (Nat × Nat)} {i : Nat} {acc : List Byte} {ret : Bool} :
    Keeps s (readPieces t page tag hit host inc l i acc ret u).2.2 := by
  induction l generalizing u i acc ret with
  | nil => exact h
  | cons x rest ih =>
    unfold readPieces
    split
    · exact ih h.readTwice.got₂
    · exact h.readTwice.got₂

protected theorem Keeps.readAll (h : Keeps s u) {t : Tag} {page tag a n : Nat} {h' : Hit} {host : Cells} {inc : Nat} :
    Keeps s (readAll u t page tag a n h' host inc).2.2 :=
  h.readPieces

protected theorem Keeps.writePieces (h : Keeps s u) {t : Tag} {page tag : Nat} {hit : Hit} {a0 : Nat} {bs : List Byte}
    {inc : Nat} {l : List (Nat × Nat)} {i : Nat} {ret : Bool} :
    Keeps s (writePieces t page tag hit a0 bs inc l i ret u).2.2.2 := by
  induction l generalizing u i ret with
  | nil => exact h
  | cons x rest ih =>
    unfold writePieces
    split
    · exact ih h.writeTwice.got₂
    · exact h.writeTwice.got₂

protected theorem Keeps.writeAll (h : Keeps s u) {t : Tag} {page tag a : Nat} {bs : List Byte} {h' : Hit} {inc : Nat} :
    Keeps s (writeAll u t page tag a bs h' inc).2.2.2 :=
  h.writePieces

protected theorem Keeps.writeOnce (h : Keeps s u) {t : Tag} {page a : Nat} {bs : List Byte} {x : Spot} :
    Keeps s (writeOnce u t page a bs x).2 := by
  unfold writeOnce
  refine .folded₂ h (fun ⟨_, _⟩ ⟨_, _⟩ h => ?_)
  dsimp only
  split
  · exact h.tryWrite.got.perfWr
  · exact h.tryWrite.got.perfWr

protected theorem Keeps.freeBytes (h : Keeps s u) {n : Nat} : Keeps s (u.freeBytes n).2 :=
  h.upd

protected theorem Keeps.readOnce (h : Keeps s u) {t : Tag} {page a n : Nat} {x : Spot} :
    Keeps s (readOnce u t page a n x).2.2 := by
  unfold readOnce
  refine .folded₃ h (fun ⟨_, _, _⟩ ⟨_, _⟩ h => ?_)
  dsimp only
  split
  · dsimp only
    exact h.tryRead.got.perfRd
  · dsimp only
    exact h.tryRead.got.freeBytes.perfRd

/-! ### GraphOps -/

protected theorem Keeps.putGraph (h : Keeps s u) {g : Nat} {x : Graph} : Keeps s (u.putGraph g x) :=
  h.upd

protected theorem Keeps.modExec (h : Keeps s u) {key : Nat} {f : Exec → Exec} : Keeps s (modExec u key f) := by
  unfold modExec
  dsimp only
  split
  · exact h.putGraph
  · exact h

protected theorem Keeps.finishExec (h : Keeps s u) {key status : Nat} : Keeps s (finishExec u key status) :=
  h.modExec

protected theorem Keeps.startInst (h : Keeps s u) {g frame : Nat} : Keeps s (startInst u g frame) :=
  h.putGraph.settle

protected theorem Keeps.startDrop (h : Keeps s u) {g frame : Nat} {flag : Bool} :
    Keeps s (startDrop u g frame flag).2 :=
  (h.bump.raise.ite h.bump).logI

protected theorem Keeps.streamFrameTo (h : Keeps s u) {k frame enc g : Nat} : Keeps s (streamFrameTo u k frame enc g) :=
  h.ite (h.startDrop.ite (h.startInst.ite h.startDrop.doubt))

protected theorem Keeps.streamFrame (h : Keeps s u) {k frame enc : Nat} : Keeps s (streamFrame u k frame enc) :=
  .ite (.folded h (fun _ _ h => h.streamFrameTo)) h

/-! ### HostOps -/

protected theorem Keeps.putQp (h : Keeps s u) {n q : Nat} {k : HPair} : Keeps s (u.putQp n q k) :=
  h.upd

protected theorem Keeps.qpFail (h : Keeps s u) {n q cause : Nat} : Keeps s (qpFail u n q cause) :=
  h.wr.wr.raise.msix.ite h.wr.wr.raise

protected theorem Keeps.cqWrite (h : Keeps s u) {n q w0 w4 w8 w12 : Nat} {hit : Hit} {inc : Nat} :
    Keeps s (cqWrite u n q w0 w4 w8 w12 hit inc) := by
  unfold cqWrite
  dsimp only
  split
  · exact h.bump
  · split
    · exact h.writeAll.got₃.wr.wr.msix.ite h.writeAll.got₃.wr.wr
    · exact h.writeAll.got₃.bump.qpFail

/-! ### Engine -/

protected theorem Keeps.putJob (h : Keeps s u) {p n : Nat} {j : Job} : Keeps s (u.putJob p n j) :=
  h.upd

protected theorem Keeps.setSlot (h : Keeps s u) {p n st : Nat} : Keeps s (u.setSlot p n st) :=
  h.wr

protected theorem Keeps.doubtByTag (h : Keeps s u) {p tag inc : Nat} : Keeps s (doubtByTag u p tag inc) :=
  .folded h (fun _ _ h => h.doubt)

protected theorem Keeps.pickNext (h : Keeps s u) {more : Nat → Job → Bool} {p : Nat} : Keeps s (pickNext u more p) := by
  unfold pickNext
  split
  · exact h.upd
  · exact h.upd

protected theorem Keeps.pickIfIdle (h : Keeps s u) {more : Nat → Job → Bool} {p : Nat} :
    Keeps s (pickIfIdle u more p) := by
  unfold pickIfIdle
  split
  · exact h.ite h.pickNext
  · exact h.pickNext

protected theorem JKeeps.jpiece (h : Keeps s x.s) {c : JC} {an : Nat × Nat} : JKeeps s (jpiece c an x) := by
  unfold jpiece
  dsimp only
  split
  · exact JKeeps.ok h.readTwice.got₂
  · exact JKeeps.fail h.readTwice.got₂

protected theorem Keeps.lbLearn (h : Keeps s u) {j : Job} : Keeps s (lbLearn u j) := by
  unfold lbLearn
  split
  · exact h
  · exact h.upd

protected theorem JKeeps.jbuffer (h : Keeps s x.s) {k : Nat} {b : LineBuf} {a n : Nat} :
    JKeeps s (jbuffer k b a n x) := by
  unfold jbuffer
  dsimp only
  split
  · exact JKeeps.fail h
  · split
    · exact JKeeps.wait
    · exact JKeeps.ok h.upd

protected theorem JKeeps.jread (h : Keeps s x.s) {c : JC} {a n : Nat} : JKeeps s (jread c a n x) := by
  unfold jread
  refine JKeeps.jthen (JKeeps.jmap h (fun ⟨_, _⟩ _ h => ?_)) (fun _ _ h => JKeeps.jret h)
  split
  · exact JKeeps.jbuffer h
  · exact JKeeps.jpiece h

protected theorem JKeeps.jlines (h : Keeps s x.s) {c : JC} {base stride w ya yb : Nat} :
    JKeeps s (jlines c base stride w ya yb x) :=
  JKeeps.jthen (JKeeps.jmap h (fun _ _ h => JKeeps.jread h)) (fun _ _ h => JKeeps.jret h)

protected theorem JKeeps.jput (h : Keeps s x.s) {c : JC} {a : Nat} {bs : List Byte} : JKeeps s (jput c a bs x) := by
  unfold jput
  dsimp only
  split
  · exact JKeeps.ok h.writeTwice.got₂
  · exact JKeeps.fail h.writeTwice.got₂

protected theorem JKeeps.jstore (h : Keeps s x.s) {c : JC} {a : Nat} {bs : List Byte} : JKeeps s (jstore c a bs x) := by
  unfold jstore
  split
  · split
    · exact .jput h
    · split
      · exact .wait
      · extract_lets m _ y
        have buffered : Keeps s y.s := Keeps.upd h
        split
        · exact .jput buffered
        · exact .ok buffered
  · exact .jput h

protected theorem JKeeps.jwrite (h : Keeps s x.s) {c : JC} {ab : Nat × List Byte} : JKeeps s (jwrite c ab x) :=
  JKeeps.jthen (JKeeps.jmap h (fun ⟨_, _⟩ _ h => JKeeps.jstore h)) (fun _ _ h => JKeeps.jret h)

/-! ### Geometry -/

protected theorem JKeeps.pyrUnit (h : Keeps s x.s) {c : JC} : JKeeps s (pyrUnit c x) :=
  JKeeps.jthen (JKeeps.jlines h) (fun _ _ h => JKeeps.jret h)

protected theorem JKeeps.wrpPart (h : Keeps s x.s) {c : JC} {w : Wrp} {b : Blk} {filled : Bool} :
    JKeeps s (wrpPart c w b filled x) := by
  refine JSound.run ?_ h
  unfold wrpPart
  split
  · exact fun _ h => .jthen (.jmod h) fun _ _ h => .jret h
  · split
    · exact fun _ h => .jret h
    · exact fun _ h => .jthen (.jlines h) fun _ _ h => .jret h

protected theorem JKeeps.wrpUnit (h : Keeps s x.s) {c : JC} : JKeeps s (wrpUnit c x) :=
  JKeeps.jthen (JKeeps.jmap h (fun ⟨_, _⟩ _ h => JKeeps.wrpPart h)) (fun _ _ h => JKeeps.jthen (JKeeps.jmod h)
    (fun _ _ h => JKeeps.jret h))

protected theorem JKeeps.hmpMerge (h : Keeps s x.s) {c : JC} {grid : Nat} {fresh : Bool} {cells : List
    (Nat × List Int)} :
    JKeeps s (hmpMerge c grid fresh cells x) := by
  unfold hmpMerge
  refine JKeeps.jmap h (fun ⟨_, _⟩ _ h => ?_)
  refine JKeeps.jthen ?_ (fun _ _ h => JKeeps.jthen (JKeeps.jmod h) (fun _ _ h => JKeeps.jret h))
  split
  · exact JKeeps.jret h
  · exact JKeeps.jread h

protected theorem JKeeps.hmpSamples (h : Keeps s x.s) {c : JC} {j : Job} : JKeeps s (hmpSamples c j x) := by
  unfold hmpSamples
  generalize List.range 1024 = units
  exact .jthen (.jmap h fun _ _ h => .jthen (.jread h) fun _ _ h => .jret h) fun _ _ h => .jret h

protected theorem JKeeps.hmpUnit (h : Keeps s x.s) {c : JC} : JKeeps s (hmpUnit c x) := by
  unfold hmpUnit
  extract_lets j grid gw gh init
  exact .jthen (.hmpSamples h) fun _ _ h => .jthen (.jmod h) fun _ _ h => .jthen (.hmpMerge h) fun _ _ h => .jret h

/-! ### Depth -/

protected theorem JKeeps.steLines (h : Keeps s x.s) {c : JC} {t : Ste} {base ya yb : Nat} :
    JKeeps s (steLines c t base ya yb x) := by
  unfold steLines
  split
  · exact JKeeps.jthen (JKeeps.jmap h (fun _ _ h => JKeeps.jread h)) (fun _ _ h => JKeeps.jret h)
  · exact JKeeps.jlines h

protected theorem JKeeps.steUnit (h : Keeps s x.s) {c : JC} : JKeeps s (steUnit c x) :=
  JKeeps.jthen (JKeeps.steLines h) (fun _ _ h => JKeeps.jthen (JKeeps.steLines h) (fun _ _ h => JKeeps.jthen
    (JKeeps.jmod h) (fun _ _ h => JKeeps.jret h)))

/-! ### Flow -/

protected theorem JKeeps.flwLevel (h : Keeps s x.s) {c : JC} {f : Flw} {base0 baseP l by' : Nat} :
    JKeeps s (flwLevel c f base0 baseP l by' x) :=
  JKeeps.jthen (JKeeps.jlines h) (fun _ _ h => JKeeps.jret h)

protected theorem JKeeps.flwUnit (h : Keeps s x.s) {c : JC} : JKeeps s (flwUnit c x) :=
  JKeeps.jthen (JKeeps.jmap h (fun _ _ h => JKeeps.flwLevel h)) (fun _ _ h => JKeeps.jthen (JKeeps.jmap h
    (fun _ _ h => JKeeps.flwLevel h)) (fun _ _ h => JKeeps.jthen (JKeeps.jmod h) (fun _ _ h => JKeeps.jret h)))

protected theorem Keeps.putMon (h : Keeps s u) {p m : Nat} {x : MonSt} : Keeps s (u.putMon p m x) :=
  h.upd

protected theorem Keeps.raiseResync (h : Keeps s u) {p m run : Nat} : Keeps s (raiseResync u p m run) := by
  unfold raiseResync
  dsimp only
  exact h.wr.bump.raise.logI.resyncLine.doubt

protected theorem Keeps.speedSample (h : Keeps s u) {p m : Nat} {med exp : Int} {fsPrev : Nat} :
    Keeps s (speedSample u p m med exp fsPrev) :=
  (h.wr.wr.putMon.wr.putMon.wr.wr.raiseResync.ite h.wr.wr.putMon.wr.putMon.wr.wr).ite h.wr.wr.putMon.wr.wr.wr

protected theorem Keeps.flowEnd (h : Keeps s u) {p : Nat} {j : Job} : Keeps s (flowEnd u p j) := by
  unfold flowEnd
  split
  · exact h.speedSample.ite h
  · exact h

@[simp] theorem kept_execResyncClear {page m : Nat} : Kept s (execResyncClear page m s) :=
  .next (Keeps.rfl.ite (Keeps.rfl.wr.ite Keeps.rfl))

@[simp] theorem kept_execStarved {page m : Nat} : Kept s (execStarved page m s) :=
  .next (Keeps.rfl.ite (Keeps.rfl.wr.raise.ite Keeps.rfl))

@[simp] theorem kept_execMonitorEnable {ini : Ini} {page m : Nat} {on : Bool} :
    Kept s (execMonitorEnable ini page m on s) :=
  .next (Keeps.rfl.ite (Keeps.rfl.regRow (fun _ => (Keeps.rfl.ite Keeps.rfl.putMon).wr.wr.wr.ite Keeps.rfl.wr)))

protected theorem JKeeps.feaLines (h : Keeps s x.s) {c : JC} {f : Fea} {ya yb : Nat} :
    JKeeps s (feaLines c f ya yb x) :=
  JKeeps.jthen (JKeeps.jlines h) (fun _ _ h => JKeeps.jret h)

protected theorem JKeeps.feaUnit (h : Keeps s x.s) {c : JC} : JKeeps s (feaUnit c x) := by
  unfold feaUnit
  dsimp only
  split
  · exact JKeeps.jthen (JKeeps.feaLines h) (fun _ _ h => JKeeps.jthen (JKeeps.jmod h) (fun _ _ h => JKeeps.jret h))
  · exact JKeeps.jthen (JKeeps.jmap h (fun _ _ h => JKeeps.jthen (JKeeps.feaLines h) (fun _ _ h => JKeeps.jret h)))
      (fun _ _ h => JKeeps.jthen (JKeeps.jmod h) (fun _ _ h => JKeeps.jret h))

/-! ### Lvu -/

protected theorem JKeeps.jcount (h : Keeps s x.s) {rs : List Lns} : JKeeps s (jcount rs x) :=
  JKeeps.jmod h

protected theorem JKeeps.jresult (h : Keeps s x.s) {a : Nat} {rs : List Lns} : JKeeps s (jresult a rs x) :=
  JKeeps.jthen (JKeeps.jcount h) (fun _ _ h => JKeeps.jret h)

protected theorem JKeeps.lvIn (h : Keeps s x.s) {c : JC} {a : Lv} {v k : Nat} : JKeeps s (lvIn c a v k x) :=
  JKeeps.jthen (JKeeps.jmap h (fun _ _ h => JKeeps.jread h)) (fun _ _ h => JKeeps.jresult h)

protected theorem JKeeps.lvOut (h : Keeps s x.s) {c : JC} {a : Lv} {v k : Nat} : JKeeps s (lvOut c a v k x) :=
  JKeeps.jthen (JKeeps.jread h) (fun _ _ h => JKeeps.jret h)

protected theorem JKeeps.lvMat (h : Keeps s x.s) {c : JC} {a : Lv} {v k : Nat} : JKeeps s (lvMat c a v k x) := by
  unfold lvMat
  refine JKeeps.jthen (JKeeps.jread h) (fun _ _ h => ?_)
  refine JKeeps.jthen ?_ (fun _ _ h => JKeeps.jthen (JKeeps.jmap h (fun ⟨_, _⟩ _ h => JKeeps.jthen (JKeeps.jread h)
    (fun _ _ h => JKeeps.jret h))) (fun _ _ h => JKeeps.jresult h))
  split
  · exact JKeeps.jret h
  · exact JKeeps.jthen (JKeeps.jread h) (fun _ _ h => JKeeps.jret h)

protected theorem JKeeps.lvEw (h : Keeps s x.s) {c : JC} {a : Lv} {v k : Nat} : JKeeps s (lvEw c a v k x) :=
  JKeeps.jthen (JKeeps.jread h) (fun _ _ h => JKeeps.jthen (JKeeps.jread h) (fun _ _ h => JKeeps.jresult h))

protected theorem JKeeps.lvNorm (h : Keeps s x.s) {c : JC} {a : Lv} {v : Nat} : JKeeps s (lvNorm c a v x) := by
  unfold lvNorm
  refine JKeeps.jthen (JKeeps.jread h) (fun _ _ h => ?_)
  refine JKeeps.jthen ?_ (fun _ _ h => JKeeps.jthen (JKeeps.jcount h) (fun _ _ h => JKeeps.jresult h))
  split
  · exact JKeeps.jret h
  · exact JKeeps.jthen (JKeeps.jread h) (fun _ _ h => JKeeps.jret h)

protected theorem JKeeps.lvSoft (h : Keeps s x.s) {c : JC} {a : Lv} {v : Nat} : JKeeps s (lvSoft c a v x) := by
  unfold lvSoft
  refine JKeeps.jthen (JKeeps.jread h) (fun _ _ h => ?_)
  dsimp only
  split
  · exact JKeeps.fail h
  · exact JKeeps.jresult h

protected theorem JKeeps.lvSample (h : Keeps s x.s) {c : JC} {a : Lv} {t d : Nat} : JKeeps s (lvSample c a t d x) := by
  unfold lvSample
  refine JKeeps.jthen (JKeeps.jread h) (fun _ _ h => ?_)
  dsimp only
  split
  · exact JKeeps.fail h
  · exact JKeeps.jthen (JKeeps.jcount h) (fun _ _ h => JKeeps.jthen (JKeeps.jmod h) (fun _ _ h => JKeeps.jret h))

protected theorem JKeeps.lvuUnit (h : Keeps s x.s) {c : JC} : JKeeps s (lvuUnit c x) := by
  unfold lvuUnit
  extract_lets a v k
  refine JSound.run ?_ h
  split
  · exact fun _ h => .lvIn h
  · exact fun _ h => .lvOut h
  · exact fun _ h => .lvMat h
  · exact fun _ h => .lvEw h
  · exact fun _ h => .lvNorm h
  · exact fun _ h => .lvSoft h
  · exact fun _ h => .lvSample h

protected theorem Keeps.leaveContext (h : Keeps s u) {p n : Nat} : Keeps s (leaveContext u p n) := by
  unfold leaveContext
  split
  · exact .ite (.folded h (fun _ _ h => h.wr)) h
  · exact h

/-! ### Stochastic -/

protected theorem JKeeps.staWeights (h : Keeps s x.s) {c : JC} : JKeeps s (staWeights c x) := by
  unfold staWeights
  split
  · exact JKeeps.ok h
  · exact JKeeps.jthen (JKeeps.jread h) (fun _ _ h => JKeeps.jthen (JKeeps.jread h) (fun _ _ h => JKeeps.jmod h))

protected theorem JKeeps.readActs (h : Keeps s x.s) {c : JC} {a : Pass} {v : Nat} : JKeeps s (readActs c a v x) :=
  JKeeps.jthen (JKeeps.jmap h (fun _ _ h => JKeeps.jread h)) (fun _ _ h => JKeeps.jret h)

/-! ### Jobs -/

protected theorem JKeeps.unitRun (h : Keeps s x.s) {p : Nat} {c : JC} : JKeeps s (unitRun p c x) := by
  refine JSound.run ?_ h
  unfold unitRun
  split
  · exact fun _ h => .pyrUnit h
  · exact fun _ h => .wrpUnit h
  · exact fun _ h => .hmpUnit h
  · exact fun _ h => .steUnit h
  · exact fun _ h => .flwUnit h
  · exact fun _ h => .feaUnit h
  · exact fun _ h => .lvuUnit h
  · exact fun _ h => .jret h

protected theorem JKeeps.jcheck (h : Keeps s x.s) {f : JS → Bool} : JKeeps s (jcheck f x) := by
  unfold jcheck
  split
  · exact JKeeps.ok h
  · exact JKeeps.fail h

protected theorem JKeeps.jaux (h : Keeps s x.s) {c : JC} {f : Job → Nat × Nat} : JKeeps s (jaux c f x) :=
  JKeeps.jthen (JKeeps.jread h) (fun _ _ h => JKeeps.jmod h)

protected theorem JKeeps.jstart (h : Keeps s x.s) {p : Nat} {c : JC} : JKeeps s (jstart p c x) := by
  refine JSound.run ?_ h
  unfold jstart
  split
  · exact fun _ h => .jaux h
  · exact fun _ h => .jthen (.jaux h) fun _ _ h => .jcheck h
  · exact fun _ h => .jthen (.jaux h) fun _ _ h => .jcheck h
  · exact fun _ h => .jthen (.jaux h) fun _ _ h => .jcheck h
  · exact fun _ h => .jthen (.jaux h) fun _ _ h => .jthen (.jcheck h) fun _ _ h => .staWeights h
  · exact fun _ h => .jthen (.jaux h) fun _ _ h => .jcheck h
  · exact fun _ h => .jret h

protected theorem JKeeps.takePlanes (h : Keeps s x.s) {p : Nat} : JKeeps s (takePlanes p x) := by
  unfold takePlanes
  dsimp only
  split
  · exact JKeeps.ok h
  · split
    · exact JKeeps.fail h
    · exact JKeeps.ok (.folded h (fun _ _ h => h.bump))

protected theorem JKeeps.vectorActs (h : Keeps s x.s) {c : JC} {v : Nat} : JKeeps s (vectorActs c v x) := by
  unfold vectorActs
  dsimp only
  split
  · exact JKeeps.ok h
  · exact JKeeps.readActs h

protected theorem JKeeps.firstActs (h : Keeps s x.s) {p : Nat} {c : JC} : JKeeps s (firstActs p c x) := by
  unfold firstActs
  split
  · exact JKeeps.jthen (JKeeps.vectorActs h) (fun _ _ h => JKeeps.jmod h)
  · exact JKeeps.jret h

protected theorem Keeps.dropPlanes (h : Keeps s u) {p : Nat} {j : Job} : Keeps s (dropPlanes u p j) :=
  .folded h (fun _ _ h => h.wr.wr.ite h.wr)

protected theorem Keeps.serve (h : Keeps s u) {p : Nat} : Keeps s (serve u p) := by
  unfold serve
  dsimp only
  split
  · exact h.pickIfIdle.leaveContext.ite h.pickIfIdle
  · exact h.pickIfIdle

protected theorem Keeps.boundary (h : Keeps s u) {p : Nat} : Keeps s (boundary u p) :=
  h.upd.serve

protected theorem Keeps.putUnit (h : Keeps s u) {p n : Nat} {j : Job} : Keeps s (putUnit u p n j) :=
  h.putJob.boundary

protected theorem Keeps.failJob (h : Keeps s u) {p n : Nat} {j : Job} {st : Nat} : Keeps s (failJob u p n j st) :=
  (h.prog.ite h).putUnit

protected theorem Keeps.enqueue (h : Keeps s u) {p n : Nat} {j : Job} : Keeps s (enqueue u p n j) :=
  h.putJob.upd.setSlot.settle

protected theorem Keeps.startSlot (h : Keeps s u) {p n part : Nat} : Keeps s (startSlot u p n part).2 := by
  unfold startSlot
  split
  · exact h
  · split
    · exact h.prog
    · exact h.enqueue

@[simp] theorem kept_execStart {ini : Ini} {page slot : Nat} : Kept s (execStart ini page slot s) :=
  .next (Keeps.rfl.ite (Keeps.rfl.regRow (fun _ => Keeps.rfl.once (fun _ => Keeps.rfl.startSlot))))

protected theorem Keeps.fawnEnqueue (h : Keeps s u) {p ptr : Nat} : Keeps s (fawnEnqueue u p ptr) :=
  h.wr.enqueue

@[simp] theorem kept_execFawnSubmit {page ptr : Nat} : Kept s (execFawnSubmit page ptr s) :=
  .next (Keeps.rfl.ite Keeps.rfl.fawnEnqueue)

protected theorem Keeps.cancelSlot (h : Keeps s u) {p n : Nat} : Keeps s (cancelSlot u p n) := by
  unfold cancelSlot
  split
  · exact h
  · exact h.ite (h.setSlot.ite (h.setSlot.log.ite (h.setSlot.log.ite h.setSlot)).putUnit)

@[simp] theorem kept_execSlotCancel {ini : Ini} {page slot : Nat} : Kept s (execSlotCancel ini page slot s) :=
  .next (Keeps.rfl.ite (Keeps.rfl.regRow (fun _ => Keeps.rfl.ite Keeps.rfl.cancelSlot)))

protected theorem JKeeps.fetchDesc (h : Keeps s x.s) {p : Nat} {c : JC} : JKeeps s (fetchDesc p c x) :=
  JKeeps.jthen (JKeeps.jcheck h) (fun _ _ h => JKeeps.jthen (JKeeps.jread h) (fun _ _ h => JKeeps.jthen
    (JKeeps.jmod h) (fun _ _ h => JKeeps.jthen (JKeeps.jcheck h) (fun _ _ h => JKeeps.jthen (JKeeps.jstart h)
    (fun _ _ h => JKeeps.jthen (JKeeps.takePlanes h) (fun _ _ h => JKeeps.firstActs h))))))

@[simp] theorem kept_execDescriptorFetchDone {page slot : Nat} {hit : Hit} {host : Cells} :
    Kept s (execDescriptorFetchDone page slot hit host s) := by
  refine .next ?_
  split
  · exact .rfl
  · next j _ =>
    refine Keeps.rfl.ite ?_
    extract_lets go
    have starts : ∀ (x : JS) (f : Job → Job), Keeps s x.s → Keeps s
      (go x f) := fun _ _ h => h.lbLearn.putJob.setSlot.serve
    clear_value go
    have fetched : JKeeps s (fetchDesc page (jcOf page slot j hit host) { job := j, s := s }) :=
      .fetchDesc (x := { job := j, s := s }) Keeps.rfl
    split
    · exact starts _ _ fetched.done.found
    · exact .rfl
    · exact starts _ _ (fetched.failed.prog.ite fetched.failed)

protected theorem Keeps.unitCounts (h : Keeps s u) {p : Nat} {old new : Job} : Keeps s (unitCounts u p old new) := by
  unfold unitCounts
  split
  · exact h.bump.raise.ite h.bump
  · exact h.bump.bump
  · exact h

protected theorem Keeps.commitUnit (h₀ : Keeps s u) (h : Keeps s x.s) {p n : Nat} {c : JC} {ws : Writes} {old : Job} :
    Keeps s (commitUnit u p n c ws old x) := by
  have written : JKeeps s (jfold (fun _ w => jwrite c w) ws () x) := .jfold h fun _ _ _ h => .jwrite h
  unfold commitUnit
  split
  · exact written.done.unitCounts.putUnit
  · exact h₀
  · exact written.failed.failJob

protected theorem Keeps.missUnit (h : Keeps s u) {p n : Nat} {j : Job} {inj : Bool} : Keeps s (missUnit u p n j inj) :=
  (h.raiseI.perf.bump.ite h.raiseI.perf).putJob

@[simp] theorem kept_execUnitDone {page slot : Nat} {miss : UnitErr} {hit : Hit} {host : Cells} :
    Kept s (execUnitDone page slot miss hit host s) := by
  refine .next ?_
  split
  · exact .rfl
  · next j _ =>
    refine Keeps.rfl.ite ?_
    extract_lets c
    have ran : JKeeps s (unitRun page c { job := j, s := s }) := .unitRun (x := { job := j, s := s }) Keeps.rfl
    split
    · exact .rfl
    · exact ran.failed.failJob
    · exact ran.done.hit.missUnit.ite (Keeps.rfl.commitUnit ran.done.hit)

protected theorem Keeps.residueRec (h : Keeps s u) {p : Nat} {j : Job} {cls : Nat} {inj : Bool} :
    Keeps s (residueRec u p j cls inj).2 :=
  h.logI

protected theorem Keeps.lastingMiss (h : Keeps s u) {p n : Nat} {j : Job} {inj : Bool} :
    Keeps s (lastingMiss u p n j inj) :=
  (h.residueRec.doubtInj.ite h.residueRec.doubtByTag).putJob.fencePage.putUnit

protected theorem Keeps.commitVector (h₀ : Keeps s u) (h : Keeps s x.s) {p n : Nat} {c : JC} {r : ArrRun} {cls : Nat} :
    Keeps s (commitVector u p n c r cls x) := by
  unfold commitVector
  extract_lets a
  have written : JKeeps s (jfold (fun _ w => jwrite c w) (blockOf x.s p a x.job.units cls r) () x) :=
    .jfold h fun _ _ _ h => .jwrite h
  split
  · exact written.done.putUnit
  · exact h₀
  · exact written.failed.failJob

protected theorem Keeps.finishVector (h₀ : Keeps s u) (h : Keeps s x.s) {p n : Nat} {c : JC} {r : ArrRun} {cls : Nat}
    {res : List SumErr} : Keeps s (finishVector u p n c r cls res x) :=
  h.missUnit.ite (h₀.commitVector h)

protected theorem Keeps.checksumRec (h : Keeps s u) {p : Nat} {j : Job} {cls : Nat} {inj : Bool} {r : ArrRun} :
    Keeps s (checksumRec u p j cls inj r).2 :=
  h.logI

protected theorem Keeps.lastingVector (h : Keeps s u) {p n : Nat} {j : Job} {inj : Bool} {r : ArrRun} :
    Keeps s (lastingVector u p n j inj r) :=
  (h.bump.raiseI.checksumRec.doubtInj.ite h.bump.raiseI.checksumRec.doubt.doubtByTag).putJob.fencePage.putUnit

protected theorem Keeps.weightError (h : Keeps s u) {p n : Nat} {j : Job} {wtile : Nat} {inj : Bool} :
    Keeps s (weightError u p n j wtile inj) :=
  ((h.raiseI.ite h.raiseI.wr).logI.doubtInj.ite (h.raiseI.ite h.raiseI.wr).logI.doubt).failJob

protected theorem Keeps.arrayRun (h : Keeps s u) {p : Nat} {j : Job} {fork : Nat} {upset : Cells} :
    Keeps s (arrayRun u p j fork upset).2.1 :=
  h.hit

protected theorem Keeps.weightEcc (h : Keeps s u) {p : Nat} {j : Job} {e : Ecc} : Keeps s (weightEcc u p j e).2.2 := by
  unfold weightEcc
  dsimp only
  split
  · exact h.hit
  · exact h.hit.hit.raiseI.noticeOn.ite h.hit.hit

protected theorem JKeeps.nextActs (h : Keeps s x.s) {c : JC} : JKeeps s (nextActs c x) :=
  JKeeps.jthen (JKeeps.vectorActs h) (fun _ _ h => JKeeps.jmod h)

@[simp] theorem kept_execVectorDone {page slot wtile : Nat} {wecc : Ecc} {upset : Cells} {res : List SumErr} {hit : Hit}
    {host : Cells} : Kept s (execVectorDone page slot wtile wecc upset res hit host s) := by
  refine .next ?_
  split
  · exact .rfl
  · next j _ =>
    refine Keeps.rfl.ite ?_
    extract_lets c
    have acts : JKeeps s (nextActs c { job := j, s := s }) := .nextActs (x := { job := j, s := s }) Keeps.rfl
    split
    · exact .rfl
    · exact acts.failed.failJob
    · next x _ =>
      extract_lets w
      have weights : Keeps s w.2.2 := acts.done.weightEcc
      refine weights.weightError.ite ?_
      have ran : Keeps s (arrayRun w.2.2 page x.job (passOf j).fork upset).2.1 := weights.arrayRun
      exact ran.bump.perf.putJob.ite (Keeps.rfl.finishVector ran)

@[simp] theorem kept_execReplayDone {page slot wtile : Nat} {wecc : Ecc} {upset : Cells} {res : List SumErr} {hit : Hit}
    {host : Cells} : Kept s (execReplayDone page slot wtile wecc upset res hit host s) := by
  refine .next ?_
  split
  · exact .rfl
  · next j _ =>
    refine Keeps.rfl.ite ?_
    extract_lets w
    have weights : Keeps s w.2.2 := Keeps.rfl.weightEcc
    have ran := weights.arrayRun (p := page) (j := j) (fork := (passOf j).fork) (upset := upset)
    exact weights.weightError.ite ((ran.lastingVector.ite (Keeps.rfl.finishVector ran.bump.raiseI.checksumRec)).ite
      ran.putJob)

@[simp] theorem kept_execForkRunDone {page slot wtile : Nat} {wecc : Ecc} {upset : Cells} {res : List SumErr}
    {hit : Hit}
    {host : Cells} : Kept s (execForkRunDone page slot wtile wecc upset res hit host s) := by
  refine .next ?_
  split
  · exact .rfl
  · next j _ =>
    refine Keeps.rfl.ite ?_
    extract_lets w
    have weights : Keeps s w.2.2 := Keeps.rfl.weightEcc
    have ran := weights.arrayRun (p := page) (j := j) (fork := (passOf j).fork ^^^ 0x80) (upset := upset)
    exact weights.weightError.ite (ran.lastingVector.ite (Keeps.rfl.finishVector ran.bump.raise.noticeOn.checksumRec))

@[simp] theorem kept_execUnitRecomputeDone {page slot : Nat} {miss : UnitErr} {hit : Hit} {host : Cells} :
    Kept s (execUnitRecomputeDone page slot miss hit host s) := by
  refine .next ?_
  split
  · exact .rfl
  · next j _ =>
    refine Keeps.rfl.ite ?_
    extract_lets c
    have ran : JKeeps s (if pageKind page = some .sta then .ok [] { job := j, s := s }
        else unitRun page c { job := j, s := s }) := by
      split
      · exact .ok Keeps.rfl
      · exact .unitRun (x := { job := j, s := s }) Keeps.rfl
    split
    · exact .rfl
    · exact ran.failed.residueRec.failJob
    · next x _ =>
      extract_lets h raised counted
      have missed : Keeps s raised := ran.done.hit.raiseI
      have again : Keeps s (residueRec h.2.2 page x.job 1 j.missInj).2 := ran.done.hit.residueRec
      refine (missed.bump.ite missed).lastingMiss.ite ?_
      exact (Keeps.rfl.commitVector again).ite (Keeps.rfl.commitUnit again)

protected theorem Keeps.lastCounters (h : Keeps s u) {p n : Nat} {j : Job} : Keeps s (lastCounters u p n j) :=
  h.wr.wr.wr

protected theorem Keeps.endEffects (h : Keeps s u) {p : Nat} {j : Job} : Keeps s (endEffects u p j).2 := by
  unfold endEffects
  dsimp only
  split
  · split
    · exact h.raise.doubtByTag.ite h.raise
    · exact h
  · exact h.flowEnd
  · split
    · exact (h.raise.ite h).bump.raise.doubtByTag
    · exact h.raise.ite h
  · exact h

protected theorem Keeps.countTimeout (h : Keeps s u) {p n st inc : Nat} : Keeps s (countTimeout u p n st inc) :=
  (h.upd.fencePage.ite h.upd).ite h.upd

protected theorem Keeps.endJob (h : Keeps s u) {p n cycles st : Nat} {j : Job} :
    Keeps s (endJob u p n cycles st j) := by
  unfold endJob
  have effects : Keeps s (if st = stOk then endEffects u p j else (j, u)).2 := .ite₂ h.endEffects h
  generalize (if st = stOk then endEffects u p j else (j, u)) = x at effects
  obtain ⟨j', v⟩ := x
  dsimp -zeta only at effects ⊢
  extract_lets ended counted marked failed timed waiting
  have fails : Keeps s failed := effects.putJob.lastCounters.perf.ite effects.putJob.lastCounters.perf.perf
  have times : Keeps s timed := fails.raise.ite fails
  exact (times.setSlot.raise.ite times).countTimeout.serve

@[simp] theorem kept_execJobEnd {page slot cycles : Nat} : Kept s (execJobEnd page slot cycles s) := by
  refine .next ?_
  split
  · exact Keeps.rfl
  · split
    · exact Keeps.rfl
    · split
      · exact Keeps.rfl.endJob.ite Keeps.rfl
      · exact Keeps.rfl.endJob.ite Keeps.rfl

@[simp] theorem kept_execJobDrainDone {page slot cycles : Nat} : Kept s (execJobDrainDone page slot cycles s) := by
  refine .next ?_
  split
  · exact Keeps.rfl
  · split
    · exact Keeps.rfl
    · split
      · exact Keeps.rfl.endJob
      · exact Keeps.rfl

@[simp] theorem kept_execJobBudgetExpiry {page slot : Nat} : Kept s (execJobBudgetExpiry page slot s) := by
  refine .next ?_
  split
  · exact Keeps.rfl
  · exact Keeps.rfl.ite (Keeps.rfl.logI.residueRec.ite (Keeps.rfl.logI.checksumRec.ite
      Keeps.rfl.logI)).doubtByTag.putUnit

protected theorem Keeps.nodeJobEnd (h : Keeps s u) {j : Job} {st : Nat} : Keeps s (nodeJobEnd u j st) := by
  unfold nodeJobEnd
  split
  · exact h
  · split
    · exact h
    · exact h.modExec.ite (h.log.ite h).finishExec

protected theorem Keeps.freeSlot (h : Keeps s u) {p n : Nat} {j : Job} : Keeps s (freeSlot u p n j) :=
  h.setSlot.upd.dropPlanes.upd.settle.serve

@[simp] theorem kept_execCompletionRecordDone {page slot : Nat} {hit : Hit} :
    Kept s (execCompletionRecordDone page slot hit s) := by
  refine .next ?_
  dsimp only
  split
  · exact Keeps.rfl
  · split
    · exact Keeps.rfl
    · split
      · exact Keeps.rfl
      · split
        · exact ((Keeps.rfl.upd.ite Keeps.rfl).writeAll.got₃.wr.bump.semPost.ite
            (Keeps.rfl.upd.ite Keeps.rfl).writeAll.got₃.wr.bump).freeSlot.nodeJobEnd
        · exact (Keeps.rfl.upd.ite Keeps.rfl).writeAll.got₃.freeSlot.nodeJobEnd

/-! ### Planes -/

protected theorem Keeps.setMd (h : Keeps s u) {p : Nat} {bs : List Byte} : Keeps s (setMd u p bs) :=
  .folded h (fun _ _ h => h.wr)

protected theorem Keeps.armPlane (h : Keeps s u) {p n : Nat} : Keeps s (armPlane u p n).2 := by
  unfold armPlane
  dsimp only
  split
  · exact h.wr
  · exact h.prog

@[simp] theorem kept_execArm {ini : Ini} {page plane : Nat} : Kept s (execArm ini page plane s) :=
  .next (Keeps.rfl.ite (Keeps.rfl.regRow (fun _ => Keeps.rfl.armPlane)))

@[simp] theorem kept_execRetire {ini : Ini} {page plane : Nat} : Kept s (execRetire ini page plane s) :=
  .next (Keeps.rfl.ite (Keeps.rfl.regRow (fun _ => Keeps.rfl.wr.ite Keeps.rfl)))

protected theorem Keeps.queuePush (h : Keeps s u) {o : Push} : Keeps s (queuePush u o) :=
  h.upd.wr

protected theorem Keeps.pushOrder (h : Keeps s u) {part : Nat} : Keeps s (pushOrder u part).2 := by
  unfold pushOrder
  dsimp only
  split
  · exact h.raise
  · split
    · exact h.prog
    · exact h.queuePush

@[simp] theorem kept_execPushGo {ini : Ini} : Kept s (execPushGo ini s) :=
  .next (Keeps.rfl.regRow (fun _ => Keeps.rfl.once (fun _ => Keeps.rfl.pushOrder)))

@[simp] theorem kept_execPushOrderStart {hit : Hit} {host : Cells} : Kept s (execPushOrderStart hit host s) := by
  refine .next ?_
  split
  · exact .rfl
  · next o rest _ =>
    refine Keeps.rfl.ite ?_
    extract_lets _ started t
    have read : Keeps s (readAll started t (pgSta 0) 0 o.src planeBytes hit host 0).2.2 := Keeps.rfl.upd.wr.readAll
    generalize readAll started t (pgSta 0) 0 o.src planeBytes hit host 0 = x at read
    obtain ⟨r, _, v⟩ := x
    have digest : ∀ {w : State} {bytes : List Byte}, Keeps s w → Keeps s (if o.dig = 0 then (false, w) else
        match readAll w t (pgSta 0) 0 o.dig 48 cleanHit host 0 with
        | (.ok bs, _, s) => (bs != shaBytes bytes, s)
        | (_, _, s) => (true, s)).2 := by
      intro w bytes h
      refine .ite₂ h ?_
      split
      · next e => exact h.readAll.got₂ e
      · next e => exact h.readAll.got₂ e
    cases r with
    | ok bs => exact .upd (digest read)
    | denied _ => exact .upd (digest read.freeBytes)
    | uncorr _ => exact .upd (digest read.freeBytes)
    | timeout _ => exact .upd (digest read.freeBytes)

protected theorem Keeps.pushNodeEnd (h : Keeps s u) {o : Push} : Keeps s (pushNodeEnd u o) := by
  unfold pushNodeEnd
  split
  · exact h
  · exact h.finishExec.ite h

protected theorem Keeps.captureEnds (h : Keeps s u) {a : Nat} {slots bads : List Nat} :
    Keeps s (captureEnds u a slots bads) :=
  .folded h.upd (fun _ _ h => h.pushNodeEnd)

@[simp] theorem kept_execPlaneArrival {page : Nat} : Kept s (execPlaneArrival page s) := by
  refine .next ?_
  dsimp only
  split
  · exact Keeps.rfl
  · split
    · exact Keeps.rfl
    · split
      · exact Keeps.rfl.upd.wr.wr
      · exact Keeps.rfl.upd.wr

protected theorem Keeps.capture (h : Keeps s u) {p n : Nat} {t : Transit} : Keeps s (capture u p n t) :=
  h.upd.wr.raise.ite h.upd.wr

@[simp] theorem kept_execPlaneCaptureEnd {page : Nat} {poison : Bool} : Kept s (execPlaneCaptureEnd page poison s) := by
  refine .next ?_
  dsimp only
  split
  · exact Keeps.rfl
  · split
    · exact Keeps.rfl
    · exact .captureEnds (.folded Keeps.rfl.upd.wr (fun _ _ h => h.capture))

@[simp] theorem kept_execPushOrderEnd : Kept s (execPushOrderEnd s) := by
  refine .next ?_
  split
  · exact Keeps.rfl
  · exact Keeps.rfl.upd.bump.setMd.bump.pushNodeEnd

/-! ### Channels -/

protected theorem Keeps.putChan (h : Keeps s u) {c : Nat} {k : Chan} : Keeps s (u.putChan c k) :=
  h.upd

protected theorem Keeps.setChSt (h : Keeps s u) {c st : Nat} : Keeps s (u.setChSt c st) :=
  h.wr

protected theorem Keeps.sendPrg (h : Keeps s u) {fn u' addr : Nat} : Keeps s (sendPrg u fn u' addr).2 := by
  unfold sendPrg
  dsimp only
  split
  · exact h.upd.bump.bump
  · exact h

protected theorem Keeps.chPace (h : Keeps s u) {c : Nat} : Keeps s (chPace u c) :=
  h.wr.ite (h.wr.ite (h.wr.ite h))

protected theorem Keeps.chBuf (h : Keeps s u) {c : Nat} : Keeps s (chBuf u c) :=
  h.wr.chPace

protected theorem Keeps.chRest (h : Keeps s u) {c st : Nat} : Keeps s (chRest u c st) := by
  unfold chRest
  dsimp only
  split
  · exact h.setChSt.settle.putChan.chBuf.finishExec
  · exact h.setChSt.settle.putChan.chBuf

protected theorem Keeps.chFetch (h : Keeps s u) {c a : Nat} : Keeps s (chFetch u c a) :=
  (h.setChSt.settle.wr.ite h.setChSt.settle.wr.wr).putChan

protected theorem Keeps.chNext (h : Keeps s u) {c : Nat} : Keeps s (chNext u c) := by
  unfold chNext
  dsimp only
  split
  · exact h.putChan.putChan.chRest
  · split
    · exact h.putChan.chRest.ite h.putChan.chFetch
    · split
      · exact h.putChan.chRest
      · split
        · exact h.putChan.chFetch
        · exact h.putChan.wr.putChan.ite ((h.putChan.setChSt.wr.ite h.putChan.setChSt.wr.event).ite h.putChan.chRest)

protected theorem Keeps.chFin (h : Keeps s u) {c : Nat} : Keeps s (chFin u c) :=
  ((h.putChan.bump.perf.ite h.putChan.bump.perf.bump.perf.raise.event).event.ite
    (h.putChan.bump.perf.ite h.putChan.bump.perf.bump.perf.raise.event)).countTimeout.ite
    ((h.putChan.bump.perf.ite h.putChan.bump.perf.bump.perf.raise.event).event.ite
    (h.putChan.bump.perf.ite h.putChan.bump.perf.bump.perf.raise.event)).countTimeout.chNext

protected theorem Keeps.chRec (h : Keeps s u) {c : Nat} : Keeps s (chRec u c) :=
  (h.putChan.setChSt.raise.ite h.putChan).ite h.chFin

protected theorem Keeps.chWb (h : Keeps s u) {c : Nat} : Keeps s (chWb u c) :=
  h.putChan.ite h.chRec

protected theorem Keeps.chTail (h : Keeps s u) {c : Nat} : Keeps s (chTail u c) :=
  h.wr.putChan.chWb.ite h.chWb

protected theorem Keeps.chFlush (h : Keeps s u) {c : Nat} : Keeps s (chFlush u c) :=
  h.putChan.ite h.chTail

protected theorem Keeps.chAbandon (h : Keeps s u) {c st : Nat} : Keeps s (chAbandon u c st) :=
  h.bump.bump.wr.putChan.chBuf.chFlush.ite (h.bump.bump.wr.putChan.chBuf.setChSt.ite h.bump.bump.wr.putChan.chBuf)

protected theorem Keeps.chHalt (h : Keeps s u) {c : Nat} {write : Bool} {a : Nat} : Keeps s (chHalt u c write a) := by
  unfold chHalt
  extract_lets p k fn marked halted
  have marks : Keeps s marked := h.wr.wr.wr
  refine .ite ?_ marks.putChan.chAbandon
  have asked : Keeps s (sendPrg marked fn c a).2 := marks.sendPrg
  generalize sendPrg marked fn c a = x at asked
  obtain ⟨i, v⟩ := x
  cases i
  · exact asked.wr.putChan
  · exact asked.wr.wr.putChan

protected theorem Keeps.chPump (h : Keeps s u) {n c : Nat} : Keeps s (chPump n u c) := by
  induction n generalizing u with
  | zero => exact h
  | succ n ih =>
    unfold chPump
    dsimp only
    split
    · split
      · exact ih h.chPace.putChan
      · exact h.chPace
      · exact h.chPace.chHalt
    · exact h.chPace

protected theorem Keeps.chFailed (h : Keeps s u) {c kind : Nat} {r : FabResp} : Keeps s (chFailed u c kind r) := by
  unfold chFailed
  split
  · exact h.putChan.chAbandon
  · exact h.putChan

protected theorem Keeps.chHalf (h : Keeps s u) {c : Nat} : Keeps s (chHalf u c) :=
  (h.putChan.event.ite h.putChan).ite h

protected theorem Keeps.chPut (h : Keeps s u) {c : Nat} {line : List Byte} {w : Resp} : Keeps s (chPut u c line w) := by
  unfold chPut
  dsimp only
  split
  · exact h
  · exact h.chHalt
  · split
    · exact h.tryWrite.got.perfWr.bump.putChan.chBuf.chHalf
    · exact h.tryWrite.got.perfWr.chFailed

protected theorem Keeps.chServed (h : Keeps s u) {c : Nat} : Keeps s (chServed u c) :=
  h.upd

protected theorem Keeps.chConst (h : Keeps s u) {c : Nat} : Keeps s (chConst u c) :=
  h.bump.putChan.chBuf.ite h

protected theorem Keeps.chWrites (h : Keeps s u) {n c : Nat} {w : Resp} {bad : Bool} :
    Keeps s (chWrites n u c w bad) := by
  induction n generalizing u w bad with
  | zero => exact h
  | succ n ih =>
    unfold chWrites
    exact h.ite (h.raise.putChan.ite (h.chConst.chServed.chPut.ite (ih h.chConst.chServed.chPut)))

protected theorem Keeps.chEnter (h : Keeps s u) {c : Nat} {bs : List Byte} : Keeps s (chEnter u c bs) :=
  h.bump.putChan.chBuf

protected theorem Keeps.chGet (h : Keeps s u) {c b : Nat} {r : Resp} {host : Cells} : Keeps s (chGet u c b r host).2 :=
  h.tryRead.perfRd

@[simp] theorem kept_execSmvReadResponse {c : Nat} {r : Resp} {writes : Nat} {w : Resp} {bufBad : Bool} {host : Cells} :
    Kept s (execSmvReadResponse c r writes w bufBad host s) := by
  refine .next ?_
  dsimp only
  split
  · exact Keeps.rfl
  · split
    · exact Keeps.rfl.chWrites.chPump
    · split
      · exact Keeps.rfl.chGet.got.chEnter.chWrites.chPump
      · exact Keeps.rfl.chGet.got.chFailed

protected theorem Keeps.chRetryRec (h : Keeps s u) {c cls a : Nat} : Keeps s (chRetryRec u c cls a) :=
  h.logI.putChan

protected theorem Keeps.chRetried (h : Keeps s u) {c a : Nat} : Keeps s (chRetried u c a) :=
  h.bump.chRetryRec.putChan

protected theorem Keeps.chLost (h : Keeps s u) {c a : Nat} {r : FabResp} : Keeps s (chLost u c a r) := by
  unfold chLost
  split
  · exact h.putChan.chRetryRec.raise.chAbandon
  · exact h.putChan.chRetryRec.chAbandon

@[simp] theorem kept_execSmvTransferFail {c : Nat} {r : Resp} {host : Cells} :
    Kept s (execSmvTransferFail c r host s) := by
  refine .next ?_
  dsimp only
  split
  · exact Keeps.rfl
  · split
    · exact Keeps.rfl
    · split
      · split
        · exact Keeps.rfl.perf.chGet.got.chRetried.chEnter.chPump
        · exact Keeps.rfl.perf.chGet.got.chAbandon
        · exact Keeps.rfl.perf.chGet.got.chLost
      · split
        · split
          · exact Keeps.rfl.perf.putChan.chPut.chLost
          · exact Keeps.rfl.perf.putChan.chPut.ite Keeps.rfl.perf.putChan.chPut.bump.chRetryRec.putChan.chPump
        · split
          · exact Keeps.rfl.perf.chRetried.ite Keeps.rfl.perf.chRetryRec.fencePage.chAbandon
          · split
            · exact Keeps.rfl.perf.chGet.got.chRetried.putChan
            · exact Keeps.rfl.perf.chGet.got.chRetryRec.fencePage.chAbandon

@[simp] theorem kept_execSmvCompletionPoint {c : Nat} {w : Resp} {bufBad : Bool} :
    Kept s (execSmvCompletionPoint c w bufBad s) :=
  .next (Keeps.rfl.ite (Keeps.rfl.chWrites.chFlush.ite Keeps.rfl.chWrites))

protected theorem Keeps.chRun (h : Keeps s u) {c a : Nat} {bs : List Byte} {t0 : Nat} {re : Bool} :
    Keeps s (chRun u c a bs t0 re) :=
  (h.putChan.putChan.chFlush.ite h.putChan.wr.putChan.chRest).ite (h.putChan.bump.raise.setChSt.putChan.ite
    (h.putChan.prog.putChan.chRest.ite (h.putChan.found.putChan.chFlush.ite h.putChan.found.putChan.chPump)))

protected theorem Keeps.chNoDesc (h : Keeps s u) {c : Nat} {r : FabResp} : Keeps s (chNoDesc u c r) :=
  h.raise.event.putChan.chRest

protected theorem Keeps.chAgain (h : Keeps s u) {c : Nat} {re : Bool} : Keeps s (chAgain u c re) :=
  h.bump.ite h

protected theorem Keeps.chReadDesc (h : Keeps s u) {c a : Nat} {hit : Hit} {host : Cells} :
    Keeps s (chReadDesc u c a hit host) := by
  unfold chReadDesc
  split
  · exact h.readAll.got₂.chAgain.chRun
  · exact h.readAll.got₂.chNoDesc

@[simp] theorem kept_execSmvDescFetch {c : Nat} {hit : Hit} {host : Cells} :
    Kept s (execSmvDescFetch c hit host s) := by
  refine .next ?_
  dsimp only
  split
  · exact Keeps.rfl
  · split
    · split
      · exact Keeps.rfl.chRun.ite Keeps.rfl.chReadDesc
      · exact Keeps.rfl.chReadDesc
    · split
      · exact Keeps.rfl
      · split
        · exact Keeps.rfl.readAll.got₂.chAgain.wr.putChan
        · exact Keeps.rfl.readAll.got₂

@[simp] theorem kept_execFlushDone {c : Nat} {hit : Hit} {host : Cells} : Kept s (execFlushDone c hit host s) := by
  refine .next ?_
  dsimp only
  split
  · exact Keeps.rfl
  · split
    · exact Keeps.rfl.readAll.got₂.chAgain.putChan.chTail
    · exact Keeps.rfl.readAll.got₂.putChan.chTail

@[simp] theorem kept_execWriteBackDone {c : Nat} {hit : Hit} : Kept s (execWriteBackDone c hit s) := by
  refine .next ?_
  extract_lets p k
  refine Keeps.rfl.ite ?_
  have written : Keeps s (writeAll s (chTag s c) p k.tag (k.addr + 0x30)
    (chGroup s c k) hit k.inc).2.2.2 := Keeps.rfl.writeAll
  generalize writeAll s (chTag s c) p k.tag (k.addr + 0x30) (chGroup s c k) hit k.inc = x at written
  obtain ⟨r, re, _, v⟩ := x
  cases r
  all_goals exact (written.wr.ite written).chAgain.putChan.chRec

@[simp] theorem kept_execSmvRecordDone {c : Nat} {hit : Hit} : Kept s (execSmvRecordDone c hit s) := by
  refine .next ?_
  dsimp only
  split
  · exact Keeps.rfl
  · split
    · exact (Keeps.rfl.setChSt.ite Keeps.rfl).writeAll.got₃.chAgain.wr.chFin
    · exact (Keeps.rfl.setChSt.ite Keeps.rfl).writeAll.got₃.chFin

@[simp] theorem kept_execTailRereadData {c : Nat} {hit : Hit} {host : Cells} :
    Kept s (execTailRereadData c hit host s) := by
  refine .next ?_
  dsimp only
  split
  · exact Keeps.rfl
  · split
    · split
      · exact (Keeps.rfl.readAll.got₂.chAgain.putChan.ite
          Keeps.rfl.readAll.got₂.chAgain).prog.putChan.putChan.chNext.ite
          (Keeps.rfl.readAll.got₂.chAgain.putChan.ite Keeps.rfl.readAll.got₂.chAgain).prog.putChan.putChan
      · split
        · exact (Keeps.rfl.readAll.got₂.chAgain.putChan.ite Keeps.rfl.readAll.got₂.chAgain).putChan.chNext.ite
            (Keeps.rfl.readAll.got₂.chAgain.putChan.ite Keeps.rfl.readAll.got₂.chAgain).putChan
        · exact (Keeps.rfl.readAll.got₂.chAgain.putChan.ite Keeps.rfl.readAll.got₂.chAgain).wr.ite
            ((Keeps.rfl.readAll.got₂.chAgain.putChan.ite Keeps.rfl.readAll.got₂.chAgain).putChan.chNext.ite
            (Keeps.rfl.readAll.got₂.chAgain.putChan.ite Keeps.rfl.readAll.got₂.chAgain).putChan)
    · exact Keeps.rfl.readAll.got₂.raise.event.putChan.putChan.chNext.ite
        Keeps.rfl.readAll.got₂.raise.event.putChan.putChan

protected theorem Keeps.chDoorbell (h : Keeps s u) {c v : Nat} : Keeps s (chDoorbell u c v) := by
  unfold chDoorbell
  extract_lets p n head tail st started begun
  have begins : Keeps s begun := h.wr.putChan
  split
  · generalize hx : (if v % 131072 = tail then (true, u) else _ : Bool × State) = x
    have tailed : Keeps s x.2 := by
      subst hx
      exact .ite₂ h (.ite₂ h.raise h.wr)
    exact tailed.chFetch.ite (tailed.putChan.chFetch.ite tailed)
  · exact h.ite (begins.chFetch.ite h.raise)

protected theorem Keeps.chExtend (h : Keeps s u) {c : Nat} : Keeps s (chExtend u c) :=
  h.bump.ite (h.setChSt.settle.wr.putChan.ite (h.wr.ite h.bump))

protected theorem Keeps.chDoor (h : Keeps s u) {ini : Ini} {bar4 : Bool} {c off bar : Nat} {k : State → State}
    (hk : ∀ v, Keeps v (k v)) : Keeps s (chDoor u ini bar4 c off bar k) := by
  unfold chDoor
  split
  · exact h
  · split
    · split
      · exact h.doorbell hk
      · exact h
    · exact h.regRow hk

@[simp] theorem kept_execStartDb {ini : Ini} {bar4 : Bool} {c value : Nat} : Kept s (execStartDb ini bar4 c value s) :=
  .next (Keeps.rfl.chDoor (fun _ => Keeps.rfl.chDoorbell))

@[simp] theorem kept_execRingDoorbell {ini : Ini} {bar4 : Bool} {c value : Nat} :
    Kept s (execRingDoorbell ini bar4 c value s) :=
  .next (Keeps.rfl.chDoor (fun _ => Keeps.rfl.chDoorbell))

@[simp] theorem kept_execExtend {ini : Ini} {bar4 : Bool} {c : Nat} : Kept s (execExtend ini bar4 c s) :=
  .next (Keeps.rfl.chDoor (fun _ => Keeps.rfl.chExtend))

@[simp] theorem kept_execSmvBudgetExpiry {c : Nat} : Kept s (execSmvBudgetExpiry c s) :=
  .next (Keeps.rfl.ite (Keeps.rfl.logI.putChan.chRetryRec.ite Keeps.rfl.logI.putChan).raise.chAbandon)

protected theorem Keeps.cancelChan (h : Keeps s u) {c : Nat} : Keeps s (cancelChan u c) :=
  ((h.chRest.ite h.putChan.chFetch).ite h.chRest).ite (h.putChan.ite
    ((((h.putChan.chRest.ite h.putChan.putChan.chFetch).ite h.putChan.chRest).ite
    ((h.chRetryRec.ite h).putChan.chAbandon.ite h.putChan)).ite h))

@[simp] theorem kept_execChannelCancel {ini : Ini} {c : Nat} : Kept s (execChannelCancel ini c s) :=
  .next (Keeps.rfl.ite (Keeps.rfl.regRow (fun _ => Keeps.rfl.cancelChan)))

protected theorem Keeps.disableChan (h : Keeps s u) {c : Nat} : Keeps s (disableChan u c) := by
  unfold disableChan
  dsimp only
  exact h.wr.ite (h.free.free.free.free.wr.wr.wr.wr.wr.wr.wr.setChSt.wr.ite
    h.free.free.free.free.wr.wr.wr.wr.wr.wr.wr.setChSt.wr.wr).putChan

@[simp] theorem kept_execChannelDisable {ini : Ini} {c : Nat} : Kept s (execChannelDisable ini c s) :=
  .next (Keeps.rfl.ite (Keeps.rfl.regRow (fun _ => Keeps.rfl.disableChan)))

@[simp] theorem kept_execChannelDrainDone {c : Nat} : Kept s (execChannelDrainDone c s) :=
  .next (Keeps.rfl.ite ((Keeps.rfl.setChSt.putChan.ite Keeps.rfl.setChSt.putChan.wr).ite
    ((Keeps.rfl.setChSt.ite Keeps.rfl).putChan.chFlush.ite Keeps.rfl)))

protected theorem Keeps.endLostNode (h : Keeps s u) {c : Nat} : Keeps s (endLostNode u c) := by
  unfold endLostNode
  dsimp only
  split
  · exact h.putChan.finishExec
  · exact h

protected theorem Keeps.enableChan (h : Keeps s u) {c : Nat} : Keeps s (enableChan u c) :=
  h.wr.wr.wr.wr.wr.setChSt.endLostNode.putChan

protected theorem Keeps.cancelNode (h : Keeps s u) {c : Nat} : Keeps s (cancelNode u c) :=
  h.cancelChan.ite h.endLostNode

protected theorem Keeps.chEmptied (h : Keeps s u) {c : Nat} : Keeps s (chEmptied u c) :=
  h.ite (h.chRest.ite h.putChan)

protected theorem Keeps.smvDispatch (h : Keeps s u) {key part page ptr : Nat} {t : State}
    (e : smvDispatch u key part page ptr = some t := by assumption) : Keeps s t := by
  unfold smvDispatch at e
  dsimp only at e
  split at e
  · cases e
  · cases e
    exact h.wr.bump.putChan.chFetch

/-! ### Queues -/

protected theorem Keeps.putPq (h : Keeps s u) {q : Nat} {k : Pq} : Keeps s (u.putPq q k) :=
  h.upd

protected theorem Keeps.setQSt (h : Keeps s u) {q st : Nat} : Keeps s (u.setQSt q st) :=
  h.wr

protected theorem Keeps.qRest (h : Keeps s u) {q : Nat} : Keeps s (qRest u q) :=
  h.setQSt.settle.putPq

protected theorem Keeps.qWriteRec (h : Keeps s u) {q st bytes : Nat} {z : Hit} :
    Keeps s (qWriteRec u q st bytes z) := by
  unfold qWriteRec
  dsimp only
  split
  · exact (h.writeAll.got₃.bump.ite h.writeAll.got₃).wr.event.qRest
  · exact h.writeAll.got₃.qRest

protected theorem Keeps.qFinish (h : Keeps s u) {q st bytes : Nat} {z : Hit} : Keeps s (qFinish u q st bytes z) :=
  ((h.perf.ite h.perf.perf.event).countTimeout.setQSt.raise.putPq.ite
    (h.perf.ite h.perf.perf.event).countTimeout.qWriteRec).ite (h.perf.ite h.perf.perf.event).countTimeout.qRest

protected theorem Keeps.qRelease (h : Keeps s u) {q v : Nat} : Keeps s (qRelease u q v) :=
  h.bump.ite (h.ite (h.prog.ite h.wr.wr.bump))

protected theorem Keeps.qLetGo (h : Keeps s u) {q : Nat} : Keeps s (qLetGo u q) :=
  .folded h.putPq (fun _ _ h => h.qRelease)

protected theorem Keeps.qBegin (h : Keeps s u) {q st : Nat} {cancel : Bool} : Keeps s (qBegin u q st cancel) :=
  h.qLetGo.wr.wr.wr.setQSt.putPq

protected theorem Keeps.qTryEnd (h : Keeps s u) {q : Nat} {z : Hit} : Keeps s (qTryEnd u q z) :=
  h.qFinish.ite h

protected theorem Keeps.qHalt (h : Keeps s u) {q n off a : Nat} : Keeps s (qHalt u q n off a) := by
  unfold qHalt
  dsimp only
  split
  · refine .putPq ?_
    split
    · exact h.wr.wr.wr.bump.setQSt.event.sendPrg.wr
    · exact h.wr.wr.wr.bump.setQSt.event.sendPrg
  · exact h.wr.wr.wr.bump.setQSt.event.putPq.qBegin

protected theorem Keeps.qPublish (h : Keeps s u) {n q : Nat} : Keeps s (qPublish n u q) := by
  induction n generalizing u with
  | zero => exact h
  | succ n ih =>
    unfold qPublish
    exact (ih h.wr.putPq).ite h

protected theorem Keeps.qLand (h : Keeps s u) {q e n : Nat} : Keeps s (qLand u q e n) :=
  h.putPq.wr.bump.ite h.putPq

protected theorem Keeps.qAdvance (h : Keeps s u) {q n : Nat} : Keeps s (qAdvance u q n) :=
  h.wr.putPq

protected theorem Keeps.qPut (h : Keeps s u) {q a : Nat} {bs : List Byte} {z : Hit} :
    Keeps s (qPut u q a bs z).2.2 := by
  unfold qPut
  dsimp only
  split
  · exact h.writeAll.got₃.bump.putPq.ite h.writeAll.got₃
  · exact h.writeAll.got₃.putPq.raise.ite h.writeAll.got₃.putPq

protected theorem Keeps.qZero (h : Keeps s u) {q n : Nat} {z : Hit} : Keeps s (qZero u q n z).2 := by
  unfold qZero
  dsimp only
  split
  · exact h.qPut.got₂.qBegin
  · exact h.qPut.got₂.bump.qLand.qPublish.qAdvance

protected theorem Keeps.qIssue (h : Keeps s u) {q n a dest : Nat} : Keeps s (qIssue u q n a dest) :=
  (h.bump.ite h).bump.perf.putPq.putPq.ite (h.bump.ite h).bump.perf.putPq.qAdvance

protected theorem Keeps.qPump (h : Keeps s u) {n q : Nat} {z : Hit} : Keeps s (qPump n u q z).2 := by
  induction n generalizing u z with
  | zero => exact h
  | succ n ih =>
    unfold qPump
    extract_lets p k at' full next
    refine .ite₂ h ?_
    split
    · extract_lets a
      split
      · exact ih h.perf.putPq
      · exact h
      · exact h.qHalt
    · refine .ite₂ ?_ h
      split
      · exact h
      · exact h.prog.qBegin
      · exact .ite₂ (ih h.qZero) h
      · refine .ite₂ h ?_
        split
        · exact ih h.qIssue
        · exact h
        · exact h.qHalt

protected theorem Keeps.qGo (h : Keeps s u) {q : Nat} {z : Hit} : Keeps s (qGo u q z) := by
  unfold qGo
  dsimp only
  exact h.qPump.qTryEnd

protected theorem Keeps.landOne (h : Keeps s u) {q e : Nat} {r : PqReq} {bs : List Byte} {n : Nat} {z : Hit} :
    Keeps s (landOne u q e r bs n z).2.2 := by
  unfold landOne
  extract_lets lo skip part
  split
  · next put => exact (h.qPut.got₂ put).qLand
  · exact h.qPut

protected theorem Keeps.qLanding (h : Keeps s u) {q : Nat} {r : PqReq} {bs : List Byte} {z : Hit} :
    Keeps s (qLanding u q r bs z) := by
  unfold qLanding
  dsimp only
  split
  · exact h.putPq.qGo
  · split
    · refine .qBegin (.folded₃ h (fun ⟨_, _, _⟩ _ h => ?_))
      split
      · exact h
      · exact h.landOne
    · refine .qGo (.qPublish (.folded₃ h (fun ⟨_, _, _⟩ _ h => ?_)))
      split
      · exact h
      · exact h.landOne

protected theorem Keeps.qTake (h : Keeps s u) {q i : Nat} : Keeps s (qTake u q i) :=
  h.putPq

protected theorem Keeps.qAttempt (h : Keeps s u) {q : Nat} {r : PqReq} {x : Resp} {host : Cells} :
    Keeps s (qAttempt u q r x host).2 :=
  h.tryRead.perf.ite h.tryRead

protected theorem Keeps.qDropped (h : Keeps s u) {q : Nat} {r : PqReq} {got : Bool} : Keeps s (qDropped u q r got) :=
  h.ite h.wr.wr.putPq

protected theorem Keeps.qRetryRec (h : Keeps s u) {q cls a : Nat} : Keeps s (qRetryRec u q cls a) :=
  h.logI.putPq

@[simp] theorem kept_execPfqResponse {q i : Nat} {back : Back} {host : Cells} :
    Kept s (execPfqResponse q i back host s) := by
  refine .next ?_
  dsimp only
  split
  · exact Keeps.rfl
  · split
    · exact Keeps.rfl
    · split
      · exact Keeps.rfl
      · split
        · exact Keeps.rfl.qAttempt.putPq.qTake.qDropped
        · split
          · exact Keeps.rfl.qAttempt.putPq.qTake.qLanding
          · exact Keeps.rfl.qAttempt.putPq.qTake.qBegin
          · exact Keeps.rfl.qAttempt.putPq.putPq

@[simp] theorem kept_execPfqTransferFail {q : Nat} {back : Back} {host : Cells} :
    Kept s (execPfqTransferFail q back host s) := by
  refine .next ?_
  dsimp only
  split
  · exact Keeps.rfl
  · split
    · exact Keeps.rfl
    · split
      · exact Keeps.rfl.perf.perf.qAttempt.putPq.qTake.bump.qRetryRec.putPq.qLanding
      · exact Keeps.rfl.perf.perf.qAttempt.putPq.qTake.qBegin
      · exact Keeps.rfl.perf.perf.qAttempt.putPq.qTake.qRetryRec.raise.qBegin
      · exact Keeps.rfl.perf.perf.qAttempt.putPq.qTake.qRetryRec.qBegin

protected theorem Keeps.qGiveUp (h : Keeps s u) {q : Nat} : Keeps s (qGiveUp u q) :=
  .folded h (fun _ _ h => h.qRetryRec)

@[simp] theorem kept_execStreamDescFetch {q : Nat} {hit : Hit} {host : Cells} :
    Kept s (execStreamDescFetch q hit host s) := by
  refine .next ?_
  dsimp only
  split
  · exact Keeps.rfl
  · split
    · exact (Keeps.rfl.readAll.got₂.bump.ite Keeps.rfl.readAll.got₂).wr.putPq.found.qFinish.ite
        (Keeps.rfl.readAll.got₂.bump.ite Keeps.rfl.readAll.got₂).wr.putPq.found.qGo
    · exact Keeps.rfl.readAll.got₂.putPq.qFinish

protected theorem Keeps.qStart (h : Keeps s u) {q v : Nat} : Keeps s (qStart u q v) :=
  h.ite (h.wr.setQSt.settle.wr.putPq.ite h.raise)

protected theorem Keeps.qReleaseIn (h : Keeps s u) {q v : Nat} : Keeps s (qReleaseIn u q v) :=
  h.putPq.ite h.qRelease

protected theorem Keeps.qDoor (h : Keeps s u) {ini : Ini} {bar4 : Bool} {q off : Nat} {k : State → State}
    (hk : ∀ v, Keeps v (k v)) : Keeps s (qDoor u ini bar4 q off k) := by
  unfold qDoor
  split
  · exact h
  · split
    · split
      · exact h.doorbell hk
      · exact h
    · exact h.regRow hk

protected theorem Keeps.qBar4 (h : Keeps s u) {q v : Nat} : Keeps s (qBar4 u q v) :=
  h.qStart.ite h.qReleaseIn

@[simp] theorem kept_execQueueStart {ini : Ini} {bar4 : Bool} {q value : Nat} :
    Kept s (execQueueStart ini bar4 q value s) :=
  .next (Keeps.rfl.qDoor (fun _ => Keeps.rfl.qBar4.ite Keeps.rfl.qStart))

@[simp] theorem kept_execQueueRelease {ini : Ini} {bar4 : Bool} {q value : Nat} :
    Kept s (execQueueRelease ini bar4 q value s) :=
  .next (Keeps.rfl.qDoor (fun _ => Keeps.rfl.qBar4.ite Keeps.rfl.qReleaseIn))

@[simp] theorem kept_execCreditReturn {q : Nat} : Kept s (execCreditReturn q s) :=
  .next (Keeps.rfl.ite Keeps.rfl.wr.qGo)

@[simp] theorem kept_execQueueCancel {ini : Ini} {q : Nat} : Kept s (execQueueCancel ini q s) :=
  .next (Keeps.rfl.ite (Keeps.rfl.regRow (fun _ => Keeps.rfl.qGiveUp.qBegin.ite Keeps.rfl)))

protected theorem Keeps.disableQueue (h : Keeps s u) {q : Nat} : Keeps s (disableQueue u q) :=
  h.wr.ite ((h.wr.putPq.ite h.wr.qBegin.putPq).ite (h.wr.putPq.ite h.wr.qBegin.putPq).wr)

@[simp] theorem kept_execQueueDisable {ini : Ini} {q : Nat} : Kept s (execQueueDisable ini q s) :=
  .next (Keeps.rfl.ite (Keeps.rfl.regRow (fun _ => Keeps.rfl.disableQueue)))

protected theorem Keeps.enableQueue (h : Keeps s u) {q : Nat} : Keeps s (enableQueue u q) :=
  h.wr.wr.wr.wr.wr.setQSt.putPq.ite h.prog

@[simp] theorem kept_execQueueDrainDone {q : Nat} : Kept s (execQueueDrainDone q s) :=
  .next (Keeps.rfl.ite ((Keeps.rfl.setQSt.putPq.ite Keeps.rfl.setQSt.putPq.wr).ite
    (Keeps.rfl.wr.qFinish.ite Keeps.rfl.qFinish)))

@[simp] theorem kept_execPfqBudgetExpiry {q : Nat} : Kept s (execPfqBudgetExpiry q s) :=
  .next (Keeps.rfl.ite Keeps.rfl.logI.putPq.qGiveUp.raise.qBegin)

@[simp] theorem kept_execSnap {ini : Ini} {q : Nat} : Kept s (execSnap ini q s) :=
  .next (Keeps.rfl.ite (Keeps.rfl.regRow (fun _ => Keeps.rfl.wr.putPq)))

@[simp] theorem kept_execAuditCapture {q : Nat} : Kept s (execAuditCapture q s) := by
  refine .next ?_
  dsimp only
  split
  · exact Keeps.rfl
  · refine .qLetGo ?_
    split
    · exact Keeps.rfl.wr.wr.wr.wr.wr.wr.putPq.hit.got₂.raiseI.doubtInj
    · exact Keeps.rfl.wr.wr.wr.wr.wr.wr.putPq.hit.got₂.raise.checkerFail
    · exact Keeps.rfl.wr.wr.wr.wr.wr.wr.putPq.hit.got₂

protected theorem Keeps.priFail (h : Keeps s u) {u' code : Nat} : Keeps s (priFail u u' code) :=
  h.logI.raise.putChan.chAbandon.ite h.logI.raise.putPq.qBegin

protected theorem Keeps.chTranslated (h : Keeps s u) {c : Nat} {t : Trans} : Keeps s (chTranslated u c t) := by
  unfold chTranslated
  dsimp only
  split
  · exact h
  · split
    · exact h.wr.putChan.chPump.ite (h.priFail.ite h.putChan)
    · exact h.putChan.chHalt.ite h.putChan.chPump

protected theorem Keeps.qTranslated (h : Keeps s u) {q : Nat} {t : Trans} : Keeps s (qTranslated u q t) := by
  unfold qTranslated
  dsimp only
  split
  · exact h
  · split
    · exact h.putPq.ite (h.putPq.setQSt.putPq.qGo.ite h.priFail)
    · exact h.putPq.qGo

@[simp] theorem kept_execTranslationResponse {unit page dest : Nat} {rd wr : Bool} :
    Kept s (execTranslationResponse unit page dest rd wr s) :=
  .next (Keeps.rfl.chTranslated.ite (Keeps.rfl.qTranslated.ite Keeps.rfl))

protected theorem Keeps.setHalt (h : Keeps s u) {u' : Nat} {h' : Halt} : Keeps s (setHalt u u' h') :=
  h.putChan.ite h.putPq

protected theorem Keeps.sendWaiting (h : Keeps s u) {fn : Nat} : Keeps s (sendWaiting u fn) := by
  unfold sendWaiting
  refine .folded h (fun _ _ h => ?_)
  split
  · split
    · split
      · exact (h.sendPrg.got.wr.ite h.sendPrg.got.wr).setHalt
      · exact h.sendPrg.got
    · exact h
  · exact h

@[simp] theorem kept_execPageResponse {fn prg code : Nat} : Kept s (execPageResponse fn prg code s) := by
  refine .next ?_
  split
  · exact Keeps.rfl
  · refine .sendWaiting ?_
    split
    · exact (Keeps.rfl.upd.setHalt.ite Keeps.rfl.upd.priFail).ite (Keeps.rfl.upd.bump.ite Keeps.rfl.upd)
    · exact Keeps.rfl.upd.bump.ite Keeps.rfl.upd

protected theorem Keeps.chInval (h : Keeps s u) {c key page n : Nat} : Keeps s (chInval u c key page n) :=
  h.putChan

protected theorem Keeps.qInval (h : Keeps s u) {q key page n : Nat} : Keeps s (qInval u q key page n) :=
  h.putPq

@[simp] theorem kept_execAtsInvalidate {fn addr n tag : Nat} : Kept s (execAtsInvalidate fn addr n tag s) :=
  .next (.upd (.bump (.folded (.folded Keeps.rfl (fun _ _ h => h.chInval.ite h)) (fun _ _ h => h.qInval.ite h))))

@[simp] theorem kept_execInvalidationComplete {fn tag : Nat} : Kept s (execInvalidationComplete fn tag s) := by
  refine .next ?_
  split
  · exact Keeps.rfl
  · exact Keeps.rfl.ite Keeps.rfl.upd

/-! ### Trace -/

protected theorem Keeps.tracePush (h : Keeps s u) {src payload : Nat} : Keeps s (tracePush u src payload) :=
  h.upd

protected theorem Keeps.traceDrop (h : Keeps s u) : Keeps s (traceDrop u) :=
  h.bump.upd

protected theorem Keeps.tracePkt (h : Keeps s u) {src payload : Nat} : Keeps s (tracePkt u src payload) :=
  h.ite (h.traceDrop.ite h.tracePush)

protected theorem Keeps.traceNode (h : Keeps s u) {g i n : Nat} {fin : Bool} {status : Nat} :
    Keeps s (traceNode u g i n fin status) :=
  h.tracePkt

@[simp] theorem kept_execTraceSample : Kept s (execTraceSample s) :=
  .next (Keeps.rfl.ite Keeps.rfl.tracePkt.upd)

protected theorem Keeps.traceHost (h : Keeps s u) {pkt : List Byte} : Keeps s (traceHost u pkt) :=
  h.traceDrop.ite h.stored.wr

protected theorem Keeps.tracePort (h : Keeps s u) {pkt : List Byte} : Keeps s (tracePort u pkt) :=
  h.upd

protected theorem Keeps.traceLost (h : Keeps s u) : Keeps s (traceLost u) :=
  h.ite h.upd.tracePush

protected theorem Keeps.traceTick (h : Keeps s u) : Keeps s (traceTick u) := by
  unfold traceTick
  split
  · exact h
  · exact h.ite (h.upd.ite ((h.upd.tracePort.ite h.upd).traceHost.ite (h.upd.tracePort.ite h.upd)).traceLost)

/-! ### Graph -/

protected theorem Keeps.loadGraph (h : Keeps s u) {g part base : Nat} : Keeps s (loadGraph u g part base) :=
  h.prog.ite h.putGraph

protected theorem Keeps.gop (h : Keeps s u) {ini : Ini} {off g : Nat} {k : State → State} (hk : ∀ v, Keeps v (k v)) :
    Keeps s (gop u ini off g k) := by
  unfold gop
  split
  · exact h
  · split
    · exact h.prog.ite (h.trans (hk u))
    · exact h.regRow hk

@[simp] theorem kept_execLoad {ini : Ini} : Kept s (execLoad ini s) :=
  .next (Keeps.rfl.regRow (fun _ => Keeps.rfl.loadGraph))

protected theorem Keeps.loadBad (h : Keeps s u) {g : Nat} {x : Graph} : Keeps s (loadBad u g x) :=
  h.prog.raise.putGraph

@[simp] theorem kept_execLoadDone {g : Nat} {hit : Hit} {host : Cells} : Kept s (execLoadDone g hit host s) := by
  refine .next ?_
  dsimp only
  split
  · exact Keeps.rfl
  · split
    · exact Keeps.rfl.loadBad
    · split
      · split
        · exact Keeps.rfl.readAll.got₂.loadBad
        · split
          · exact Keeps.rfl.readAll.got₂.readAll.got₂.bump.putGraph.ite Keeps.rfl.readAll.got₂.readAll.got₂.loadBad
          · exact Keeps.rfl.readAll.got₂.readAll.got₂.loadBad
      · exact Keeps.rfl.readAll.got₂.loadBad

protected theorem Keeps.unloadGraph (h : Keeps s u) {g : Nat} : Keeps s (unloadGraph u g) :=
  h.prog.ite h.wr.putGraph

@[simp] theorem kept_execUnload {ini : Ini} : Kept s (execUnload ini s) :=
  .next (Keeps.rfl.regRow (fun _ => Keeps.rfl.unloadGraph))

protected theorem Keeps.startReq (h : Keeps s u) {g req : Nat} : Keeps s (startReq u g req) :=
  h.ite (h.prog.ite h.putGraph)

@[simp] theorem kept_execStartDoorbell {ini : Ini} {g req : Nat} : Kept s (execStartDoorbell ini g req s) := by
  refine .next ?_
  split
  · exact Keeps.rfl
  · split
    · exact Keeps.rfl.doorbell (fun _ => Keeps.rfl.startReq)
    · exact Keeps.rfl.gop (fun _ => Keeps.rfl.startReq)
    · exact Keeps.rfl

protected theorem Keeps.takeAll (h : Keeps s u) {l : List Nat} {t : State} (e : takeAll u l = some t := by assumption) :
    Keeps s t := by
  induction l generalizing u with
  | nil => cases e; exact h
  | cons n l ih =>
    unfold takeAll at e
    split at e
    · cases e
    · exact ih h.upd e

protected theorem Keeps.postAll (h : Keeps s u) {part : Nat} {l : List Nat} : Keeps s (postAll u part l) :=
  .folded h (fun _ _ h => h.semPost)

protected theorem Keeps.noteElig (h : Keeps s u) : Keeps s (noteElig u) :=
  h.upd

@[simp] theorem kept_execInstanceStart {g : Nat} : Kept s (execInstanceStart g s) :=
  .next (Keeps.rfl.ite Keeps.rfl.startInst.noteElig)

protected theorem Keeps.pushInbox (h : Keeps s u) {c : Nat} {m : List Nat} : Keeps s (pushInbox u c m) :=
  h.upd.coreWake

protected theorem Keeps.armAll (h : Keeps s u) {nd : Node} {l : List Nat} : Keeps s (armAll nd l u).2.2 := by
  induction l generalizing u with
  | nil => exact h
  | cons a l ih =>
    unfold armAll
    dsimp only
    split
    · exact ih h
    · split
      · exact ih h.wr.armPlane.got
      · exact h.prog

protected theorem Keeps.dispatchEngine (h : Keeps s u) {key part page slot ptr tries : Nat} :
    Keeps s (dispatchEngine u key part page slot ptr tries) :=
  h.prog.finishExec.ite h.wr.modExec.enqueue

protected theorem Keeps.dispatchNode (h : Keeps s u) {g : Nat} {x : Graph} {a : Inst} {n : Nat} {nd : Node} :
    Keeps s (dispatchNode u g x a n nd) := by
  unfold dispatchNode
  dsimp only
  split
  · exact h.dispatchEngine
  · split
    · split
      · exact h.armAll.got₂.queuePush
      · exact h.armAll.got₂.finishExec
    · split
      · split
        · exact h.smvDispatch
        · exact h.prog.finishExec
      · exact h.pushInbox.ite h.finishExec

protected theorem Keeps.fetchNode (h : Keeps s u) {g i n : Nat} {hit : Hit} {host : Cells} :
    Keeps s (fetchNode u g i n hit host) := by
  unfold fetchNode
  dsimp only
  split
  · exact h
  · split
    · exact h.readAll.got₂.dispatchNode.ite h.readAll.got₂.prog.finishExec
    · exact h.readAll.got₂.finishExec

protected theorem Keeps.admitOne (h : Keeps s u) {g i n : Nat} {skip : Bool} : Keeps s (admitOne u g i n skip) := by
  unfold admitOne
  dsimp only
  split
  · exact h
  · exact h.bump.putGraph.traceNode

protected theorem Keeps.showLbs (h : Keeps s u) : Keeps s (showLbs u) :=
  h.wr

protected theorem Keeps.claimLb (h : Keeps s u) {g i n : Nat} : Keeps s (claimLb u g i n) :=
  h.upd.showLbs.ite h

protected theorem Keeps.admitGroup (h : Keeps s u) {g : Nat} {x : Graph} {a : Inst} {n : Nat} {hit : Hit}
    {host : Cells} :
    Keeps s (admitGroup u g x a n hit host) := by
  unfold admitGroup
  dsimp only
  split
  · exact h
  · exact .ite (.folded h.takeAll.upd (fun _ _ h => h.admitOne)) (.folded (.folded (.folded h.takeAll.upd
      (fun _ _ h => h.admitOne)) (fun _ _ h => h.claimLb)) (fun _ _ h => h.fetchNode))

@[simp] theorem kept_execNodeAdmit {g i n : Nat} {hit : Hit} {host : Cells} :
    Kept s (execNodeAdmit g i n hit host s) := by
  refine .next ?_
  dsimp only
  split
  · exact Keeps.rfl
  · exact Keeps.rfl.ite (Keeps.rfl.noteElig.admitGroup.ite Keeps.rfl.noteElig)

@[simp] theorem kept_execRedispatch {g i n : Nat} : Kept s (execRedispatch g i n s) := by
  refine .next ?_
  dsimp only
  split
  · exact Keeps.rfl
  · exact Keeps.rfl.ite Keeps.rfl.perf.modExec.dispatchEngine

protected theorem Keeps.cancelExec (h : Keeps s u) {g i n : Nat} : Keeps s (cancelExec u g i n) := by
  unfold cancelExec
  dsimp only
  split
  · exact h
  · split
    · exact h
    · split
      · split
        · exact h.modExec.finishExec
        · split
          · exact h.modExec.cancelSlot
          · exact h.modExec
      · exact h.modExec.finishExec.ite (h.modExec.cancelNode.ite h.modExec)

protected theorem Keeps.endInst (h : Keeps s u) {g i st : Nat} : Keeps s (endInst u g i st) := by
  unfold endInst
  dsimp only
  split
  · exact h
  · exact .ite h (.folded h.putGraph (fun _ _ h => h.cancelExec))

protected theorem Keeps.dropLbs (h : Keeps s u) {g i : Nat} {ms : List Nat} : Keeps s (dropLbs u g i ms) :=
  h.upd.showLbs

protected theorem Keeps.endExec (h : Keeps s u) {g i n : Nat} {hit : Hit} : Keeps s (endExec u g i n hit) := by
  unfold endExec
  extract_lets x nd ms
  split
  · exact h
  · extract_lets st written done counted traced y tainted gone
    have counts : Keeps s counted := h.writeAll.modExec.wr.perf
    have traces : Keeps s traced := (counts.ite counts.perf).traceNode
    have taints : Keeps s tainted := by
      refine traces.ite ?_
      split
      · exact traces.putGraph
      · exact traces
    exact taints.dropLbs.postAll.ite (taints.ite (.folded taints fun _ _ h => h.cancelExec))

@[simp] theorem kept_execNodeEnd {g i n : Nat} {hit : Hit} : Kept s (execNodeEnd g i n hit s) := by
  refine .next ?_
  dsimp only
  split
  · exact Keeps.rfl
  · split
    · exact Keeps.rfl
    · exact Keeps.rfl.endExec.noteElig.ite ((Keeps.rfl.finishExec.endExec.noteElig.ite
        (Keeps.rfl.modExec.cancelNode.ite Keeps.rfl)).ite Keeps.rfl)

@[simp] theorem kept_execInstanceEnd {g i : Nat} {hit : Hit} : Kept s (execInstanceEnd g i hit s) := by
  refine .next ?_
  dsimp only
  split
  · exact Keeps.rfl
  · exact Keeps.rfl.ite (Keeps.rfl.ite (((Keeps.rfl.cqWrite.ite Keeps.rfl).semPost.ite
      (Keeps.rfl.cqWrite.ite Keeps.rfl)).putGraph.settle.wdExpire.ite ((Keeps.rfl.cqWrite.ite Keeps.rfl).semPost.ite
      (Keeps.rfl.cqWrite.ite Keeps.rfl)).putGraph.settle))

@[simp] theorem kept_execInstanceDeadline {g i : Nat} : Kept s (execInstanceDeadline g i s) := by
  refine .next ?_
  dsimp only
  split
  · exact Keeps.rfl
  · split
    · exact Keeps.rfl
    · exact Keeps.rfl.ite Keeps.rfl.logI.bump.raise.doubt.putGraph.endInst

protected theorem Keeps.trigNode (h : Keeps s u) {g n : Nat} : Keeps s (trigNode u g n).2 := by
  unfold trigNode
  dsimp only
  split
  · exact h.prog
  · exact h.putGraph

protected theorem Keeps.trigOnce (h : Keeps s u) {init part g n : Nat} : Keeps s (trigOnce u init part g n).2 := by
  unfold trigOnce
  dsimp only
  exact h.once (fun _ => Keeps.rfl.trigNode)

@[simp] theorem kept_execTrig {ini : Ini} {g n : Nat} : Kept s (execTrig ini g n s) :=
  .next (Keeps.rfl.gop (fun _ => Keeps.rfl.trigOnce))

@[simp] theorem kept_execCancel {ini : Ini} {g : Nat} : Kept s (execCancel ini g s) := by
  refine .next ?_
  split
  · exact Keeps.rfl.gop (fun _ => Keeps.rfl.endInst)
  · exact Keeps.rfl.regRow (fun _ => Keeps.rfl.endInst)

protected theorem Keeps.cancelAll (h : Keeps s u) {g : Nat} : Keeps s (cancelAll u g) :=
  .putGraph (.folded h (fun _ _ h => h.endInst))

@[simp] theorem kept_execCancelAll {ini : Ini} {g : Nat} : Kept s (execCancelAll ini g s) := by
  refine .next ?_
  split
  · exact Keeps.rfl.gop (fun _ => Keeps.rfl.cancelAll)
  · exact Keeps.rfl.regRow (fun _ => Keeps.rfl.cancelAll)

@[simp] theorem kept_execNodeCancel {ini : Ini} {g n : Nat} : Kept s (execNodeCancel ini g n s) := by
  refine .next ?_
  refine .gop Keeps.rfl (fun _ => ?_)
  split
  · exact Keeps.rfl.cancelExec
  · exact Keeps.rfl

@[simp] theorem kept_execHoDeadlock {g i fuse : Nat} : Kept s (execHoDeadlock g i fuse s) := by
  refine .next ?_
  dsimp only
  split
  · exact Keeps.rfl
  · exact .ite Keeps.rfl (.folded Keeps.rfl.raise (fun _ _ h => h.modExec.cancelExec))

protected theorem Keeps.semTake (h : Keeps s u) {n : Nat} : Keeps s (semTake u n).2 := by
  unfold semTake
  dsimp only
  split
  · exact h
  · exact h.upd

protected theorem Keeps.semDo (h : Keeps s u) {init part op n v : Nat} : Keeps s (semDo u init part op n v).2 := by
  unfold semDo
  refine .ite₂ h.semPostI (.ite₂ ?_ (.ite₂ (.ite₂ h.prog h.upd) h))
  show Keeps s (u.once init part pgFgs fun v => (b2n (semTake v n).1, (semTake v n).2)).2
  exact h.once fun _ => Keeps.rfl.semTake

protected theorem Keeps.semRow (h : Keeps s u) {ini : Ini} {op n : Nat} : Keeps s (semRow u ini op n) := by
  unfold semRow
  split
  · exact h
  · split
    · exact h.prog.ite h.semDo.upd
    · exact h.regRow (fun _ => Keeps.rfl.semDo.upd)

@[simp] theorem kept_execPost {ini : Ini} {sem : Nat} : Kept s (execPost ini sem s) :=
  .next Keeps.rfl.semRow

@[simp] theorem kept_execTryTake {ini : Ini} {sem : Nat} : Kept s (execTryTake ini sem s) :=
  .next Keeps.rfl.semRow

@[simp] theorem kept_execRead {ini : Ini} {sem : Nat} : Kept s (execRead ini sem s) :=
  .next Keeps.rfl.semRow

@[simp] theorem kept_execSet {ini : Ini} {sem : Nat} : Kept s (execSet ini sem s) :=
  .next Keeps.rfl.semRow

@[simp] theorem kept_execSemOwn {ini : Ini} {pair part : Nat} : Kept s (execSemOwn ini pair part s) :=
  .next (Keeps.rfl.ite (Keeps.rfl.regRow (fun _ => Keeps.rfl.prog.ite Keeps.rfl.upd)))

/-! ### Cores -/

protected theorem Keeps.putCore (h : Keeps s u) {c : Nat} {k : Core} : Keeps s (u.putCore c k) :=
  h.upd

protected theorem Keeps.tcmStore (h : Keeps s u) {c a : Nat} {bs : List Byte} : Keeps s (tcmStore u c a bs) :=
  h.trans ⟨rfl, fun w => ⟨w.1, memWf_puts _ _ w.2.1, w.2.2⟩, fun _ => id, fun _ => rfl⟩

protected theorem Keeps.startCore (h : Keeps s u) {c : Nat} : Keeps s (startCore u c) :=
  h.wr.settle.putCore

@[simp] theorem kept_execRun {ini : Ini} {c : Nat} {on : Bool} : Kept s (execRun ini c on s) :=
  .next (Keeps.rfl.ite (Keeps.rfl.regRow (fun _ => (Keeps.rfl.prog.ite (Keeps.rfl.wr.startCore.ite Keeps.rfl.wr)).ite
    (Keeps.rfl.wr.ite Keeps.rfl.wr.putCore))))

@[simp] theorem kept_execCoreHalted {c : Nat} : Kept s (execCoreHalted c s) :=
  .next (Keeps.rfl.ite (Keeps.rfl.wr.settle.putCore.startCore.ite Keeps.rfl.wr.settle.putCore))

@[simp] theorem kept_execTcmData {ini : Ini} {c value : Nat} : Kept s (execTcmData ini c value s) :=
  .next (Keeps.rfl.ite (Keeps.rfl.regRow (fun _ => Keeps.rfl.prog.ite Keeps.rfl.tcmStore.wr)))

@[simp] theorem kept_execCoreTrap {c cause pc : Nat} : Kept s (execCoreTrap c cause pc s) :=
  .next (Keeps.rfl.ite Keeps.rfl.wr.wr)

@[simp] theorem kept_execCoreTimer {c : Nat} : Kept s (execCoreTimer c s) :=
  .next (Keeps.rfl.ite Keeps.rfl.putCore.coreWake)

protected theorem Keeps.pushMsg (h : Keeps s u) {c : Nat} : Keeps s (pushMsg u c).2 := by
  unfold pushMsg
  split
  · exact h.putCore
  · exact h.pushInbox

protected theorem Keeps.popMsg (h : Keeps s u) {c : Nat} : Keeps s (popMsg u c).2 :=
  h.putCore

@[simp] theorem kept_execMbxPush {ini : Ini} {c : Nat} : Kept s (execMbxPush ini c s) :=
  .next (Keeps.rfl.ite (Keeps.rfl.regRow (fun _ => Keeps.rfl.once (fun _ => Keeps.rfl.pushMsg))))

@[simp] theorem kept_execMbxPop {c : Nat} : Kept s (execMbxPop c s) :=
  .next (Keeps.rfl.ite (Keeps.rfl.once (fun _ => Keeps.rfl.popMsg)))

@[simp] theorem kept_execNodeDone {c g n status : Nat} : Kept s (execNodeDone c g n status s) :=
  .next (Keeps.rfl.ite (Keeps.rfl.prog.ite ((Keeps.rfl.finishExec.perf.ite Keeps.rfl.finishExec.perf.perf).ite
    Keeps.rfl.bump)))

/-! ### Transactions -/

protected theorem Keeps.countDo (h : Keeps s u) {t : Tag} {a v : Nat} : Keeps s (countDo u t a v).2 := by
  unfold countDo
  dsimp only
  split
  · exact h.popMsg
  · split
    · exact h.trigNode
    · split
      · exact h.pushMsg
      · split
        · exact h.pushOrder
        · split
          · split
            · exact h.startSlot
            · exact h
          · exact h

protected theorem Keeps.applyOnce (h : Keeps s u) {t : Tag} {op : FabOp} {a v : Nat} :
    Keeps s (applyOnce u t op a v).2 := by
  unfold applyOnce
  split
  · exact h.semPostB
  · exact h.semTake
  · exact h.countDo

protected theorem Keeps.portNumbered (h : Keeps s u) {init q : Nat} : Keeps s (portNumbered u init q) :=
  h.upd.ite h

protected theorem Keeps.serveOnce (h : Keeps s u) {t : Tag} {op : FabOp} {a n v seq : Nat} {clash : Bool} {inc : Nat} :
    Keeps s (serveOnce u t op a n v seq clash inc).2.2 := by
  unfold serveOnce
  split
  · exact h.portNumbered.deliver (fun _ => Keeps.rfl.applyOnce)
  · split
    · exact h.passes.got₂
    · exact h.passes.got₂

protected theorem Keeps.serveTxn (h : Keeps s u) {t : Tag} {key : Nat} {op : FabOp} {a n : Nat} {data : List Nat}
    {seq : Nat} {ecc : Ecc} {clash : Bool} {host : Cells} {inc : Nat} :
    Keeps s (serveTxn u t key op a n data seq ecc clash host inc).2 := by
  unfold serveTxn
  split
  · split
    · exact h.upd
    · exact h.fabRead
  · exact h.fabWrite
  · exact h.serveOnce

protected theorem Keeps.issued (h : Keeps s u) {init : Nat} {op : FabOp} {a n : Nat} :
    Keeps s (issued u init op a n) := by
  unfold issued
  split
  · exact h
  · split
    · exact h.perf
    · exact h.perf.perf
    · exact h.perf

protected theorem Keeps.received (h : Keeps s u) {init : Nat} {op : FabOp} {a n status : Nat} :
    Keeps s (received u init op a n status) := by
  unfold received
  split
  · exact h.perf.ite h
  · exact h

@[simp] theorem kept_execTransactionArrival {init tid sub : Nat} {op : FabOp} {addr len : Nat} {data : List Nat}
    {seq : Nat} {ecc : Ecc} {clash : Bool} {host : Cells} :
    Kept s (execTransactionArrival init tid sub op addr len data seq ecc clash host s) := by
  refine .next ?_
  dsimp only
  split
  · exact Keeps.rfl
  · split
    · exact Keeps.rfl
    · split
      · exact Keeps.rfl
      · split
        · exact Keeps.rfl
        · split
          · exact (Keeps.rfl.issued.ite Keeps.rfl.issued.putTxn).serveTxn
          · exact (Keeps.rfl.issued.ite Keeps.rfl.issued.putTxn).serveTxn.received.upd.ite
              (Keeps.rfl.issued.ite Keeps.rfl.issued.putTxn).serveTxn.received.putTxn

protected theorem Keeps.staleResponse (h : Keeps s u) {init tid epoch : Nat} :
    Keeps s (staleResponse u init tid epoch) :=
  h.bump.raise.putTxn.log

@[simp] theorem kept_execResponseArrival {init tid epoch : Nat} : Kept s (execResponseArrival init tid epoch s) :=
  .next (((Keeps.rfl.putTxn.upd.ite Keeps.rfl).ite Keeps.rfl.expire.upd.staleResponse).ite
    (Keeps.rfl.ite Keeps.rfl.staleResponse))

@[simp] theorem kept_execFabricTimeout {init tid : Nat} : Kept s (execFabricTimeout init tid s) :=
  .next (Keeps.rfl.ite Keeps.rfl.expire.upd)

@[simp] theorem kept_execRegPerm {ini : Ini} {value : Nat} : Kept s (execRegPerm ini value s) :=
  .next (Keeps.rfl.regRow0 (fun _ => Keeps.rfl.ite ((Keeps.rfl.ite Keeps.rfl.prog).ite Keeps.rfl.wr.wr.wr).wr))

/-! ### Memories -/

@[simp] theorem kept_execInit {ini : Ini} {i : Nat} : Kept s (execInit ini i s) :=
  .next (.ite Keeps.rfl (.regRow Keeps.rfl (fun _ => .ite Keeps.rfl (.ite (.folded Keeps.rfl.wr
    (fun _ _ h => h.prog)) Keeps.rfl.wr))))

@[simp] theorem kept_execTrainingDone {i fail : Nat} : Kept s (execTrainingDone i fail s) :=
  .next (Keeps.rfl.ite (Keeps.rfl.wr.ite Keeps.rfl.wr.wr.raise.raiseFault))

/-- Dropping bytes of memory. -/
theorem Keeps.forget {t : State} (h : Keeps s u) (q : Host.Cell → Bool) (hm : t.mem = u.mem.filter q := by rfl)
    (hp : t.pending = u.pending := by rfl) (ht : t.tcm = u.tcm := by rfl) (hr : t.regs = u.regs := by rfl)
    (hf : t.fuses = u.fuses := by rfl) (hk : t.rotpk = u.rotpk := by rfl) : Keeps s t :=
  h.trans ⟨hp, fun c => ⟨hm ▸ memWf_filter q c.1, ht ▸ c.2.1, hr ▸ c.2.2⟩, fun _ b => hf ▸ b, fun _ => hk⟩

protected theorem Keeps.extLost (h : Keeps s u) : Keeps s (extLost u) :=
  .folded (.forget h _) fun _ _ h => h.wr

@[simp] theorem kept_execFillDone : Kept s (execFillDone s) :=
  .next (.ite Keeps.rfl (.folded Keeps.rfl.extLost (fun _ _ h => h.wr)))

@[simp] theorem kept_execPatrolRead {ecc : Ecc} : Kept s (execPatrolRead ecc s) := by
  refine .next (.ite .rfl ?_)
  extract_lets a t served next
  have serves : Keeps s served := by
    unfold served
    split
    · exact Keeps.rfl.upd
    · exact Keeps.rfl.serveRead
  exact serves.wr.bump.ite serves.wr

@[simp] theorem kept_execDramReread {line : Nat} {res : Ecc} : Kept s (execDramReread line res s) := by
  refine .next ?_
  split
  · exact Keeps.rfl
  · split
    · exact Keeps.rfl.upd.extPoison.ite Keeps.rfl.upd.extTransient
    · exact (Keeps.rfl.upd.extPoison.ite Keeps.rfl.upd.extTransient).upd

@[simp] theorem kept_execBankInh {ini : Ini} {mask : Nat} : Kept s (execBankInh ini mask s) :=
  .next (Keeps.rfl.regRow (fun _ => Keeps.rfl.wr))

@[simp] theorem kept_execMr4Read {i rate : Nat} : Kept s (execMr4Read i rate s) :=
  .next (Keeps.rfl.ite Keeps.rfl.wr)

/-! ### HostQueues -/

protected theorem Keeps.putFn (h : Keeps s u) {n : Nat} {c : FnCfg} : Keeps s (putFn u n c) :=
  h.upd

protected theorem Keeps.priOff (h : Keeps s u) {n : Nat} : Keeps s (priOff u n) :=
  .folded h (fun _ _ h => h.priFail.ite h)

protected theorem Keeps.resetFnCfg (h : Keeps s u) {n : Nat} : Keeps s (resetFnCfg u n) :=
  h.putFn.wr.priOff

protected theorem Keeps.hqSettle (h : Keeps s u) {n : Nat} : Keeps s (hqSettle u n) :=
  h.settle

protected theorem Keeps.dropPairs (h : Keeps s u) {n : Nat} {link : Bool} : Keeps s (dropPairs u n link) :=
  .hqSettle (.folded h (fun _ _ h => (h.wr.raise.ite h).wr.wr.putQp))

protected theorem Keeps.flrOne (h : Keeps s u) {n : Nat} {link : Bool} : Keeps s (flrOne u n link) :=
  h.dropPairs.resetFnCfg

@[simp] theorem kept_execFlr {n : Nat} : Kept s (execFlr n s) :=
  .next (.ite Keeps.rfl (.ite (.folded Keeps.rfl (fun _ _ h => h.flrOne)) Keeps.rfl.flrOne))

@[simp] theorem kept_execConfigWrite {n : Nat} {field : CfgField} {value : Nat} :
    Kept s (execConfigWrite n field value s) := by
  refine .next ?_
  split
  · exact Keeps.rfl
  · split
    · exact Keeps.rfl.putFn
    · exact Keeps.rfl.putFn.msixFlush
    · exact Keeps.rfl.putFn.msixFlush
    · exact Keeps.rfl.putFn.msixFlush
    · exact Keeps.rfl.putFn
    · exact Keeps.rfl.putFn.ite Keeps.rfl.putFn.priOff
    · exact Keeps.rfl.putFn.sendWaiting
    · split
      · exact Keeps.rfl.putFn.wr
      · exact Keeps.rfl
    · exact Keeps.rfl.putFn
    · exact .ite Keeps.rfl (.ite Keeps.rfl.putFn (.folded Keeps.rfl.putFn (fun _ _ h => h.flrOne)))

protected theorem Keeps.linkEvent (h : Keeps s u) {r : LogRec} : Keeps s (linkEvent u r).2 :=
  h.logI.upd

protected theorem Keeps.linkDown (h : Keeps s u) {hot : Bool} : Keeps s (linkDown u hot) :=
  .ite h (.folded h.linkEvent.wr.wr.wr.wr.wr.bump.raise.upd (fun _ _ h => h.flrOne))

@[simp] theorem kept_execLinkDown {hot : Bool} : Kept s (execLinkDown hot s) :=
  .next Keeps.rfl.linkDown

@[simp] theorem kept_execDlUp {width rate : Nat} {rev : Bool} : Kept s (execDlUp width rate rev s) :=
  .next (Keeps.rfl.ite Keeps.rfl.wr.wr.wr.wr.wr)

@[simp] theorem kept_execRetrain {ini : Ini} : Kept s (execRetrain ini s) :=
  .next (Keeps.rfl.regRow (fun _ => Keeps.rfl.ite (Keeps.rfl.ite Keeps.rfl.wr.bump)))

@[simp] theorem kept_execLinkRecovery {back : Bool} {us width rate : Nat} :
    Kept s (execLinkRecovery back us width rate s) :=
  .next (Keeps.rfl.ite ((Keeps.rfl.ite Keeps.rfl.linkEvent.wr.wr.wr.upd).ite
    (Keeps.rfl.ite Keeps.rfl.newInc.upd.wr.bump.bump)))

@[simp] theorem kept_execLinkReplay {n : Nat} : Kept s (execLinkReplay n s) :=
  .next (Keeps.rfl.ite Keeps.rfl.bump.linkEvent)

@[simp] theorem kept_execAspmL1 {on : Bool} : Kept s (execAspmL1 on s) :=
  .next (Keeps.rfl.ite ((Keeps.rfl.wr.ite Keeps.rfl).ite (Keeps.rfl.wr.ite Keeps.rfl)))

@[simp] theorem kept_execQueuePairCreate {ini : Ini} {n q : Nat} : Kept s (execQueuePairCreate ini n q s) :=
  .next (Keeps.rfl.ite (Keeps.rfl.regRow (fun _ => Keeps.rfl.wr.wr.wr.wr.wr.wr.wr.wr.putQp.ite Keeps.rfl.prog)))

protected theorem Keeps.deletePair (h : Keeps s u) {n q : Nat} : Keeps s (deletePair u n q) :=
  h.wr.ite h

@[simp] theorem kept_execDelete {ini : Ini} {n q : Nat} : Kept s (execDelete ini n q s) :=
  .next (Keeps.rfl.ite (Keeps.rfl.regRow (fun _ => Keeps.rfl.deletePair.hqSettle)))

@[simp] theorem kept_execDeleteDone {n q : Nat} : Kept s (execDeleteDone n q s) :=
  .next (Keeps.rfl.ite Keeps.rfl.wr.putQp.hqSettle)

@[simp] theorem kept_execSqTailDoorbell {n q value : Nat} : Kept s (execSqTailDoorbell n q value s) :=
  .next (Keeps.rfl.ite (Keeps.rfl.doorbell (fun _ => Keeps.rfl.raise.ite Keeps.rfl.wr)))

@[simp] theorem kept_execCqHeadDoorbell {n q value : Nat} : Kept s (execCqHeadDoorbell n q value s) := by
  refine .next (Keeps.rfl.ite (Keeps.rfl.doorbell fun v => ?_))
  extract_lets p w head moved k marked
  have mark : Keeps v marked := by
    unfold marked
    split
    · exact Keeps.rfl.wr.putQp.ite Keeps.rfl.wr
    · exact Keeps.rfl.wr
  exact Keeps.rfl.raise.ite (Keeps.rfl.ite (mark.msix.ite mark))

protected theorem Keeps.takeCmd (h : Keeps s u) {n q : Nat} {c : HCmd} : Keeps s (takeCmd u n q c) := by
  unfold takeCmd
  dsimp only
  split
  · exact h.bump
  · exact h.bump.bump.putQp
  · exact h.bump.putQp

@[simp] theorem kept_execCommandFetch {n q : Nat} {hit : Hit} {host : Cells} :
    Kept s (execCommandFetch n q hit host s) := by
  refine .next ?_
  dsimp only
  split
  · exact Keeps.rfl
  · split
    · exact Keeps.rfl
    · split
      · exact Keeps.rfl.readAll.got₂.wr.bump.takeCmd.hqSettle
      · exact Keeps.rfl.readAll.got₂.qpFail

protected theorem Keeps.setCmd (h : Keeps s u) {n q i : Nat} {c : HCmd} : Keeps s (setCmd u n q i c) :=
  h.putQp

protected theorem Keeps.perform (h : Keeps s u) {n q op : Nat} {f : HCmd → State → HCmd × State}
    (hf : ∀ c v, Keeps v (f c v).2) : Keeps s (perform u n q op f) := by
  unfold perform
  split
  · exact h
  · split
    · exact h
    · split
      · exact h
      · exact (h.trans (hf _ u)).setCmd

theorem onGraph_keeps {n : Nat} {f : HCmd → State → HCmd × State} (hf : ∀ c v, Keeps v (f c v).2) (c : HCmd)
    (v : State) :
    Keeps v (onGraph n f c v).2 := by
  unfold onGraph
  split
  · exact .rfl
  · exact hf c v

protected theorem Keeps.onGraph (h :
    Keeps s u) {n : Nat} {f : HCmd → State → HCmd × State} (hf : ∀ c v, Keeps v (f c v).2)
    {c : HCmd} : Keeps s (onGraph n f c u).2 :=
  h.trans (onGraph_keeps hf c u)

@[simp] theorem kept_execNop {n q : Nat} : Kept s (execNop n q s) :=
  .next (Keeps.rfl.perform (fun _ _ => Keeps.rfl))

@[simp] theorem kept_execGraphLoad {n q : Nat} : Kept s (execGraphLoad n q s) := by
  refine .next ?_
  refine .perform Keeps.rfl (fun _ _ => ?_)
  split
  · exact Keeps.rfl.prog
  · exact Keeps.rfl.loadGraph

@[simp] theorem kept_execGraphUnload {n q : Nat} : Kept s (execGraphUnload n q s) :=
  .next (Keeps.rfl.perform (fun _ _ => Keeps.rfl.onGraph (fun _ _ => Keeps.rfl.unloadGraph)))

@[simp] theorem kept_execGraphStart {n q : Nat} : Kept s (execGraphStart n q s) :=
  .next (Keeps.rfl.perform (fun _ _ => Keeps.rfl.onGraph (fun _ _ => Keeps.rfl.startReq)))

@[simp] theorem kept_execGraphCancel {n q : Nat} : Kept s (execGraphCancel n q s) :=
  .next (Keeps.rfl.perform (fun _ _ => Keeps.rfl.onGraph (fun _ _ => Keeps.rfl.endInst)))

@[simp] theorem kept_execGraphCancelAll {n q : Nat} : Kept s (execGraphCancelAll n q s) :=
  .next (Keeps.rfl.perform (fun _ _ => Keeps.rfl.onGraph (fun _ _ => Keeps.rfl.cancelAll)))

@[simp] theorem kept_execNodeTrig {n q : Nat} : Kept s (execNodeTrig n q s) :=
  .next (Keeps.rfl.perform (fun _ _ => Keeps.rfl.onGraph (fun _ _ => Keeps.rfl.trigOnce)))

@[simp] theorem kept_execNodeCancelCommand {n q : Nat} : Kept s (execNodeCancelCommand n q s) := by
  refine .next ?_
  refine .perform Keeps.rfl (fun _ _ => ?_)
  refine .onGraph Keeps.rfl (fun _ _ => ?_)
  split
  · exact Keeps.rfl.cancelExec
  · exact Keeps.rfl

@[simp] theorem kept_execSemOp {n q : Nat} : Kept s (execSemOp n q s) := by
  refine .next ?_
  refine .perform Keeps.rfl (fun _ _ => ?_)
  dsimp only
  split
  · exact Keeps.rfl
  · split
    · exact Keeps.rfl.semDo
    · exact Keeps.rfl.semDo

@[simp] theorem kept_execCommandComplete {n q i : Nat} {hit : Hit} : Kept s (execCommandComplete n q i hit s) := by
  refine .next ?_
  dsimp only
  split
  · exact Keeps.rfl
  · split
    · exact Keeps.rfl
    · split
      · exact Keeps.rfl
      · exact ((Keeps.rfl.wr.putQp.ite Keeps.rfl.wr.putQp.perf).ite
          (Keeps.rfl.wr.putQp.ite Keeps.rfl.wr.putQp.perf).perf).hqSettle.ite
          ((Keeps.rfl.wr.putQp.ite Keeps.rfl.wr.putQp.perf).ite
          (Keeps.rfl.wr.putQp.ite Keeps.rfl.wr.putQp.perf).perf).hqSettle.cqWrite

@[simp] theorem kept_execConditionRecord {n q : Nat} {hit : Hit} : Kept s (execConditionRecord n q hit s) :=
  .next (Keeps.rfl.ite (Keeps.rfl.ite (Keeps.rfl.putQp.bump.ite (Keeps.rfl.ite Keeps.rfl.putQp.cqWrite))))

/-! ### Island -/

@[simp] theorem kept_execDoubtReport : Kept s (execDoubtReport s) := by
  refine .next ?_
  split
  · exact Keeps.rfl
  · split
    · exact Keeps.rfl.upd
    · split
      · exact Keeps.rfl.upd.bump.applyScope.upd.ite Keeps.rfl.upd.bump.applyScope
      · exact Keeps.rfl.upd.bump.applyScope

protected theorem Keeps.downStreams (h : Keeps s u) : Keeps s (downStreams u) :=
  .folded h (fun _ _ h => h.upd.ite h)

@[simp] theorem kept_execDoubtReevaluate : Kept s (execDoubtReevaluate s) :=
  .next (.ite Keeps.rfl (.folded Keeps.rfl.upd.downStreams (fun _ _ h => h.doubtFrame)))

@[simp] theorem kept_execDoubtReq {ini : Ini} {tag line : Nat} : Kept s (execDoubtReq ini tag line s) :=
  .next (Keeps.rfl.regRow (fun _ => Keeps.rfl.ite Keeps.rfl.doubt))

@[simp] theorem kept_execFinalConfirm {id : Nat} : Kept s (execFinalConfirm id s) := by
  refine .next ?_
  dsimp only
  split
  · exact Keeps.rfl.ite Keeps.rfl.storeFinal
  · exact Keeps.rfl

protected theorem Keeps.putWd (h : Keeps s u) {p : Nat} {w : Wd} : Keeps s (u.putWd p w) :=
  h.upd

protected theorem Keeps.wdEnabled (h : Keeps s u) {old : Nat} : Keeps s (wdEnabled u old) :=
  .folded h (fun _ _ h => h.putWd.ite (h.putWd.ite h))

@[simp] theorem kept_execWdKick {ini : Ini} : Kept s (execWdKick ini s) :=
  .next (Keeps.rfl.regRow (fun _ => Keeps.rfl.putWd))

@[simp] theorem kept_execWdExpired {p : Nat} : Kept s (execWdExpired p s) :=
  .next (Keeps.rfl.ite Keeps.rfl.wdExpire)

@[simp] theorem kept_execIslandFirmwareKick : Kept s (execIslandFirmwareKick s) :=
  .next (Keeps.rfl.ite Keeps.rfl.upd)

@[simp] theorem kept_execDeviceWdExpiry : Kept s (execDeviceWdExpiry s) :=
  .next (Keeps.rfl.ite Keeps.rfl.upd.raiseFault)

@[simp] theorem kept_execLockstepMismatch : Kept s (execLockstepMismatch s) :=
  .next (Keeps.rfl.raiseFault.ite Keeps.rfl)

@[simp] theorem kept_execIslandTcmEcc : Kept s (execIslandTcmEcc s) :=
  .next (Keeps.rfl.raiseFault.ite Keeps.rfl)

@[simp] theorem kept_execClockWindowEnd {khz : List Nat} : Kept s (execClockWindowEnd khz s) :=
  .next (.ite Keeps.rfl (.ite (.raiseFault (.wr (.folded Keeps.rfl (fun _ _ h => h.wr)))) (.wr (.folded Keeps.rfl
    (fun _ _ h => h.wr)))))

@[simp] theorem kept_execResume {ini : Ini} {value : Nat} : Kept s (execResume ini value s) :=
  .next (.regRow0 Keeps.rfl (fun _ => .ite Keeps.rfl (.ite Keeps.rfl.prog (.folded
    (Keeps.rfl.wr.upd.setFallbackAll.ite Keeps.rfl.wr) (fun _ _ h => h.moveOpen)))))

protected theorem Keeps.clearSleep (h : Keeps s u) : Keeps s (clearSleep u) :=
  .ite h (.folded h.upd.setFallbackAll (fun _ _ h => h.moveOpen))

protected theorem Keeps.rotArm (h : Keeps s u) {p bit : Nat} : Keeps s (rotArm u p bit) :=
  h.wr.wr

protected theorem Keeps.rotMark (h : Keeps s u) {x : Checker} : Keeps s (rotMark u x) :=
  h.upd

protected theorem Keeps.rotEnd (h : Keeps s u) : Keeps s (rotEnd u) :=
  h.wr.wr.bump.upd.clearSleep.ite h.wr.wr.bump.upd

protected theorem Keeps.rotSweep (h : Keeps s u) : Keeps s (rotSweep u) :=
  h.upd.upd.ite (h.upd.upd.upd.ite (h.upd.upd.rotEnd.ite h.upd.upd))

protected theorem Keeps.rotBegin (h : Keeps s u) : Keeps s (rotBegin u) :=
  h.ite h.wr.upd

protected theorem Keeps.rotTest (h : Keeps s u) {x : Checker} {seen : Bool} : Keeps s (rotTest u x seen) :=
  h.upd.ite (h.upd.upd.ite h.upd.raiseI)

@[simp] theorem kept_execCheckerInjection {page bit turn : Nat} {seen : Bool} :
    Kept s (execCheckerInjection page bit turn seen s) :=
  .next (Keeps.rfl.ite ((Keeps.rfl.upd.wr.rotTest.rotSweep.ite Keeps.rfl).ite (Keeps.rfl.ite
    ((Keeps.rfl.rotBegin.upd.rotArm.wr.putPq.ite Keeps.rfl.rotBegin.upd.rotArm).ite
    Keeps.rfl.rotBegin.rotTest.rotSweep))))

@[simp] theorem kept_execCheckerTimeout {page : Nat} : Kept s (execCheckerTimeout page s) := by
  refine .next ?_
  split
  · exact Keeps.rfl
  · split
    · exact Keeps.rfl.ite Keeps.rfl.upd.wr.upd.rotMark.checkerFail.rotSweep
    · exact (Keeps.rfl.ite Keeps.rfl.upd.wr.rotMark.rotSweep).ite
        (Keeps.rfl.ite Keeps.rfl.upd.wr.upd.rotMark.checkerFail.rotSweep)

protected theorem Keeps.selftestFill (h : Keeps s u) {p sel : Nat} : Keeps s (selftestFill u p sel) :=
  h.upd

@[simp] theorem kept_execUnfence {ini : Ini} {page : Nat} : Kept s (execUnfence ini page s) :=
  .next (Keeps.rfl.regRow0 (fun _ => Keeps.rfl.prog.ite Keeps.rfl.wr.wr.wr.wr.wr.selftestFill.upd))

protected theorem Keeps.unfenceEnd (h : Keeps s u) {page : Nat} {pass : Option Bool} :
    Keeps s (unfenceEnd u page pass) := by
  unfold unfenceEnd
  split
  · exact h.upd.wr.wr.wr.upd.log
  · exact h.upd.wr.wr.raise.log
  · exact h.upd.wr.wr.log

/-! ### VerdictPort -/

protected theorem Keeps.vpEdge (h : Keeps s u) : Keeps s (vpEdge u) :=
  h.wr.upd

protected theorem Keeps.vpLook (h : Keeps s u) {id : Nat} {ecc : Ecc} : Keeps s (vpLook u id ecc).2 := by
  unfold vpLook
  extract_lets a
  split
  · dsimp only
    exact h.svmUncorr
  · cases ecc
    case ok => exact h
    case uncorr =>
      dsimp only
      exact h.putEntry.svmUncorr
    all_goals
      dsimp only
      exact h.svmCorr

@[simp] theorem kept_execVpRead {id : Nat} {apOk : Bool} {ecc : Ecc} : Kept s (execVpRead id apOk ecc s) := by
  refine .next ?_
  dsimp only
  exact Keeps.rfl.upd.ite (Keeps.rfl.ite (Keeps.rfl.vpEdge.bump.perf.bump.raise.perf.upd.ite
    (Keeps.rfl.vpEdge.bump.perf.vpLook.upd.ite Keeps.rfl.vpEdge.bump.perf.vpLook.upd)))

protected theorem Keeps.modParcel (h : Keeps s u) {q : Parcel} {f : Parcel → Parcel} : Keeps s (modParcel u q f) :=
  h.upd

protected theorem Keeps.sweepParcels (h : Keeps s u) : Keeps s (sweepParcels u) :=
  h.upd

protected theorem Keeps.pair (h : Keeps s u) {id : Nat} {q : Parcel} : Keeps s (pair u id q) :=
  h.putEntry.modParcel.sweepParcels.doubtEntry.ite h.putEntry.modParcel.sweepParcels

protected theorem Keeps.unpairedEvent (h : Keeps s u) {q : Parcel} : Keeps s (unpairedEvent u q) :=
  h.modParcel.sweepParcels.bump.raise.log

protected theorem Keeps.recordEvent (h : Keeps s u) {l : Nat} : Keeps s (recordEvent u l) := by
  unfold recordEvent
  dsimp only
  split
  · exact h.bump.upd.pair
  · refine .upd ?_
    split
    · split
      · exact h.bump.unpairedEvent.bump
      · exact h.bump
    · exact h.bump

protected theorem Keeps.recordTrail (h : Keeps s u) {l : Nat} : Keeps s (recordTrail u l) := by
  unfold recordTrail
  split
  · exact h
  · refine .sweepParcels (.modParcel ?_)
    split
    · exact h.putEntry.ite h
    · exact h

protected theorem Keeps.eyeEdge (h : Keeps s u) {p : Nat} {rise : Bool} : Keeps s (eyeEdge u p rise) :=
  h.ite (h.recordEvent.ite h.recordTrail)

protected theorem Keeps.eyeRow (h : Keeps s u) {l : Nat} {rise : Bool} : Keeps s (eyeRow u l rise) :=
  h.ite h.upd.eyeEdge

@[simp] theorem kept_execEyeLeadingEdge {line : Nat} : Kept s (execEyeLeadingEdge line s) :=
  .next Keeps.rfl.eyeRow

@[simp] theorem kept_execEyeTrailingEdge {line : Nat} : Kept s (execEyeTrailingEdge line s) :=
  .next Keeps.rfl.eyeRow

@[simp] theorem kept_execUnpairedEvt {line : Nat} : Kept s (execUnpairedEvt line s) := by
  refine .next ?_
  split
  · exact Keeps.rfl
  · split
    · exact Keeps.rfl
    · exact Keeps.rfl.unpairedEvent

@[simp] theorem kept_execUnpairedAnn {id : Nat} : Kept s (execUnpairedAnn id s) := by
  refine .next ?_
  split
  · exact Keeps.rfl
  · exact Keeps.rfl.ite Keeps.rfl.chgEntry.bump.raise.log

@[simp] theorem kept_execMissed {id : Nat} : Kept s (execMissed id s) := by
  refine .next ?_
  split
  · exact Keeps.rfl
  · exact .ite Keeps.rfl (.folded Keeps.rfl.missEntry.bump.raise.log (fun _ _ h => h.noticeOn))

protected theorem Keeps.announce (h : Keeps s u) {l id pos : Nat} : Keeps s (announce u l id pos) := by
  unfold announce
  dsimp only
  split
  · exact h.chgEntry.pair
  · exact h.chgEntry

protected theorem Keeps.vpAnnounce (h : Keeps s u) {l id pos : Nat} {ecc : Ecc} : Keeps s (vpAnnounce u l id pos ecc) :=
  h.vpLook.ite (h.vpLook.announce.ite (h.vpLook.ite h.vpLook.bump.log))

protected theorem Keeps.vpAck (h : Keeps s u) {id seq : Nat} {ecc : Ecc} : Keeps s (vpAck u id seq ecc) :=
  (h.vpLook.putEntry.ite h.vpLook.bump).ite (h.vpLook.ite (h.vpLook.bump.ite h.vpLook.chgEntry))

protected theorem Keeps.vpParityErr (h : Keeps s u) : Keeps s (vpParityErr u) :=
  h.bump.raise.perf

protected theorem Keeps.vpBad (h : Keeps s u) : Keeps s (vpBad u) :=
  h.bump.raise.perf

protected theorem Keeps.vpWrite (h : Keeps s u) {id word : Nat} {parityOk : Bool} {ecc : Ecc} :
    Keeps s (vpWrite u id word parityOk ecc) := by
  unfold vpWrite
  dsimp only
  split
  · exact h
  · split
    · exact h.vpEdge.bump.perf.vpParityErr
    · split
      · exact h.vpEdge.bump.perf.vpBad
      · exact h.vpEdge.bump.perf.vpAnnounce.ite (h.vpEdge.bump.perf.vpAck.ite h.vpEdge.bump.perf.vpBad)

@[simp] theorem kept_execAnnounce {id pos : Nat} {ecc : Ecc} : Kept s (execAnnounce id pos ecc s) :=
  .next (Keeps.rfl.ite Keeps.rfl.vpWrite)

@[simp] theorem kept_execAck {id seq : Nat} {ecc : Ecc} : Kept s (execAck id seq ecc s) :=
  .next (Keeps.rfl.ite Keeps.rfl.vpWrite)

@[simp] theorem kept_execBadWrite {id word : Nat} {parityOk : Bool} : Kept s (execBadWrite id word parityOk s) :=
  .next (Keeps.rfl.ite Keeps.rfl.vpWrite)

@[simp] theorem kept_execVpClkStop : Kept s (execVpClkStop s) :=
  .next (Keeps.rfl.wr.ite Keeps.rfl)

@[simp] theorem kept_execStagingRequest {ini : Ini} {id word : Nat} : Kept s (execStagingRequest ini id word s) := by
  refine .next (Keeps.rfl.ite ?_)
  extract_lets t
  have written : Keeps s (tryWrite s t (vtBase + 4 * id) (leBytes 4 word) .ok).2 := Keeps.rfl.tryWrite
  generalize tryWrite s t (vtBase + 4 * id) (leBytes 4 word) .ok = x at written
  obtain ⟨r, v⟩ := x
  dsimp only at written ⊢
  have counts : Keeps s (match pageOfInit t.init with | some p => perfWr v p | none => v) := by
    split
    · exact written.perfWr
    · exact written
  exact counts.raiseFault.ite counts

protected theorem Keeps.lineFields (h : Keeps s u) {l off v : Nat} : Keeps s (lineFields u l off v) :=
  h.wr.wr.wr.wr.ite (h.wr.wr.ite (h.wr.ite (h.wr.ite (h.wr.ite h.wr))))

@[simp] theorem kept_execLineCfg {ini : Ini} {line off value : Nat} : Kept s (execLineCfg ini line off value s) :=
  .next (Keeps.rfl.ite (Keeps.rfl.regRow (fun _ => Keeps.rfl.ite (Keeps.rfl.prog.ite Keeps.rfl.lineFields))))

/-! ### I3c -/

protected theorem Keeps.putI3c (h : Keeps s u) {i : Nat} {x : I3c} : Keeps s (u.putI3c i x) :=
  h.upd

@[simp] theorem kept_execCmd {ini : Ini} {i value : Nat} : Kept s (execCmd ini i value s) :=
  .next (Keeps.rfl.ite (Keeps.rfl.regRow (fun _ => Keeps.rfl.prog.ite Keeps.rfl.putI3c)))

@[simp] theorem kept_execCmdStart {i : Nat} : Kept s (execCmdStart i s) := by
  refine .next ?_
  dsimp only
  split
  · exact Keeps.rfl
  · exact Keeps.rfl.ite Keeps.rfl.putI3c.settle

@[simp] theorem kept_execCmdDone {i status : Nat} {data : List Nat} : Kept s (execCmdDone i status data s) := by
  refine .next ?_
  dsimp only
  split
  · exact Keeps.rfl
  · exact Keeps.rfl.ite (Keeps.rfl.putI3c.perf.ite ((Keeps.rfl.putI3c.raise.wr.ite (Keeps.rfl.putI3c.raise.ite
      (Keeps.rfl.putI3c.raise.ite Keeps.rfl.putI3c))).perf.ite (Keeps.rfl.putI3c.raise.wr.ite
      (Keeps.rfl.putI3c.raise.ite (Keeps.rfl.putI3c.raise.ite Keeps.rfl.putI3c))).perf.perf).settle)

protected theorem Keeps.txPush (h : Keeps s u) {i : Nat} {bs : List Nat} : Keeps s (txPush u i bs) :=
  h.prog.ite h.putI3c

@[simp] theorem kept_execTxData {ini : Ini} {i value : Nat} : Kept s (execTxData ini i value s) :=
  .next (Keeps.rfl.ite (Keeps.rfl.regRow (fun _ => Keeps.rfl.txPush)))

@[simp] theorem kept_execTxData4 {ini : Ini} {i value : Nat} : Kept s (execTxData4 ini i value s) :=
  .next (Keeps.rfl.ite (Keeps.rfl.regRow (fun _ => Keeps.rfl.txPush)))

@[simp] theorem kept_execRxData {ini : Ini} {i : Nat} : Kept s (execRxData ini i s) := by
  refine .next ?_
  split
  · exact Keeps.rfl
  · refine .popRow Keeps.rfl (fun _ => ?_)
    split
    · exact Keeps.rfl
    · exact Keeps.rfl.putI3c

@[simp] theorem kept_execResp {ini : Ini} {i : Nat} : Kept s (execResp ini i s) := by
  refine .next ?_
  split
  · exact Keeps.rfl
  · refine .popRow Keeps.rfl (fun _ => ?_)
    split
    · exact Keeps.rfl
    · exact Keeps.rfl.putI3c

@[simp] theorem kept_execIbiArrival {i addr : Nat} {data : List Nat} : Kept s (execIbiArrival i addr data s) :=
  .next (Keeps.rfl.ite (Keeps.rfl.raise.ite Keeps.rfl.putI3c))

@[simp] theorem kept_execIbi {ini : Ini} {i : Nat} : Kept s (execIbi ini i s) := by
  refine .next ?_
  split
  · exact Keeps.rfl
  · refine .popRow Keeps.rfl (fun _ => ?_)
    split
    · exact Keeps.rfl
    · exact Keeps.rfl.wr.putI3c

@[simp] theorem kept_execHaltClr {ini : Ini} {i : Nat} : Kept s (execHaltClr ini i s) :=
  .next (Keeps.rfl.ite (Keeps.rfl.regRow (fun _ => Keeps.rfl.wr)))

/-! ### Images -/

protected theorem Keeps.recordImage (h : Keeps s u) {e loads : Nat} {h' : List Byte} :
    Keeps s (recordImage u e loads h') :=
  .folded h.wr.wr (fun _ _ h => h.wr)

protected theorem Keeps.clearImage (h : Keeps s u) {e : Nat} : Keeps s (clearImage u e) :=
  .folded h (fun _ _ h => h.wr)

/-! ### Intake -/

protected theorem Keeps.putIntake (h : Keeps s u) {k : Nat} {i : Intake} : Keeps s (u.putIntake k i) :=
  h.upd

protected theorem Keeps.clashProg (h : Keeps s u) {port : Nat} : Keeps s (clashProg u port) :=
  h.prog.ite h

protected theorem Keeps.slotTake (h : Keeps s u) {port j : Nat} : Keeps s (slotTake u port j) :=
  h.putIntake

protected theorem Keeps.applySlots (h : Keeps s u) {port vc : Nat} : Keeps s (applySlots u port vc) :=
  .ite h (.clashProg (.folded h (fun _ _ h => h.slotTake)))

protected theorem Keeps.landBytes (h : Keeps s u) {k : Nat} {f : Frm} {a : Nat} {bs : List Byte} :
    Keeps s (landBytes u k f a bs).2 := by
  unfold landBytes
  dsimp only
  split
  · exact h.writeOnce.raise
  · exact h.writeOnce

protected theorem Keeps.headerCheck (h : Keeps s u) {port : Nat} {h' : Hdr} : Keeps s (headerCheck u port h').2 := by
  unfold headerCheck
  dsimp only
  split
  · exact h.hit.bump.raiseI
  · exact h.hit.hit.bump.raiseI.ite h.hit.hit

protected theorem Keeps.csiSettle (h : Keeps s u) {port : Nat} : Keeps s (csiSettle u port) :=
  h.settle

protected theorem Keeps.intakeOff (h : Keeps s u) {k : Nat} : Keeps s (intakeOff u k) :=
  h.putIntake.wr.wr

protected theorem Keeps.skipBlock (h : Keeps s u) {k : Nat} {f : Frm} : Keeps s (skipBlock u k f).2 :=
  h.bump.raise

protected theorem Keeps.truncateFrame (h : Keeps s u) {k : Nat} {f : Frm} : Keeps s (truncateFrame u k f) := by
  unfold truncateFrame
  extract_lets closed
  generalize hx : (if u.on (pgCtx k) R.testEn then skipBlock u k closed else (closed, u)) = x
  have skip : Keeps s x.2 := by
    subst hx
    split
    · exact h.skipBlock
    · exact h
  exact skip.putIntake

protected theorem Keeps.abandonBlock (h : Keeps s u) {k issued : Nat} : Keeps s (abandonBlock u k issued) := by
  unfold abandonBlock
  dsimp only
  split
  · exact h
  · exact h.landBytes.putIntake.bump

protected theorem Keeps.frameStart (h : Keeps s u) {k fn issued : Nat} : Keeps s (frameStart u k fn issued) := by
  unfold frameStart
  extract_lets p _ ended i seeded cnt counted i' n wr dropped f
  have ends : Keeps s ended := by
    unfold ended
    split
    · exact h.putIntake.ite h.truncateFrame
    · exact h.abandonBlock
  have seeds : Keeps s seeded := ends.wr.ite ends
  have counts : Keeps s counted := seeds.wr
  exact ends.intakeOff.ite (counts.bump.raise.putIntake.ite counts.putIntake)

@[simp] theorem kept_execFrameStart {port vc fn issued : Nat} {hdr : Hdr} :
    Kept s (execFrameStart port vc fn issued hdr s) := by
  refine .next ?_
  dsimp only
  split
  · exact Keeps.rfl
  · split
    · exact Keeps.rfl.headerCheck
    · split
      · exact Keeps.rfl.headerCheck.applySlots.bump
      · exact Keeps.rfl.headerCheck.applySlots.frameStart.csiSettle

protected theorem Keeps.frameEnd (h : Keeps s u) {k : Nat} : Keeps s (frameEnd u k) := by
  unfold frameEnd
  extract_lets p i
  split
  · exact h
  · extract_lets f ended
    have ends : Keeps s ended := by
      refine h.putIntake.ite ?_
      dsimp only
      generalize hx : (if u.on p R.testEn = false then (f, u) else _ : Frm × State) = x
      have timed : Keeps s x.2 := by
        subst hx
        refine .ite₂ h ?_
        split
        · exact h
        · exact .ite₂ h.wr.skipBlock h.wr
      exact timed.putIntake
    exact ends.intakeOff.ite ends

@[simp] theorem kept_execFrameEnd {port vc : Nat} {hdr : Hdr} : Kept s (execFrameEnd port vc hdr s) := by
  refine .next ?_
  dsimp only
  split
  · exact Keeps.rfl
  · split
    · exact Keeps.rfl.headerCheck
    · split
      · exact Keeps.rfl.headerCheck.bump
      · exact Keeps.rfl.headerCheck.frameEnd.csiSettle

@[simp] theorem kept_execTestBlockWriteDone {stream : Nat} : Kept s (execTestBlockWriteDone stream s) := by
  refine .next ?_
  dsimp only
  split
  · exact Keeps.rfl
  · exact Keeps.rfl.landBytes.putIntake

protected theorem Keeps.lostLine (h : Keeps s u) {k : Nat} : Keeps s (lostLine u k) := by
  unfold lostLine
  split
  · exact h.ite h.putIntake
  · exact h

protected theorem Keeps.imageLine (h : Keeps s u) {k : Nat} {f : Frm} {crcBad : Bool} {px : List Nat} :
    Keeps s (imageLine u k f crcBad px) :=
  h.putIntake.ite h.landBytes.putIntake

protected theorem Keeps.embLine (h : Keeps s u) {k : Nat} {f : Frm} {crcBad : Bool} {px : List Nat} :
    Keeps s (embLine u k f crcBad px) :=
  h.putIntake.ite h.landBytes.putIntake

protected theorem Keeps.longPacket (h : Keeps s u) {port vc dt : Nat} {crcBad ovf : Bool} {px : List Nat} :
    Keeps s (longPacket u port vc dt crcBad ovf px) := by
  unfold longPacket
  dsimp only
  split
  · exact h.bump
  · split
    · exact h.hit.raiseI.lostLine
    · split
      · exact h.hit.hit.bump.raiseI.ite h.hit.hit
      · exact (h.hit.hit.bump.raiseI.ite h.hit.hit).ite ((h.hit.hit.bump.raiseI.ite h.hit.hit).imageLine.ite
          (h.hit.hit.bump.raiseI.ite h.hit.hit).embLine)

@[simp] theorem kept_execLongPacket {port vc dt : Nat} {hdr : Hdr} {crcBad ovf : Bool} {px : List Nat} :
    Kept s (execLongPacket port vc dt hdr crcBad ovf px s) := by
  refine .next ?_
  dsimp only
  split
  · exact Keeps.rfl
  · split
    · split
      · exact Keeps.rfl.headerCheck.lostLine
      · exact Keeps.rfl.headerCheck
    · exact Keeps.rfl.headerCheck.longPacket

@[simp] theorem kept_execSotError {port : Nat} : Kept s (execSotError port s) :=
  .next (Keeps.rfl.ite Keeps.rfl.hit.bump.raiseI)

protected theorem Keeps.publishSlot (h : Keeps s u) {k : Nat} {f : Frm} {rest : List Frm} :
    Keeps s (publishSlot u k f rest) :=
  (((((h.landBytes.wr.ite h.landBytes).raise.ite (h.landBytes.wr.ite h.landBytes)).perf.perf.ite
    ((h.landBytes.wr.ite h.landBytes).raise.ite (h.landBytes.wr.ite h.landBytes)).perf).wr.ite
    (((h.landBytes.wr.ite h.landBytes).raise.ite (h.landBytes.wr.ite h.landBytes)).perf.perf.ite
    ((h.landBytes.wr.ite h.landBytes).raise.ite (h.landBytes.wr.ite h.landBytes)).perf)).putIntake.upd.streamFrame.ite
    ((((h.landBytes.wr.ite h.landBytes).raise.ite (h.landBytes.wr.ite h.landBytes)).perf.perf.ite
    ((h.landBytes.wr.ite h.landBytes).raise.ite (h.landBytes.wr.ite h.landBytes)).perf).wr.ite
    (((h.landBytes.wr.ite h.landBytes).raise.ite (h.landBytes.wr.ite h.landBytes)).perf.perf.ite
    ((h.landBytes.wr.ite h.landBytes).raise.ite (h.landBytes.wr.ite h.landBytes)).perf)).putIntake.upd).csiSettle

@[simp] theorem kept_execSlotPublish {stream : Nat} : Kept s (execSlotPublish stream s) := by
  refine .next ?_
  split
  · exact Keeps.rfl.ite Keeps.rfl.publishSlot
  · exact Keeps.rfl

@[simp] theorem kept_execLossTimeout {stream : Nat} : Kept s (execLossTimeout stream s) := by
  refine .next ?_
  dsimp only
  split
  · exact .rfl
  · exact Keeps.doubt (Keeps.logI Keeps.rfl.wr.raise.bump.putIntake)

protected theorem Keeps.intakeOn (h : Keeps s u) {k : Nat} : Keeps s (intakeOn u k) :=
  h.wr.wr.wr.putIntake.clashProg

@[simp] theorem kept_execInEn {ini : Ini} {stream : Nat} {on : Bool} : Kept s (execInEn ini stream on s) := by
  refine .next ?_
  split
  · exact Keeps.rfl
  · refine .regRow Keeps.rfl (fun _ => ?_)
    split
    · exact Keeps.rfl.putIntake.ite (Keeps.rfl.intakeOn.ite Keeps.rfl.prog)
    · split
      · exact Keeps.rfl
      · split
        · exact Keeps.rfl.putIntake
        · exact Keeps.rfl.intakeOff

protected theorem Keeps.calDone (h : Keeps s u) {p : Nat} : Keeps s (calDone u p) :=
  h.wr.ite h

@[simp] theorem kept_execCal {ini : Ini} {stream : Nat} : Kept s (execCal ini stream s) :=
  .next (Keeps.rfl.ite (Keeps.rfl.regRow (fun _ => Keeps.rfl.wr.calDone)))

@[simp] theorem kept_execUlps {port lane : Nat} {enter : Bool} : Kept s (execUlps port lane enter s) :=
  .next (Keeps.rfl.ite (Keeps.rfl.wrBit.wrBit.ite (Keeps.rfl.wr.wr.ite Keeps.rfl)))

@[simp] theorem kept_execSkewCalibration {port : Nat} : Kept s (execSkewCalibration port s) :=
  .next (Keeps.rfl.wr.ite Keeps.rfl)

/-! ### Isp -/

protected theorem Keeps.putIspCtx (h : Keeps s u) {k : Nat} {c : IspCtx} : Keeps s (u.putIspCtx k c) :=
  h.upd

protected theorem Keeps.latchShadows (h : Keeps s u) {k : Nat} : Keeps s (latchShadows u k) :=
  h.putIspCtx.wr.bump

protected theorem Keeps.frameErr (h : Keeps s u) {k : Nat} {bad : Bool} : Keeps s (frameErr u k bad) :=
  h.upd.raise.ite h

protected theorem Keeps.skipOut (h : Keeps s u) {k o : Nat} : Keeps s (skipOut u k o) :=
  h.bump.raise

protected theorem Keeps.ispStart (h : Keeps s u) {pipe k : Nat} : Keeps s (ispStart u pipe k) :=
  .settle (.settle (.upd (.wr (.wr (.folded ((h.latchShadows.ite h).readOnce.frameErr.prog.ite
    (h.latchShadows.ite h).readOnce.frameErr) (fun _ _ h => h.skipOut))))))

@[simp] theorem kept_execIspDispatch {pipe : Nat} : Kept s (execIspDispatch pipe s) := by
  refine .next ?_
  split
  · exact Keeps.rfl
  · split
    · exact Keeps.rfl.ispStart
    · exact Keeps.rfl

protected theorem Keeps.writePlane (h : Keeps s u) {t : Tag} {pipe k : Nat} {sp : Spot} {z : Cells} {a pitch : Nat}
    {lines : List (List Byte)} :
    Keeps s (writePlane u t pipe k sp z a pitch lines).2 :=
  .folded₂ h (fun ⟨_, _⟩ ⟨_, _⟩ h => h.writeOnce.frameErr)

protected theorem Keeps.readRows (h : Keeps s u) {t : Tag} {pipe k : Nat} {sp : Spot} {base stride w h' lines : Nat} :
    Keeps s (readRows u t pipe k sp base stride w h' lines).2 := by
  unfold readRows
  refine .folded₂ h (fun ⟨_, _⟩ _ h => ?_)
  dsimp only
  split
  · exact h
  · exact h.readOnce.frameErr

protected theorem Keeps.writeOutput (h : Keeps s u) {t : Tag} {pipe k : Nat} {sp : Spot} {z : Cells} {st : Stages}
    {o : Nat} :
    Keeps s (writeOutput u t pipe k sp z st o) :=
  .folded h (fun _ _ h => h.writePlane)

protected theorem Keeps.writeTestOutput (h : Keeps s u) {t : Tag} {pipe k : Nat} {sp : Spot} {z : Cells} {st : Stages}
    {o : Nat} :
    Keeps s (writeTestOutput u t pipe k sp z st o).2 := by
  unfold writeTestOutput
  exact .folded₂ h (fun ⟨_, _⟩ ⟨_, _⟩ h => h.writePlane)

protected theorem Keeps.ispProcess (h : Keeps s u) {pipe : Nat} {r : IspRun} {m : IspFind} {z : Cells} :
    Keeps s (ispProcess u pipe r m z).2.2 := by
  unfold ispProcess
  dsimp only
  split
  · exact .folded₂ (.frameErr (.readOnce (.folded h.readRows (fun _ _ h => h.writeOutput))))
      (fun ⟨_, _⟩ _ h => h.writeTestOutput)
  · exact .folded h.readRows (fun _ _ h => h.writeOutput)

protected theorem Keeps.testCompare (h : Keeps s u) {pipe : Nat} {r : IspRun} {sp : Spot} {sigs : List (Nat × Nat)} :
    Keeps s (testCompare u pipe r sp sigs).2 := by
  unfold testCompare
  dsimp only
  split
  · exact h
  · split
    · exact .calDone (.wrBit (.folded h (fun _ _ h => h.writeOnce.frameErr)))
    · split
      · exact h
      · exact .folded₂ h (fun ⟨_, _⟩ ⟨_, _⟩ h => h.readOnce.frameErr)

protected theorem Keeps.covCompared (h : Keeps s u) {k cnt : Nat} : Keeps s (covCompared u k cnt) :=
  h.putIntake

protected theorem Keeps.testPass (h : Keeps s u) {k cnt enc : Nat} : Keeps s (testPass u k cnt enc) := by
  unfold testPass
  refine .wr (.putIntake ?_)
  split
  · exact (h.covCompared.ite h.covCompared.upd).log
  · exact h.covCompared.ite h.covCompared.upd

protected theorem Keeps.testMiss (h : Keeps s u) {k cnt enc slots : Nat} {inj : Bool} :
    Keeps s (testMiss u k cnt enc slots inj) := by
  unfold testMiss
  extract_lets p covered marked i d0 d2 rec0
  have marks : Keeps s marked := h.covCompared.bump.raiseI.wr
  clear_value i
  cases i.miss with
  | some m =>
    dsimp only
    exact (marks.log.putIntake.doubtInj.ite marks.log.putIntake.doubt).fencePage
  | none =>
    dsimp only
    exact marks.logI.putIntake.doubtInj.ite marks.logI.putIntake.doubt

protected theorem Keeps.testResult (h : Keeps s u) {r : IspRun} {o : TestOutcome} : Keeps s (testResult u r o).2 := by
  unfold testResult
  dsimp only
  split
  · exact h
  · exact h
  · exact h
  · exact h.hit.testMiss
  · split
    · exact h.hit.testMiss
    · exact h.hit.testPass

protected theorem Keeps.publishOut (h : Keeps s u) {pipe : Nat} {r : IspRun} {sp : Spot} {flags sig o : Nat} :
    Keeps s (publishOut u pipe r sp flags sig o) :=
  h.writeOnce.frameErr.wr

protected theorem Keeps.ispFinish (h : Keeps s u) {pipe : Nat} {r : IspRun} : Keeps s (ispFinish u pipe r) :=
  ((h.putIspCtx.wr.ite h.putIspCtx).wr.ite (h.putIspCtx.wr.ite h.putIspCtx)).upd.wr.bump.settle.settle.perf.perf.ite
    ((h.putIspCtx.wr.ite h.putIspCtx).wr.ite (h.putIspCtx.wr.ite h.putIspCtx)).upd.wr.bump.settle.settle.perf

protected theorem Keeps.ispPublish (h : Keeps s u) {pipe : Nat} {r : IspRun} {sp : Spot} {sigs : List (Nat × Nat)}
    {lasting retried : Bool} :
    Keeps s (ispPublish u pipe r sp sigs lasting retried) :=
  .ispFinish (.folded h.testCompare.testResult (fun _ _ h => h.publishOut))

protected theorem Keeps.retryRun (h : Keeps s u) {pipe : Nat} {inj : Bool} : Keeps s (retryRun u pipe inj) :=
  h.upd

@[simp] theorem kept_execIspFrameDone {pipe : Nat} {find : IspFind} {noise : Cells} :
    Kept s (execIspFrameDone pipe find noise s) := by
  refine .next ?_
  split
  · exact Keeps.rfl
  · exact Keeps.rfl.ite (Keeps.rfl.ispProcess.hit.perf.raiseI.bump.bump.perf.perf.retryRun.ite
      Keeps.rfl.ispProcess.hit.perf.ispPublish)

protected theorem Keeps.ispResidueRec (h : Keeps s u) {pipe : Nat} {r : IspRun} {cls : Nat} {inj : Bool} :
    Keeps s (ispResidueRec u pipe r cls inj).2 :=
  h.logI

@[simp] theorem kept_execSecondAttemptDone {pipe : Nat} {find : IspFind} {noise : Cells} :
    Kept s (execSecondAttemptDone pipe find noise s) := by
  refine .next ?_
  split
  · exact Keeps.rfl
  · exact Keeps.rfl.ite ((Keeps.rfl.ispProcess.hit.perf.raiseI.bump.perf.ispResidueRec.doubtInj.ite
      Keeps.rfl.ispProcess.hit.perf.raiseI.bump.perf.ispResidueRec.doubt).ispPublish.fencePage.ite
      Keeps.rfl.ispProcess.hit.perf.ispResidueRec.ispPublish)

@[simp] theorem kept_execCommit {ini : Ini} {stream : Nat} : Kept s (execCommit ini stream s) :=
  .next (Keeps.rfl.ite (Keeps.rfl.regRow (fun _ => Keeps.rfl.prog.ite Keeps.rfl.wr)))

protected theorem Keeps.toneStore (h : Keeps s u) {k bank off v : Nat} : Keeps s (toneStore u k bank off v) := by
  unfold toneStore
  split
  · exact h.upd
  · exact h

@[simp] theorem kept_execToneWindowWrite {ini : Ini} {stream off value : Nat} :
    Kept s (execToneWindowWrite ini stream off value s) :=
  .next (Keeps.rfl.ite (Keeps.rfl.regRow (fun _ => Keeps.rfl.raise.ite
    (Keeps.rfl.prog.ite Keeps.rfl.toneStore.toneStore))))

@[simp] theorem kept_execCtxEn {ini : Ini} {stream : Nat} {on : Bool} : Kept s (execCtxEn ini stream on s) :=
  .next (Keeps.rfl.ite (Keeps.rfl.regRow (fun _ => (Keeps.rfl.putIspCtx.ite
    (Keeps.rfl.wr.noPipes.ite Keeps.rfl.prog)).ite (Keeps.rfl.putIspCtx.ite Keeps.rfl.wr))))

/-! ### Lio -/

protected theorem Keeps.putPin (h : Keeps s u) {p : Nat} {x : Pin} : Keeps s (u.putPin p x) :=
  h.upd

@[simp] theorem kept_execPinCfg {ini : Ini} {p value : Nat} : Kept s (execPinCfg ini p value s) :=
  .next (Keeps.rfl.ite (Keeps.rfl.regRow (fun _ => Keeps.rfl.prog.ite
    ((Keeps.rfl.prog.ite Keeps.rfl).wr.wr.wr.wr.wr.ite (Keeps.rfl.prog.ite Keeps.rfl).wr.wr.wr.wr.wr.putPin))))

@[simp] theorem kept_execPinSwitchEnd {p sample : Nat} : Kept s (execPinSwitchEnd p sample s) := by
  refine .next ?_
  split
  · exact Keeps.rfl
  · exact Keeps.rfl.ite Keeps.rfl.putPin

protected theorem Keeps.encEdge (h : Keeps s u) {e : Nat} {onA a b : Bool} : Keeps s (encEdge u e onA a b) :=
  h.ite h.wr.upd

protected theorem Keeps.encIllegal (h : Keeps s u) {e : Nat} : Keeps s (encIllegal u e) :=
  h.ite h.bump.raise

protected theorem Keeps.pinEncoder (h : Keeps s u) {p : Nat} {v : Bool} : Keeps s (pinEncoder u p v) := by
  unfold pinEncoder
  dsimp only
  split
  · exact h
  · split
    · exact h
    · split
      · exact h
      · exact h.encEdge.ite h.encEdge

@[simp] theorem kept_execInputAccept {p level : Nat} : Kept s (execInputAccept p level s) := by
  refine .next ?_
  dsimp only
  split
  · exact Keeps.rfl
  · split
    · exact Keeps.rfl.ite (Keeps.rfl.putPin.pinEncoder.ite (Keeps.rfl.putPin.eyeEdge.ite Keeps.rfl.putPin))
    · exact Keeps.rfl.putPin

@[simp] theorem kept_execEncoderEdge {e a b : Nat} : Kept s (execEncoderEdge e a b s) := by
  refine .next ?_
  split
  · split
    · exact Keeps.rfl.ite (Keeps.rfl.putPin.putPin.encIllegal.ite (Keeps.rfl.putPin.putPin.encEdge.ite
        (Keeps.rfl.putPin.putPin.encEdge.ite Keeps.rfl.putPin.putPin)))
    · exact Keeps.rfl
  · exact Keeps.rfl

protected theorem Keeps.putTg (h : Keeps s u) {t : Nat} {g : Tg} : Keeps s (u.putTg t g) :=
  h.upd

protected theorem Keeps.anchor (h : Keeps s u) {t : Nat} : Keeps s (anchor u t) :=
  h.putTg.ite h.putTg

@[simp] theorem kept_execTgCfg {ini : Ini} {t off value : Nat} : Kept s (execTgCfg ini t off value s) :=
  .next (Keeps.rfl.ite (Keeps.rfl.regRow (fun _ => Keeps.rfl.prog.ite (Keeps.rfl.wr.wr.ite
    (Keeps.rfl.wr.ite Keeps.rfl.wr)).anchor)))

protected theorem Keeps.fireTrigger (h : Keeps s u) {t st : Nat} : Keeps s (fireTrigger u t st) :=
  h.bump.putTg

@[simp] theorem kept_execTrigger {t : Nat} : Kept s (execTrigger t s) := by
  refine .next ?_
  split
  · exact Keeps.rfl
  · split
    · exact Keeps.rfl
    · split
      · exact Keeps.rfl.putTg.bump
      · split
        · exact Keeps.rfl.putTg.putTg.ite Keeps.rfl.putTg.fireTrigger
        · exact Keeps.rfl.putTg.fireTrigger

@[simp] theorem kept_execTriggerLate {t : Nat} : Kept s (execTriggerLate t s) := by
  refine .next ?_
  split
  · exact Keeps.rfl
  · exact Keeps.rfl.ite Keeps.rfl.bump.raise.fireTrigger

@[simp] theorem kept_execStrobeStart {t : Nat} : Kept s (execStrobeStart t s) := by
  refine .next ?_
  dsimp only
  split
  · exact Keeps.rfl
  · exact Keeps.rfl.ite Keeps.rfl.putTg

@[simp] theorem kept_execPulseEnd {t : Nat} {strobe : Bool} : Kept s (execPulseEnd t strobe s) := by
  refine .next ?_
  dsimp only
  split
  · exact Keeps.rfl
  · exact Keeps.rfl.ite Keeps.rfl.putTg

protected theorem Keeps.putPwm (h : Keeps s u) {k : Nat} {x : Pwm} : Keeps s (u.putPwm k x) :=
  h.upd

protected theorem Keeps.pwmWritten (h : Keeps s u) {k : Nat} : Keeps s (pwmWritten u k) :=
  h.putPwm.ite h

@[simp] theorem kept_execPwmPeriodStart {k : Nat} : Kept s (execPwmPeriodStart k s) := by
  refine .next ?_
  split
  · exact Keeps.rfl
  · exact Keeps.rfl.ite (Keeps.rfl.putPwm.ite (Keeps.rfl.prog.putPwm.ite Keeps.rfl.putPwm))

@[simp] theorem kept_execPwmHighEnd {k : Nat} : Kept s (execPwmHighEnd k s) := by
  refine .next ?_
  split
  · exact Keeps.rfl
  · exact Keeps.rfl.ite Keeps.rfl.putPwm

protected theorem Keeps.putUart (h : Keeps s u) {u' : Nat} {x : Uart} : Keeps s (u.putUart u' x) :=
  h.upd

protected theorem Keeps.uartOff (h : Keeps s u) {u' : Nat} : Keeps s (uartOff u u') :=
  h.ite h.putUart

@[simp] theorem kept_execUartTx {ini : Ini} {u' value : Nat} : Kept s (execUartTx ini u' value s) :=
  .next (Keeps.rfl.ite (Keeps.rfl.regRow (fun _ => Keeps.rfl.ite (Keeps.rfl.putUart.ite
    (Keeps.rfl.wr.raise.ite Keeps.rfl.putUart)))))

@[simp] theorem kept_execUartRx {ini : Ini} {u' : Nat} : Kept s (execUartRx ini u' s) := by
  refine .next ?_
  split
  · exact Keeps.rfl
  · refine .popRow Keeps.rfl (fun _ => ?_)
    split
    · exact Keeps.rfl
    · exact Keeps.rfl.putUart

@[simp] theorem kept_execUartByteReceived {u' value : Nat} {perr ferr : Bool} :
    Kept s (execUartByteReceived u' value perr ferr s) :=
  .next (Keeps.rfl.ite (((Keeps.rfl.wr.ite Keeps.rfl).wr.ite (Keeps.rfl.wr.ite Keeps.rfl)).wr.ite
    ((Keeps.rfl.wr.ite Keeps.rfl).wr.ite (Keeps.rfl.wr.ite Keeps.rfl)).putUart).found)

@[simp] theorem kept_execUartByteSent {u' : Nat} : Kept s (execUartByteSent u' s) := by
  refine .next ?_
  dsimp only
  split
  · exact Keeps.rfl
  · split
    · exact Keeps.rfl.upd.putUart
    · exact Keeps.rfl.upd.putUart

/-! ### Monitor -/

protected theorem Keeps.setLink (h : Keeps s u) {v : Nat} : Keeps s (u.setLink v) :=
  h.wr

protected theorem Keeps.applyTiming (h : Keeps s u) : Keeps s (applyTiming u) :=
  (h.upd.wr.bump.upd.ite h.upd.wr.bump).setLink.ite ((h.upd.wr.bump.upd.ite h.upd.wr.bump).setLink.ite
    (h.upd.wr.bump.upd.ite h.upd.wr.bump))

protected theorem Keeps.setPlSlot (h : Keeps s u) {k n v : Nat} : Keeps s (u.setPlSlot k n v) :=
  h.wr

@[simp] theorem kept_execPlaneCommit {ini : Ini} {plane slot : Nat} : Kept s (execPlaneCommit ini plane slot s) :=
  .next (Keeps.rfl.ite (Keeps.rfl.regRow (fun _ => Keeps.rfl.prog.ite Keeps.rfl.upd.setPlSlot)))

@[simp] theorem kept_execRelease {ini : Ini} {plane : Nat} : Kept s (execRelease ini plane s) := by
  refine .next ?_
  split
  · exact Keeps.rfl
  · refine .regRow Keeps.rfl (fun _ => ?_)
    split
    · exact Keeps.rfl.setPlSlot
    · exact Keeps.rfl

protected theorem Keeps.freeSlots (h : Keeps s u) {k : Nat} {test : Nat → Bool} : Keeps s (freeSlots u k test) :=
  .wr (.folded h (fun _ _ h => h.setPlSlot))

protected theorem Keeps.planeMiss (h : Keeps s u) {k : Nat} : Keeps s (planeMiss u k) :=
  h.bump.event

protected theorem Keeps.latchPlane (h : Keeps s u) {k : Nat} : Keeps s (latchPlane u k) := by
  unfold latchPlane
  dsimp only
  split
  · exact h.upd.freeSlots
  · split
    · exact h.upd.freeSlots.setPlSlot.bump.event
    · exact h.upd.freeSlots.bump.ite h.upd.freeSlots.planeMiss

protected theorem Keeps.latchPoint (h : Keeps s u) : Keeps s (latchPoint u) := by
  unfold latchPoint
  exact .ite (.folded ((h.bump.event.perf.setLink.ite h.bump.event.perf).upd.applyTiming.ite
    (h.bump.event.perf.setLink.ite h.bump.event.perf).upd) (fun _ _ h => h.latchPlane)) (.settle (.ite (.setLink (.upd
    (.folded ((h.bump.event.perf.setLink.ite h.bump.event.perf).upd.applyTiming.ite
    (h.bump.event.perf.setLink.ite h.bump.event.perf).upd) (fun _ _ h => h.latchPlane)))) (.upd (.folded
    ((h.bump.event.perf.setLink.ite h.bump.event.perf).upd.applyTiming.ite
    (h.bump.event.perf.setLink.ite h.bump.event.perf).upd) (fun _ _ h => h.latchPlane)))))

@[simp] theorem kept_execLatchPoint : Kept s (execLatchPoint s) :=
  .next (Keeps.rfl.ite Keeps.rfl.latchPoint)

@[simp] theorem kept_execTcommit {ini : Ini} : Kept s (execTcommit ini s) :=
  .next (Keeps.rfl.regRow (fun _ => Keeps.rfl.wr.ite Keeps.rfl.prog))

@[simp] theorem kept_execMonRun {ini : Ini} {on : Bool} : Kept s (execMonRun ini on s) :=
  .next (Keeps.rfl.regRow (fun _ => Keeps.rfl.wr.ite (Keeps.rfl.ite (Keeps.rfl.prog.ite (Keeps.rfl.wr.ite
    (Keeps.rfl.wr.upd.latchPoint.setLink.ite Keeps.rfl.wr.upd.latchPoint).settle)))))

@[simp] theorem kept_execPixelPllLock : Kept s (execPixelPllLock s) :=
  .next (Keeps.rfl.ite Keeps.rfl.upd.latchPoint.upd)

protected theorem Keeps.underrun (h : Keeps s u) {k line w : Nat} : Keeps s (underrun u k line w) := by
  unfold underrun
  dsimp only
  exact h.free.upd.bump.event

@[simp] theorem kept_execUnderrun {plane line : Nat} {late : Bool} {ecc : Ecc} :
    Kept s (execUnderrun plane line late ecc s) := by
  refine .next ?_
  dsimp only
  split
  · exact Keeps.rfl
  · exact Keeps.rfl.ite ((Keeps.rfl.readOnce.found.found.underrun.ite Keeps.rfl.readOnce.found.found).bump.ite
      (Keeps.rfl.readOnce.found.found.underrun.ite Keeps.rfl.readOnce.found.found))

@[simp] theorem kept_execTrain {ini : Ini} : Kept s (execTrain ini s) :=
  .next (Keeps.rfl.regRow (fun _ => Keeps.rfl.prog.ite Keeps.rfl.setLink.upd))

@[simp] theorem kept_execTrainDone {ok : Bool} {failStep swing pre : Nat} :
    Kept s (execTrainDone ok failStep swing pre s) :=
  .next (Keeps.rfl.ite ((Keeps.rfl.wr.wr.upd.wr.wr.wr.bump.ite Keeps.rfl.wr.wr.upd.wr.wr.wr).setLink.upd.event.ite
    Keeps.rfl.wr.wr.upd.setLink.wr.raise.event))

@[simp] theorem kept_execLinkOff {ini : Ini} : Kept s (execLinkOff ini s) :=
  .next (Keeps.rfl.regRow (fun _ => Keeps.rfl.ite Keeps.rfl.setLink))

@[simp] theorem kept_execIrqHpd {lost : Bool} : Kept s (execIrqHpd lost s) :=
  .next (Keeps.rfl.ite (Keeps.rfl.raise.event.setLink.upd.ite Keeps.rfl.event))

@[simp] theorem kept_execHpdUnplug : Kept s (execHpdUnplug s) :=
  .next (Keeps.rfl.ite Keeps.rfl.wr.setLink.event)

@[simp] theorem kept_execHpdPlug : Kept s (execHpdPlug s) :=
  .next (Keeps.rfl.ite Keeps.rfl.wr.setLink.event)

@[simp] theorem kept_execAuxGo {ini : Ini} : Kept s (execAuxGo ini s) :=
  .next (Keeps.rfl.regRow (fun _ => Keeps.rfl.prog.ite Keeps.rfl.wr.upd.settle))

protected theorem Keeps.auxEnd (h : Keeps s u) {res n : Nat} : Keeps s (auxEnd u res n) :=
  (h.found.wr.wr.wr.perf.ite h.found.wr.wr.wr.perf.perf).settle

@[simp] theorem kept_execAuxReply {kind : Nat} {data : List Nat} : Kept s (execAuxReply kind data s) := by
  have fault : Keeps s (s.free 1).2 := Keeps.rfl.free
  refine .next (Keeps.rfl.ite ?_)
  refine .ite ?_ ?_
  · exact .ite (.auxEnd (.folded .rfl fun _ _ h => h.wr)) Keeps.rfl.auxEnd
  · exact .ite Keeps.rfl.auxEnd (.ite (.ite Keeps.rfl.perf.upd fault.auxEnd) .rfl)

@[simp] theorem kept_execAuxTimeout : Kept s (execAuxTimeout s) :=
  .next (Keeps.rfl.ite (Keeps.rfl.perf.upd.ite Keeps.rfl.auxEnd))

/-! ### RegView -/

protected theorem Keeps.dropSnap (h : Keeps s u) {ini : Ini} {p : Nat} : Keeps s (dropSnap u ini p) :=
  h.upd

protected theorem Keeps.takeSnap (h : Keeps s u) {ini : Ini} {p lo : Nat} : Keeps s (takeSnap u ini p lo) :=
  h.dropSnap.upd

protected theorem Keeps.readWord (h : Keeps s u) {ini : Ini} {p off : Nat} : Keeps s (readWord u ini p off).2 := by
  unfold readWord
  split
  · exact h.raise
  · split
    · exact h.prog
    · split
      · split
        · exact h
        · exact h
      · split
        · exact h.ite h.takeSnap
        · exact h

/-! ### Security -/

@[simp] theorem kept_execLdGo {ini : Ini} : Kept s (execLdGo ini s) :=
  .next (Keeps.rfl.regRow (fun _ => Keeps.rfl.prog.ite Keeps.rfl.wr.upd))

protected theorem Keeps.loadFail (h : Keeps s u) {st : Nat} : Keeps s (loadFail u st) :=
  h.upd.wr.raise

protected theorem Keeps.loadInto (h : Keeps s u) {c : Nat} {h' body : List Byte} {loads : Nat} :
    Keeps s (loadInto u c h' body loads) :=
  h.tcmStore.wr.recordImage

@[simp] theorem kept_execImageLoadDone {hit : Hit} {host : Cells} : Kept s (execImageLoadDone hit host s) := by
  refine .next ?_
  split
  · exact Keeps.rfl
  · split
    · split
      · exact Keeps.rfl.readAll.got₂.loadFail
      · split
        · exact Keeps.rfl.readAll.got₂.readAll.got₂.upd.wr.loadInto.ite Keeps.rfl.readAll.got₂.readAll.got₂.loadFail
        · exact Keeps.rfl.readAll.got₂.readAll.got₂.loadFail
    · exact Keeps.rfl.readAll.got₂.loadFail

@[simp] theorem kept_execUpdMark {ini : Ini} {value : Nat} : Kept s (execUpdMark ini value s) :=
  .next (Keeps.rfl.regRow (fun _ => Keeps.rfl.wrBit))

@[simp] theorem kept_execRbGo {ini : Ini} : Kept s (execRbGo ini s) :=
  .next (Keeps.rfl.regRow0 (fun _ => Keeps.rfl.prog.ite (Keeps.rfl.wr.upd.ite
    (Keeps.rfl.prog.wr.raise.ite Keeps.rfl.prog.wr))))

@[simp] theorem kept_execFuseBlowDone : Kept s (execFuseBlowDone s) := by
  have blown : Keeps s (blowFuses s) :=
    ⟨rfl, id, fun n b => by rw [bitOf_blowFuses, b]; rfl, fun _ => rfl⟩
  exact .next (Keeps.rfl.ite (blown.raise.ite blown).wr)

@[simp] theorem kept_execRotpkGo {ini : Ini} : Kept s (execRotpkGo ini s) := by
  refine .next (Keeps.rfl.regRow0 fun v => ?_)
  split
  · exact Keeps.rfl.prog
  · next blank => exact ⟨rfl, fun c => ⟨c.1, c.2.1, c.2.2⟩, fun _ b => b, fun programmed => absurd programmed blank⟩

protected theorem Keeps.attestFront (h : Keeps s u) : Keeps s (attestFront u) := by
  unfold attestFront
  split
  · exact h
  · exact h.ite h.bump.upd

@[simp] theorem kept_execAttest {n q : Nat} : Kept s (execAttest n q s) := by
  refine .next ?_
  refine .perform Keeps.rfl (fun _ _ => ?_)
  split
  · exact Keeps.rfl
  · exact Keeps.rfl.upd.attestFront

@[simp] theorem kept_execAttestSigned {hit : Hit} : Kept s (execAttestSigned hit s) := by
  refine .next ?_
  dsimp only
  split
  · exact Keeps.rfl
  · split
    · exact Keeps.rfl
    · split
      · exact Keeps.rfl.upd.attestFront
      · split
        · exact Keeps.rfl.upd.writeAll.got₃.setCmd.attestFront
        · exact Keeps.rfl.upd.writeAll.got₃.setCmd.attestFront

/-! ### RegPage -/

protected theorem Keeps.atModeWritten (h : Keeps s u) {p : Nat} {f : Fld} : Keeps s (atModeWritten u p f) :=
  h.ite (h.putChan.ite h.putPq)

protected theorem Keeps.fieldHook (h : Keeps s u) {p i old : Nat} {f : Fld} : Keeps s (fieldHook u p i old f) := by
  unfold fieldHook
  split
  · exact h
  · exact h.msixFlush
  · exact h.pwmWritten
  · exact h.putIntake
  · exact h.calDone
  · exact h.uartOff
  · exact h.wdEnabled
  · exact h.atModeWritten

protected theorem Keeps.writeField (h : Keeps s u) {ini : Ini} {p : Nat} {f : Fld} {i v word : Nat} :
    Keeps s (writeField u ini p f i v word) := by
  unfold writeField
  extract_lets old w rule same free
  split
  · exact h
  · split
    · exact h
    · exact h
    · exact h
    · exact h.wr
    · exact h.wr
    · refine .ite h (.ite h ?_)
      generalize hx : (if f.off < 0x080 ∧ rule = false then (false, u) else _ : Bool × State) = x
      have checked : Keeps s x.2 := by
        subst hx
        exact .ite₂ h h.found
      exact checked.ite (checked.wr.fieldHook.prog.ite checked.wr.fieldHook)

protected theorem Keeps.writeQuad (h : Keeps s u) {ini : Ini} {p lo v : Nat} : Keeps s (writeQuad u ini p lo v) :=
  .folded h (fun _ _ h => h.writeField)

protected theorem Keeps.dropHold (h : Keeps s u) {ini : Ini} {p : Nat} : Keeps s (dropHold u ini p) :=
  h.upd

protected theorem Keeps.putHold (h : Keeps s u) {ini : Ini} {p off v : Nat} : Keeps s (putHold u ini p off v) :=
  h.dropHold.upd

protected theorem Keeps.writeHi (h : Keeps s u) {ini : Ini} {p lo v : Nat} : Keeps s (writeHi u ini p lo v) := by
  unfold writeHi
  split
  · exact h.dropHold.writeQuad
  · exact h.raise

protected theorem Keeps.writeAfter (h : Keeps s u) {p off : Nat} : Keeps s (writeAfter u p off) := by
  unfold writeAfter
  split
  · exact h.chPump.ite h
  · exact h.qGo.ite h
  · exact h

protected theorem Keeps.writeWord (h : Keeps s u) {ini : Ini} {p off v : Nat} : Keeps s (writeWord u ini p off v) := by
  unfold writeWord
  extract_lets touched fs
  have touches : Keeps s touched := h.debugTouch.ite h
  refine touches.raise.ite (touches.prog.ite (touches.prog.ite ?_))
  split
  · exact touches.putHold.ite touches.writeHi
  · exact .writeAfter (.folded touches fun _ _ h => h.writeField)

@[simp] theorem kept_execRegisterWrite {ini : Ini} {page off value : Nat} {wide : Bool} :
    Kept s (execRegisterWrite ini page off value wide s) := by
  refine .next ?_
  split
  · exact Keeps.rfl
  · split
    · split
      · exact (Keeps.rfl.regRow (fun _ => Keeps.rfl.writeQuad)).ite ((Keeps.rfl.regRow
          (fun _ => Keeps.rfl.writeWord)).regRow (fun _ => Keeps.rfl.writeWord))
      · exact (Keeps.rfl.regRow (fun _ => Keeps.rfl.writeWord)).regRow (fun _ => Keeps.rfl.writeWord)
    · exact Keeps.rfl.regRow (fun _ => Keeps.rfl.writeWord)

@[simp] theorem kept_execWriteLoHold {ini : Ini} {page off value : Nat} :
    Kept s (execWriteLoHold ini page off value s) :=
  .next (Keeps.rfl.ite (Keeps.rfl.regRow (fun _ => Keeps.rfl.prog.ite Keeps.rfl.putHold)))

@[simp] theorem kept_execWriteHiCommit {ini : Ini} {page off value : Nat} :
    Kept s (execWriteHiCommit ini page off value s) := by
  refine .next ?_
  split
  · exact (Keeps.rfl.regRow (fun _ => Keeps.rfl.prog.ite Keeps.rfl.writeHi)).ite Keeps.rfl
  · exact Keeps.rfl

protected theorem Keeps.completerAbort (h : Keeps s u) {ini : Ini} {p off op : Nat} :
    Keeps s (completerAbort u ini p off op) :=
  (h.raise.ite h.denyPage).upd

protected theorem Keeps.poisonedTlp (h : Keeps s u) {a : Ini} : Keeps s (poisonedTlp u a) := by
  unfold poisonedTlp
  split
  · exact h.putFn.raise
  · exact h

@[simp] theorem kept_execAccessFault {ini : Ini} {page off n : Nat} {write poison : Bool} :
    Kept s (execAccessFault ini page off n write poison s) :=
  .next (Keeps.rfl.ite (Keeps.rfl.upd.ite ((Keeps.rfl.hostWake.poisonedTlp.upd.ite Keeps.rfl).ite
    ((Keeps.rfl.upd.ite Keeps.rfl.hostWake.completerAbort).ite ((Keeps.rfl.regRow (fun _ => Keeps.rfl.raise)).ite
    (Keeps.rfl.readRow (fun _ => Keeps.rfl.raise)))))))

protected theorem Keeps.barWrites (h : Keeps s u) {t : Tag} {l : List (Nat × List Byte)} {r : Resp} {st : Nat} :
    Keeps s (barWrites t l u r st).2 := by
  induction l generalizing u r st with
  | nil => exact h
  | cons x l ih =>
    unfold barWrites
    split <;> exact ih h.tryWrite.got.perfWr

protected theorem Keeps.barReads (h : Keeps s u) {t : Tag} {l : List (Nat × Nat)} {r : Resp} {acc : List Byte} :
    Keeps s (barReads t l u r acc).2.2 := by
  induction l generalizing u r acc with
  | nil => exact h
  | cons x l ih =>
    unfold barReads
    have read := h.tryRead (t := t) (a := x.1) (n := x.2) (r := r) (host := []) (inc := 0)
    generalize tryRead u t x.1 x.2 r [] = y at read
    obtain ⟨v, w⟩ := y
    cases v with
    | ok _ => exact ih read.perfRd
    | denied _ => exact ih read.perfRd
    | timeout _ =>
      dsimp only
      exact read.perfRd
    | uncorr _ =>
      dsimp only
      exact read.perfRd

@[simp] theorem kept_execBar2Access {n : Nat} {write : Bool} {off len : Nat} {data : List Nat} {r : Resp}
    {poison : Bool} :
    Kept s (execBar2Access n write off len data r poison s) :=
  .next (Keeps.rfl.ite (Keeps.rfl.upd.ite (Keeps.rfl.hostWake.poisonedTlp.upd.ite
    (Keeps.rfl.hostWake.barWrites.upd.ite Keeps.rfl.hostWake.barReads.upd))))

/-! ### Rings -/

protected theorem Keeps.ringFreed (h : Keeps s u) {p : Nat} : Keeps s (ringFreed u p) := by
  unfold ringFreed
  dsimp only
  split
  · split
    · split
      · exact h.qWriteRec
      · exact h
    · exact h
  · exact h

protected theorem Keeps.rawEmptied (h : Keeps s u) {k : Nat} : Keeps s (rawEmptied u k) :=
  h.putIntake.putIspCtx.upd

protected theorem Keeps.ringEmptied (h : Keeps s u) {p : Nat} {cnt : Fld} : Keeps s (ringEmptied u p cnt) :=
  h.chEmptied.ite (h.rawEmptied.ite h)

protected theorem Keeps.writeRd (h : Keeps s u) {p : Nat} {r : Ring} {i v : Nat} : Keeps s (writeRd u p r i v) :=
  h.ite (h.wr.ringFreed.ite h.prog)

@[simp] theorem kept_execConsumerIndexWrite {ini : Ini} {page off value : Nat} :
    Kept s (execConsumerIndexWrite ini page off value s) := by
  refine .next ?_
  split
  · exact (Keeps.rfl.regRow (fun _ => Keeps.rfl.writeRd)).ite Keeps.rfl
  · exact Keeps.rfl

protected theorem Keeps.writeCount (h : Keeps s u) {p : Nat} {r : Ring} {i v : Nat} : Keeps s (writeCount u p r i v) :=
  h.ite (h.prog.ite (h.prog.ite (h.ite h.wr.wr.wr.ringEmptied.ringFreed)))

@[simp] theorem kept_execRingCountChange {ini : Ini} {page off value : Nat} :
    Kept s (execRingCountChange ini page off value s) := by
  refine .next ?_
  split
  · exact Keeps.rfl.regRow (fun _ => Keeps.rfl.writeCount)
  · exact Keeps.rfl

@[simp] theorem kept_execEvtClear {ini : Ini} {page mask again : Nat} :
    Kept s (execEvtClear ini page mask again s) := by
  refine .next ?_
  split
  · exact Keeps.rfl
  · exact .regRow Keeps.rfl (fun _ => .folded Keeps.rfl.wr (fun _ _ h => h.event.ite h))

@[simp] theorem kept_execNoticeHoldExpiry {part : Nat} : Kept s (execNoticeHoldExpiry part s) := by
  refine .next ?_
  split
  · exact Keeps.rfl.upd.ite Keeps.rfl
  · exact Keeps.rfl

/-! ### PageCtl -/

protected theorem Keeps.turnOff (h : Keeps s u) {p : Nat} : Keeps s (turnOff u p) :=
  h.wr.wr.ite (h.wr.wr.ite h.wr)

protected theorem Keeps.csiOff (h : Keeps s u) {port : Nat} : Keeps s (csiOff u port) := by
  refine .csiSettle (.folded h.turnOff fun v j hv => ?_)
  extract_lets k _ ended
  have ends : Keeps s ended := by
    unfold ended
    split
    · exact hv.putIntake.ite hv.truncateFrame
    · exact hv
  exact ends.intakeOff.ite ends

protected theorem Keeps.csiOn (h : Keeps s u) {p : Nat} : Keeps s (csiOn u p) :=
  h.wr.ite h.wr.prog

protected theorem Keeps.setEnable (h : Keeps s u) {p : Nat} {on : Bool} : Keeps s (setEnable u p on) := by
  unfold setEnable
  split
  · exact (h.turnOff.ite h.disableChan).ite (h.wr.wr.enableChan.ite h)
  · exact (h.turnOff.ite h.disableQueue).ite ((h.enableQueue.wr.ite h.enableQueue).ite h)
  · exact (h.csiOff.ite h.turnOff).ite ((h.wr.wr.csiOn.ite (h.wr.wr.settle.ite h.wr.wr)).ite
      ((h.wr.wr.csiOn.ite h.wr.wr).ite h.wr))

protected theorem Keeps.writeEnable (h : Keeps s u) {p : Nat} {on : Bool} : Keeps s (writeEnable u p on) :=
  h.wr.ite (h.ite h.setEnable)

@[simp] theorem kept_execEnable {ini : Ini} {page : Nat} {on : Bool} : Kept s (execEnable ini page on s) :=
  .next (Keeps.rfl.regRow (fun _ => Keeps.rfl.writeEnable))

protected theorem Keeps.abandonJob (h : Keeps s u) {p n : Nat} : Keeps s (abandonJob u p n) := by
  unfold abandonJob
  split
  · exact h
  · split
    · exact h.upd.dropPlanes.finishExec
    · exact h.upd.dropPlanes

protected theorem Keeps.abandonPush (h : Keeps s u) {o : Push} : Keeps s (abandonPush u o) := by
  unfold abandonPush
  split
  · exact h.finishExec
  · exact h

protected theorem Keeps.abandonRun (h : Keeps s u) {pipe : Nat} : Keeps s (abandonRun u pipe) := by
  unfold abandonRun
  split
  · exact h
  · exact h.upd.wr.settle.settle

protected theorem Keeps.abandonIntake (h : Keeps s u) {k : Nat} : Keeps s (abandonIntake u k) :=
  h.putIntake.intakeOff.ite h.putIntake

protected theorem Keeps.abandonWork (h : Keeps s u) {p : Nat} : Keeps s (abandonWork u p) := by
  unfold abandonWork
  split
  · exact .folded h (fun _ _ h => h.abandonIntake)
  · exact h.abandonRun
  · exact .csiSettle (.folded h.abandonIntake (fun _ _ h => h.abandonRun.ite h))
  · exact .ite (.folded (.upd (.folded h (fun _ _ h => h.abandonJob))) (fun _ _ h => h.abandonPush)) (.folded h
      (fun _ _ h => h.abandonJob))
  · exact .folded h (fun _ _ h => h.abandonJob)
  · exact .folded h (fun _ _ h => h.abandonJob)
  · exact .folded h (fun _ _ h => h.abandonJob)
  · exact .folded h (fun _ _ h => h.abandonJob)
  · exact .folded h (fun _ _ h => h.abandonJob)
  · exact .folded h (fun _ _ h => h.abandonJob)
  · exact .folded h (fun _ _ h => h.abandonJob)
  · exact h.upd
  · exact h.putCore
  · exact h.wr.ite h
  · exact h.upd.ite h
  · exact h.upd
  · exact h.upd
  · exact h.upd
  · exact h.upd
  · exact h.upd
  · exact h.upd
  · exact h.ite h.disableChan
  · exact h.ite h.disableQueue
  · exact .folded h (fun _ _ h => h.deletePair)
  · exact h

protected theorem Keeps.beginReset (h : Keeps s u) {p : Nat} : Keeps s (beginReset u p) :=
  h.ite (h.unfenceEnd.ite h).abandonWork.wr.wr.wr.upd

@[simp] theorem kept_execSoftReset {ini : Ini} {page : Nat} : Kept s (execSoftReset ini page s) :=
  .next (Keeps.rfl.regRow (fun _ => Keeps.rfl.beginReset))

protected theorem Keeps.softPlanes (h : Keeps s u) {p : Nat} : Keeps s (softPlanes u p) :=
  .ite (.folded h (fun _ _ h => h.wr.ite h)) h

protected theorem Keeps.softPins (h : Keeps s u) : Keeps s (softPins u) :=
  .ite (.folded h (fun _ _ h => h.putPin.ite h)) h

protected theorem Keeps.softUnit (h : Keeps s u) {p : Nat} : Keeps s (softUnit u p) := by
  unfold softUnit
  split
  · exact .folded h (fun _ _ h => h.putIntake)
  · exact h.upd.putIntake.putIspCtx
  · exact h.softPins.upd
  · exact h.setLink
  · exact h.putChan
  · exact h.putPq
  · exact h.upd
  · exact h.upd
  · exact h.upd.ite h
  · exact h.softPlanes

/-- Cells of registers that return to their reset values are dropped. -/
theorem Keeps.dropCells {t : State} (h : Keeps s u) (q : Nat × Nat → Bool) (hr : t.regs = u.regs.filter q := by rfl)
    (hp : t.pending = u.pending := by rfl) (hm : t.mem = u.mem := by rfl) (ht : t.tcm = u.tcm := by rfl)
    (hf : t.fuses = u.fuses := by rfl) (hk : t.rotpk = u.rotpk := by rfl) : Keeps s t :=
  h.trans ⟨hp, fun c => ⟨hm ▸ c.1, ht ▸ c.2.1, hr ▸ srising_filter q c.2.2⟩, fun _ b => hf ▸ b, fun _ => hk⟩

protected theorem Keeps.softCells (h : Keeps s u) {p : Nat} : Keeps s (softCells u p) := .dropCells h _

@[simp] theorem kept_execSoftResetDone {page : Nat} : Kept s (execSoftResetDone page s) :=
  .next (Keeps.rfl.ite Keeps.rfl.softUnit.softCells.upd.wr.upd)

@[simp] theorem kept_execLock {ini : Ini} {page : Nat} : Kept s (execLock ini page s) :=
  .next (Keeps.rfl.regRow (fun _ => Keeps.rfl.ite Keeps.rfl.wr))

@[simp] theorem kept_execPerfClear {ini : Ini} {page : Nat} : Kept s (execPerfClear ini page s) :=
  .next (.regRow Keeps.rfl (fun _ => .folded Keeps.rfl (fun _ _ h => h.wr)))

@[simp] theorem kept_execPageErrClear {ini : Ini} {page value : Nat} : Kept s (execPageErrClear ini page value s) :=
  .next (Keeps.rfl.regRow (fun _ => Keeps.rfl.wr.wr.ite Keeps.rfl.wr))

@[simp] theorem kept_execInjectArm {ini : Ini} {page value : Nat} : Kept s (execInjectArm ini page value s) :=
  .next (Keeps.rfl.regRow (fun _ => (Keeps.rfl.ite Keeps.rfl.debugTouch).wr.wr.wr.ite
    (Keeps.rfl.ite Keeps.rfl.debugTouch).wr.wr))

@[simp] theorem kept_execSelftestStart {ini : Ini} {page sel : Nat} : Kept s (execSelftestStart ini page sel s) :=
  .next (Keeps.rfl.regRow (fun _ => Keeps.rfl.wr.wr.wr.wr.selftestFill.ite Keeps.rfl.prog))

protected theorem Keeps.afterTest (h : Keeps s u) {p : Nat} : Keeps s (afterTest u p) :=
  h.wr.ite (h.wr.wr.setEnable.ite (h.wr.setEnable.ite h.wr))

@[simp] theorem kept_execSelftestDone {page us : Nat} {pass : Bool} : Kept s (execSelftestDone page us pass s) :=
  .next (Keeps.rfl.ite ((Keeps.rfl.hit.wr.wr.wr.raiseI.ite Keeps.rfl.hit.wr.wr.wr).unfenceEnd.ite
    (Keeps.rfl.hit.wr.wr.wr.raiseI.ite Keeps.rfl.hit.wr.wr.wr).afterTest))

@[simp] theorem kept_execPageOwner {ini : Ini} {page part : Nat} : Kept s (execPageOwner ini page part s) :=
  .next (Keeps.rfl.regRow0 (fun _ => Keeps.rfl.ite (Keeps.rfl.prog.ite Keeps.rfl.wr.beginReset)))

/-! ### Partition -/

protected theorem Keeps.onPart (h : Keeps s u) {st : Nat} {k : Nat → State} (hk : ∀ n, Keeps s (k n)) :
    Keeps s (onPart u st k) :=
  (hk _).ite h.prog

@[simp] theorem kept_execCreate {ini : Ini} : Kept s (execCreate ini s) :=
  .next (Keeps.rfl.regRow0 (fun _ => Keeps.rfl.onPart (fun _ => Keeps.rfl.wr)))

@[simp] theorem kept_execTeardown {ini : Ini} : Kept s (execTeardown ini s) :=
  .next (.regRow0 Keeps.rfl (fun _ => .onPart Keeps.rfl (fun _ => .upd (.folded (.folded Keeps.rfl.wr
    (fun _ _ h => h.cancelAll)) (fun _ _ h => h.beginReset)))))

protected theorem Keeps.releasePage (h : Keeps s u) {p : Nat} : Keeps s (releasePage u p) :=
  (h.clearImage.ite h).wr.wr

protected theorem Keeps.dropGraph (h : Keeps s u) {g : Nat} : Keeps s (dropGraph u g) :=
  h.wr.wr.upd.putGraph.showLbs

protected theorem Keeps.dropSems (h : Keeps s u) {n : Nat} : Keeps s (dropSems u n) :=
  h.upd

protected theorem Keeps.dropPlaneSlots (h : Keeps s u) {n : Nat} : Keeps s (dropPlaneSlots u n) :=
  .folded h (fun _ _ h => h.wr.ite h)

protected theorem Keeps.dropMasks (h : Keeps s u) {n : Nat} : Keeps s (dropMasks u n) :=
  .folded h (fun _ _ h => h.ite (h.wr.wr.wr.ite h.wr.wr))

protected theorem Keeps.showFill (h : Keeps s u) : Keeps s (showFill u) := by
  unfold showFill
  split
  · exact h.wr.wr.wr
  · exact h.wr.wr.wr

protected theorem Keeps.endTeardown (h : Keeps s u) {t : Tear} : Keeps s (endTeardown u t) := by
  unfold endTeardown
  dsimp only
  exact .folded h.wr.wr.wr.setMd.logI (fun _ _ h => h.log)

@[simp] theorem kept_execTeardownDrained {part : Nat} : Kept s (execTeardownDrained part s) := by
  refine .next ?_
  split
  · exact Keeps.rfl
  · exact .ite Keeps.rfl (.ite (.endTeardown (.upd (.wr (.dropMasks (.dropPlaneSlots (.dropSems (.folded
      (.folded Keeps.rfl (fun _ _ h => h.releasePage)) (fun _ _ h => h.dropGraph)))))))) (.showFill (.upd (.wr
      (.dropMasks (.dropPlaneSlots (.dropSems (.folded (.folded Keeps.rfl (fun _ _ h => h.releasePage))
      (fun _ _ h => h.dropGraph)))))))))

@[simp] theorem kept_execZeroFillDone : Kept s (execZeroFillDone s) := by
  refine .next ?_
  split
  · exact .rfl
  · exact .showFill (.endTeardown (.folded (.forget .rfl _) fun _ _ h => h.wr))

/-! ### Power -/

@[simp] theorem kept_execHoldEntry : Kept s (execHoldEntry s) :=
  .next (Keeps.rfl.ite Keeps.rfl.wr.bump)

@[simp] theorem kept_execNapEntry : Kept s (execNapEntry s) :=
  .next (Keeps.rfl.ite Keeps.rfl.wr.bump)

@[simp] theorem kept_execComputeRequestWake : Kept s (execComputeRequestWake s) :=
  .next (Keeps.rfl.upd.wr.upd.ite Keeps.rfl.upd)

protected theorem Keeps.enterSleep (h : Keeps s u) {r : Nat} : Keeps s (enterSleep u r) :=
  .upd (.wr (.wr (.folded h.wr.upd.setFallbackAll (fun _ _ h => h.moveOpen))))

@[simp] theorem kept_execSleepGo {ini : Ini} {rung : Nat} : Kept s (execSleepGo ini rung s) := by
  refine .next ?_
  refine .regRow0 Keeps.rfl (fun _ => ?_)
  dsimp only
  split
  · exact Keeps.rfl.wr.enterSleep
  · exact Keeps.rfl.wr.prog.raise.wr

protected theorem Keeps.sleepIo (h : Keeps s u) : Keeps s (sleepIo u) :=
  .upd (.folded ((h.upd.ite h.upd.setLink).settle) (fun _ _ h => h.settle))

protected theorem Keeps.sleepExt (h : Keeps s u) {r : Nat} : Keeps s (sleepExt u r) :=
  .folded h (fun _ _ h => (h.wr.ite h).ite ((h.wr.ite h).ite h.wr))

@[simp] theorem kept_execRungEntryDone : Kept s (execRungEntryDone s) :=
  .next (Keeps.rfl.ite (Keeps.rfl.wr.sleepIo.wr.upd.ite (Keeps.rfl.wr.sleepIo.sleepExt.wr.wr.ite
    Keeps.rfl.wr.sleepIo.sleepExt.wr.wr.linkDown).wr.wr.upd))

@[simp] theorem kept_execWake {src : Nat} : Kept s (execWake src s) :=
  .next (Keeps.rfl.wakeUp.ite Keeps.rfl)

protected theorem Keeps.resumeWatchdogs (h : Keeps s u) : Keeps s (resumeWatchdogs u) :=
  h.upd

protected theorem Keeps.resumeTg (h : Keeps s u) {t : Nat} : Keeps s (resumeTg u t) :=
  h.putTg.ite (h.putTg.ite h)

protected theorem Keeps.resumeIo (h : Keeps s u) : Keeps s (resumeIo u) := by
  unfold resumeIo
  exact .ite (.settle (.latchPoint (.upd (.upd (.folded h (fun _ _ h => h.resumeTg)))))) (.upd (.folded h
    (fun _ _ h => h.resumeTg)))

protected theorem Keeps.mayBeOk (h : Keeps s u) : Keeps s (mayBeOk u) :=
  h.ite h.wr

protected theorem Keeps.exitDoze (h : Keeps s u) : Keeps s (exitDoze u) := by
  unfold exitDoze
  exact .ite (.mayBeOk (.resumeIo (.resumeWatchdogs (.upd (.folded h.wr.wr.wr.wr (fun _ _ h => h.wr.ite h))))))
    (.clearSleep (.mayBeOk (.resumeIo (.resumeWatchdogs (.upd (.folded h.wr.wr.wr.wr (fun _ _ h => h.wr.ite h)))))))

/-- A reset state that takes over the queue, the fuses and the root key hash, with what a filter keeps of memory and of
    the
registers. -/
theorem Keeps.afresh {t : State} (h : Keeps s u) (q : Host.Cell → Bool) (r : Nat × Nat → Bool)
    (hm : t.mem = u.mem.filter q := by rfl) (hr : t.regs = u.regs.filter r := by rfl) (ht : t.tcm = [] := by rfl)
    (hp : t.pending = u.pending := by rfl) (hf : t.fuses = u.fuses := by rfl) (hk : t.rotpk = u.rotpk := by rfl) :
    Keeps s t :=
  h.trans ⟨hp, fun c => ⟨hm ▸ memWf_filter q c.1, ht ▸ memWf_nil, hr ▸ srising_filter r c.2.2⟩, fun _ b => hf ▸ b,
    fun _ => hk⟩

protected theorem Keeps.restState (h : Keeps s u) {dormant : Bool} : Keeps s (restState u dormant) := .afresh h _ _

protected theorem Keeps.exitRest (h : Keeps s u) {dormant : Bool} : Keeps s (exitRest u dormant) := by
  unfold exitRest
  exact .resumeIo (.ite h.restState.wr.wr.setFallbackAll.wr.wr.wr.wr.wr
    (.folded h.restState.wr.wr.setFallbackAll.wr.wr.wr.wr.wr (fun _ _ h => h.wr.wr.wr.wr.wr.wr.ite h)))

@[simp] theorem kept_execRungExitDone : Kept s (execRungExitDone s) :=
  .next (Keeps.rfl.ite (Keeps.rfl.wr.wr.ite ((Keeps.rfl.ite Keeps.rfl.exitRest).ite
    (Keeps.rfl.exitRest.ite Keeps.rfl.exitDoze))))

protected theorem Keeps.sensorFail (h : Keeps s u) {k : Nat} : Keeps s (sensorFail u k) :=
  h.wrBit.wr.raise.log

protected theorem Keeps.takeReadings (h : Keeps s u) {temps : List (Option Int)} : Keeps s (takeReadings u temps) :=
  h.upd

protected theorem Keeps.tempUpdate (h : Keeps s u) {temps : List (Option Int)} : Keeps s (tempUpdate u temps) := by
  unfold tempUpdate
  extract_lets _ read first failed m second failing shown hot level heat peaked
  have readings : Keeps s read := h.upd.takeReadings
  have fails : Keeps s failing := .folded (.folded readings fun _ _ h => h.sensorFail) fun _ _ h => h.sensorFail
  have heats : Keeps s heat := .wr (.wr (.folded fails fun _ _ h => h.wr))
  have peaks : Keeps s peaked := by
    unfold peaked
    clear_value hot
    split
    · exact (heats.raise.ite heats).wr.ite (heats.raise.ite heats)
    · exact heats
  exact peaks.ite peaks.bump

@[simp] theorem kept_execTempUpdate {temps : List (Option Int)} : Kept s (execTempUpdate temps s) :=
  .next (Keeps.rfl.ite Keeps.rfl.tempUpdate)

@[simp] theorem kept_execTPeak {ini : Ini} : Kept s (execTPeak ini s) :=
  .next (Keeps.rfl.popRow (fun _ => Keeps.rfl.wr))

/-! ### Reset -/

protected theorem Keeps.coldState (h : Keeps s u) {cause : Nat} : Keeps s (coldState u cause) := by
  unfold coldState
  extract_lets _ cold
  have keep : Keeps u cold := ⟨rfl, fun c => ⟨memWf_filter _ c.1, memWf_nil, rfl⟩, fun _ b => b, fun _ => rfl⟩
  exact (h.trans keep).wr.wr

@[simp] theorem kept_execPorAssert : Kept s (execPorAssert s) :=
  .next Keeps.rfl.coldState.upd

@[simp] theorem kept_execPor {mode : Nat} : Kept s (execPor mode s) :=
  .next (Keeps.rfl.ite Keeps.rfl.coldState.wr)

@[simp] theorem kept_execCold {ini : Ini} {key : Nat} : Kept s (execCold ini key s) :=
  .next (Keeps.rfl.regRow (fun _ => Keeps.rfl.coldState.ite Keeps.rfl.prog))

protected theorem Keeps.requestWarm (h : Keeps s u) {cause : Nat} : Keeps s (requestWarm u cause) := by
  unfold requestWarm
  extract_lets ready deep down slept awake clocked refreshed
  have sleeps : Keeps s slept := .ite (.forget h.wr.wr _) h.wr.wr
  have refresh : Keeps s refreshed := .folded sleeps.wr.wr.wr.wr.wr fun _ _ h => h.wr.ite h
  exact h.ite refresh.upd

@[simp] theorem kept_execRstN : Kept s (execRstN s) :=
  .next Keeps.rfl.requestWarm

@[simp] theorem kept_execWarm {ini : Ini} {key : Nat} : Kept s (execWarm ini key s) :=
  .next (Keeps.rfl.regRow (fun _ => Keeps.rfl.requestWarm.ite Keeps.rfl.prog))

@[simp] theorem kept_execAutoReset : Kept s (execAutoReset s) :=
  .next (Keeps.rfl.ite Keeps.rfl.bump.log.requestWarm)

@[simp] theorem kept_execWarmBusRelease : Kept s (execWarmBusRelease s) :=
  .next (Keeps.rfl.ite Keeps.rfl.upd)

protected theorem Keeps.warmRegions {o : State} (h : Keeps s u) : Keeps s (warmRegions o u) :=
  .folded h fun _ _ h => h.wr.wr.wr.wr.wr.wr

protected theorem Keeps.warmState (h : Keeps s u) : Keeps s (warmState u) := by
  unfold warmState
  extract_lets cause _ kept counted held
  have keep : Keeps s kept := by
    unfold kept
    exact .afresh h _ _
  exact .folded keep.warmRegions.wr.bump.wr fun _ _ h => h.wr.wr.ite h.wr

@[simp] theorem kept_execWarmResetEntry : Kept s (execWarmResetEntry s) :=
  .next (Keeps.rfl.ite Keeps.rfl.warmState)

@[simp] theorem kept_execResetRelease : Kept s (execResetRelease s) :=
  .next (.ite Keeps.rfl (.upd (.folded Keeps.rfl (fun _ _ h => h.wr.ite h))))

@[simp] theorem kept_execRecovGo {ini : Ini} : Kept s (execRecovGo ini s) :=
  .next (Keeps.rfl.regRow (fun _ => Keeps.rfl.wr.upd.ite Keeps.rfl))

@[simp] theorem kept_execRomDone : Kept s (execRomDone s) :=
  .next (Keeps.rfl.ite Keeps.rfl.wr.wr.wr.wr.upd)

@[simp] theorem kept_execStartingEnd : Kept s (execStartingEnd s) :=
  .next (Keeps.rfl.ite Keeps.rfl.wr.wr.mayBeOk.clearSleep)

@[simp] theorem kept_execPcieRefclkPresence {on : Bool} : Kept s (execPcieRefclkPresence on s) :=
  .next Keeps.rfl.wr

/-! ### Bus -/

protected theorem Keeps.after {r : Result} (h : Keeps s u) (hr : Kept u r) : Keeps s (after r u) := by
  cases r with
  | next t => exact h.trans hr
  | fault => exact h
  | refused => exact h

protected theorem Keeps.when {b : Bool} {f : State → Result} (h : Keeps s u) (hf : ∀ v, Kept v (f v)) :
    Keeps s (when b f u) :=
  (h.after (hf u)).ite h

protected theorem Keeps.ownHeader (h : Keeps s u) {ini : Ini} {p off v : Nat} : Keeps s (ownHeader u ini p off v) :=
  ((((h.when (fun _ => kept_execPerfClear)).when (fun _ => kept_execLock)).when (fun _ => kept_execEnable)).when
    (fun _ => kept_execSoftReset)).ite ((h.when (fun _ => kept_execPageErrClear)).ite ((h.when
    (fun _ => kept_execInjectArm)).ite ((h.when (fun _ => kept_execSelftestStart)).ite ((h.when
    (fun _ => kept_execPageOwner)).ite h))))

protected theorem Keeps.ownSystem (h : Keeps s u) {ini : Ini} {p off v : Nat} : Keeps s (ownSystem u ini p off v) := by
  unfold ownSystem
  split
  · exact h.when (fun _ => kept_execSleepGo)
  · exact ((h.when (fun _ => kept_execWarm)).when (fun _ => kept_execCold)).ite (h.when (fun _ => kept_execRecovGo))
  · exact (h.when (fun _ => kept_execRbGo)).ite (h.when (fun _ => kept_execRotpkGo))
  · exact (h.when (fun _ => kept_execLdGo)).ite (h.when (fun _ => kept_execUpdMark))
  · exact (h.when (fun _ => kept_execResume)).ite ((h.when (fun _ => kept_execDoubtReq)).ite (h.when
      (fun _ => kept_execWdKick)))
  · exact h.when (fun _ => kept_execUnfence)
  · exact (h.when (fun _ => kept_execRegPerm)).ite (((h.when (fun _ => kept_execCreate)).when
      (fun _ => kept_execTeardown)).ite h)
  · exact (h.when (fun _ => kept_execBankInh)).ite (h.when (fun _ => kept_execBankInh))
  · exact h.when (fun _ => kept_execInit)
  · exact h.when (fun _ => kept_execRetrain)
  · exact h

protected theorem Keeps.ownFgs (h : Keeps s u) {ini : Ini} {off v : Nat} : Keeps s (ownFgs u ini off v) := by
  unfold ownFgs
  split
  · exact (((h.when (fun _ => kept_execLoad)).when (fun _ => kept_execUnload)).endInst.ite ((h.when
      (fun _ => kept_execLoad)).when (fun _ => kept_execUnload))).cancelAll.ite (((h.when
      (fun _ => kept_execLoad)).when (fun _ => kept_execUnload)).endInst.ite ((h.when (fun _ => kept_execLoad)).when
      (fun _ => kept_execUnload)))
  · split
    · split
      · exact h.cancelExec
      · exact h
    · exact h.trigOnce.ite ((h.prog.ite h.semDo.upd).ite (h.when (fun _ => kept_execSemOwn)))

protected theorem Keeps.ownCompute (h : Keeps s u) {ini : Ini} {p off v : Nat} :
    Keeps s (ownCompute u ini p off v) := by
  unfold ownCompute
  split
  · exact ((h.when (fun _ => kept_execInEn)).when (fun _ => kept_execCal)).ite (((h.when
      (fun _ => kept_execCommit)).when (fun _ => kept_execCtxEn)).ite ((h.when
      (fun _ => kept_execToneWindowWrite)).ite h))
  · exact h.ownFgs
  · exact (h.when (fun _ => kept_execRun)).ite ((h.when (fun _ => kept_execTcmData)).ite (h.when
      (fun _ => kept_execMbxPush)))
  · exact h.ite (((((((((h.when (fun _ => kept_execStart)).when (fun _ => kept_execSlotCancel)).ite h).when
      (fun _ => kept_execMonitorEnable)).when (fun _ => kept_execPushGo)).when (fun _ => kept_execArm)).when
      (fun _ => kept_execRetire)).ite (((((h.when (fun _ => kept_execStart)).when
      (fun _ => kept_execSlotCancel)).ite h).when (fun _ => kept_execMonitorEnable)).when
      (fun _ => kept_execPushGo))).ite ((((h.when (fun _ => kept_execStart)).when
      (fun _ => kept_execSlotCancel)).ite h).when (fun _ => kept_execMonitorEnable)))

protected theorem Keeps.ownIo (h : Keeps s u) {ini : Ini} {p off v : Nat} : Keeps s (ownIo u ini p off v) := by
  unfold ownIo
  split
  · exact (h.when (fun _ => kept_execLineCfg)).ite h
  · exact (h.when (fun _ => kept_execPinCfg)).ite ((h.when (fun _ => kept_execTgCfg)).ite (h.when
      (fun _ => kept_execUartTx)))
  · exact (h.when (fun _ => kept_execCmd)).ite ((h.when (fun _ => kept_execTxData4)).ite ((h.when
      (fun _ => kept_execTxData)).ite (h.when (fun _ => kept_execHaltClr))))
  · exact ((h.when (fun _ => kept_execTcommit)).when (fun _ => kept_execMonRun)).ite (((h.when
      (fun _ => kept_execPlaneCommit)).when (fun _ => kept_execRelease)).ite h)
  · exact ((h.when (fun _ => kept_execTrain)).when (fun _ => kept_execLinkOff)).ite (h.when (fun _ => kept_execAuxGo))
  · exact (h.when (fun _ => kept_execStartDb)).ite ((h.when (fun _ => kept_execExtend)).ite (h.when
      (fun _ => kept_execChannelCancel)))
  · exact (h.when (fun _ => kept_execQueueStart)).ite ((h.when (fun _ => kept_execQueueRelease)).ite ((h.when
      (fun _ => kept_execQueueCancel)).ite (h.when (fun _ => kept_execSnap))))
  · exact ((h.when (fun _ => kept_execQueuePairCreate)).when (fun _ => kept_execDelete)).ite h
  · exact h

protected theorem Keeps.ownRings (h : Keeps s u) {ini : Ini} {p off v : Nat} : Keeps s (ownRings u ini p off v) :=
  ((h.when (fun _ => kept_execRingCountChange)).when (fun _ => kept_execConsumerIndexWrite)).when
    (fun _ => kept_execEvtClear)

protected theorem Keeps.barWrite (h : Keeps s u) {ini : Ini} {p off v : Nat} : Keeps s (barWrite u ini p off v) :=
  (h.regRow (fun _ => Keeps.rfl.writeWord)).ite ((h.regRow (fun _ => Keeps.rfl.writeWord)).ownHeader.ite (h.regRow
    (fun _ => Keeps.rfl.writeWord)).ownSystem.ownCompute.ownIo.ownRings)

protected theorem Keeps.popRead (h : Keeps s u) {ini : Ini} {p off : Nat} {t : State}
    (e : popRead u ini p off = some t := by assumption) : Keeps s t := by
  unfold popRead at e
  split at e
  · exact nomatch e
  · split at e
    · split at e
      · exact Option.some.inj e ▸ h.after kept_execTPeak
      · exact nomatch e
    · split at e
      · exact Option.some.inj e ▸ h.after kept_execUartRx
      · exact nomatch e
    · dsimp only at e
      split at e
      · exact Option.some.inj e ▸ h.after kept_execRxData
      · split at e
        · exact Option.some.inj e ▸ h.after kept_execResp
        · split at e
          · exact Option.some.inj e ▸ h.after kept_execIbi
          · exact nomatch e
    · exact nomatch e

protected theorem Keeps.barRead (h : Keeps s u) {ini : Ini} {p off : Nat} : Keeps s (barRead u ini p off) := by
  unfold barRead
  split
  · exact h.popRead
  · exact h.readRow fun _ => Keeps.rfl.readWord

protected theorem Keeps.pairRead (h : Keeps s u) {ini : Ini} {p off : Nat} : Keeps s (pairRead u ini p off) :=
  h.barRead.barRead.upd

@[simp] theorem kept_execReadLoSnapshot {ini : Ini} {page off : Nat} {wide : Bool} :
    Kept s (execReadLoSnapshot ini page off wide s) :=
  .next (Keeps.rfl.ite (((Keeps.rfl.readRow (fun _ => Keeps.rfl)).ite Keeps.rfl.pairRead).ite Keeps.rfl.barRead))

@[simp] theorem kept_execReadHi {ini : Ini} {page off : Nat} : Kept s (execReadHi ini page off s) :=
  .next (Keeps.rfl.ite (Keeps.rfl.readRow (fun _ => Keeps.rfl.readWord)))

/-! ### Boot -/

protected theorem Keeps.romRead (h : Keeps s u) {flash : Cells} {off n : Nat} : Keeps s (romRead u flash off n).2 := by
  unfold romRead
  split
  · split
    · exact h.readAll.got₂
    · exact h.readAll.got₂
  · exact h

protected theorem Keeps.romDirectory (h : Keeps s u) {flash : Cells} : Keeps s (romDirectory u flash).2 := by
  unfold romDirectory
  dsimp only
  split
  · exact h.romRead
  · split
    · exact h.romRead.romRead
    · exact h.romRead.romRead

protected theorem Keeps.romCopy (h : Keeps s u) {flash : Cells} {ty off : Nat} :
    Keeps s (romCopy u flash ty off).2 := by
  unfold romCopy
  split
  · exact h.romRead.got
  · split
    · exact h.romRead.got
    · split
      · exact h.romRead.got.romRead.got
      · exact h.romRead.got.romRead.got

protected theorem Keeps.romImage (h : Keeps s u) {flash : Cells} {i : Nat} {e : BootEntry} :
    Keeps s (romImage u flash i e).2 := by
  unfold romImage
  dsimp only
  split
  · exact h.wr.wr.romCopy.got
  · split
    · exact h.wr.wr.romCopy.got.upd
    · exact h.wr.wr.romCopy.got.upd.wr.romCopy

protected theorem Keeps.romWrite (h : Keeps s u) {off v : Nat} : Keeps s (romWrite u off v) := by
  unfold romWrite
  extract_lets f t t'
  have enabled : Keeps s t := h.putFn
  have written : Keeps s t' := enabled.barWrite.ite (enabled.after kept_execAccessFault)
  exact written.putFn

protected theorem Keeps.romRecords (h : Keeps s u) {bs : List Byte} {n : Nat} : Keeps s (romRecords bs n u) := by
  induction n generalizing u bs with
  | zero => exact h
  | succ n ih =>
    unfold romRecords
    exact h.ite ((ih h).ite (ih (h.romWrite.wr.ite h.romWrite)))

protected theorem Keeps.bootFailed (h : Keeps s u) {st : Nat} : Keeps s (bootFailed u st) :=
  h.wr.wr.upd

protected theorem Keeps.romApply (h : Keeps s u) {e : BootEntry} {h' body : List Byte} :
    Keeps s (romApply u e h' body) :=
  h.tcmStore.ite (h.romRecords.ite ((h.tcmStore.wr.wr.startCore.ite h.tcmStore.wr.wr).ite h.tcmStore.wr))

protected theorem Keeps.romLoad (h : Keeps s u) {flash : Cells} {l : List (Nat × BootEntry)}
    {acc : List (BootEntry × List Byte)} : Keeps s (romLoad flash l acc u).2 := by
  induction l generalizing u acc with
  | nil => exact h
  | cons x l ih =>
    unfold romLoad
    split
    · exact ih h.wr.romImage.got.romApply
    · exact h.wr.romImage.got.bootFailed

protected theorem Keeps.romRun (h : Keeps s u) {flash : Cells} : Keeps s (romRun u flash) := by
  unfold romRun
  dsimp only
  split
  · exact h.wr.romDirectory.got.bootFailed
  · split
    · exact h.wr.romDirectory.got.romLoad.got
    · exact .upd (.folded (h.wr.romDirectory.got.romLoad.got.wr.ite h.wr.romDirectory.got.romLoad.got)
        (fun _ _ h => h.recordImage))

protected theorem Keeps.romRecover (h : Keeps s u) : Keeps s (romRecover u) :=
  h.wr.wr.wr.wr.wr.upd

protected theorem Keeps.romInit (h : Keeps s u) : Keeps s (romInit u) :=
  (h.wr.wr.wr.raise.ite h.wr.wr.wr).wr.wr

@[simp] theorem kept_execBootRom {flash : Cells} {found quad : Bool} : Kept s (execBootRom flash found quad s) :=
  .next (Keeps.rfl.ite (Keeps.rfl.romRun.ite (Keeps.rfl.romInit.bootFailed.ite (Keeps.rfl.romInit.romRecover.ite
    (Keeps.rfl.romInit.bootFailed.ite Keeps.rfl.romInit.wr.romRun)))))

/-! ### CoreAccess -/

protected theorem Keeps.coreTrap (h : Keeps s u) {c cause pc : Nat} : Keeps s (coreTrap u c cause pc) :=
  h.wr.wr.upd

protected theorem Keeps.coreFault (h : Keeps s u) {c : Nat} {write : Bool} : Keeps s (coreFault u c write) :=
  h.coreTrap

protected theorem Keeps.tcmUncorr (h : Keeps s u) {c a : Nat} {inj : Bool} : Keeps s (tcmUncorr u c a inj) := by
  unfold tcmUncorr
  dsimp only
  exact h.raiseI.logI.doubtInj.ite h.raiseI.logI.eccDoubt

protected theorem Keeps.tcmRead (h : Keeps s u) {c a n : Nat} {e : Ecc} : Keeps s (tcmRead u c a n e).2 := by
  unfold tcmRead
  dsimp only
  split
  · exact (h.hit.ite h.hit.upd).tcmUncorr
  · exact h.hit.hit.raiseI.noticeOn.ite h.hit.hit

protected theorem Keeps.tcmStoreBut (h : Keeps s u) {c a : Nat} {bs : List Byte} {out : List Nat} :
    Keeps s (tcmStoreBut u c a bs out) :=
  .upd (.folded h (fun _ _ h => h.ite h.tcmStore))

protected theorem Keeps.tcmWrite (h : Keeps s u) {c a : Nat} {bs : List Byte} {e : Ecc} :
    Keeps s (tcmWrite u c a bs e) := by
  unfold tcmWrite
  split
  · exact h.tcmStoreBut
  · exact (h.hit.ite h.hit.upd).tcmStoreBut.tcmUncorr.coreFault.ite
      (h.hit.hit.raiseI.noticeOn.ite h.hit.hit).tcmStoreBut

protected theorem Keeps.portRead (h : Keeps s u) {c off : Nat} : Keeps s (portRead u c off).2 :=
  .ite₂ h (.ite₂ h.putCore h)

protected theorem Keeps.portGop (h : Keeps s u) {c v : Nat} : Keeps s (portGop u c v) := by
  unfold portGop
  extract_lets i g n
  split
  · exact h.after kept_execStartDoorbell
  · exact h.after kept_execTrig
  · exact h.after kept_execCancel
  · exact h.after kept_execCancelAll
  · exact h.after kept_execNodeCancel
  · exact h.prog

protected theorem Keeps.portSem (h : Keeps s u) {c v : Nat} : Keeps s (portSem u c v) :=
  h.semRow.ite h.prog

protected theorem Keeps.portWrite (h : Keeps s u) {c off v : Nat} : Keeps s (portWrite u c off v) := by
  unfold portWrite
  extract_lets k
  have cmp : Keeps s (match k.cmpHold with
      | some lo => u.putCore c { k with timerCmp := lo + v * 2 ^ 32, cmpHold := none }
      | none => u.raise (pgCc c) eAccess) := by
    split
    · exact h.putCore
    · exact h.raise
  exact (h.putCore.ite h).ite ((h.when fun _ => kept_execMbxPop).ite (h.portGop.ite ((h.after kept_execNodeDone).ite
    (h.portSem.ite (h.putCore.ite (cmp.ite (h.putCore.coreWake.ite (h.putCore.ite h.putCore))))))))

protected theorem Keeps.coreLoadMem (h : Keeps s u) {c a n : Nat} {r : Resp} {host : Cells} :
    Keeps s (coreLoadMem u c a n r host) := by
  unfold coreLoadMem
  dsimp only
  split
  · refine .coreFault (.folded₃ h (fun ⟨_, _, _⟩ ⟨_, _⟩ h => ?_))
    split
    · dsimp only
      exact h.tryRead.got.perfRd
    · dsimp only
      exact h.tryRead.got.perfRd
    · dsimp only
      exact h.tryRead.got.perfRd
  · refine .upd (.folded₃ h (fun ⟨_, _, _⟩ ⟨_, _⟩ h => ?_))
    split
    · dsimp only
      exact h.tryRead.got.perfRd
    · dsimp only
      exact h.tryRead.got.perfRd
    · dsimp only
      exact h.tryRead.got.perfRd

protected theorem Keeps.coreStoreMem (h : Keeps s u) {c a : Nat} {bs : List Byte} {r : Resp} :
    Keeps s (coreStoreMem u c a bs r) := by
  unfold coreStoreMem
  dsimp only
  split
  · refine .coreFault (.folded₂ h (fun ⟨_, _⟩ ⟨_, _⟩ h => ?_))
    split
    · exact h.tryWrite.got.perfWr
    · exact h.tryWrite.got.perfWr
    · exact h.tryWrite.got.perfWr
  · refine .upd (.folded₂ h (fun ⟨_, _⟩ ⟨_, _⟩ h => ?_))
    split
    · exact h.tryWrite.got.perfWr
    · exact h.tryWrite.got.perfWr
    · exact h.tryWrite.got.perfWr

protected theorem Keeps.coreFlow (h : Keeps s u) {c a n : Nat} : Keeps s (coreFlow u c a n) :=
  h.putCore.ite h.putCore.tracePkt

protected theorem Keeps.coreFetch (h : Keeps s u) {c a n : Nat} {e : Ecc} : Keeps s (coreFetch u c a n e) := by
  unfold coreFetch
  split
  · exact h.coreTrap
  · split
    · exact h.coreFlow.tcmRead.got.upd
    · exact h.coreFlow.tcmRead.got.coreTrap

protected theorem Keeps.coreLoad (h : Keeps s u) {c a n : Nat} {r : Resp} {host : Cells} :
    Keeps s (coreLoad u c a n r host) := by
  unfold coreLoad
  refine .ite ?_ (.ite (.ite h.portRead.upd h.upd) (.ite (.ite h.barRead (h.after kept_execAccessFault)) ?_))
  · split
    · exact h.tcmRead.got.upd
    · exact h.tcmRead.got.coreFault
  · split
    · exact h.coreLoadMem.ite h.coreFault
    · exact h.coreFault

protected theorem Keeps.coreStore (h : Keeps s u) {c a n v : Nat} {r : Resp} : Keeps s (coreStore u c a n v r) := by
  unfold coreStore
  refine h.upd.tcmWrite.ite (.ite (.ite h.upd.portWrite h.upd) (.ite (.ite h.barWrite
    (h.after kept_execAccessFault)) ?_))
  split
  · exact h.coreStoreMem.ite h.coreFault
  · exact h.coreFault

@[simp] theorem kept_execCoreAccess {c : Nat} {op : CoreOp} {addr size value : Nat} {r : Resp} {host : Cells} :
    Kept s (execCoreAccess c op addr size value r host s) := by
  refine .next ?_
  split
  · exact Keeps.rfl
  · split
    · exact Keeps.rfl.wr.coreWake
    · exact Keeps.rfl.coreFetch.ite Keeps.rfl
    · exact Keeps.rfl.coreLoad.ite Keeps.rfl
    · exact Keeps.rfl.coreStore.ite Keeps.rfl

/-! ### Debug -/

protected theorem Keeps.probe (h : Keeps s u) : Keeps s (probe u) :=
  h.wrBit

protected theorem Keeps.tapIr (h : Keeps s u) {ir : Nat} : Keeps s (tapIr u ir) :=
  h.probe.upd

protected theorem Keeps.tapDrive (h : Keeps s u) {ir : Nat} : Keeps s (tapDrive u ir) :=
  h.tapIr.debugTouch.wrBit

@[simp] theorem kept_execIdcode : Kept s (execIdcode s) :=
  .next Keeps.rfl.tapIr.upd

@[simp] theorem kept_execBypass : Kept s (execBypass s) :=
  .next Keeps.rfl.tapIr

@[simp] theorem kept_execSamplePreload {cells : Nat} : Kept s (execSamplePreload cells s) :=
  .next Keeps.rfl.tapIr.upd

@[simp] theorem kept_execExtest : Kept s (execExtest s) :=
  .next Keeps.rfl.tapDrive

@[simp] theorem kept_execClamp : Kept s (execClamp s) :=
  .next Keeps.rfl.tapDrive

@[simp] theorem kept_execHighz : Kept s (execHighz s) :=
  .next Keeps.rfl.tapIr

@[simp] theorem kept_execDapacc : Kept s (execDapacc s) :=
  .next Keeps.rfl.tapIr

@[simp] theorem kept_execTapReset : Kept s (execTapReset s) :=
  .next Keeps.rfl.upd

protected theorem Keeps.debugCore (h : Keeps s u) {c : Nat} {k : State → State} (hk : ∀ v, Keeps v (k v)) :
    Keeps s (debugCore u c k) :=
  h.ite (h.probe.debugTouch.trans (hk _))

protected theorem Keeps.debugStop (h : Keeps s u) {c pc : Nat} : Keeps s (debugStop u c pc) :=
  h.wrBit.upd.ite h.wrBit.putCore

@[simp] theorem kept_execDebugHalt {c pc : Nat} : Kept s (execDebugHalt c pc s) :=
  .next (Keeps.rfl.debugCore (fun _ => Keeps.rfl.debugStop))

@[simp] theorem kept_execDebugStep {c pc : Nat} : Kept s (execDebugStep c pc s) :=
  .next (Keeps.rfl.ite (Keeps.rfl.debugCore (fun _ => Keeps.rfl.ite Keeps.rfl.putCore)))

@[simp] theorem kept_execDebugResume {c : Nat} : Kept s (execDebugResume c s) :=
  .next (Keeps.rfl.ite (Keeps.rfl.probe.upd.ite Keeps.rfl.probe.putCore))

@[simp] theorem kept_execDebugRegisterWrite {c reg value : Nat} : Kept s (execDebugRegisterWrite c reg value s) :=
  .next (Keeps.rfl.debugCore (fun _ => Keeps.rfl.putCore.ite Keeps.rfl))

@[simp] theorem kept_execDebugTriggerHit {c pc : Nat} : Kept s (execDebugTriggerHit c pc s) :=
  .next (Keeps.rfl.debugCore (fun _ => Keeps.rfl.debugStop))

/-! ### ErrLog -/

protected theorem Keeps.logDrop (h : Keeps s u) : Keeps s (logDrop u) :=
  h.bump.upd.event

protected theorem Keeps.logWrite (h : Keeps s u) {r : LogRec} {hit : Hit} : Keeps s (logWrite u r hit).2 := by
  unfold logWrite
  dsimp only
  split
  · exact h.writeTwice.wr.upd.wr.upd.perf.event.tracePkt
  · exact h.writeTwice.wr.upd.wr.raise.logDrop

protected theorem Keeps.bootRecs (h : Keeps s u) : Keeps s (bootRecs u) := by
  unfold bootRecs
  dsimp only
  exact .ite h (.folded h.upd (fun _ _ h => h.free.log))

@[simp] theorem kept_execLogRecordWrite {hit : Hit} : Kept s (execLogRecordWrite hit s) := by
  refine .next ?_
  dsimp only
  split
  · exact Keeps.rfl
  · split
    · split
      · exact Keeps.rfl.bootRecs.newInc.logWrite.got.upd
      · exact Keeps.rfl.bootRecs.newInc.logWrite.got
    · split
      · exact Keeps.rfl.bootRecs
      · exact Keeps.rfl.bootRecs.upd.logWrite.ite Keeps.rfl.bootRecs.upd.logDrop

/-! ### Fawn -/

protected theorem Keeps.fawnHeader (h : Keeps s u) {a : Nat} : Keeps s (fawnHeader u a).2 :=
  h.readOnce

protected theorem Keeps.fawnJob (h : Keeps s u) {p a : Nat} {desc : List Byte} : Keeps s (fawnJob u p a desc).2 := by
  unfold fawnJob
  dsimp only
  split
  · exact h.writeOnce
  · exact h.writeOnce.upd.fawnEnqueue

protected theorem Keeps.fawnStart (h : Keeps s u) {l p left right : Nat} : Keeps s (fawnStart u l p left right) := by
  unfold fawnStart
  dsimp only
  split
  · split
    · split
      · exact h.fawnHeader.got.fawnHeader.got.ite (h.fawnHeader.got.fawnHeader.got.fawnJob.upd.ite
          h.fawnHeader.got.fawnHeader.got.fawnJob)
      · exact h.fawnHeader.got.fawnHeader.got
    · exact h.fawnHeader.got
  · exact h

protected theorem Keeps.fawnMatch (h : Keeps s u) {r : FawnRun} {st : Nat} : Keeps s (fawnMatch u r st) := by
  unfold fawnMatch
  split
  · exact h.upd
  · split
    · exact h.fawnHeader.got.upd
    · split
      · exact h.fawnHeader.got.fawnHeader.got.upd
      · split
        · exact h.fawnHeader.got.fawnHeader.got.upd
        · exact .ite h.fawnHeader.got.fawnHeader.got.upd (.upd (.ite (.folded h.fawnHeader.got.fawnHeader.got
            (fun _ _ h => h.modParcel)) h.fawnHeader.got.fawnHeader.got))

protected theorem Keeps.fawnMerge (h : Keeps s u) {r : FawnRun} : Keeps s (fawnMerge u r) := by
  unfold fawnMerge
  dsimp only
  split
  · refine .upd ?_
    split
    · refine .upd ?_
      split
      · exact h.modParcel.ite h
      · exact h
    · exact h
  · split
    · refine .upd ?_
      split
      · refine .upd ?_
        split
        · exact h.modParcel.ite h
        · exact h
      · exact h
    · split
      · refine .upd ?_
        split
        · refine .upd ?_
          split
          · exact h.modParcel.ite h
          · exact h
        · exact h
      · refine .upd (.fawnJob (.modParcel ?_))
        split
        · refine .upd ?_
          split
          · exact h.modParcel.ite h
          · exact h
        · exact h

@[simp] theorem kept_execFawnFramePair {line pair left right : Nat} :
    Kept s (execFawnFramePair line pair left right s) := by
  refine .next ?_
  split
  · exact Keeps.rfl
  · split
    · exact Keeps.rfl.ite Keeps.rfl.fawnStart
    · split
      · exact Keeps.rfl
      · split
        · split
          · exact Keeps.rfl.fawnMatch
          · exact Keeps.rfl
        · exact Keeps.rfl.fawnMerge.ite Keeps.rfl

protected theorem Keeps.gridRead (h : Keeps s u) {l g y : Nat} : Keeps s (gridRead u l g y).2.2 :=
  h.readOnce

protected theorem Keeps.gridStep {l : Nat} {lp : Int} {g : Nat} {x : Option Span × Bool × State} (h :
    Keeps s x.2.2) {y : Nat} :
    Keeps s (gridStep l lp g x y).2.2 := by
  have read : Keeps s (gridRead x.2.2 l g y).2.2 := h.gridRead
  unfold gridStep
  generalize gridRead x.2.2 l g y = r at read
  obtain ⟨bytes, bad, v⟩ := r
  have kept : Keeps s v := read
  exact kept

protected theorem Keeps.gridSpan (h : Keeps s u) {l : Nat} {lp : Int} {g : Nat} : Keeps s (gridSpan u l lp g).2.2 :=
  .folded₃ h fun _ _ h => h.gridStep

protected theorem Keeps.fawnScale (h : Keeps s u) {l : Nat} : Keeps s (fawnScale u l).2 := by
  unfold fawnScale
  split
  · exact h
  · exact h.readOnce

protected theorem Keeps.fawnEvaluate (h : Keeps s u) {l : Nat} {q : Parcel} {t : Nat} {bad : Bool} :
    Keeps s (fawnEvaluate u l q t bad) := by
  have scaled : Keeps s (fawnScale u l).2 := h.fawnScale
  have ends : ∀ {w : State} {f : Parcel → Parcel} {fails faulty : Prop} [Decidable fails] [Decidable faulty], Keeps s w
    →
      Keeps s (if faulty then raiseFault (if fails then (modParcel w q f).raise pgSaf 9 else modParcel w q f) 8
        else if fails then (modParcel w q f).raise pgSaf 9 else modParcel w q f) := fun hw =>
    (hw.modParcel.raise.ite hw.modParcel).raiseFault.ite (hw.modParcel.raise.ite hw.modParcel)
  unfold fawnEvaluate
  generalize fawnScale u l = x at scaled
  obtain ⟨scale, v⟩ := x
  dsimp only at scaled ⊢
  generalize cdiv ((diff32 t q.c).toNat * scale.getD 0) 4096 = lp
  cases hg : q.grid with
  | none => exact ends scaled
  | some g =>
    cases hb : q.begun with
    | false => exact ends scaled
    | true => exact ends scaled.gridSpan

@[simp] theorem kept_execFawnEvaluation {line : Nat} {bad : Bool} : Kept s (execFawnEvaluation line bad s) := by
  refine .next ?_
  split
  · exact Keeps.rfl
  · split
    · exact Keeps.rfl
    · exact Keeps.rfl.modParcel.sweepParcels.ite Keeps.rfl.fawnEvaluate

@[simp] theorem kept_execFawnStaging {line : Nat} : Kept s (execFawnStaging line s) := by
  refine .next ?_
  split
  · exact Keeps.rfl
  · split
    · exact Keeps.rfl
    · split
      · exact Keeps.rfl
      · refine .sweepParcels (.modParcel (.bump (.writeOnce ?_)))
        split
        · exact Keeps.rfl.islandStage
        · exact Keeps.rfl

/-! ### Tick -/

protected theorem Keeps.perfTick (h : Keeps s u) {p : Nat} : Keeps s (perfTick u p) := by
  unfold perfTick
  split
  · exact h
  · exact h.ite (h.ite (h.perf.perf.ite (h.perf.perf.ite h.perf)))

protected theorem Keeps.perfTicks (h : Keeps s u) : Keeps s (perfTicks u) :=
  .folded h (fun _ _ h => h.perfTick)

protected theorem Keeps.powerTick (h : Keeps s u) : Keeps s (powerTick u) :=
  h.upd

protected theorem Keeps.tick (h : Keeps s u) : Keeps s (tick u) :=
  h.ite (h.upd.ite h.perfTicks.powerTick.traceTick.rotSweep.upd)

end Sys2Proof.Machine
end

section
/-! PROOFS. What every step keeps: the commands, the tick, and the two statements about them (O5, O6). -/
namespace Sys2Proof.Machine
set_option Elab.async false
open Sys2Proof

/-- Every command keeps what every step must keep. -/
theorem kept_exec (c : Instr) (s : State) : Kept s (exec c s) := by
  cases c
  all_goals simp [exec]

/-- A step keeps what every step must keep, from the state whose queue has lost its front. -/
theorem step_keeps {s t : State} (e : step s = .next t) : Keeps { s with pending := s.pending.tail } t := by
  unfold step at e
  split at e
  case h_1 empty =>
    cases e
    have rest : { s with pending := s.pending.tail } = s := by rw [empty]; cases s; cases empty; rfl
    rw [rest]
    exact Keeps.rfl.tick
  case h_2 c rest front =>
    rw [front]
    have kept := kept_exec c { s with pending := rest }
    rw [e] at kept
    exact kept

/-- Settles O5: every operation keeps the canonical form (`Keeps.canonical`), and a step is one of them. -/
theorem canonicalKept : Obligations.CanonicalKept :=
  fun _ _ canonical e => (step_keeps e).canonical canonical

/-- Settles O6: every operation keeps blown fuses and a programmed key hash, and leaves the queue alone. -/
theorem oneTimeKept : Obligations.OneTimeKept :=
  fun _ _ e =>
    have kept := step_keeps e
    ⟨kept.fuses, kept.rotpk, kept.pending⟩

end Sys2Proof.Machine
end

section
/-! PROOFS. A step and its queue, the reset state, and the frame in which a register write runs (R2, R47, R49, R409). -/
namespace Sys2Proof.Machine
set_option Elab.async false
open Sys2Proof

/-- Settles O1: the two cases of `step`. -/
theorem stepRunsFront : Obligations.StepRunsFront := by
  refine ⟨fun s c rest front => ?_, fun s empty => ?_⟩
  · rw [step, front]
  · rw [step, empty]

/-- Settles O2: the reset state lists few registers, and every other one reads its reset value. -/
theorem resetState : Obligations.ResetState := by
  exact ⟨rfl, rfl, fun id => ⟨rfl, rfl⟩, by decide, by decide, by decide, fun p => ⟨rfl, rfl, rfl⟩,
    by decide, by decide, by decide⟩

/-! ### Register writes -/

section
variable {c : Instr} {ini : Ini} {p off : Nat} {k : State → State} {w : State → Prop}

/-- A command that is a register write whose own effect is `k` does `f` where `k` does. -/
theorem writes_of {f : State → State} (row : ∀ s, exec c s = .next (regRow s ini p off k)) (effect : ∀ u, w u → k u = f u) :
    Sys2Proof.Writes c ini p off w f := by
  intro s reached found
  rw [row, regRow_reached reached, effect _ found]

/-- So it brings about what its own effect does. -/
theorem writeBrings_of {q : State → State → Prop} (row : ∀ s, exec c s = .next (regRow s ini p off k))
    (effect : ∀ u, w u → q u (k u)) : WriteBrings c ini p off w q := by
  intro s reached found
  exact ⟨_, by rw [row, regRow_reached reached], effect _ found⟩

/-- A read that pops answers what its own effect `k` answers. -/
theorem pops_of {k : State → Nat × State} {v : State → Nat} {f : State → State}
    (row : ∀ s, exec c s = .next (popRow s ini p off k)) (effect : ∀ u, w u → k u = (v u, f u)) : Pops c ini p w v f := by
  intro s readable found
  rw [row, popRow_readable readable, effect _ found]

end

/-- What `rowAt` names as a register write is one, in the frame of R47. -/
theorem exec_row {c : Instr} {ini : Ini} {p off : Nat} (h : rowAt c = some (ini, p, off)) :
    ∃ k, ∀ s, exec c s = .next (regRow s ini p off k) := by
  unfold rowAt at h
  split at h
  all_goals try split at h
  all_goals cases h
  any_goals exact ⟨_, fun _ => rfl⟩
  all_goals exact ⟨_, fun _ => congrArg Host.Outcome.next (if_neg (by omega))⟩

/-- Settles O4: the command's own effect runs only inside the frame of a register write. -/
theorem refusedWrites : Obligations.RefusedWrites := by
  intro c ini p off s h
  obtain ⟨k, row⟩ := exec_row h
  refine ⟨fun noBus => ?_, fun bus absent => ?_, fun bus page refused => ?_⟩
  · rw [row, regRow_noBus noBus]
  · rw [row, regRow_absent bus absent]
  · rw [row, regRow_denied bus page refused]

end Sys2Proof.Machine
end

section
/-! PROOFS. What flags, counters, log records and doubt reports leave alone (R39 to R46, R484, R533): everything but the
places of a page header where flags and counters stand, and the lists of what was reported, injected, logged and doubted. -/
namespace Sys2Proof.Machine
set_option Elab.async false
open Sys2Proof

/-- A place of a page's header that a flag, a counter or an injection changes by itself (R39, R41, R42, R45). -/
def markPos (n : Nat) : Bool :=
  [fldPos R.pageErr 0, fldPos R.errFirstBit 0, fldPos R.errFirstValid 0, fldPos R.perf 0, fldPos R.perf 1, fldPos R.perf 2,
    fldPos R.perf 3, fldPos R.perfOvf 0, fldPos R.injArm 0].contains n

/-- From s to t no more happens than flags, counters and injections do. -/
structure Flags (s t : State) : Prop where
  rest : t = { s with regs := t.regs, reports := t.reports, injections := t.injections }
  cell : ∀ c, markPos (c % 1048576) = false → sfind t.regs c = sfind s.regs c

namespace Flags

theorem refl (s : State) : Flags s s := ⟨rfl, fun _ _ => rfl⟩

theorem trans {s t u : State} (h : Flags s t) (k : Flags t u) : Flags s u :=
  ⟨by rw [k.rest, h.rest], fun c hc => (k.cell c hc).trans (h.cell c hc)⟩

theorem ite {q : Prop} [Decidable q] {s t u : State} (h : Flags s t) (k : Flags s u) : Flags s (if q then t else u) := by
  split
  · exact h
  · exact k

/-- A write at such a place. -/
theorem wr (s : State) (p v : Nat) {f : Fld} {i : Nat} (hm : markPos (fldPos f i) = true := by decide)
    (hf : fldPos f i < 1048576 := by decide) : Flags s (s.wr p f v i) := by
  refine ⟨rfl, fun c hc => State.wr_cell _ _ _ _ _ fun same => ?_⟩
  have place : c % 1048576 = fldPos f i := by rw [same, cellKey]; omega
  rw [place, hm] at hc
  cases hc

variable {s t : State} (h : Flags s t)
include h

/-- Any other part of the state is as before. -/
theorem part {α : Type} (g : State → α)
    (hg : g { s with regs := t.regs, reports := t.reports, injections := t.injections } = g s := by rfl) : g t = g s :=
  (congrArg g h.rest).trans hg

/-- A field elsewhere reads as before. -/
theorem rd {p : Nat} {f : Fld} {i : Nat} (hm : markPos (fldPos f i) = false := by decide)
    (hf : fldPos f i < 1048576 := by decide) : t.rd p f i = s.rd p f i := by
  have place : cellKey p f i % 1048576 = fldPos f i := by rw [cellKey]; omega
  have cell := h.cell _ (by rw [place]; exact hm)
  simp only [State.rd, sget, cell]

end Flags

theorem flags_perf (s : State) (p code n : Nat) : Flags s (s.perf p code n) := by
  have add (k : Nat) (hk : k ∈ [0, 1, 2, 3]) (u : State) : Flags u (perfAdd u p k n) := by
    have place : markPos (fldPos R.perf k) = true ∧ fldPos R.perf k < 1048576 := by revert k; decide
    have count := Flags.wr u p (u.rd p R.perf k + n) place.1 place.2
    exact .ite count (count.trans (.wr _ p _))
  have one (u : State) (k : Nat) (hk : k ∈ [0, 1, 2, 3]) :
      Flags u (if u.rd p R.perfSel k = code then perfAdd u p k n else u) := .ite (add k hk u) (.refl u)
  simp only [State.perf, List.foldl_cons, List.foldl_nil]
  refine .ite (.refl s) ((((one s 0 ?_).trans (one _ 1 ?_)).trans (one _ 2 ?_)).trans (one _ 3 ?_)) <;> decide

theorem flags_flag (s : State) (p b : Nat) : Flags s (s.flag p b) := by
  have first : Flags s ((s.wr p R.errFirstBit b).wr p R.errFirstValid 1) := (Flags.wr s p b).trans (.wr _ p 1)
  have report (u : State) (v : Nat) (l : List (Nat × Nat)) :
      Flags u { (u.wr p R.pageErr v).perf p 0x0B with reports := l } :=
    ((Flags.wr u p v).trans (flags_perf _ p 0x0B 1)).trans ⟨rfl, fun _ _ => rfl⟩
  unfold State.flag
  exact .ite (.refl s) ((Flags.ite first (.refl s)).trans (report ..))

theorem flags_injectTake (s : State) (p b : Nat) : Flags s (injectTake s p b) :=
  (Flags.wr s p 0).trans ⟨rfl, fun _ _ => rfl⟩

theorem flags_raiseI (s : State) (p b : Nat) (inj : Bool) : Flags s (s.raiseI p b inj) := by
  unfold State.raiseI
  exact .ite (((flags_flag s p b).trans (flags_flag _ p eInjected)).trans ⟨rfl, fun _ _ => rfl⟩) (flags_flag s p b)

theorem flags_raise (s : State) (p b : Nat) : Flags s (s.raise p b) :=
  .ite ((flags_injectTake s p b).trans (flags_raiseI _ p b true)) (flags_flag s p b)

theorem flags_prog (s : State) (p : Nat) : Flags s (s.prog p) := flags_raise ..

theorem flags_hit (s : State) (p b : Nat) (real : Bool) : Flags s (s.hit p b real).2.2 := by
  unfold State.hit
  split
  · exact flags_injectTake ..
  · exact .refl s

theorem flags_found (s : State) (p b : Nat) (real : Bool) : Flags s (s.found p b real).2 :=
  (flags_hit s p b real).trans (.ite (flags_raiseI ..) (.refl _))

/-! ### Log records and doubt reports -/

/-- From s to t no more happens than flags, counters, injections, log records and doubt reports do. -/
structure Marks (s t : State) : Prop where
  rest : t = { s with
    regs := t.regs, reports := t.reports, injections := t.injections, logQ := t.logQ, doubtQ := t.doubtQ }
  cell : ∀ c, markPos (c % 1048576) = false → c ≠ cellKey pgErl R.incidentNext 0 → sfind t.regs c = sfind s.regs c

theorem Flags.marks {s t : State} (h : Flags s t) : Marks s t := ⟨by rw [h.rest], fun c hc _ => h.cell c hc⟩

namespace Marks

theorem refl (s : State) : Marks s s := ⟨rfl, fun _ _ _ => rfl⟩

theorem trans {s t u : State} (h : Marks s t) (k : Marks t u) : Marks s u :=
  ⟨by rw [k.rest, h.rest], fun c hc hn => (k.cell c hc hn).trans (h.cell c hc hn)⟩

theorem ite {q : Prop} [Decidable q] {s t u : State} (h : Marks s t) (k : Marks s u) : Marks s (if q then t else u) := by
  split
  · exact h
  · exact k

variable {s t : State} (h : Marks s t)
include h

/-- Any other part of the state is as before. -/
theorem part {α : Type} (g : State → α)
    (hg : g { s with regs := t.regs, reports := t.reports, injections := t.injections, logQ := t.logQ, doubtQ := t.doubtQ } =
      g s := by rfl) : g t = g s :=
  (congrArg g h.rest).trans hg

/-- A field elsewhere reads as before. -/
theorem rd {p : Nat} {f : Fld} {i : Nat} (hm : markPos (fldPos f i) = false := by decide)
    (hf : fldPos f i < 1048576 := by decide) (hn : cellKey p f i ≠ cellKey pgErl R.incidentNext 0 := by decide) :
    t.rd p f i = s.rd p f i := by
  have place : cellKey p f i % 1048576 = fldPos f i := by rw [cellKey]; omega
  have cell := h.cell _ (by rw [place]; exact hm) hn
  simp only [State.rd, sget, cell]

end Marks

theorem marks_logI (s : State) (inc : Nat) (r : LogRec) : Marks s (s.logI inc r).2 := by
  have number : Marks s s.newInc.2 := ⟨rfl, fun c _ hn => State.wr_cell _ _ _ _ _ hn⟩
  unfold State.logI
  split
  · exact number.trans ⟨rfl, fun _ _ _ => rfl⟩
  · exact ⟨rfl, fun _ _ _ => rfl⟩

theorem marks_log (s : State) (r : LogRec) (inc : Nat) : Marks s (s.log r inc) := marks_logI ..

theorem marks_doubt (s : State) (sc : Scope) (inc : Nat) (cont : Bool) : Marks s (s.doubt sc inc cont) :=
  ⟨rfl, fun _ _ _ => rfl⟩

theorem marks_doubtInj (s : State) (p b : Nat) : Marks s (s.doubtInj p b) := ⟨rfl, fun _ _ _ => rfl⟩

/-- A record takes an incident at the aggregator, and its place in the log (R528, R533). -/
theorem logI_rd {p : Nat} {f : Fld} {i : Nat} (s : State) (inc : Nat) (r : LogRec) (hp : p ≠ pgErl)
    (hf : fldPos f i < 1048576 := by decide) : (s.logI inc r).2.rd p f i = s.rd p f i := by
  unfold State.logI
  split
  · exact State.rd_wr_ne _ _ _ _ _ (cellKey_ne_page hp hf (by decide))
  · rfl

theorem logI_logQ_length (s : State) (inc : Nat) (r : LogRec) : (s.logI inc r).2.logQ.length = s.logQ.length + 1 := by
  unfold State.logI
  split <;> simp [State.newInc]

theorem logI_doubtQ (s : State) (inc : Nat) (r : LogRec) : (s.logI inc r).2.doubtQ = s.doubtQ := by
  unfold State.logI
  split <;> rfl

end Sys2Proof.Machine
end


section
/-! PROOFS. Which registers differ after a register write. -/
namespace Sys2Proof
set_option Elab.async false
open Sys2Proof.Machine

section
variable {ks : List Nat} {s t : State} {p : Nat} {f : Fld} {v i : Nat}

theorem OnlyRegs.refl (s : State) : OnlyRegs s s := rfl

theorem OnlyRegs.wr (h : OnlyRegs s t) : OnlyRegs s (t.wr p f v i) := by
  unfold OnlyRegs at *
  rw [h]
  rfl

theorem RegsBut.refl (ks : List Nat) (s : State) : RegsBut ks s s := fun _ _ => rfl

/-- A write of a listed cell leaves the cells that are not listed. -/
theorem RegsBut.wr (h : RegsBut ks s t) (listed : cellKey p f i ∈ ks) : RegsBut ks s (t.wr p f v i) := fun k hk =>
  (State.wr_cell _ _ _ _ _ fun same => hk (by rw [same]; exact listed)).trans (h k hk)

end

end Sys2Proof
end

section
/-! PROOFS. Register pages: reading a field after another was written, ENABLE, SOFT_RESET, LOCK, counters, error flags, injection, self-tests
and owners (R37 to R45, R50 to R52). -/
namespace Sys2Proof.Machine
set_option Elab.async false
open Sys2Proof

section
variable {s u : State} {p : Nat} {f g : Fld} {v i j : Nat}

/-- A field reads as before when a field of the same page at another position is written. -/
theorem rd_wr_pos (h : fldPos g j ≠ fldPos f i) : (s.wr p f v i).rd p g j = s.rd p g j :=
  State.rd_wr_ne _ _ _ _ _ (cellKey_ne_pos p h)

/-- Registers read by their cells alone. -/
theorem rd_of_regs {t : State} (h : t.regs = s.regs) : t.rd p f i = s.rd p f i := by
  rw [State.rd, h]; rfl

/-- A field of another page reads as before. -/
theorem rd_wr_page {q : Nat} (h : q ≠ p) (hg : fldPos g j < 1048576) (hf : fldPos f i < 1048576) :
    (s.wr p f v i).rd q g j = s.rd q g j :=
  State.rd_wr_ne _ _ _ _ _ (cellKey_ne_page h hg hf)

end

/-! ### ENABLE -/

section
variable {u : State} {p : Nat}

theorem turnOff_idle (h : u.rd p R.pstate = psIdle) : turnOff u p = (u.wr p R.enable 0).wr p R.pstate psOff := by
  have same : (u.wr p R.enable 0).rd p R.pstate = psIdle := (rd_wr_pos (by decide)).trans h
  simp [turnOff, same, psIdle, psActive]

theorem turnOff_active (h : u.rd p R.pstate = psActive) : turnOff u p = (u.wr p R.enable 0).wr p R.pstate psDraining := by
  have same : (u.wr p R.enable 0).rd p R.pstate = psActive := (rd_wr_pos (by decide)).trans h
  simp [turnOff, same]

/-- ENABLE of a plain page has no action beyond the page's state. -/
theorem setEnable_plain (plain : plainPage p = true) (on : Bool) :
    setEnable u p on =
      if on = false then turnOff u p
      else if u.rd p R.pstate = psOff then (u.wr p R.enable 1).wr p R.pstate psIdle
      else if u.rd p R.pstate = psDraining then (u.wr p R.enable 1).wr p R.pstate psActive
      else u.wr p R.enable 1 := by
  unfold plainPage at plain
  unfold setEnable
  split at plain
  case h_1 | h_2 | h_3 | h_4 | h_5 => cases plain
  case h_6 kind _ csi cc ch pq =>
    have csi : pageKind p ≠ some .csi := csi
    have cc : pageKind p ≠ some .cc := cc
    split
    · exact absurd ‹_› ch
    · exact absurd ‹_› pq
    · simp [csi, cc]

theorem writeEnable_free {on : Bool} (test : u.rd p R.pstate ≠ psSelftest) (reset : u.rd p R.pstate ≠ psResetting)
    (fenced : u.rd p R.pstate ≠ psFenced) : writeEnable u p on = setEnable u p on := by
  simp [writeEnable, test, reset, fenced]

theorem writeEnable_held {on : Bool} (h : u.rd p R.pstate = psSelftest ∨ u.rd p R.pstate = psResetting) :
    writeEnable u p on = u.wr p R.enable (b2n on) := by
  simp [writeEnable, h]

end

/-- Settles O7: ENABLE goes by `setEnable`, which on a plain page follows the page's state alone. -/
theorem pageEnable : Obligations.PageEnable := by
  intro ini p plain
  have free {u : State} {on : Bool} {st : Nat} (at' : u.rd p R.pstate = st) (h : st ∉ [psSelftest, psResetting, psFenced]) :
      writeEnable u p on = setEnable u p on := by
    simp only [List.mem_cons, List.not_mem_nil, not_or, or_false] at h
    obtain ⟨test, reset, fenced⟩ := h
    exact writeEnable_free (at' ▸ test) (at' ▸ reset) (at' ▸ fenced)
  refine ⟨writes_of (fun _ => rfl) fun u off => ?_, writes_of (fun _ => rfl) fun u draining => ?_,
    writes_of (fun _ => rfl) fun u idle => ?_, writes_of (fun _ => rfl) fun u active => ?_,
    writes_of (fun _ => rfl) fun u fenced => writeEnable_true_of_fenced fenced,
    fun on => writes_of (fun _ => rfl) fun u held => writeEnable_held held⟩
  · rw [free off (by decide), setEnable_plain plain]
    simp [off]
  · rw [free draining (by decide), setEnable_plain plain]
    simp [draining, psDraining, psOff]
  · rw [free idle (by decide), setEnable_plain plain]
    simp [turnOff_idle idle]
  · rw [free active (by decide), setEnable_plain plain]
    simp [turnOff_active active]

/-! ### SOFT_RESET -/

/-- What every step of a fold leaves as it is, the fold leaves. -/
theorem foldl_leaves {α β : Type} (g : State → β) {f : State → α → State} (h : ∀ s a, g (f s a) = g s) (l : List α) (s : State) :
    g (l.foldl f s) = g s := by
  induction l generalizing s with
  | nil => rfl
  | cons a l ih => exact (ih _).trans (h s a)

/-- What a unit loses in a soft reset does not touch the list of the pages that were FENCED. -/
theorem softUnit_fencedReset (s : State) (p : Nat) : (softUnit s p).fencedReset = s.fencedReset := by
  have pins : (softPins s).fencedReset = s.fencedReset := by
    unfold softPins
    split
    · refine foldl_leaves State.fencedReset (fun u n => ?_) _ _
      split <;> rfl
    · rfl
  unfold softUnit
  split
  case h_1 =>
    refine foldl_leaves State.fencedReset (fun _ _ => ?_) _ _
    rfl
  case h_3 => exact pins
  case h_9 => split <;> rfl
  case h_10 =>
    unfold softPlanes
    split
    · refine foldl_leaves State.fencedReset (fun u n => ?_) _ _
      dsimp only
      split <;> rfl
    · rfl
  all_goals rfl

/-- Settles O8: `beginReset` clears the result of the test last, and the end drops what names the page. -/
theorem pageSoftReset : Obligations.PageSoftReset := by
  intro ini p
  refine ⟨writeBrings_of (fun _ => rfl) fun u other => ?begins, writes_of (fun _ => rfl) fun u resetting => ?ignored, ?ends⟩
  case begins =>
    simp only [beginReset, if_neg other]
    generalize abandonWork _ p = v
    refine ⟨?_, ?_, ?_⟩
    · show (((v.wr p R.stDone 0).wr p R.stPass 0).wr p R.pstate psResetting).rd p R.pstate = psResetting
      rw [State.rd_wr_same]
      rfl
    · show (((v.wr p R.stDone 0).wr p R.stPass 0).wr p R.pstate psResetting).rd p R.stDone = 0
      rw [rd_wr_pos (by decide), rd_wr_pos (by decide), State.rd_wr_same]
      rfl
    · show (((v.wr p R.stDone 0).wr p R.stPass 0).wr p R.pstate psResetting).rd p R.stPass = 0
      rw [rd_wr_pos (by decide), State.rd_wr_same]
      rfl
  case ignored => simp [beginReset, resetting]
  case ends =>
    intro s ⟨page, resetting, ready⟩
    have row : ¬(pageKind p = none ∨ s.rd p R.pstate ≠ psResetting ∨ resetReady s p = false) := by simp [*]
    refine ⟨_, congrArg Host.Outcome.next (if_neg row), ?_, ?_, ?_, ?_, ?_, ?_⟩
    · have fenced : (softCells (softUnit s p) p).fencedReset = s.fencedReset := softUnit_fencedReset s p
      generalize softCells (softUnit s p) p = v at fenced
      rw [← fenced]
      show (v.wr p R.pstate (if v.fencedReset.contains p then psFenced else psOff)).rd p R.pstate = _
      rw [State.rd_wr_same]
      split <;> rfl
    · exact fun x hx => by simpa using (List.mem_filter.1 hx).2
    · exact fun x hx => by simpa using (List.mem_filter.1 hx).2
    · exact fun d hd => by simpa using (List.mem_filter.1 hd).2
    · exact fun x hx => by simpa using (List.mem_filter.1 hx).2
    · exact fun member => by simpa using (List.mem_filter.1 member).2

/-! ### LOCK, counters, flags and injection -/

theorem bitsOf_lt (x hi lo : Nat) : bitsOf x hi lo < 2 ^ (hi + 1 - lo) := Nat.mod_lt _ (Nat.two_pow_pos _)

/-- Settles O9: each of the four writes sets the cells of its own register only. -/
theorem pageLockPerfErr : Obligations.PageLockPerfErr := by
  refine ⟨fun ini p v => ⟨writes_of (fun _ => rfl) fun u other => if_neg other, writes_of (fun _ => rfl) fun u isl => if_pos isl,
    writeBrings_of (fun _ => rfl) fun u _ => ⟨fun k hk => ?counters, ?_, ?_⟩,
    writeBrings_of (fun _ => rfl) fun u _ => ?flags⟩, fun ini p v => writeBrings_of (fun _ => rfl) fun u _ => ?arms⟩
  case counters =>
    simp only [List.foldl_cons, List.foldl_nil]
    interval_cases k <;> simp (disch := decide) [rd_wr_pos]
  · exact (OnlyRegs.refl u).wr.wr.wr.wr
  · exact ((((RegsBut.refl _ u).wr (by simp)).wr (by simp)).wr (by simp)).wr (by simp)
  case flags =>
    dsimp only
    generalize clrMask 32 (u.rd p R.pageErr) v = e
    split
    · refine ⟨?_, fun _ => State.rd_wr_same .., (OnlyRegs.refl u).wr.wr, ((RegsBut.refl _ u).wr (by simp)).wr (by simp)⟩
      rw [rd_wr_pos (by decide), State.rd_wr_same]
      rfl
    · next some =>
      exact ⟨State.rd_wr_same .., fun none => absurd none some, (OnlyRegs.refl u).wr, (RegsBut.refl _ u).wr (by simp)⟩
  case arms =>
    dsimp only
    generalize (if ini = .rotation then u else debugTouch u) = w
    have bit : bitsOf v 4 0 % 2 ^ R.injBit.w = bitsOf v 4 0 := Nat.mod_eq_of_lt (bitsOf_lt ..)
    have cont : bitsOf v 6 6 % 2 ^ R.injCont.w = bitsOf v 6 6 := Nat.mod_eq_of_lt (bitsOf_lt ..)
    cases bitOf v 5 <;> simp (disch := decide) [rd_wr_pos, bit, cont]

/-! ### Self-tests and owners -/

section
variable {s : State} {p : Nat}

/-- Without an injection a check finds what there is. -/
theorem hit_calm {bit : Nat} (h : injectNow s p bit = false) (real : Bool) : s.hit p bit real = (real, false, s) := by
  simp [State.hit, h]

theorem raise_calm {bit : Nat} (h : injectNow s p bit = false) : s.raise p bit = s.flag p bit := by
  simp [State.raise, h]

/-- A page that plain pages are has work of its own in no channel and no queue. -/
theorem afterTest_plain_off (plain : plainPage p = true) (h : s.rd p R.enable = 0) :
    afterTest s p = s.wr p R.pstate psOff := by
  have off : s.on p R.enable = false := by simp [State.on, h]
  unfold plainPage at plain
  unfold afterTest
  simp only [off]
  split at plain
  case h_1 | h_2 | h_3 | h_4 | h_5 => cases plain
  case h_6 kind _ csi cc ch pq =>
    split
    · exact absurd ‹_› ch
    · exact absurd ‹_› pq
    · simp

/-- What a test that no injection disturbs shows, and what it leaves, on a page that waits for no return to service (R43). -/
theorem exec_selftestDone_calm {us : Nat} {pass ok : Bool} (kind : pageKind p ≠ none) (test : s.rd p R.pstate = psSelftest)
    (calm : injectNow s p eSelftest = false) (fence : s.unfence ≠ some p)
    (result : (pass && (s.rd p R.stSel != 0x10 || katPass)) = ok) :
    exec (.selftestDone p us pass) s = .next (afterTest
      (if ok then ((s.wr p R.stDone 1).wr p R.stPass 1).wr p R.stTime (min us 0xFFFF)
       else (((s.wr p R.stDone 1).wr p R.stPass 0).wr p R.stTime (min us 0xFFFF)).flag p eSelftest) p) := by
  have noFence : (s.unfence == some p) = false := beq_eq_false_iff_ne.2 fence
  have found : (pass && (s.unfence == some p || s.rd p R.stSel != 0x10 || katPass)) = ok := by simpa [noFence] using result
  have ends (t : State) (h : t.unfence = s.unfence) :
      (if t.unfence = some p then unfenceEnd t p (some ok) else afterTest t p) = afterTest t p := if_neg (h ▸ fence)
  have row : ¬(pageKind p = none ∨ s.rd p R.pstate ≠ psSelftest) := by simp [kind, test]
  show execSelftestDone p us pass s = _
  unfold execSelftestDone
  rw [if_neg row, found]
  simp only [hit_calm calm]
  cases ok with
  | true => exact congrArg Host.Outcome.next (ends _ rfl)
  | false => exact congrArg Host.Outcome.next (ends _ ((flags_flag _ p eSelftest).part State.unfence))

theorem plainPage_kind (plain : plainPage p = true) : pageKind p ≠ none := by
  intro absent
  simp [plainPage, absent] at plain

end

/-- Settles O10: a test starts and ends by the page's state, and an owner changes in OFF only. -/
theorem pageTestsOwner : Obligations.PageTestsOwner := by
  refine ⟨fun ini p sel us => ⟨writes_of (fun _ => rfl) fun u free => if_pos free, writes_of (fun _ => rfl) fun u held => if_neg held, ?passes, ?fails⟩,
    fun ini p part => ⟨writes_of (fun _ => rfl) fun u h => ?given, writes_of (fun _ => rfl) fun u h => ?busy,
      writes_of (fun _ => rfl) fun u h => ?other, writes_of (fun _ => rfl) fun u h => ?locked⟩⟩
  case passes =>
    intro s ⟨plain, test, calm, fence, off, kat⟩
    have result : (true && (s.rd p R.stSel != 0x10 || katPass)) = true := by simpa using kat
    rw [exec_selftestDone_calm (plainPage_kind plain) test calm fence result, if_pos rfl, afterTest_plain_off plain]
    simp (disch := decide) only [rd_wr_pos]
    exact off
  case fails =>
    intro s ⟨plain, test, calm, fence⟩
    beta_reduce
    rw [exec_selftestDone_calm (plainPage_kind plain) test calm fence (Bool.false_and _), if_neg Bool.false_ne_true, raise_calm]
    simp (disch := decide) only [injectNow, State.on, rd_wr_pos]
    exact calm
  case given =>
    obtain ⟨p0, free, new, off⟩ := h
    simp [p0, free, new, off]
  case busy =>
    obtain ⟨p0, free, new, off⟩ := h
    simp [p0, free, new, off]
  case other => simp [h]
  case locked =>
    obtain ⟨p0, locked⟩ := h
    simp [p0, locked]

end Sys2Proof.Machine
end

section
/-! PROOFS. Rings, event bits and NOTICE (R70, R301, R641). -/
namespace Sys2Proof.Machine
set_option Elab.async false
open Sys2Proof

section
variable {u : State} {p i v : Nat} {r : Ring}

/-- Only a prefetch queue waits for room in a ring (R342). -/
theorem ringFreed_other (h : pageKind p ≠ some .pq) : ringFreed u p = u := by
  unfold ringFreed
  split
  · exact absurd ‹_› h
  · rfl

theorem writeRd_taken (h : pageKind p ≠ some .pq) (fawn : fawnReg p i r.rd = false)
    (fits : ringOkRd (u.rd p r.cnt i) (u.rd p r.wr i) v = true) : writeRd u p r i v = u.wr p r.rd v i := by
  simp [writeRd, fawn, fits, ringFreed_other h]

theorem writeRd_refused (fawn : fawnReg p i r.rd = false) (fits : ringOkRd (u.rd p r.cnt i) (u.rd p r.wr i) v = false) :
    writeRd u p r i v = u.prog p := by
  simp [writeRd, fawn, fits]

theorem writeCount_taken (h : pageKind p ≠ some .pq) (erl : p ≠ pgErl) (fawn : fawnReg p i r.cnt = false)
    (free : unlocked u p = true) (lo : r.lo ≤ v) (hi : v ≤ r.hi) (mult : v % r.mult = 0) (new : v ≠ u.rd p r.cnt i)
    (idle : r.idle u p i = true) :
    writeCount u p r i v = ringEmptied (((u.wr p r.cnt v i).wr p r.wr 0 i).wr p r.rd 0 i) p r.cnt := by
  have range : ¬(v < r.lo ∨ r.hi < v ∨ v % r.mult ≠ 0) := by omega
  simp only [writeCount]
  rw [if_neg (by simp [fawn, free]), if_neg range, if_neg (by simp [idle, erl]), if_neg new, ringFreed_other h]

end

/-- A fold whose steps do nothing. -/
theorem foldl_idle {α : Type} {f : State → α → State} (h : ∀ s a, f s a = s) (l : List α) (s : State) : l.foldl f s = s :=
  foldl_leaves id h l s

/-- Settles O11: each write by the equation of its ring or register. -/
theorem ringsEventsNotice : Obligations.RingsEventsNotice := by
  refine ⟨fun ini p off v i r ring own pq => ?consumer, fun ini p off v i r ring pq erl => ?count,
    fun ini p m e regs => ?events, fun part t => ?notice⟩
  case consumer =>
    have row (s : State) : exec (.consumerIndexWrite ini p off v) s =
        .next (regRow s ini p off fun u => writeRd u p r i (v % 2 ^ r.rd.w)) := by
      show execConsumerIndexWrite ini p off v s = _
      simp only [execConsumerIndexWrite, ring, own, if_true]
    refine ⟨fun fawn => writes_of row fun u _ => ?_, fun fawn => writes_of row fun u fits => writeRd_taken pq fawn fits,
      fun fawn => writes_of row fun u fits => writeRd_refused fawn fits⟩
    simp [writeRd, fawn]
  case count =>
    have row (s : State) : exec (.ringCountChange ini p off v) s =
        .next (regRow s ini p off fun u => writeCount u p r i (v % 2 ^ r.cnt.w)) := by
      show execRingCountChange ini p off v s = _
      simp only [execRingCountChange, ring]
    refine ⟨fun fawn => writes_of row fun u _ => ?_, fun fawn => writes_of row fun u h => ?_⟩
    · simp [writeCount, fawn]
    · obtain ⟨free, lo, hi, mult, new, idle⟩ := h
      exact writeCount_taken pq erl fawn free lo hi mult new idle
  case events =>
    refine writes_of (k := fun u => (List.range e.evt.w).foldl
      (fun s b => if bitOf m b && bitOf 0 b then s.event p e b else s) (u.wr p e.evt (clrMask e.evt.w (u.rd p e.evt) m)))
      (fun s => ?_) fun u _ => foldl_idle (fun s b => ?_) _ _
    · show execEvtClear ini p m 0 s = _
      simp only [execEvtClear, regs]
    · simp [bitOf]
  case notice =>
    intro s ⟨since, passed⟩
    show execNoticeHoldExpiry part s = _
    simp only [execNoticeHoldExpiry, since, if_pos passed]

end Sys2Proof.Machine
end


section
/-! PROOFS. Sensor intake: packets, frames and streams (R59 to R92). -/
namespace Sys2Proof.Machine
set_option Elab.async false
open Sys2Proof

section
variable {s : State} {p : Nat}

theorem injectNow_calm (h : calm s p = true) (bit : Nat) : injectNow s p bit = false := by
  simp only [calm, Bool.and_eq_true, beq_iff_eq] at h
  simp [injectNow, State.on, h.1, h.2]

/-- Counting in a field beside the injection register leaves the page calm. -/
theorem calm_wr {f : Fld} {v i : Nat} (ha : fldPos R.injArm 0 ≠ fldPos f i := by decide)
    (hc : fldPos R.injCont 0 ≠ fldPos f i := by decide) : calm (s.wr p f v i) p = calm s p := by
  simp only [calm, rd_wr_pos ha, rd_wr_pos hc]

/-- On a calm page what raises a flag raises it as real. -/
theorem raiseI_eq_raise (h : calm s p = true) (bit : Nat) : s.raiseI p bit false = s.raise p bit :=
  (raise_calm (injectNow_calm h bit)).symm

/-- A header that stands passes its check. -/
theorem headerCheck_ok {port : Nat} (h : calm s (pgCsi port) = true) : headerCheck s port .ok = (false, s) := by
  simp only [headerCheck, hit_calm (injectNow_calm h _)]
  rfl

/-- A header that cannot be corrected is counted and flagged (R61). -/
theorem headerCheck_bad {port : Nat} (h : calm s (pgCsi port) = true) :
    headerCheck s port .bad = (true, (s.bump (pgCsi port) R.cntEcc2).raise (pgCsi port) 9) := by
  have counted : calm (s.bump (pgCsi port) R.cntEcc2) (pgCsi port) = true := (calm_wr).trans h
  simp only [headerCheck, hit_calm (injectNow_calm h _), ← raiseI_eq_raise counted]
  rfl

end

section
variable {s : State} {port : Nat}

/-- What the packets of a port do once they find it working (R37). -/
theorem port_serves (hp : port < 12) (working : s.working (pgCsi port) = true) :
    ¬(¬port < 12 ∨ s.working (pgCsi port) = false) := by
  simp [hp, working]

theorem port_ignores (idle : s.working (pgCsi port) = false) : ¬port < 12 ∨ s.working (pgCsi port) = false := .inr idle

end

/-- Settles O12: a calm port's header checks leave the state, so each packet does what its stream does. -/
theorem csiPackets : Obligations.CsiPackets := by
  refine ⟨fun port vc fn n dt k crcBad ovf px hp => ⟨?start, ?unmatched, ?ends, ?long, ?lost, ?sot⟩,
    fun port vc fn n dt h crcBad ovf px s idle => ?idle⟩
  case start =>
    intro s ⟨working, quiet, route⟩
    show execFrameStart port vc fn n .ok s = _
    simp only [execFrameStart, if_neg (port_serves hp working), headerCheck_ok quiet, route]
    rfl
  case unmatched =>
    intro s ⟨working, quiet, route⟩
    show execFrameStart port vc fn n .ok s = _
    simp only [execFrameStart, if_neg (port_serves hp working), headerCheck_ok quiet, route]
    rfl
  case ends =>
    intro s ⟨working, quiet, route⟩
    show execFrameEnd port vc .ok s = _
    simp only [execFrameEnd, if_neg (port_serves hp working), headerCheck_ok quiet, route]
    rfl
  case long =>
    intro s ⟨working, quiet⟩
    show execLongPacket port vc dt .ok crcBad ovf px s = _
    simp only [execLongPacket, if_neg (port_serves hp working), headerCheck_ok quiet]
    rfl
  case lost =>
    intro s ⟨working, quiet, route⟩
    show execLongPacket port vc dt .bad crcBad ovf px s = _
    simp only [execLongPacket, if_neg (port_serves hp working), headerCheck_bad quiet, route]
    rfl
  case sot =>
    intro s ⟨working, quiet⟩
    have counted : calm (s.bump (pgCsi port) R.cntSot) (pgCsi port) = true := (calm_wr).trans quiet
    show execSotError port s = _
    simp only [execSotError, if_neg (port_serves hp working), hit_calm (injectNow_calm quiet _), raiseI_eq_raise counted]
  case idle =>
    have ignored := port_ignores idle
    refine ⟨congrArg Host.Outcome.next (if_pos ignored), congrArg Host.Outcome.next (if_pos ignored),
      congrArg Host.Outcome.next (if_pos ignored), congrArg Host.Outcome.next (if_pos ignored),
      congrArg Host.Outcome.next (if_neg ?_)⟩
    simp [idle]

/-! ### Streams -/

/-- The test block that has landed, or could not, is no longer being written (R79). -/
theorem testBlock_landed {k : Nat} {s : State} {f : Frm} (writing : (s.intake k).closed.find? (fun x => x.tb == 1) = some f) :
    ∃ t, exec (.testBlockWriteDone k) s = .next t ∧ ∀ x ∈ (t.intake k).closed, x.tb ≠ 1 := by
  show ∃ t, execTestBlockWriteDone k s = .next t ∧ _
  simp only [execTestBlockWriteDone, writing]
  refine ⟨_, rfl, fun x hx => ?_⟩
  simp only [State.intake, State.putIntake, sget_sset_same, List.mem_map] at hx
  obtain ⟨y, -, rfl⟩ := hx
  split
  · dsimp only
    split <;> decide
  · assumption

/-- The lost stream before its record: its state, its flag and its count (R74). -/
def streamLost (s : State) (k : Nat) : State := ((s.wr (pgCtx k) R.stream 3).raise (pgCtx k) 9).bump (pgCtx k) R.lossCnt

theorem streamLost_rd (s : State) (k : Nat) :
    (streamLost s k).rd (pgCtx k) R.stream = 3 ∧ bitOf ((streamLost s k).rd (pgCtx k) R.pageErr) 9 = true ∧
      (streamLost s k).rd (pgCtx k) R.lossCnt = (s.rd (pgCtx k) R.lossCnt + 1) % 2 ^ 32 := by
  have raised := flags_raise (s.wr (pgCtx k) R.stream 3) (pgCtx k) 9
  refine ⟨?_, ?_, ?_⟩
  · rw [streamLost, State.bump, rd_wr_pos (by decide), raised.rd, State.rd_wr_same]
    rfl
  · rw [streamLost, State.bump, rd_wr_pos (by decide)]
    exact bitOf_pageErr_raise _ _ (by decide)
  · rw [streamLost, State.bump, State.rd_wr_same, raised.rd, rd_wr_pos (by decide)]
    rfl

theorem pgCtx_ne_pgErl (k : Nat) : pgCtx k ≠ pgErl := by unfold pgCtx pgErl; omega

/-- The record and the doubt that follow leave what the stream shows (R74, R484). -/
theorem lost_reported (s : State) (k : Nat) (i : Intake) (r : LogRec) (sc : State → Scope) :
    let v := ((streamLost s k).putIntake k i).logI 0 r
    let t := v.2.doubt (sc v.2) v.1 true
    t.rd (pgCtx k) R.stream = 3 ∧ bitOf (t.rd (pgCtx k) R.pageErr) 9 = true ∧
      t.rd (pgCtx k) R.lossCnt = (s.rd (pgCtx k) R.lossCnt + 1) % 2 ^ 32 ∧ t.doubtQ.length = s.doubtQ.length + 1 ∧
      t.logQ.length = s.logQ.length + 1 ∧ MemSame s t := by
  intro v t
  have raised := flags_raise (s.wr (pgCtx k) R.stream 3) (pgCtx k) 9
  have quiet : Quiet s t := ((((quiet_wr ..).trans (quiet_raise ..)).trans (quiet_bump ..)).trans
    (Quiet.trans (.same (t := (streamLost s k).putIntake k i)) (quiet_logI ..))).trans (quiet_doubt ..)
  have fields {f : Fld} (hf : fldPos f 0 < 1048576) : t.rd (pgCtx k) f = (streamLost s k).rd (pgCtx k) f :=
    logI_rd ((streamLost s k).putIntake k i) 0 r (pgCtx_ne_pgErl k) hf
  obtain ⟨stream, flag, count⟩ := streamLost_rd s k
  refine ⟨(fields (by decide)).trans stream, by rw [fields (by decide)]; exact flag, (fields (by decide)).trans count, ?_, ?_,
    quiet.memSame⟩
  · have doubts : v.2.doubtQ = s.doubtQ := (logI_doubtQ ..).trans (raised.part State.doubtQ)
    show (v.2.doubtQ ++ [_]).length = _
    simp [doubts]
  · have records : v.2.logQ.length = (streamLost s k).logQ.length + 1 := logI_logQ_length ..
    exact records.trans (congrArg (·.length + 1) (raised.part State.logQ))

/-- Settles O13: each clause by the branch of its command; the record and the doubt of a lost stream come last. -/
theorem streamEvents : Obligations.StreamEvents := by
  refine ⟨fun k f rest => ⟨?published, fun s => testBlock_landed⟩, fun k hk => ?lost, fun ini k hk => ?written, fun port lane enter hp => ?lanes⟩
  case published =>
    intro s ⟨closed, landed⟩
    show execSlotPublish k s = _
    simp only [execSlotPublish, closed, if_neg landed]
  case lost =>
    intro s ⟨running, armed, stays, silent⟩
    have live : ¬(¬k < 48 ∨ s.rd (pgCtx k) R.stream ≠ 2 ∨ (s.intake k).pendOff = true ∨ s.rd (pgCtx k) R.lossTimeout = 0 ∨
        s.time < (s.intake k).lastWr + 1000 * s.rd (pgCtx k) R.lossTimeout) := by
      simp [hk, running, armed, stays, silent]
    exact ⟨_, congrArg Host.Outcome.next (if_neg live), lost_reported s k { s.intake k with afterLoss := true } _
      fun v => .frame k (sget 0 (sget [] v.encHist k) (s.intake k).lastCnt) (v.rd pgLio R.encCnt (v.rd (pgCtx k) R.encSel))⟩
  case written =>
    have reaches {α : Type} {a b : α} : (if ¬k < 48 then a else b) = b := if_neg (not_not.2 hk)
    refine ⟨writes_of (fun _ => congrArg Host.Outcome.next reaches) fun u h => ?_,
      writes_of (fun _ => congrArg Host.Outcome.next reaches) fun u h => ?_,
      writes_of (fun _ => congrArg Host.Outcome.next reaches) fun u h => ?_,
      writes_of (fun _ => congrArg Host.Outcome.next reaches) fun u h => ?_,
      writes_of (fun _ => congrArg Host.Outcome.next reaches) fun u h => ?_,
      writes_of (fun _ => congrArg Host.Outcome.next reaches) fun u h => ?_⟩
    · simp [h.1, h.2]
    · simp [h.1, h.2]
    · simp [h.1, h.2]
    · obtain ⟨f, cur⟩ := Option.ne_none_iff_exists'.1 h.2
      simp [h.1, cur]
    · exact if_neg (by rw [rd_wr_pos (by decide)]; exact h)
    · exact if_pos (by rw [rd_wr_pos (by decide)]; exact h)
  case lanes =>
    refine ⟨fun s lane4 => ?_, fun s _ => ?_, fun s working => ?_⟩
    · show execUlps port lane enter s = _
      simp [execUlps, hp, lane4]
    · show execUlps port 4 enter s = _
      simp [execUlps, hp]
    · exact congrArg Host.Outcome.next (if_pos ⟨hp, working⟩)

end Sys2Proof.Machine
end


section
/-! PROOFS. I3C controllers, UARTs, pins, encoders, timing generators and PWMs (R448 to R454, R458, R459). -/
namespace Sys2Proof
set_option Elab.async false
open Sys2Proof.Machine

section
variable {s t u : State}

theorem OnlyRegs.trans (h : OnlyRegs s t) (k : OnlyRegs t u) : OnlyRegs s u := by
  unfold OnlyRegs at *
  rw [k, h]

/-- Where only registers differ, any other part of the state is as before. -/
theorem OnlyRegs.part {α : Type} (h : OnlyRegs s t) (g : State → α) (hg : g { s with regs := t.regs } = g s := by rfl) :
    g t = g s :=
  (congrArg g h).trans hg

end

end Sys2Proof

namespace Sys2Proof.Machine
set_option Elab.async false
open Sys2Proof

theorem onlyRegs_settle (s : State) (p : Nat) (busy : Bool) : OnlyRegs s (s.settle p busy) := by
  unfold State.settle
  split
  · exact (OnlyRegs.refl s).wr
  · split
    · exact (OnlyRegs.refl s).wr
    · exact .refl s

/-- The guard of a command whose unit number is below the number of units is passed. -/
theorem if_unit {α : Type} {i n : Nat} {a b : α} (h : i < n) : (if n ≤ i then a else b) = b := if_neg (Nat.not_le.2 h)

/-- Settles O15: each row finds its controller and its queue as the statement says. -/
theorem i3cControllers : Obligations.I3cControllers := by
  refine ⟨fun ini i v a data hi => ⟨fun hv => ?room, fun hv => ?full, ?tx, ?tx4, ?halt, ?start, fun c r => ⟨?done, ?nack⟩,
    fun ha h2 hd => ⟨?ibi, ?ibiFull⟩⟩, fun ini i b r hi => ?pops⟩
  case room => exact writes_of (fun _ => congrArg Host.Outcome.next (if_neg (by omega))) fun u h => if_neg (by omega)
  case full => exact writes_of (fun _ => congrArg Host.Outcome.next (if_neg (by omega))) fun u h => if_pos h
  case tx => exact writes_of (fun _ => congrArg Host.Outcome.next (if_unit hi)) fun u room => if_neg (Nat.not_lt.2 room)
  case tx4 => exact writes_of (fun _ => congrArg Host.Outcome.next (if_unit hi)) fun u room => if_neg (Nat.not_lt.2 room)
  case halt => exact writes_of (fun _ => congrArg Host.Outcome.next (if_unit hi)) fun u _ => rfl
  case start =>
    intro s ⟨c, r, cmds, idle, running, working, awake, room, fits⟩
    show execCmdStart i s = _
    have fits : (if cmdReads c then decide (cmdLen c + (s.i3c i).rx.length ≤ 256) else decide (cmdLen c ≤ (s.i3c i).tx.length))
        = true := by
      split <;> simpa [*] using fits
    simp [execCmdStart, cmds, idle, running, working, awake, fits, hi, room]
  case done =>
    intro s ⟨cmds, run⟩
    have here : ¬(12 ≤ i ∨ (s.i3c i).run = false ∨ 5 ≤ 0 ∨ (0 = 2 ∧ cmdReads c = false)) := by simp [hi, run]
    have queues {w : State} : (((w.perf (pgI3c i) 0x04).settle (pgI3c i) false).i3c i) = w.i3c i :=
      ((onlyRegs_settle ..).part fun v => v.i3c i).trans ((flags_perf ..).part fun v => v.i3c i)
    show ∃ t, execCmdDone i 0 data s = .next t ∧ _
    simp only [execCmdDone, cmds, if_neg here]
    simp only [Nat.zero_ne_one, false_and, if_false, if_true, OfNat.zero_ne_ofNat]
    refine ⟨_, rfl, ?_⟩
    rw [queues, State.i3c, State.putI3c, sget_sset_same]
    exact ⟨rfl, rfl, rfl, rfl, rfl⟩
  case nack =>
    intro s ⟨cmds, run, first⟩
    have here : ¬(12 ≤ i ∨ (s.i3c i).run = false ∨ 5 ≤ 1 ∨ (1 = 2 ∧ cmdReads c = false)) := by simp [hi, run]
    show execCmdDone i 1 data s = _
    simp only [execCmdDone, cmds, if_neg here, first, and_self, if_true]
  case ibi =>
    intro s ⟨working, mode, awake, room⟩
    have here : ¬(12 ≤ i ∨ s.working (pgI3c i) = false ∨ s.rd (pgI3c i) R.i3cMode ≠ 0 ∨ a = 2 ∨ 128 ≤ a ∨ 4 < data.length ∨
        Machine.awake s = false) := by simp [working, mode, awake, hi, ha, h2, hd]
    show execIbiArrival i a data s = _
    simp only [execIbiArrival, if_neg here, if_neg (Nat.not_le.2 room)]
  case ibiFull =>
    intro s ⟨working, mode, awake, full⟩
    have here : ¬(12 ≤ i ∨ s.working (pgI3c i) = false ∨ s.rd (pgI3c i) R.i3cMode ≠ 0 ∨ a = 2 ∨ 128 ≤ a ∨ 4 < data.length ∨
        Machine.awake s = false) := by simp [working, mode, awake, hi, ha, h2, hd]
    show execIbiArrival i a data s = _
    simp only [execIbiArrival, if_neg here, if_pos full]
  case pops =>
    have reaches {α : Type} {x y : α} : (if 12 ≤ i then x else y) = y := if_unit hi
    refine ⟨pops_of (fun _ => congrArg Host.Outcome.next reaches) fun u h => ?_,
      pops_of (fun _ => congrArg Host.Outcome.next reaches) fun u h => ?_,
      pops_of (fun _ => congrArg Host.Outcome.next reaches) fun u h => ?_,
      pops_of (fun _ => congrArg Host.Outcome.next reaches) fun u h => ?_,
      pops_of (fun _ => congrArg Host.Outcome.next reaches) fun u h => ?_,
      fun d q => pops_of (fun _ => congrArg Host.Outcome.next reaches) fun u h => ?_⟩
    all_goals simp only [h]
    simp only [List.getD_eq_getElem?_getD]


/-- What a check finds for real is raised, be it an injected fault that finds it (R42). -/
theorem found_true (s : State) (p bit : Nat) : (s.found p bit true).2 = s.raise p bit := by
  cases inj : injectNow s p bit <;> simp only [State.found, State.hit, State.raise, inj] <;> rfl

/-- Settles O17: a byte goes where the line and the FIFO let it. -/
theorem uarts : Obligations.Uarts := by
  intro ini n v b r hn
  have reaches {α : Type} {x y : α} : (if 2 ≤ n then x else y) = y := if_unit hn
  refine ⟨writes_of (fun _ => congrArg Host.Outcome.next reaches) fun u h => ?idle,
    writes_of (fun _ => congrArg Host.Outcome.next reaches) fun u h => ?room,
    writes_of (fun _ => congrArg Host.Outcome.next reaches) fun u h => ?full,
    pops_of (fun _ => congrArg Host.Outcome.next reaches) fun u h => ?oldest,
    pops_of (fun _ => congrArg Host.Outcome.next reaches) fun u h => ?empty, ?received, ?overrun, ?sent⟩
  case idle =>
    obtain ⟨enabled, idle⟩ := h
    simp [enabled, idle]
  case room =>
    obtain ⟨enabled, busy, room⟩ := h
    simp [enabled, busy, Nat.not_le.2 room]
  case full =>
    obtain ⟨enabled, busy, full⟩ := h
    simp [enabled, busy, full]
  case oldest | empty => simp only [h]
  case received =>
    intro s ⟨enabled, pin, awake, room, quiet⟩
    have here : ¬(2 ≤ n ∨ s.on pgLio R.uartEn n = false ∨ (serving s 9 n).isNone ∨ Machine.awake s = false) := by
      simp [hn, enabled, Option.isSome_iff_ne_none.1 pin, awake]
    have quiet' (x : Uart) : injectNow (s.putUart n x) pgLio 10 = false := quiet
    show execUartByteReceived n v false false s = _
    simp only [execUartByteReceived, if_neg here]
    simp [Nat.not_le.2 room, State.found, hit_calm (quiet' _), b2n]
  case overrun =>
    intro s ⟨enabled, pin, awake, full⟩
    have here : ¬(2 ≤ n ∨ s.on pgLio R.uartEn n = false ∨ (serving s 9 n).isNone ∨ Machine.awake s = false) := by
      simp [hn, enabled, Option.isSome_iff_ne_none.1 pin, awake]
    show execUartByteReceived n v false false s = _
    simp only [execUartByteReceived, if_neg here]
    simp [full, found_true]
  case sent =>
    intro s sending
    show ∃ t, execUartByteSent n s = .next t ∧ _
    simp only [execUartByteSent, sending]
    cases waiting : (s.uart n).tx with
    | nil => exact ⟨_, rfl, rfl, by simp [State.uart, State.putUart, sget_sset_same], by simp [State.uart, State.putUart, sget_sset_same]⟩
    | cons c l => exact ⟨_, rfl, rfl, by simp [State.uart, State.putUart, sget_sset_same], by simp [State.uart, State.putUart, sget_sset_same]⟩

/-- Settles O16: each row by the branch of its pin, encoder, generator or PWM. -/
theorem lineIo : Obligations.LineIo := by
  refine ⟨⟨fun ini p v hp => ⟨?cfg, ?busy⟩, fun p x t hp => ⟨?switched, ?accept⟩, fun e a b p q oa ob na nb he => ⟨?edge, ?illegal⟩⟩,
    fun ini t v ht hv => ⟨?period, ?phase, ?mode, ?badMode⟩, fun t w g ht => ⟨?fires, ?drops, ?late, fun r => ?strobe, ?trig, ?strobeEnd⟩,
    fun k t hk => ⟨?cycle, ?one, ?fall⟩⟩
  case cfg =>
    refine writeBrings_of (fun _ => congrArg Host.Outcome.next (if_unit hp)) fun u h => ?_
    obtain ⟨free, still, known, fits, other⟩ := h
    have good : ¬((u.pin p).sw.isSome = true ∨ 10 < bitsOf v 3 0 ∨ unitsFor (bitsOf v 3 0) ≤ bitsOf v 6 4) := by
      simp [still, known, fits]
    have differs : (bitsOf v 3 0 == pinFn u p) = false := by simpa using other
    have started (q : Prop) [Decidable q] : (if q then u.prog pgLio else u).time = u.time :=
      (Flags.ite (flags_prog u pgLio) (.refl u)).part State.time
    simp only [free, if_true, if_neg good, differs, Bool.false_and, Bool.false_eq_true, if_false]
    refine ⟨?_, ?_, ?_⟩
    · show State.rd (State.wr _ _ _ _ _) _ _ _ = _
      iterate 4 rw [rd_wr_pos (by simp [fldPos, R.pinFunc, R.pinFilt, R.pinInv, R.pinOd, R.pinUnit])]
      rw [State.rd_wr_same]
      exact Nat.mod_eq_of_lt (bitsOf_lt v 3 0)
    · show State.rd (State.wr _ _ _ _ _) _ _ _ = _
      iterate 3 rw [rd_wr_pos (by simp [fldPos, R.pinFilt, R.pinInv, R.pinOd, R.pinUnit])]
      rw [State.rd_wr_same]
      exact Nat.mod_eq_of_lt (bitsOf_lt v 6 4)
    · simp only [State.pin, State.putPin, sget_sset_same]
      exact congrArg (fun t => some (t + 6)) (started _)
  case busy =>
    refine writes_of (fun _ => congrArg Host.Outcome.next (if_unit hp)) fun u h => ?_
    exact if_pos (.inl (Option.isSome_iff_ne_none.2 h))
  case switched =>
    intro s ⟨switching, over'⟩
    show execPinSwitchEnd p x s = _
    simp [execPinSwitchEnd, switching, Nat.not_le.2 hp, Nat.not_lt.2 over']
  case accept =>
    intro s ⟨still, input, on, fresh⟩
    have here : ¬(24 ≤ p ∨ (s.pin p).sw.isSome = true ∨ isInput (pinFn s p) = false ∨ 2 ≤ s.rst.ph) := by
      simp [still, input, on, hp]
    show execInputAccept p x s = _
    simp only [execInputAccept, if_neg here]
    obtain new | off := fresh
    · simp only [new]
    · simp only [off]
      split
      · contradiction
      · rfl
  case edge =>
    intro s ⟨a', b', la, lb, na', nb', on, differs, same⟩
    show execEncoderEdge e a b s = _
    simp [execEncoderEdge, a', b', la, lb, na', nb', Nat.not_le.2 he, Nat.not_le.2 on, differs, same]
  case illegal =>
    intro s ⟨a', b', la, lb, na', nb', on, differs, differs'⟩
    show execEncoderEdge e a b s = _
    simp [execEncoderEdge, a', b', la, lb, na', nb', Nat.not_le.2 he, Nat.not_le.2 on, differs, differs']
  case period => 
    exact writes_of (fun _ => congrArg Host.Outcome.next (if_neg (by simp; omega))) fun u h => by simp
  case phase => 
    exact writes_of (fun _ => congrArg Host.Outcome.next (if_neg (by simp; omega))) fun u h => by simp
  case mode => 
    exact writes_of (fun _ => congrArg Host.Outcome.next (if_neg (by simp; omega))) fun u h => by simp [h]
  case badMode => 
    exact writes_of (fun _ => congrArg Host.Outcome.next (if_neg (by simp; omega))) fun u h => by simp [h]
  case fires =>
    intro s ⟨on, up, due, free, first⟩
    show execTrigger t s = _
    simp [execTrigger, Nat.not_le.2 ht, on, up, due, free, first]
    rfl
  case drops =>
    intro s ⟨on, up, due, waits⟩
    show execTrigger t s = _
    simp [execTrigger, Nat.not_le.2 ht, on, up, due, Option.isSome_iff_ne_none.2 waits]
  case late =>
    intro s ⟨waits, over'⟩
    show execTriggerLate t s = _
    simp [execTriggerLate, waits, Nat.not_le.2 ht, Nat.not_lt.2 over']
  case strobe =>
    intro s ⟨strobes, over'⟩
    show execStrobeStart t s = _
    simp [execStrobeStart, strobes, Nat.not_le.2 ht, Nat.not_lt.2 over']
  case trig | strobeEnd =>
    intro s ⟨waits, over'⟩
    show execPulseEnd t _ s = _
    simp [execPulseEnd, waits, Nat.not_le.2 ht, Nat.not_lt.2 over']
  case cycle =>
    intro s ⟨next, over', per, high, some'⟩
    show execPwmPeriodStart k s = _
    simp only [execPwmPeriodStart, next]
    rw [if_neg (by omega), if_neg (by omega), if_neg (by omega), if_neg (by omega)]
  case one =>
    intro s ⟨next, over', per⟩
    show execPwmPeriodStart k s = _
    simp [execPwmPeriodStart, next, per, Nat.not_le.2 hk, Nat.not_lt.2 over']
  case fall =>
    intro s ⟨fall, over'⟩
    show execPwmHighEnd k s = _
    simp [execPwmHighEnd, fall, Nat.not_le.2 hk, Nat.not_lt.2 over']

end Sys2Proof.Machine
end

section
/-! PROOFS. What a register write makes of the fields of a word (R8, R39, R640). -/
namespace Sys2Proof.Machine
set_option Elab.async false
open Sys2Proof

/-! ### One field -/

section
variable {u : State} {ini : Ini} {p i v word : Nat} {f : Fld}

theorem writeField_ignored (h : f.own = true ∨ fawnReg p i f = true) : writeField u ini p f i v word = u := by
  simp [writeField, h]

theorem writeField_ro (h : f.acc = .ro) : writeField u ini p f i v word = u := by
  simp [writeField, h]

theorem writeField_w1c (own : f.own = false) (fawn : fawnReg p i f = false) (acc : f.acc = .w1c) (off : f.off ≠ 0x018) :
    writeField u ini p f i v word = u.wr p f (clrMask f.w (u.rd p f i) v) i := by
  simp [writeField, own, fawn, acc, off]

theorem writeField_locked (own : f.own = false) (fawn : fawnReg p i f = false) (acc : f.acc = .rwl)
    (locked : u.rd p R.lock ≠ 0) : writeField u ini p f i v word = u := by
  simp [writeField, own, fawn, acc, unlocked, locked]

/-- A plain RW field takes a value that its description allows, and another sets PROG (R640). -/
theorem writeField_rw (own : f.own = false) (fawn : fawnReg p i f = false) (acc : f.acc = .rw) (guard : f.guard = .free)
    (hook : f.hook = .none) (p0 : f.p0 = false) (page : p < 0x100) :
    writeField u ini p f i v word =
      let x := if f.off = 0x018 then Nat.land v (errMask p) else v
      if okVal f.ok x = true ∧ f.off < 0x080 then u.wr p f x i
      else if (u.found p eProg (!okVal f.ok x)).1 = true then (u.found p eProg (!okVal f.ok x)).2
      else ((u.found p eProg (!okVal f.ok x)).2).wr p f x i := by
  have low : ¬0x100 ≤ p := Nat.not_le.2 page
  have shared : guardOk u ini p i (if f.off = 0x018 then Nat.land v (errMask p) else v) word f = true := by
    simp [guardOk, guard]
  unfold writeField
  simp only [own, fawn, acc, low, p0, shared, guard, Bool.false_eq_true, or_self, if_false, reduceCtorEq, false_and, and_false,
    Bool.false_and, Bool.false_or, Bool.not_true, Bool.or_false, or_false]
  cases ok : okVal f.ok (if f.off = 0x018 then Nat.land v (errMask p) else v)
  · by_cases bad : (u.found p eProg true).1 = true <;> simp [bad, fieldHook, hook]
  · by_cases below : f.off < 0x080
    · simp [below, fieldHook, hook]
    · by_cases bad : (u.found p eProg false).1 = true <;> simp [below, bad, fieldHook, hook]

end

/-! ### One word -/

theorem ite_ne {α : Type} {q : Prop} [Decidable q] {a b c : α} (ha : a ≠ c) (hb : b ≠ c) : (if q then a else b) ≠ c := by
  split
  · exact ha
  · exact hb

theorem pageKind_low {p : Nat} (page : p < 0x100) : pageKind p ≠ some .ch ∧ pageKind p ≠ some .pq := by
  simp only [pageKind, page, if_true]
  constructor
  all_goals
    repeat' apply ite_ne
    all_goals simp only [ne_eq, reduceCtorEq, Option.some.injEq, not_false_eq_true]

theorem writeAfter_low {p : Nat} (page : p < 0x100) (u : State) (off : Nat) : writeAfter u p off = u := by
  obtain ⟨ch, pq⟩ := pageKind_low page
  unfold writeAfter
  split
  · contradiction
  · contradiction
  · rfl

theorem foldl_writeField_ro (u : State) (ini : Ini) (p v : Nat) {l : List (Fld × Nat)} (h : ∀ x ∈ l, x.1.acc = .ro) :
    (l.filter fun x => !x.1.q).foldl (fun s x => writeField s ini p x.1 x.2 (partOf x.1 x.2 v) v) u = u := by
  induction l with
  | nil => rfl
  | cons x l ih =>
    have rest := ih fun y hy => h y (List.mem_cons_of_mem _ hy)
    rw [List.filter_cons]
    split
    · rw [List.foldl_cons, writeField_ro (h x List.mem_cons_self), rest]
    · exact rest

section
variable {u : State} {ini : Ini} {p off i v : Nat} {f : Fld}

/-- A word whose other fields are read-only writes the one field. -/
theorem writeWord_one {l : List (Fld × Nat)} (page : p < 0x100) (inj : off ≠ 0x020) (hole : staHole p off = false)
    (q : f.q = false) (fields : wordFields u p off = l ++ [(f, i)]) (ro : ∀ x ∈ l, x.1.acc = .ro) :
    writeWord u ini p off v = writeField u ini p f i (partOf f i v) v := by
  have pace : paceBad p off v = false := by simp [paceBad, (pageKind_low page).1]
  have narrow : heldQuad u p off = none := by
    rw [heldQuad, fields, Option.map_eq_none_iff, List.find?_eq_none]
    intro x hx
    obtain mem | rfl := List.mem_append.1 hx |>.imp_right List.mem_singleton.1
    · simp [heldField, ro x mem]
    · simp [heldField, q]
  simp only [writeWord, inj, false_and, if_false, fields, hole, pace, narrow, writeAfter_low page, Bool.false_eq_true,
    List.filter_append, List.foldl_append, foldl_writeField_ro u ini p v ro]
  simp [q]

end

/-- No field that a write of 1 clears stands at the mask of PAGE_ERR. -/
theorem w1c_off {k : PageKind} : ∀ f ∈ fieldsOf k, f.acc = .w1c → f.off ≠ 0x018 := by
  cases k <;> decide

theorem mem_fieldsOf {u : State} {p off i : Nat} {f : Fld} (h : (f, i) ∈ wordFields u p off) : ∃ k, f ∈ fieldsOf k := by
  unfold wordFields at h
  split at h
  · cases h
  · simp only [List.mem_flatMap, List.mem_map] at h
    obtain ⟨g, hg, j, -, same⟩ := h
    cases same
    exact ⟨_, hg⟩

/-- Settles O18: the word writes its one field, and the field goes by its access code. -/
theorem registerWrites : Obligations.RegisterWrites := by
  intro ini p off v i f al hoff inj page hv
  have row (s : State) : exec (.registerWrite ini p off v false) s = .next (regRow s ini p off fun u => writeWord u ini p off v) := by
    show execRegisterWrite ini p off v false s = _
    rw [execRegisterWrite, if_neg (by simp [al, hoff]), if_neg (by simp), Nat.mod_eq_of_lt hv]
  have one {u : State} (hole : staHole p off = false) (q : f.q = false) (fields : wordFields u p off = [(f, i)]) :=
    writeWord_one (v := v) (ini := ini) (l := []) page inj hole q fields (by simp)
  refine ⟨writes_of row fun u h => ?empty, fun hole => writes_of row fun u h => ?hole,
    fun hole q fawn => writes_of row fun u h => (one hole q h).trans (writeField_ignored (.inr fawn)),
    fun hole q own fawn => ⟨fun acc guard hook p0 => ⟨fun ok off' => writes_of row fun u h => ?stored,
      fun off' => writes_of row fun u h => ?injected, fun ok off' => writes_of row fun u h => ?mask,
      fun bad off' => writes_of row fun u h => ?refused⟩,
    fun acc => writes_of row fun u h => (one hole q h).trans (writeField_ro acc),
    fun acc l ro => writes_of row fun u h => ?cleared,
    fun acc => writes_of row fun u h => (one hole q h.1).trans (writeField_locked own fawn acc h.2)⟩⟩
  case empty => simp [writeWord, inj, h]
  case hole => simp [writeWord, inj, h, hole]
  case stored =>
    obtain ⟨fields, quiet⟩ := h
    rw [one hole q fields, writeField_rw own fawn acc guard hook p0 page]
    simp [off', ok, State.found, hit_calm quiet]
  case injected =>
    obtain ⟨fields, armed⟩ := h
    rw [one hole q fields, writeField_rw own fawn acc guard hook p0 page]
    simp [Nat.not_lt.2 off', State.found, State.hit, armed, State.prog, State.raise]
  case mask =>
    rw [one hole q h, writeField_rw own fawn acc guard hook p0 page]
    simp only [off', if_true]
    exact if_pos ⟨ok, by decide⟩
  case refused =>
    have real : (u.found p eProg true).1 = true := by simp only [State.found, State.hit]; split <;> rfl
    rw [one hole q h, writeField_rw own fawn acc guard hook p0 page]
    simp [off', bad, real, found_true, State.prog]
  case cleared =>
    obtain ⟨k, hk⟩ := mem_fieldsOf (h.symm ▸ List.mem_append_right l (List.mem_singleton.2 rfl))
    rw [writeWord_one page inj hole q h ro, writeField_w1c own fawn acc (w1c_off f hk acc)]

end Sys2Proof.Machine
end

section
/-! PROOFS. 64-bit registers and register reads (R39, R54, R55), malformed accesses and accesses through BAR2 (R53, R357, R377, R409). -/
namespace Sys2Proof.Machine
set_option Elab.async false
open Sys2Proof

/-! ### What a host access finds -/

/-- Only registers and the power state may differ. -/
def Woken (s t : State) : Prop := t = { s with regs := t.regs, pw := t.pw }

section
variable {s t : State} (h : Woken s t)
include h

theorem Woken.wr (p : Nat) (f : Fld) (v i : Nat) : Woken s (t.wr p f v i) := by
  unfold Woken at *
  rw [h]
  rfl

theorem Woken.pw (w : Power) : Woken s { t with pw := w } := by
  unfold Woken at *
  rw [h]

theorem Woken.ite {q : Prop} [Decidable q] {u : State} (k : Woken s u) : Woken s (if q then t else u) := by
  split
  · exact h
  · exact k

end

theorem woken_wakeUp (s : State) (src : Nat) : Woken s (wakeUp s src) := by
  have counted : Woken s ((s.wr pgPwr R.wakeCause (src + 1)).bump pgPwr R.wakeCnt) :=
    (Woken.wr (t := s) rfl ..).wr ..
  exact (counted.pw _).ite (((counted.wr ..).wr ..).pw _)

/-- A host access that wakes the device changes only registers and the power state (R585). -/
theorem woken_hostWake (s : State) (ini : Ini) : Woken s (hostWake s ini) := by
  unfold hostWake
  split
  · split
    · exact woken_wakeUp s 1
    · exact rfl
  · exact rfl

/-- Any other part of the state is as before. -/
theorem hostWake_part {α : Type} (s : State) (ini : Ini) (g : State → α)
    (hg : g { s with regs := (hostWake s ini).regs, pw := (hostWake s ini).pw } = g s := by rfl) : g (hostWake s ini) = g s :=
  (congrArg g (woken_hostWake s ini)).trans hg

/-- A read that reaches its page answers what its own effect answers. -/
theorem readRow_readable {s : State} {ini : Ini} {p off : Nat} (h : Readable s ini p) (k : State → Nat × State) :
    readRow s ini p off k = { (k (hostWake s ini)).2 with reply := ⟨(k (hostWake s ini)).1, 0⟩ } := by
  obtain ⟨bus, page, may⟩ := h
  simp [readRow, bus, page, may]

/-! ### Snapshots -/

/-- The snapshot that was just taken of one register names its value. -/
theorem snapVal_takeSnap {s : State} {ini : Ini} {p lo : Nat} (h : lo ≠ 0x0E8) :
    snapVal (takeSnap s ini p lo) ini p lo = some (regVal s ini p lo) := by
  have gone : ((s.snaps.filter fun x => !(x.page == p && x.ini == ini)).find? fun x => x.page == p && x.ini == ini) = none := by
    rw [List.find?_eq_none]
    intro x hx
    simpa [imp_iff_not_or] using (List.mem_filter.1 hx).2
  simp only [snapVal, takeSnap, dropSnap, captured, h, false_and, if_false, List.find?_append, gone, Option.none_or]
  simp

section
variable {s : State} {ini : Ini} {p off lo v : Nat} (some' : wordFields s p off ≠ []) (shut : tcmShut s p off = false)
include some' shut

theorem readWord_narrow (narrow : quadOf s p off = none) (fresh : snapVal s ini p off = none) :
    readWord s ini p off = (wordVal s ini p off, s) := by
  simp [readWord, some', shut, narrow, fresh]

theorem readWord_low (wide : quadOf s p off = some off) (own : off ≠ 0x0E8) (fresh : snapVal s ini p 0x0E8 = none) :
    readWord s ini p off = (regVal s ini p off % 2 ^ 32, takeSnap s ini p off) := by
  simp [readWord, some', shut, wide, fresh, snapVal_takeSnap own]

theorem readWord_high (wide : quadOf s p off = some lo) (high : lo ≠ off) :
    readWord s ini p off = ((snapVal s ini p lo).getD (regVal s ini p lo) / 2 ^ 32, s) := by
  simp [readWord, some', shut, wide, high]

end

/-- Settles O19: the held half and the snapshot are what a write of HI and a read of the high half find. -/
theorem wideRegistersAndReads : Obligations.WideRegistersAndReads := by
  refine ⟨fun ini p lo v s al fits => ⟨fun reached held hole => ⟨?hold, fun al8 => ?quad⟩, fun reached held hole =>
    ⟨fun h found => ?commit, fun none' => ?dropped⟩⟩, fun ini p off lo v s al fits pop readable => ?reads⟩
  case hold =>
    show execWriteLoHold ini p lo v s = _
    rw [execWriteLoHold, if_neg (by simp [al, held]), regRow_reached reached, if_neg (by simp [hole])]
  case quad =>
    show execRegisterWrite ini p lo v true s = _
    rw [execRegisterWrite, if_neg (by simp only [not_or]; omega), if_pos rfl, held]
    simp only [if_true, regRow_reached reached]
  case commit =>
    show execWriteHiCommit ini p (lo + 4) v s = _
    rw [execWriteHiCommit, held]
    simp only [and_true]
    rw [if_pos (by omega), regRow_reached reached, if_neg (by simp [hole]), writeHi, found]
  case dropped =>
    have gone : (admitted s ini).holds.find? (fun h => h.page == p && h.ini == ini && h.off == lo) = none := by
      simpa [List.find?_eq_none, and_assoc] using none'
    show execWriteHiCommit ini p (lo + 4) v s = _
    rw [execWriteHiCommit, held]
    simp only [and_true]
    rw [if_pos (by omega), regRow_reached reached, if_neg (by simp [hole]), writeHi, gone]
  case reads =>
    have row : exec (.readLoSnapshot ini p off false) s = .next { (readWord (hostWake s ini) ini p off).2 with
        reply := ⟨(readWord (hostWake s ini) ini p off).1, 0⟩ } := by
      show execReadLoSnapshot ini p off false s = _
      rw [execReadLoSnapshot, if_neg (by simp; omega), if_neg (by simp), barRead, popRead, if_pos pop]
      exact congrArg Host.Outcome.next (readRow_readable readable _)
    have rowHi : exec (.readHi ini p off) s = .next { (readWord (hostWake s ini) ini p off).2 with
        reply := ⟨(readWord (hostWake s ini) ini p off).1, 0⟩ } := by
      show execReadHi ini p off s = _
      rw [execReadHi, if_neg (by omega), readRow_readable readable]
    refine ⟨fun empty => ?_, fun some' shut => ?_, fun some' shut => ⟨fun narrow fresh => ?_, fun wide own fresh => ?_,
      fun wide high held => ?_, fun wide high fresh => ?_⟩⟩
    · rw [row, readWord, if_pos (by simp [empty])]
    · rw [row, readWord, if_neg (by simp [some']), if_pos shut]
    · rw [row, readWord_narrow some' shut narrow fresh]
    · rw [row, readWord_low some' shut wide own fresh]
      exact ⟨_, rfl, rfl, snapVal_takeSnap own, rfl, hostWake_part s ini State.mem⟩
    · rw [rowHi, readWord_high some' shut wide high, held]
      rfl
    · rw [rowHi, readWord_high some' shut wide high, fresh]
      rfl

/-! ### One access of one line of Shared Vision Memory -/

/-- What lies within one line is one piece. -/
theorem linePieces_line {a n : Nat} (some' : 0 < n) (line : a / 64 = (a + n - 1) / 64) : linePieces a n = [(a, n)] := by
  have one : cdiv (a % 64 + n) 64 = 1 := by unfold cdiv; omega
  have low : max a (a / 64 * 64) = a := by omega
  have high : min (a + n) (a / 64 * 64 + 64) - a = n := by omega
  simp [linePieces, one, low, high]

/-- An access that the firewall grants passes (R357). -/
theorem passes_granted {s : State} {t : Tag} {op a n inc : Nat} (mapped : targetOf a ≠ .none)
    (quiet : injectNow s pgFab 12 = false) (granted : judge s t op a n = .pass) :
    passes s t op a n false inc = (true, inc, s) := by
  simp [passes, mapped, hit_calm quiet, granted]

/-- An access that no region grants is refused (R358). -/
theorem passes_denied {s : State} {t : Tag} {op a n inc k : Nat} (mapped : targetOf a ≠ .none)
    (quiet : injectNow s pgFab 12 = false) (denied : judge s t op a n = .deny k) :
    passes s t op a n false inc = (false, denialI s t op 0 k a inc) := by
  simp [passes, mapped, hit_calm quiet, denied, refuse]

/-- Bytes put one by one are the bytes put in a row. -/
theorem foldl_memPut (m : List Host.Cell) (a : Nat) (bs : List Byte) :
    (List.range bs.length).foldl (fun m i => memPut m (a + i) ((bs[i]?).getD 0)) m = memPuts m a bs := by
  induction bs generalizing m a with
  | nil => rfl
  | cons b bs ih =>
    rw [List.length_cons, List.range_succ_eq_map, List.foldl_cons, List.foldl_map, memPuts, ← ih]
    simp [Nat.add_right_comm, Nat.add_assoc]

/-- Without a bad word, a write of Shared Vision Memory stores its bytes. -/
theorem svmStore_good {s : State} (good : s.eccBad = []) (a : Nat) (bs : List Byte) : svmStore s a bs = s.store a bs := by
  have kept (i : Nat) : rmwKeep s a bs i = true := by simp [rmwKeep, good]
  simp only [svmStore, kept, if_true, foldl_memPut, good, List.filter_nil, State.store]

section
variable {s : State} {t : Tag} {a n tid : Nat} (slot : freeTid s t.init ≠ none) (svm : targetOf a = .svm)
  (quiet : injectNow s pgFab 12 = false)
include slot svm quiet

/-- A granted read of good words answers the bytes. -/
theorem tryRead_svm (good : s.eccBad = []) (granted : judge s t opRead a n = .pass) :
    tryRead s t a n .ok [] = (.ok (s.bytes a n), s) := by
  obtain ⟨tid, free⟩ := Option.ne_none_iff_exists'.1 slot
  simp [tryRead, free, fabRead, respEcc, passes_granted (by simp [svm]) quiet granted, serveRead, svm, good]

theorem tryRead_denied {k : Nat} (denied : judge s t opRead a n = .deny k) :
    tryRead s t a n .ok [] =
      (.denied (denialI s t opRead 0 k a (txnInc s t.init a 0)).1, (denialI s t opRead 0 k a (txnInc s t.init a 0)).2) := by
  obtain ⟨tid, free⟩ := Option.ne_none_iff_exists'.1 slot
  simp [tryRead, free, fabRead, passes_denied (by simp [svm]) quiet denied]

/-- A granted write of good words stores the bytes. -/
theorem tryWrite_svm (dap : t.init ≠ 0xE8) (good : s.eccBad = []) (bs : List Byte) (granted : judge s t opWrite a bs.length = .pass) :
    tryWrite s t a bs .ok = (.ok [], s.store a bs) := by
  have kept (i : Nat) : rmwKeep s a bs i = true := by simp [rmwKeep, good]
  have part : svmReadPart s t a bs.length .ok = s := by unfold svmReadPart; split <;> rfl
  obtain ⟨tid, free⟩ := Option.ne_none_iff_exists'.1 slot
  simp [tryWrite, free, fabWrite, dap, respEcc, passes_granted (by simp [svm]) quiet granted, serveWrite, svm, part, kept,
    svmStore_good good]

end

/-- What the firewall shows of a refused access (R358). -/
theorem denialI_shows (s : State) (t : Tag) (op kind fw a inc : Nat) :
    (denialI s t op kind fw a inc).2.rd pgFab R.fwLastAddr = a % 2 ^ 64 ∧
      (denialI s t op kind fw a inc).2.rd pgFab R.fwLastPart = t.part % 2 ^ 3 := by
  have fab : pgFab ≠ pgErl := by decide
  unfold denialI
  generalize (s.bump pgFab R.fwEvtCnt).raise pgFab 8 = u
  extract_lets _ v w key
  have shown : w.rd pgFab R.fwLastAddr = a % 2 ^ 64 ∧ w.rd pgFab R.fwLastPart = t.part % 2 ^ 3 := by
    refine ⟨State.rd_wr_same .., ?_⟩
    simp only [w, v]
    simp (disch := decide) only [rd_wr_pos]
    rw [State.rd_wr_same]
    rfl
  have logged (x : State) (i : Nat) (r : LogRec) (same : ∀ f, fldPos f 0 ≠ fldPos R.logSuppressed 0 → x.rd pgFab f = w.rd pgFab f) :
      (x.logI i r).2.rd pgFab R.fwLastAddr = a % 2 ^ 64 ∧ (x.logI i r).2.rd pgFab R.fwLastPart = t.part % 2 ^ 3 :=
    ⟨(logI_rd x i r (by decide)).trans ((same _ (by decide)).trans shown.1),
      (logI_rd x i r (by decide)).trans ((same _ (by decide)).trans shown.2)⟩
  split
  · split
    · exact shown
    · exact logged _ _ _ fun f hf => rd_wr_pos hf
  · exact logged _ _ _ fun f _ => rfl

theorem svm_below {a : Nat} (svm : targetOf a = .svm) : a < 0x06000000 := by
  by_contra out
  simp only [targetOf, if_neg out] at svm
  split_ifs at svm

/-! ### Counters do not look at memory -/

theorem perfAdd_store (s : State) (p k n a : Nat) (bs : List Byte) : perfAdd (s.store a bs) p k n = (perfAdd s p k n).store a bs := by
  have same : (s.store a bs).rd p R.perf k = s.rd p R.perf k := rfl
  simp only [perfAdd, same]
  split <;> rfl

theorem perf_store (s : State) (p code n a : Nat) (bs : List Byte) : (s.store a bs).perf p code n = (s.perf p code n).store a bs := by
  have each (l : List Nat) (u : State) :
      l.foldl (fun s k => if s.rd p R.perfSel k = code then perfAdd s p k n else s) (u.store a bs) =
        (l.foldl (fun s k => if s.rd p R.perfSel k = code then perfAdd s p k n else s) u).store a bs := by
    induction l generalizing u with
    | nil => rfl
    | cons k l ih =>
      rw [List.foldl_cons, List.foldl_cons, ← ih]
      by_cases chosen : u.rd p R.perfSel k = code
      · rw [if_pos chosen, ← perfAdd_store]
        exact congrArg (List.foldl _ · l) (if_pos chosen)
      · rw [if_neg chosen]
        exact congrArg (List.foldl _ · l) (if_neg chosen)
  by_cases off : s.rd p R.perfEn = 0
  · exact (if_pos off).trans (congrArg (State.store · a bs) (if_pos off)).symm
  · exact (if_neg off).trans ((each _ s).trans (congrArg (State.store · a bs) (if_neg off)).symm)

theorem fromLe_zeros (n : Nat) : fromLe (List.replicate n 0) = 0 := by
  induction n with
  | zero => rfl
  | succ n ih =>
    rw [List.replicate_succ, fromLe, ih]
    rfl

section
variable {s : State} {n off len : Nat} {data : List Nat} (hn : n < 8) (some' : 0 < len) (line : off / 64 = (off + len - 1) / 64)
  (svm : targetOf off = .svm) (bus : busOk s (.fn n) = true)

include hn line svm some' in
theorem bar2_guard : ¬(8 ≤ n ∨ len = 0 ∨ 512 < len ∨ 0x10000000 < off + len) := by
  have low := svm_below svm
  omega

include hn some' line svm bus

/-- A read within one line is one transaction (R352). -/
theorem exec_bar2_read : exec (.bar2Access n false off len data .ok false) s = .next
    (let r := barReads ⟨n, n, 2⟩ [(off, len)] (hostWake s (.fn n)) .ok []
     { r.2.2 with reply := ⟨if r.1 = 0 then fromLe r.2.1 else 0, r.1⟩ }) := by
  show execBar2Access n false off len data .ok false s = _
  rw [execBar2Access, if_neg (bar2_guard hn some' line svm), if_neg (by simp [bus])]
  simp only [Bool.false_eq_true, and_false, if_false, linePieces_line some' line, tagIni]

/-- So is a write. -/
theorem exec_bar2_write : exec (.bar2Access n true off len data .ok false) s = .next
    (let r := barWrites ⟨n, n, 2⟩ [(off, (List.range len).map fun i => BitVec.ofNat 8 (data.getD i 0))] (hostWake s (.fn n)) .ok 0
     { r.2 with reply := ⟨0, r.1⟩ }) := by
  have whole (bs : List Byte) (h : bs.length = len) : bytePieces off bs = [(off, bs)] := by
    rw [bytePieces, h, linePieces_line some' line]
    simp [← h]
  show execBar2Access n true off len data .ok false s = _
  rw [execBar2Access, if_neg (bar2_guard hn some' line svm), if_neg (by simp [bus])]
  simp only [Bool.false_eq_true, false_and, if_false, if_true, tagIni]
  rw [whole _ (by simp)]

end

/-- Settles O20: what lies within one line is one transaction of the function's port. -/
theorem hostAccesses : Obligations.HostAccesses := by
  refine ⟨fun ini fn p off n s some' fits => ⟨fun reached short within odd => ?refused, fun bus page long may => ?aborted,
    fun bus => ?poisoned⟩, fun n off len data s hn some' line svm bus => ⟨fun full => ?full, fun slot quiet =>
    ⟨fun good granted => ?read, fun good granted => ?written, fun denied => ?denied⟩⟩⟩
  case refused =>
    have here : ¬(n = 0 ∨ 4096 ≤ off ∨ (false = false ∧ (n = 4 ∨ n = 8) ∧ off % n = 0)) := by simp only [true_and]; omega
    obtain ⟨bus, -, -⟩ := id reached
    show execAccessFault ini p off n true false s = _
    rw [execAccessFault, if_neg here, if_neg (by simp [bus]), if_neg (by simp), if_neg (by omega), if_pos rfl,
      regRow_reached reached]
  case aborted =>
    have here : ¬(n = 0 ∨ 4096 ≤ off ∨ (false = false ∧ (n = 4 ∨ n = 8) ∧ off % n = 0)) := by
      simp only [true_and]
      rintro (zero | out | ⟨rfl | rfl, al⟩) <;> omega
    show execAccessFault ini p off n true false s = _
    rw [execAccessFault, if_neg here, if_neg (by simp [bus]), if_neg (by simp), if_pos long, if_neg page, completerAbort, if_pos may]
  case poisoned =>
    show execAccessFault (.fn fn) p off n true true s = _
    rw [execAccessFault, if_neg (by simp; omega), if_neg (by simp [bus]), if_pos rfl, if_pos (by simp [isFn]), poisonedTlp]
  case full =>
    rw [exec_bar2_read hn some' line svm bus, barReads, tryRead, full]
    rfl
  case read =>
    have good' : (hostWake s (.fn n)).eccBad = [] := (hostWake_part s _ State.eccBad).trans good
    rw [exec_bar2_read hn some' line svm bus, barReads, tryRead_svm slot svm quiet good' granted]
    simp only [barReads, List.nil_append, if_true, hostWake_part s (.fn n) fun u => u.bytes off len]
  case written =>
    have good' : (hostWake s (.fn n)).eccBad = [] := (hostWake_part s _ State.eccBad).trans good
    generalize hbs : (List.range len).map (fun i => BitVec.ofNat 8 (data.getD i 0)) = bs
    have size : bs.length = len := by simp [← hbs]
    have stored := tryWrite_svm slot svm quiet (by simp; omega) good' bs (size ▸ granted)
    have counted : perfWr ((hostWake s (.fn n)).store off bs) (pgHq n) = (perfWr (hostWake s (.fn n)) (pgHq n)).store off bs := by
      simp only [perfWr, perf_store]
    have same (x : Nat) : (perfWr (hostWake s (.fn n)) (pgHq n)).byte x = s.byte x :=
      (((flags_perf ..).trans (flags_perf ..)).part fun u => u.byte x).trans (hostWake_part s _ fun u => u.byte x)
    rw [exec_bar2_write hn some' line svm bus, hbs, barWrites, stored]
    dsimp only [barWrites]
    rw [counted]
    generalize perfWr (hostWake s (.fn n)) (pgHq n) = u at same
    refine ⟨_, rfl, rfl, fun x hx => ?_, fun i hi => ?_, rfl⟩
    · exact (State.byte_store_out u off bs (by omega)).trans (same x)
    · refine (State.byte_store_in u off bs (by omega)).trans ?_
      rw [Nat.add_sub_cancel_left, ← hbs, List.getElem?_map, List.getElem?_range hi]
      rfl
  case denied =>
    rw [exec_bar2_read hn some' line svm bus, barReads, tryRead_denied slot svm quiet denied]
    dsimp only [barReads]
    have shown := denialI_shows (hostWake s (.fn n)) ⟨n, n, 2⟩ opRead 0 0 off (txnInc (hostWake s (.fn n)) n off 0)
    have quiet' := quiet_denialI (hostWake s (.fn n)) ⟨n, n, 2⟩ opRead 0 0 off (txnInc (hostWake s (.fn n)) n off 0)
    generalize (denialI (hostWake s (.fn n)) ⟨n, n, 2⟩ opRead 0 0 off (txnInc (hostWake s (.fn n)) n off 0)).2 = u at shown quiet'
    have counted : Flags u (perfRd u (pgHq n) false) := flags_perf ..
    have below := svm_below svm
    generalize perfRd u (pgHq n) false = v at counted
    refine ⟨_, rfl, ?_, ?_, ?_, ?_⟩
    · show Reply.mk (if 0 = 0 then fromLe ([] ++ List.replicate len 0) else 0) 0 = ⟨0, 0⟩
      rw [if_pos rfl, List.nil_append, fromLe_zeros]
    · exact fun x => (counted.part fun u => u.byte x).trans ((quiet'.memSame x).trans (hostWake_part s _ fun u => u.byte x))
    · exact (counted.rd).trans (shown.1.trans (Nat.mod_eq_of_lt (by omega)))
    · exact (counted.rd).trans (shown.2.trans (Nat.mod_eq_of_lt hn))

end Sys2Proof.Machine
end

section
/-! PROOFS. Partitions (R361, R372, R373, R398). -/
namespace Sys2Proof.Machine
set_option Elab.async false
open Sys2Proof

theorem log_rd {p : Nat} {f : Fld} {i : Nat} (s : State) (r : LogRec) (inc : Nat) (hp : p ≠ pgErl)
    (hf : fldPos f i < 1048576 := by decide) : (s.log r inc).rd p f i = s.rd p f i := logI_rd s inc r hp hf

/-- What every step of a fold over the listed values leaves as it is, the fold leaves. -/
theorem foldl_leaves_on {α β : Type} (g : State → β) {f : State → α → State} (l : List α) (h : ∀ a ∈ l, ∀ s, g (f s a) = g s)
    (s : State) : g (l.foldl f s) = g s := by
  induction l generalizing s with
  | nil => rfl
  | cons a l ih => exact (ih (fun b hb => h b (List.mem_cons_of_mem a hb)) _).trans (h a List.mem_cons_self s)

/-- Records leave every field of another page. -/
theorem foldl_log_rd {α : Type} {p : Nat} {f : Fld} {i : Nat} (hp : p ≠ pgErl) (hf : fldPos f i < 1048576) (r : α → LogRec)
    (inc : Nat) (l : List α) (s : State) : (l.foldl (fun s a => s.log (r a) inc) s).rd p f i = s.rd p f i :=
  foldl_leaves (fun s : State => s.rd p f i) (fun s a => log_rd s (r a) inc hp hf) l s

/-- What a filter drops is no longer found. -/
theorem sfind_filter_none {α : Type} {q : Nat × α → Bool} {k : Nat} (l : List (Nat × α)) (h : ∀ v, q (k, v) = false) :
    sfind (l.filter q) k = none := by
  induction l with
  | nil => rfl
  | cons c l ih =>
    obtain ⟨j, v⟩ := c
    rw [List.filter_cons]
    split
    · next kept =>
      have other : j ≠ k := by
        rintro rfl
        simp [h v] at kept
      simp [sfind, other, ih]
    · exact ih

/-- Where a partition's measurement goes is none of another page's fields (R559). -/
theorem setMd_rd (s : State) {q : Nat} (p : Nat) (bs : List Byte) {f : Fld} {i : Nat} (other : q ≠ pgSec) (hp : p < 8)
    (hf : fldPos f i < 1048576) : (setMd s p bs).rd q f i = s.rd q f i := by
  have cell (k : Nat) (hk : k < 12) : fldPos R.partEntry (16 * p + 4 + k) < 1048576 := by
    simp [fldPos, R.partEntry]
    omega
  exact foldl_leaves_on (fun s : State => s.rd q f i) _
    (fun k hk s => rd_wr_page other hf (cell k (List.mem_range.1 hk))) s

theorem partState_pos (n : Nat) : fldPos R.partState n = 131072 + n * 32 := by simp [fldPos, R.partState]
theorem teardownDone_pos (n : Nat) : fldPos R.teardownDone n = 131074 + n * 32 := by simp [fldPos, R.teardownDone]

section
variable {s : State} {t : Tear}

/-- The end of a teardown frees the partition, with TEARDOWN_DONE; its records change no memory and no teardown. -/
theorem endTeardown_shows (part : t.part < 8) :
    (endTeardown s t).rd pgFab R.partState t.part = ptFree ∧ (endTeardown s t).rd pgFab R.teardownDone t.part = 1 := by
  have state := partState_pos t.part
  have done := teardownDone_pos t.part
  have entry : fldPos R.partEntry (16 * t.part + 1) < 1048576 := by simp [fldPos, R.partEntry]; omega
  have rest {f : Fld} (hf : fldPos f t.part < 1048576) : (endTeardown s t).rd pgFab f t.part =
      ((s.wr pgFab R.partState ptFree t.part).wr pgFab R.teardownDone 1 t.part).rd pgFab f t.part := by
    unfold endTeardown
    dsimp only
    rw [foldl_log_rd (by decide) hf, logI_rd _ _ _ (by decide) hf, setMd_rd _ _ _ (by decide) part hf, rd_wr_page (by decide) hf entry]
  refine ⟨?_, ?_⟩
  · rw [rest (by omega), rd_wr_pos (by omega), State.rd_wr_same]
    rfl
  · rw [rest (by omega), State.rd_wr_same]
    rfl

theorem endTeardown_part {α : Type} (g : State → α) (regs : ∀ (u : State) p f v i, g (u.wr p f v i) = g u)
    (records : ∀ (u : State) inc r, g (u.logI inc r).2 = g u) : g (endTeardown s t) = g s := by
  have kept (r : Nat × Nat → LogRec) (inc : Nat) (u : State) : g (t.shared.foldl (fun s x => s.log (r x) inc) u) = g u :=
    foldl_leaves g (fun u x => records u inc (r x)) _ u
  have measured (u : State) (p : Nat) (bs : List Byte) : g (setMd u p bs) = g u := foldl_leaves g (fun u i => regs ..) _ u
  unfold endTeardown
  dsimp only
  rw [kept, records, measured, regs, regs, regs]

end

theorem dropGraph_tears (s : State) (g : Nat) : (dropGraph s g).tears = s.tears := rfl

theorem dropPlaneSlots_tears (s : State) (n : Nat) : (dropPlaneSlots s n).tears = s.tears := by
  refine foldl_leaves State.tears (fun u x => ?_) _ s
  dsimp only
  split <;> rfl

theorem dropMasks_tears (s : State) (n : Nat) : (dropMasks s n).tears = s.tears := by
  refine foldl_leaves State.tears (fun u i => ?_) _ s
  dsimp only
  split
  · rfl
  · split <;> rfl

theorem showFill_none {s : State} (h : s.tears = []) :
    showFill s = ((s.wr pgScr R.zfActive 0).wr pgScr R.zfPart 0).wr pgScr R.zfLeft 0 := by
  simp [showFill, h]

/-- Settles O21: each row reaches the partition it names. -/
theorem partitions : Obligations.Partitions := by
  intro ini n v t
  refine ⟨writes_of (fun _ => rfl) fun u h => ?created, writes_of (fun _ => rfl) fun u h => ?taken,
    writes_of (fun _ => rfl) fun u h => ?torn, ?drained, ?filled, writes_of (fun _ => rfl) fun u h => ?perm⟩
  case created =>
    obtain ⟨p0, named, free⟩ := h
    simp [p0, onPart, named, free]
  case taken =>
    obtain ⟨p0, other⟩ := h
    have other : ¬(u.rd pgFab R.partSel ≠ 0 ∧ u.rd pgFab R.partState (u.rd pgFab R.partSel) = ptFree) := by tauto
    simp only [p0, if_true, onPart, if_neg other]
  case torn =>
    obtain ⟨p0, named, active, graphs, pages⟩ := h
    simp only [p0, if_true, onPart, if_pos (And.intro named active), graphs, pages, List.foldl_nil]
    rfl
  case drained =>
    intro s ⟨tears, rfl, idle, fills, shared, hn, still, pages⟩
    show ∃ u, execTeardownDrained t.part s = .next u ∧ _
    simp only [execTeardownDrained, tears, List.find?_cons, beq_self_eq_true, idle, Bool.not_false, Bool.and_self, still, pages,
      List.any_nil, List.foldl_nil, Bool.false_eq_true, or_self, if_false, fills, if_true]
    have waiting : (dropMasks (dropPlaneSlots (dropSems (List.foldl dropGraph s (graphsOf s t.part)) t.part) t.part) t.part).tears = [t] :=
      (dropMasks_tears ..).trans ((dropPlaneSlots_tears ..).trans ((foldl_leaves State.tears dropGraph_tears _ s).trans tears))
    generalize dropMasks _ _ = w at waiting
    refine ⟨_, rfl, ?_, ?_⟩
    · refine (endTeardown_part State.tears (fun _ _ _ _ _ => rfl) fun _ _ _ => (marks_logI ..).part State.tears).trans ?_
      simp [waiting]
    · exact endTeardown_shows hn
  case filled =>
    intro s ⟨tears, filling, part⟩
    show ∃ u, execZeroFillDone s = .next u ∧ _
    simp only [execZeroFillDone, tears, List.find?_cons, filling]
    generalize hw : List.foldl _ _ lpcs = w
    have gone : w.tears = [] := by
      rw [← hw]
      simp [lpcs]
    have zero (x : Nat) (ext : targetOf x = .ext) (inside : inRanges t.fills x = true) : w.byte x = 0 := by
      rw [← hw]
      show (sfind (s.mem.filter _) x).getD memDefault = 0
      rw [sfind_filter_none _ fun v => by simp [ext, inside]]
      rfl
    have ended : (endTeardown w t).tears = [] :=
      (endTeardown_part State.tears (fun _ _ _ _ _ => rfl) fun _ _ _ => (marks_logI ..).part State.tears).trans gone
    have bytes (x : Nat) : (endTeardown w t).byte x = w.byte x :=
      endTeardown_part (fun u => u.byte x) (fun _ _ _ _ _ => rfl) fun _ _ _ => (marks_logI ..).part fun u => u.byte x
    have free := (endTeardown_shows (s := w) part).1
    have pos := partState_pos t.part
    rw [showFill_none ended]
    refine ⟨_, rfl, ended, ?_, fun x ext inside => (bytes x).trans (zero x ext inside), ?_⟩
    · iterate 3 rw [rd_wr_page (by decide) (by omega) (by decide)]
      exact free
    · simp (disch := decide) only [rd_wr_pos]
      rw [State.rd_wr_same]
      rfl
  case perm =>
    obtain ⟨p0, free, off⟩ := h
    simp [p0, free, off]

end Sys2Proof.Machine
end

section
/-! PROOFS. Fabric transactions, their responses and time-outs (R357, R365 to R368). -/
namespace Sys2Proof.Machine
set_option Elab.async false
open Sys2Proof

/-! ### Counters of a page change nothing but themselves -/

/-- Fields at different positions have different cells on whatever pages. -/
theorem cellKey_ne_of_pos {p q : Nat} {f g : Fld} {i j : Nat} (h : fldPos f i ≠ fldPos g j) (hf : fldPos f i < 1048576)
    (hg : fldPos g j < 1048576) : cellKey p f i ≠ cellKey q g j := by
  unfold cellKey
  omega

/-- The places of the counters (R45). -/
def perfPos (n : Nat) : Bool :=
  [fldPos R.perf 0, fldPos R.perf 1, fldPos R.perf 2, fldPos R.perf 3, fldPos R.perfOvf 0].contains n

/-- A counter that counts leaves every field that is none of the counters. -/
theorem perf_rd {f : Fld} {i : Nat} (s : State) (p q code n : Nat) (hn : perfPos (fldPos f i) = false := by decide)
    (hf : fldPos f i < 1048576 := by decide) : (s.perf p code n).rd q f i = s.rd q f i := by
  simp only [perfPos, List.contains_eq_mem, List.mem_cons, List.not_mem_nil, or_false, decide_eq_false_iff_not, not_or] at hn
  obtain ⟨h0, h1, h2, h3, overflow⟩ := hn
  have add (k : Nat) (hk : k ∈ [0, 1, 2, 3]) (u : State) : (perfAdd u p k n).rd q f i = u.rd q f i := by
    have place : fldPos f i ≠ fldPos R.perf k ∧ fldPos R.perf k < 1048576 := by
      simp only [List.mem_cons, List.not_mem_nil, or_false] at hk
      obtain rfl | rfl | rfl | rfl := hk
      · exact ⟨h0, by decide⟩
      · exact ⟨h1, by decide⟩
      · exact ⟨h2, by decide⟩
      · exact ⟨h3, by decide⟩
    have counted : (u.wr p R.perf (u.rd p R.perf k + n) k).rd q f i = u.rd q f i :=
      State.rd_wr_ne _ _ _ _ _ (cellKey_ne_of_pos place.1 hf place.2)
    unfold perfAdd
    extract_lets v w
    split
    · exact counted
    · exact (State.rd_wr_ne _ _ _ _ _ (cellKey_ne_of_pos overflow hf (by decide))).trans counted
  unfold State.perf
  split
  · rfl
  · refine foldl_leaves_on (fun s : State => s.rd q f i) _ (fun k hk u => ?_) s
    split
    · exact add k hk u
    · rfl

theorem injectNow_perf (s : State) (p q code n bit : Nat) : injectNow (s.perf p code n) q bit = injectNow s q bit := by
  simp only [injectNow, State.on]
  rw [perf_rd, perf_rd, perf_rd]

/-! ### The firewall looks at no flag and no counter -/

theorem markPos_high {n : Nat} (h : 1024 ≤ n) : markPos n = false := by
  have low : ∀ x ∈ [fldPos R.pageErr 0, fldPos R.errFirstBit 0, fldPos R.errFirstValid 0, fldPos R.perf 0, fldPos R.perf 1,
    fldPos R.perf 2, fldPos R.perf 3, fldPos R.perfOvf 0, fldPos R.injArm 0], x < 1024 := by decide
  rw [markPos, List.contains_eq_mem, decide_eq_false_iff_not]
  exact fun member => absurd (low n member) (by omega)

/-- The region that decides is one of the firewall's. -/
theorem firstRegion_lt {s : State} {f a n i : Nat} (hf : f < 4) (first : Machine.firstRegion s f a n = some i) : i < 128 := by
  have member := List.mem_of_find?_eq_some first
  obtain ⟨r, hr, rfl⟩ := List.mem_map.1 member
  have := List.mem_range.1 hr
  unfold regIx
  omega

theorem fwOf_lt (g : Target) : fwOf g < 4 := by
  cases g <;> decide

section
variable {s t : State} (h : Flags s t)
include h

theorem Flags.region {f : Fld} {i : Nat} (hf : f ∈ [R.regEn, R.regBase, R.regLimit, R.regRd, R.regWr, R.regSc3w]) (hi : i < 128) :
    t.rd pgFab f i = s.rd pgFab f i := by
  have place : 1024 ≤ fldPos f i ∧ fldPos f i < 1048576 := by
    simp only [List.mem_cons, List.not_mem_nil, or_false] at hf
    rcases hf with rfl | rfl | rfl | rfl | rfl | rfl <;>
      simp [fldPos, R.regEn, R.regBase, R.regLimit, R.regRd, R.regWr, R.regSc3w] <;> omega
  exact h.rd (markPos_high place.1) place.2

theorem Flags.firstRegion {f a n : Nat} (hf : f < 4) : Machine.firstRegion t f a n = Machine.firstRegion s f a n := by
  have each : ∀ r ∈ List.range 32, inRegion t (regIx f r) a n = inRegion s (regIx f r) a n := by
    intro r hr
    have hi : regIx f r < 128 := by
      have := List.mem_range.1 hr
      unfold regIx
      omega
    simp only [inRegion, State.on]
    rw [h.region (by simp) hi, h.region (by simp) hi, h.region (by simp) hi]
  unfold Machine.firstRegion
  refine List.find?_congr fun i member => ?_
  obtain ⟨r, hr, rfl⟩ := List.mem_map.1 member
  exact each r hr

/-- So the firewall judges as before. -/
theorem Flags.judge {g : Tag} {op a n : Nat} : Machine.judge t g op a n = Machine.judge s g op a n := by
  have ready : extReady t = extReady s := by
    have state (i : Nat) : t.rd (pgLpc i) R.lpcState = s.rd (pgLpc i) R.lpcState := h.rd
    have page (i : Nat) : t.rd (pgLpc i) R.pstate = s.rd (pgLpc i) R.pstate := h.rd
    simp only [extReady, state, page]
  have usable : usableBytes t = usableBytes s := by
    have cap : t.rd (pgLpc 0) R.lpcCap = s.rd (pgLpc 0) R.lpcCap := h.rd
    simp only [usableBytes, fittedBytes, cap]
  have fns : t.fns = s.fns := h.part State.fns
  have grants (i : Nat) (hi : i < 128) : regionGrants t i g op = regionGrants s i g op := by
    simp only [regionGrants, State.on]
    rw [h.region (by simp) hi, h.region (by simp) hi, h.region (by simp) hi]
  unfold Machine.judge
  split
  · rfl
  · rw [h.firstRegion (fwOf_lt _), ready, usable, fns]
    cases first : Machine.firstRegion s (fwOf (targetOf a)) a n with
    | none => rfl
    | some i => simp only [grants i (firstRegion_lt (fwOf_lt _) first)]

end

/-! ### Transactions -/

theorem flags_issued (s : State) (init : Nat) (op : FabOp) (a n : Nat) : Flags s (issued s init op a n) := by
  unfold issued
  split
  · exact .refl s
  · split
    · exact flags_perf ..
    · exact (flags_perf ..).trans (flags_perf ..)
    · exact flags_perf ..

theorem injectNow_issued_read (s : State) (init a n p bit : Nat) : injectNow (issued s init .read a n) p bit = injectNow s p bit := by
  unfold issued
  split
  · rfl
  · exact injectNow_perf ..

/-- What time-outs show of a transaction (R367). -/
def expiryRecord (init tid : Nat) (x : Txn) : LogRec :=
  { event := 0x02, level := 1, part := x.part, init := init, page := pgFab, addr := x.addr, d0 := tid, d1 := x.epoch }

/-- A transaction that leaves its slot open and goes to no host is recorded, counted and abandoned (R367). -/
theorem expire_local {s : State} {init tid : Nat} {x : Txn} (home : targetOf x.addr ≠ .pcie) (_ : x.epoch < 16)
    (unheld : x.old.contains ((x.epoch + 2) % 16) = false) :
    (expire s init tid x).2 = (((s.logI x.inc (expiryRecord init tid x)).2.bump pgFab R.timeoutCnt).putTxn init tid
      { epoch := (x.epoch + 1) % 16, old := x.old ++ [x.epoch], part := x.part,
        inc := (s.logI x.inc (expiryRecord init tid x)).1 }) := by
  have next : ((x.epoch + 1) % 16 + 1) % 16 = (x.epoch + 2) % 16 := by omega
  have own : (x.epoch + 2) % 16 ≠ x.epoch := by omega
  have open' (part inc : Nat) : slotHeld { epoch := (x.epoch + 1) % 16, old := x.old ++ [x.epoch], part := part, inc := inc } = false := by
    simp only [List.contains_eq_mem, decide_eq_false_iff_not] at unheld
    simp [slotHeld, next, own, unheld]
  simp [expire, home, open', expiryRecord]

/-- Settles O22: a granted read finds its answer at once; its response, its expiry and a stale response go by the epoch. -/
theorem transactions : Obligations.Transactions := by
  intro init tid sub a n seq epoch g x
  refine ⟨?arrives, ?answered, ?stale, ?expires⟩
  case arrives =>
    intro s ⟨init', htid, tag, idle, open', some', short, page, svm, good, quiet, granted⟩
    have shape : ¬(initExists init = false ∨ 64 ≤ tid ∨ (s.txn init tid).busy = true ∨ slotHeld (s.txn init tid) = true) := by
      simp [init', htid, idle, open']
    have fits : ¬(n = 0 ∨ 512 < n ∨ a / 4096 ≠ (a + n - 1) / 4096) := by omega
    show execTransactionArrival init tid sub .read a n [] seq .ok false [] s = _
    simp only [execTransactionArrival, tag, if_neg shape]
    simp only [beq_self_eq_true, Bool.true_or, true_and, Bool.true_and, if_true, reduceCtorEq, false_and, or_false,
      if_neg fits, if_false, txnLimit, svm]
    generalize hy : ({ s.txn init tid with
      busy := true, addr := a, part := g.part, remote := isRemote init a, issued := s.time, limit := 400,
      inc := txnInc s init a 0, ready := false } : Txn) = y
    have counted := flags_issued s init .read a n
    have served : serveTxn ((issued s init .read a n).putTxn init tid y) g (txnKey init tid) .read a n [] seq .ok false []
        (txnInc s init a 0) = (some (fromLe (s.bytes a n), 0), (issued s init .read a n).putTxn init tid y) := by
      have quiet' : injectNow ((issued s init .read a n).putTxn init tid y) pgFab 12 = false :=
        (injectNow_issued_read ..).trans quiet
      have granted' : judge ((issued s init .read a n).putTxn init tid y) g opRead a n = .pass := (counted.judge).trans granted
      have good' : ((issued s init .read a n).putTxn init tid y).eccBad = [] := (counted.part State.eccBad).trans good
      have bytes : ((issued s init .read a n).putTxn init tid y).bytes a n = s.bytes a n := counted.part fun u => u.bytes a n
      simp [serveTxn, svm, fabRead, passes_granted (by simp [svm]) quiet' granted', serveRead, good', bytes, answer]
    have answered' : (FabOp.read == FabOp.write && Target.svm == Target.pcie) = false := by decide
    simp only [answered', Bool.false_eq_true, if_false, served]
  case answered =>
    intro s ⟨slot, busy, same, ready, early⟩
    show execResponseArrival init tid epoch s = _
    simp [execResponseArrival, slot, busy, same, ready, early]
  case stale =>
    intro s ⟨slot, other⟩
    have row : exec (.responseArrival init tid epoch) s = .next (staleResponse s init tid epoch) := by
      show execResponseArrival init tid epoch s = _
      simp [execResponseArrival, slot, other]
    have raised := flags_raise (s.bump pgFab R.staleCnt) pgFab 9
    have erl : pgFab ≠ pgErl := by decide
    refine ⟨_, row, ?_, ?_, ?_, ?_⟩
    · refine ((marks_log ..).part fun u => (u.txn init tid).old).trans ?_
      simp [State.txn, State.putTxn, ← slot]
    · refine (log_rd _ _ _ erl).trans ((raised.rd).trans ?_)
      rw [State.bump, State.rd_wr_same]
      rfl
    · refine Eq.trans (congrArg (bitOf · 9) (log_rd _ _ _ erl)) ?_
      exact bitOf_pageErr_raise _ _ (by decide)
    · exact ((marks_log ..).part State.reply).trans (raised.part State.reply)
  case expires =>
    intro s ⟨slot, busy, late, local', unheld, small⟩
    have row : exec (.fabricTimeout init tid) s = .next { (expire s init tid x).2 with reply := ⟨0, 7⟩ } := by
      show execFabricTimeout init tid s = _
      simp [execFabricTimeout, slot, busy, late]
    have ended := expire_local (s := s) (init := init) (tid := tid) local' small unheld
    have erl : pgFab ≠ pgErl := by decide
    rw [row, ended]
    refine ⟨_, rfl, rfl, ?_, ?_, ?_, ?_, ?_⟩
    · show State.rd (State.bump _ _ _ _ _) _ _ _ = _
      rw [State.bump, State.rd_wr_same, logI_rd _ _ _ erl]
      rfl
    · simp [State.txn, State.putTxn]
    · simp [State.txn, State.putTxn]
    · simp [State.txn, State.putTxn]
    · exact logI_logQ_length ..

end Sys2Proof.Machine
end

section
/-! PROOFS. External memory (R380, R387, R388, R392, R395, R397). -/
namespace Sys2Proof.Machine
set_option Elab.async false
open Sys2Proof

theorem OnlyRegs.foldl {α : Type} {f : State → α → State} (h : ∀ u a, OnlyRegs u (f u a)) (l : List α) (s : State) :
    OnlyRegs s (l.foldl f s) := by
  induction l generalizing s with
  | nil => exact .refl s
  | cons a l ih => exact (h s a).trans (ih _)

theorem onlyRegs_noticePairs (s : State) (p : Nat) : OnlyRegs s (noticePairs s p) := by
  refine OnlyRegs.foldl (fun u q => ?_) _ s
  split
  · exact (OnlyRegs.refl u).wr
  · exact .refl u

/-- A notice leaves what looks neither at registers nor at the notices (R641). -/
theorem noticeOn_part {α : Type} (g : State → α) (s : State) (p : Nat) (regs : ∀ (u : State) r, g { u with regs := r } = g u)
    (notice : ∀ n, g { s with notice := n } = g s) : g (s.noticeOn p) = g s := by
  have pairs (u : State) (k : Nat) : g (noticePairs u k) = g u :=
    (onlyRegs_noticePairs u k).part g (regs u _)
  unfold State.noticeOn
  extract_lets v
  split
  · exact (pairs _ p).trans (notice _)
  · exact (pairs _ 0).trans ((pairs _ p).trans (notice _))

/-- An error that ended well leaves what looks neither at registers, records nor notices (R392). -/
theorem extTransient_part {α : Type} (g : State → α) (s : State) (t : Tag) (a inc : Nat)
    (regs : ∀ (u : State) r, g { u with regs := r } = g u) (notice : ∀ (u : State) n, g { u with notice := n } = g u)
    (records : ∀ (u : State) r i, g (u.log r i) = g u) : g (extTransient s t a inc) = g s := by
  unfold extTransient
  extract_lets p u v
  exact (noticeOn_part g v _ regs (notice v)).trans ((records ..).trans (regs s _))

section
variable {s : State} {i k v : Nat}

theorem lpcSame_wr : lpcSame (s.wr (pgLpc i) R.lpcState v) = lpcSame s := by
  have other {f : Fld} (p : Nat) (hf : fldPos f 0 ≠ fldPos R.lpcState 0) (small : fldPos f 0 < 1048576) :
      (s.wr (pgLpc i) R.lpcState v).rd p f = s.rd p f :=
    State.rd_wr_ne _ _ _ _ _ (cellKey_ne_of_pos hf small (by decide))
  have cap (p : Nat) := other (f := R.lpcCap) p (by decide) (by decide)
  have rate (p : Nat) := other (f := R.lpcRate) p (by decide) (by decide)
  have ranks (p : Nat) := other (f := R.lpcRanks) p (by decide) (by decide)
  simp only [lpcSame, cap, rate, ranks]

/-- Where one controller at least is OFF, none ends its training. -/
theorem no_lpcOff (h : ∀ k, k < 4 → s.lpc k ≠ lpOff) : lpcs.any (fun k => s.lpc k == lpOff) = false := by
  simp [lpcs, h]

/-- FAULT is raised (R491). -/
theorem raiseFault_on (s : State) (cause inc : Nat) (inj : Bool) : (raiseFault s cause inc inj).on pgSaf R.fault = true := by
  unfold raiseFault
  extract_lets u v
  split
  · assumption
  · show (v.rd pgSaf R.fault != 0) = true
    simp only [v]
    rw [rd_wr_pos (by decide), rd_wr_pos (by decide), State.rd_wr_same]
    rfl

/-- FAULT leaves the fields of the pages beside the safety island's and the aggregator's. -/
theorem raiseFault_rd {p : Nat} {f : Fld} {i : Nat} (s : State) (cause inc : Nat) (inj : Bool) (saf : p ≠ pgSaf) (erl : p ≠ pgErl)
    (hf : fldPos f i < 1048576) : (raiseFault s cause inc inj).rd p f i = s.rd p f i := by
  unfold raiseFault
  extract_lets u v
  have logged : u.rd p f i = s.rd p f i := log_rd _ _ _ erl hf
  split
  · exact logged
  · refine Eq.trans (b := u.rd p f i) ?_ logged
    show v.rd p f i = _
    simp only [v]
    rw [rd_wr_page saf hf (by decide), rd_wr_page saf hf (by decide), rd_wr_page saf hf (by decide)]

end

/-- Settles O23: the controllers' states, and what memory and the lists hold then. -/
theorem externalMemory : Obligations.ExternalMemory := by
  intro ini i k v hi
  have here {α : Type} {a b : α} : (if 4 ≤ i then a else b) = b := if_unit hi
  refine ⟨writes_of (fun _ => congrArg Host.Outcome.next here) fun u h => ?begins,
    writes_of (fun _ => congrArg Host.Outcome.next here) fun u h => if_pos h, ?trained, ?failed, ?filled, ?patrol, fun r => ?reread,
    writes_of (fun _ => rfl) fun u _ => rfl, ?rate⟩
  case begins =>
    obtain ⟨off, same⟩ := h
    have same' : lpcSame (u.wr (pgLpc i) R.lpcState lpTraining) = true := lpcSame_wr.trans same
    simp [off, same']
  case trained =>
    intro s ⟨training, on, same⟩
    show execTrainingDone i 0 s = _
    simp [execTrainingDone, training, no_lpcOff on, same, Nat.not_le.2 hi]
  case failed =>
    intro s ⟨training, on, same⟩
    have row : ¬(4 ≤ i ∨ s.lpc i ≠ lpTraining ∨ lpcs.any (fun k => s.lpc k == lpOff) = true ∨ lpcSame s = false) := by
      simp [training, no_lpcOff on, same, hi]
    show ∃ t, execTrainingDone i (k + 1) s = .next t ∧ _
    rw [execTrainingDone, if_neg row, if_neg (Nat.succ_ne_zero k)]
    refine ⟨_, rfl, ?_, raiseFault_on ..⟩
    have saf : pgLpc i ≠ pgSaf := by unfold pgLpc pgSaf; omega
    have erl : pgLpc i ≠ pgErl := by unfold pgLpc pgErl; omega
    rw [State.lpc, raiseFault_rd _ _ _ _ saf erl (by decide), (flags_raise ..).rd, rd_wr_pos (by decide), State.rd_wr_same]
    rfl
  case filled =>
    intro s filling
    have row : lpcs.any (fun i => s.lpc i != lpFilling) = false := by simp [lpcs, filling]
    show ∃ t, execFillDone s = .next t ∧ _
    rw [execFillDone, row, if_neg Bool.false_ne_true]
    refine ⟨_, rfl, fun k hk => ?_, fun x ext => ?_, ?_⟩
    · simp only [lpcs, List.foldl_cons, List.foldl_nil, State.lpc]
      interval_cases k <;> simp (disch := decide) only [rd_wr_page, State.rd_wr_same] <;> rfl
    · show (sfind (s.mem.filter _) x).getD memDefault = 0
      rw [sfind_filter_none _ fun v => by simp [ext]]
      rfl
    · rfl
  case patrol =>
    intro s ⟨on, ready, still, clean, room, ext⟩
    have poison : firstPoison s (extBase + s.rd pgScr R.patrolPos) 64 = none := by
      simp [firstPoison, clean, sfind]
    show execPatrolRead .ok s = _
    simp [execPatrolRead, on, ready, still, poison, serveRead, ext, Nat.not_le.2 room]
  case reread =>
    intro s one
    show ∃ t, execDramReread r.line .rereadOk s = .next t ∧ _
    simp only [execDramReread, one, List.find?_cons, beq_self_eq_true, List.erase_cons_head, reduceCtorEq, decide_false,
      Bool.false_eq_true, if_false]
    have kept {α : Type} (g : State → α) (u : State) (regs : ∀ (u : State) r, g { u with regs := r } = g u)
        (notice : ∀ (u : State) n, g { u with notice := n } = g u) (records : ∀ (u : State) r i, g (u.log r i) = g u) :
        g (extTransient u ⟨r.init, r.part, 0⟩ r.line) = g u := extTransient_part g u _ _ _ regs notice records
    have rereads := kept State.rereads { s with rereads := [] } (fun _ _ => rfl) (fun _ _ => rfl)
      fun _ _ _ => (marks_log ..).part State.rereads
    have poisoned := kept State.poisoned { s with rereads := [] } (fun _ _ => rfl) (fun _ _ => rfl)
      fun _ _ _ => (marks_log ..).part State.poisoned
    cases key : r.key with
    | none => exact ⟨_, rfl, rereads, poisoned, fun k hk => by cases hk⟩
    | some k =>
      refine ⟨_, rfl, rereads, poisoned, fun j hj => ?_⟩
      cases hj
      simp
  case rate =>
    intro s live
    have row : ¬(4 ≤ i ∨ (s.lpc i ≠ lpReady ∧ s.lpc i ≠ lpFilling)) := by
      rintro (out | other)
      · omega
      · tauto
    show execMr4Read i v s = _
    rw [execMr4Read, if_neg row]

end Sys2Proof.Machine
end

section
/-! PROOFS. Jobs: descriptors, units, ends and records, the vectors of an array, and the speed monitors (R126 to R135, R176, R177, R184,
R192 to R205). -/
namespace Sys2Proof.Machine
set_option Elab.async false
open Sys2Proof

/-! ### Descriptors and units -/

theorem raiseI_calm {s : State} {p bit : Nat} (h : injectNow s p bit = false) : s.raiseI p bit false = s.raise p bit := by
  rw [raise_calm h]
  rfl

/-- A descriptor that lies off its alignment is refused before it is read (R126). -/
theorem fetchDesc_misaligned {p : Nat} {c : JC} {x : JS} (h : x.job.ptr % 64 ≠ 0) : fetchDesc p c x = .fail stProg x := by
  simp [fetchDesc, jthen, jcheck, al64, h]

/-- Settles O25: the check of the unit, clean or not, decides. -/
theorem jobUnits : Obligations.JobUnits := by
  intro p n st e hit host s j ws x here
  refine ⟨fun queued fresh going => ⟨fun fetched quiet => ?fetched, fun failed other => ?failed, fun off => ?misaligned⟩,
    fun sta inUnit ran quiet => ⟨fun first => ⟨fun clean => ?clean, fun miss => ?miss⟩,
      fun again => ⟨fun clean => ?cleanAgain, fun miss => ?missAgain⟩⟩⟩
  case fetched | failed | misaligned =>
    have row : ¬(s.slotSt p n ≠ slQueued ∨ j.fetched = true ∨ j.ending.isSome = true) := by simp [queued, fresh, going]
    show execDescriptorFetchDone p n hit host s = _
    simp only [execDescriptorFetchDone, here, if_neg row]
    simp only [*, State.found, hit_calm, fetchDesc_misaligned, ne_eq, not_false_eq_true]
    simp only [if_true, if_false, Bool.false_eq_true]
  case clean =>
    have row : ¬(pageKind p = some .sta ∨ Machine.inUnit s p n = false ∨ j.missed = true) := by simp [sta, inUnit, first]
    show execUnitDone p n e hit host s = _
    simp only [execUnitDone, here, if_neg row, ran, clean, hit_calm quiet, Bool.false_eq_true, if_false]
  case miss =>
    have row : ¬(pageKind p = some .sta ∨ Machine.inUnit s p n = false ∨ j.missed = true) := by simp [sta, inUnit, first]
    show execUnitDone p n e hit host s = _
    simp only [execUnitDone, here, if_neg row, ran, miss, hit_calm quiet, if_true]
  case cleanAgain =>
    have row : ¬(Machine.inUnit s p n = false ∨ j.missed = false) := by simp [inUnit, again]
    show execUnitRecomputeDone p n e hit host s = _
    simp only [execUnitRecomputeDone, here, if_neg row, sta, ran, clean, hit_calm quiet, Bool.false_eq_true, if_false]
  case missAgain =>
    have row : ¬(Machine.inUnit s p n = false ∨ j.missed = false) := by simp [inUnit, again]
    show execUnitRecomputeDone p n e hit host s = _
    simp only [execUnitRecomputeDone, here, if_neg row, sta, ran, miss, hit_calm quiet, if_true, if_false, raiseI_calm quiet]

/-! ### Ends -/

/-- Choosing the slot in service leaves what looks neither at registers nor at the choice (R129, R251). -/
theorem serve_part {α : Type} (g : State → α) (s : State) (p : Nat) (regs : ∀ (u : State) p f v i, g (u.wr p f v i) = g u)
    (chosen : ∀ (u : State) c d, g { u with current := c, served := d } = g u) : g (serve s p) = g s := by
  have picked : g (pickIfIdle s moreUnits p) = g s := by
    have next : g (pickNext s moreUnits p) = g s := by
      unfold pickNext
      split <;> exact chosen ..
    unfold pickIfIdle
    split
    · split
      · rfl
      · exact next
    · exact next
  have left (u : State) (n : Nat) : g (leaveContext u p n) = g u := by
    unfold leaveContext
    split
    · split
      · exact foldl_leaves g (fun v w => regs ..) _ u
      · rfl
    · rfl
  unfold serve
  cases sfind s.served p with
  | none => exact picked
  | some k =>
    dsimp only
    split
    · exact (left _ k).trans picked
    · exact picked

/-- The end of a job keeps whose it was. -/
theorem endEffects_part (s : State) (p : Nat) (j : Job) : (endEffects s p j).1.part = j.part := by
  unfold endEffects
  split
  · split <;> rfl
  · rfl
  · dsimp only
    split <;> rfl
  · rfl

/-- The slot keeps the ended job until its record has been written (R127). -/
theorem endJob_ok_job (s : State) (p n cycles : Nat) (j : Job) :
    (endJob s p n cycles stOk j).job p n = some { (endEffects s p j).1 with
      done := some stOk, cycles := min cycles 0xFFFFFFFF, run := none, phase := 0, missed := false } := by
  have slots (u v : State) (h : v.jobs = u.jobs) : v.job p n = u.job p n := by rw [State.job, h]; rfl
  have inTime : ¬stOk = stTimeout := by decide
  simp only [endJob, if_true, if_neg inTime]
  generalize hj : ({ (endEffects s p j).1 with
    done := some stOk, cycles := min cycles 0xFFFFFFFF, run := none, phase := 0, missed := false } : Job) = k
  have stored : (lastCounters ((endEffects s p j).2.putJob p n k) p n k).job p n = some k := sfind_sput_same ..
  generalize lastCounters ((endEffects s p j).2.putJob p n k) p n k = v at stored ⊢
  have counted : (v.perf p 0x04).job p n = some k := (slots _ _ (quiet_perf ..).jobs).trans stored
  generalize v.perf p 0x04 = v at counted ⊢
  have ended (v : State) (inc : Nat) : (countTimeout v p n stOk inc).job p n = v.job p n := rfl
  have full : (if cqFull v p n then (v.setSlot p n slDoneWait).raise p 8 else v).job p n = some k := by
    split
    · exact (slots _ _ (quiet_raise ..).jobs).trans counted
    · exact counted
  exact (serve_part (fun v => v.job p n) _ p (fun _ _ _ _ _ => rfl) fun _ _ _ => rfl).trans ((ended ..).trans full)

/-- Settles O26: the job's own state decides which end is due. -/
theorem jobEnds : Obligations.JobEnds := by
  intro p n cyc st hit j
  refine ⟨?ok, ?status, ?drained, ?budget, ?waits, fun s s' bs ret k here done room => ?recorded⟩
  case ok =>
    intro s ⟨here, fetched, open', going, all, _⟩
    refine ⟨_, ?_, _, endJob_ok_job s p n cyc j, rfl, rfl, endEffects_part s p j⟩
    show execJobEnd p n cyc s = _
    simp [execJobEnd, here, fetched, open', going, all]
  case status =>
    intro s ⟨here, fetched, open', ending, known⟩
    show execJobEnd p n cyc s = _
    simp [execJobEnd, here, fetched, open', ending, known]
  case drained =>
    intro s ⟨here, open', ending⟩
    show execJobDrainDone p n cyc s = _
    simp [execJobDrainDone, here, open', ending]
  case budget =>
    intro s ⟨here, fetched, open', going, more, spent, clean, idle⟩
    have row : ¬(j.fetched = false ∨ j.done.isSome = true ∨ j.ending.isSome = true ∨ allIssued p j = true ∨
        budgetSpent s p j = false) := by simp [fetched, open', going, more, spent]
    have same (inc : Nat) : ({ j with inc := inc, ending := some stTimeout, missed := false, phase := 0 } : Job) =
        { j with inc := inc, ending := some stTimeout } := by
      rw [← clean, ← idle]
    show execJobBudgetExpiry p n s = _
    simp only [execJobBudgetExpiry, here, if_neg row, clean, idle, Bool.false_eq_true, if_false, ne_eq, not_true_eq_false,
      decide_eq_true_eq, same]
    rfl
  case waits =>
    intro s ⟨here, done, full⟩
    show execCompletionRecordDone p n hit s = _
    simp only [execCompletionRecordDone, here, done, full, if_true]
  case recorded =>
    intro u i wrote
    show execCompletionRecordDone p n hit s = _
    have fields (q : Nat) (f : Fld) (k : Nat) : State.rd u q f k = s.rd q f k := by
      simp only [u]
      split <;> rfl
    simp only [u, i] at wrote fields
    simp only [execCompletionRecordDone, here, done, room, Bool.false_eq_true, if_false, fields, wrote]
    rfl

/-! ### Vectors of an array -/

/-- Without an injection, weight reads that end well change nothing (R377). -/
theorem weightEcc_calm {s : State} {p : Nat} {j : Job} (uncorr : injectNow s p eEccUncorr = false)
    (corr : injectNow s p eEccCorr = false) : weightEcc s p j .ok = (false, false, s) := by
  have bad : (Ecc.ok == .uncorr) = false := by decide
  have fixed : (Ecc.ok == .corr) = false := by decide
  simp [weightEcc, hit_calm uncorr, hit_calm corr, bad, fixed]

theorem weightEcc_uncorr {s : State} {p : Nat} {j : Job} (uncorr : injectNow s p eEccUncorr = false) :
    weightEcc s p j .uncorr = (true, false, s) := by
  have bad : (Ecc.uncorr == .uncorr) = true := by decide
  simp [weightEcc, hit_calm uncorr]

/-- Settles O27: a run's misses and what it counted decide. -/
theorem arrayVectors : Obligations.ArrayVectors := by
  intro p n wt upset res hit host s s1 j x r here sta inUnit clean
  have row (k : Nat) (h : j.phase = k) : ¬(pageKind p ≠ some .sta ∨ Machine.inUnit s p n = false ∨ j.missed = true ∨ j.phase ≠ k) := by
    simp [sta, inUnit, clean, h]
  refine ⟨fun first acts uncorr => ⟨fun corr => ⟨fun run => ⟨fun good => ?_, fun bad => ?_⟩, fun run => ?_⟩, ?_⟩,
    fun uncorr corr => ⟨fun replay run counts stops upset' => ?same, fun replay run differ good => ?transient,
      fun replay run differ => ?lasting, fun other run good => ?outlier, fun other run => ?both⟩⟩
  case same =>
    show execReplayDone p n wt .ok upset res hit host s = _
    simp only [execReplayDone, here, if_neg (row 1 replay), weightEcc_calm uncorr corr, run, counts, stops, upset', Bool.false_eq_true, if_false,
      ne_eq, not_true_eq_false, or_self]
  case transient =>
    have differs : r.counts ≠ (j.run.getD {}).counts ∨ r.stops ≠ (j.run.getD {}).stops ∨ r.upset ≠ (j.run.getD {}).upset := .inl differ
    show execReplayDone p n wt .ok upset res hit host s = _
    simp only [execReplayDone, here, if_neg (row 1 replay), weightEcc_calm uncorr corr, run, if_pos differs, finishVector, good,
      Bool.false_eq_true, if_false]
  case lasting =>
    have differs : r.counts ≠ (j.run.getD {}).counts ∨ r.stops ≠ (j.run.getD {}).stops ∨ r.upset ≠ (j.run.getD {}).upset := .inl differ
    show execReplayDone p n wt .ok upset res hit host s = _
    simp only [execReplayDone, here, if_neg (row 1 replay), weightEcc_calm uncorr corr, run, if_pos differs, if_true,
      Bool.false_eq_true, if_false]
  case outlier =>
    show execForkRunDone p n wt .ok upset res hit host s = _
    simp only [execForkRunDone, here, if_neg (row 2 other), weightEcc_calm uncorr corr, run, finishVector, good,
      Bool.false_eq_true, if_false]
  case both =>
    show execForkRunDone p n wt .ok upset res hit host s = _
    simp only [execForkRunDone, here, if_neg (row 2 other), weightEcc_calm uncorr corr, run, if_true, Bool.false_eq_true, if_false]
  · show execVectorDone p n wt .ok upset res hit host s = _
    simp only [execVectorDone, here, if_neg (row 0 first), acts, weightEcc_calm uncorr corr, run, finishVector, good,
      Bool.false_eq_true, if_false]
  · show execVectorDone p n wt .ok upset res hit host s = _
    simp only [execVectorDone, here, if_neg (row 0 first), acts, weightEcc_calm uncorr corr, run, finishVector, bad,
      Bool.false_eq_true, if_false, if_true]
  · show execVectorDone p n wt .ok upset res hit host s = _
    simp only [execVectorDone, here, if_neg (row 0 first), acts, weightEcc_calm uncorr corr, run,
      Bool.false_eq_true, if_false, if_true]
  · show execVectorDone p n wt .uncorr upset res hit host s = _
    simp only [execVectorDone, here, if_neg (row 0 first), acts, weightEcc_uncorr uncorr, if_true]

/-! ### Speed monitors -/

/-- Settles O28: each row is its guard and its one write. -/
theorem speedMonitors : Obligations.SpeedMonitors := by
  intro ini p m hp hm
  have page : ¬(¬(p = 0x90 ∨ p = 0x91) ∨ ¬m < 2) := by simp [hp, hm]
  refine ⟨fun s h => ?cleared, fun s h => ?stays, fun s h => ?starved,
    writeBrings_of (fun _ => congrArg Host.Outcome.next (if_neg page)) fun u h => ?on,
    writes_of (fun _ => congrArg Host.Outcome.next (if_neg page)) fun u _ => rfl⟩
  case cleared =>
    show execResyncClear p m s = _
    rw [execResyncClear, if_neg page, if_pos h]
  case stays =>
    show execResyncClear p m s = _
    rw [execResyncClear, if_neg page, if_neg fun k => absurd k.2.2.1 (Nat.not_le.2 h)]
  case starved =>
    show execStarved p m s = _
    rw [execStarved, if_neg page, if_pos h]
  case on =>
    simp only [if_true, h, Bool.false_eq_true, if_false]
    obtain rfl | rfl : m = 0 ∨ m = 1 := by omega
    all_goals
      refine ⟨?_, ?_, ?_, ?_, rfl⟩
      · simp (disch := decide) only [State.on, rd_wr_pos, State.rd_wr_same]
        decide
      · simp (disch := decide) only [rd_wr_pos, State.rd_wr_same]
        decide
      · rw [State.rd_wr_same]
        decide
      · simp [State.mon, State.putMon]

end Sys2Proof.Machine
end

section
/-! PROOFS. Submitting and cancelling jobs (R124, R125, R132, R370). -/
namespace Sys2Proof.Machine
set_option Elab.async false
open Sys2Proof

/-! ### Operations that are applied once -/

/-- Taking a number leaves what looks neither at registers, reports nor the numbers (R370). -/
theorem numbered_part {α : Type} (g : State → α) (s : State) (i : Nat)
    (regs : ∀ (u : State) r p j, g { u with regs := r, reports := p, injections := j } = g u)
    (seqs : ∀ q, g { s with seqs := q } = g s) : g (numbered s i) = g s := by
  unfold numbered
  split
  · exact ((flags_perf ..).part g (regs _ _ _ _)).trans (seqs _)
  · exact seqs _

/-- It changes no register but the counters. -/
theorem numbered_rd {p : Nat} {f : Fld} {k : Nat} (s : State) (i : Nat) (hn : perfPos (fldPos f k) = false := by decide)
    (hf : fldPos f k < 1048576 := by decide) : (numbered s i).rd p f k = s.rd p f k := by
  unfold numbered
  split
  · exact perf_rd _ _ _ _ _ hn hf
  · rfl

/-- A new operation is applied, and its target remembers the result (R370, R371). -/
theorem once_fresh {s : State} {i part target : Nat} (fresh : Fresh s i target) (f : State → Nat × State) :
    s.once i part target f = ((f (numbered s i)).1, appliedOnce s i target f) := by
  have remembered : (numbered s i).dedups = s.dedups := numbered_part State.dedups s i (fun _ _ _ _ => rfl) fun _ => rfl
  have shape : s.once i part target f =
      (((numbered s i).deliver i part target (sget 1 s.seqs i) f).1, ((numbered s i).deliver i part target (sget 1 s.seqs i) f).2.2) := rfl
  rw [shape]
  simp only [State.deliver, remembered, if_pos fresh]
  rfl

theorem appliedOnce_congr {s : State} {i target : Nat} {f g : State → Nat × State} (h : f (numbered s i) = g (numbered s i)) :
    appliedOnce s i target f = appliedOnce s i target g := by
  simp only [appliedOnce, h]

/-! ### Slots -/

/-- The page has eight slots, behind its own registers. -/
abbrev EightSlots (p : Nat) : Prop := pageKind p = some .sta ∨ pageKind p = some .lvu

theorem slotF_eq (p : Nat) (f : Fld) : slotF p f = if EightSlots p then { f with off := f.off + 0x300, cnt := 8 } else f := by
  unfold slotF EightSlots
  split
  · simp [*]
  · simp [*]
  · next sta lvu => rw [if_neg fun either => either.elim sta lvu]

/-- Where the slots begin, in bits. -/
def slotBase (p : Nat) : Nat := if EightSlots p then 6144 else 0

theorem slotBase_le (p : Nat) : slotBase p ≤ 6144 := by
  unfold slotBase
  split <;> decide

/-- The place of a slot's field. -/
theorem slotF_pos {f : Fld} (plain : f.win = false) (p n : Nat) : fldPos (slotF p f) n = fldPos f n + slotBase p := by
  rw [slotF_eq, slotBase]
  split
  · simp only [fldPos, plain, Bool.false_eq_true, if_false]
    omega
  · rfl

theorem slotF_w (p : Nat) (f : Fld) : (slotF p f).w = f.w := by
  rw [slotF_eq]
  split <;> rfl

theorem nSlots_le (p : Nat) : nSlots p ≤ 8 := by
  unfold nSlots
  split <;> decide

theorem slotState_pos (p n : Nat) : fldPos (slotF p R.slotState) n = 2144 + n * 512 + slotBase p := by
  rw [slotF_pos rfl]
  simp [fldPos, R.slotState]

theorem jobPtr_pos (p n : Nat) : fldPos (slotF p R.jobPtr) n = 2048 + n * 512 + slotBase p := by
  rw [slotF_pos rfl]
  simp [fldPos, R.jobPtr]

theorem cqRdIdx_pos (p n : Nat) : fldPos (slotF p R.cqRdIdx) n = 2304 + n * 512 + slotBase p := by
  rw [slotF_pos rfl]
  simp [fldPos, R.cqRdIdx]

theorem perfPos_high {n : Nat} (h : 1024 ≤ n) : perfPos n = false := by
  have low : ∀ x ∈ [fldPos R.perf 0, fldPos R.perf 1, fldPos R.perf 2, fldPos R.perf 3, fldPos R.perfOvf 0], x < 1024 := by decide
  rw [perfPos, List.contains_eq_mem, decide_eq_false_iff_not]
  exact fun member => absurd (low n member) (by omega)

section
variable {s u : State} {p n i : Nat}

theorem numbered_slotSt (hn : n < 8) : (numbered s i).slotSt p n = s.slotSt p n := by
  have place := slotState_pos p n
  have base := slotBase_le p
  exact numbered_rd s i (perfPos_high (by omega)) (by omega)

theorem numbered_working : (numbered s i).working p = s.working p := by
  have state : (numbered s i).rd p R.pstate = s.rd p R.pstate := numbered_rd s i
  simp only [State.working, state]

theorem iniPart_numbered {ini : Ini} : iniPart (numbered s i) ini = iniPart s ini := by
  cases ini with
  | core c => exact numbered_rd s i
  | _ => rfl

/-- A queued job waits in its slot, and the page is ACTIVE (R43, R125). -/
theorem enqueue_shows (working : s.working p = true) (j : Job) :
    (enqueue s p n j).slotSt p n = slQueued ∧ (enqueue s p n j).rd p R.pstate = psActive ∧
      (enqueue s p n j).jobSeq = s.jobSeq + 1 ∧ (enqueue s p n j).mem = s.mem ∧
      (enqueue s p n j).job p n = some { j with order := s.jobSeq } ∧
      (enqueue s p n j).rd p (slotF p R.cqRdIdx) n = s.rd p (slotF p R.cqRdIdx) n := by
  have index := cqRdIdx_pos p n
  have place := slotState_pos p n
  have low : fldPos R.pstate 0 = 128 := by decide
  generalize hv : ({ (s.putJob p n { j with order := s.jobSeq }) with jobSeq := s.jobSeq + 1 } : State) = v
  have shape : enqueue s p n j = (v.setSlot p n slQueued).settle p true := by rw [← hv]; rfl
  have working' : (v.setSlot p n slQueued).working p = true := by
    have state : (v.setSlot p n slQueued).rd p R.pstate = v.rd p R.pstate := rd_wr_pos (by omega)
    rw [State.working, state, ← hv]
    exact working
  have active : enqueue s p n j = (v.setSlot p n slQueued).wr p R.pstate psActive := by
    rw [shape, State.settle, if_pos working']
    rfl
  rw [active]
  refine ⟨?_, State.rd_wr_same .., ?_, ?_, ?_, ?_⟩
  · rw [State.slotSt, rd_wr_pos (by omega), State.setSlot, State.rd_wr_same, slotF_w]
    rfl
  · rw [← hv]
    rfl
  · rw [← hv]
    rfl
  · rw [← hv]
    exact sfind_sput_same ..
  · rw [rd_wr_pos (by omega), State.setSlot, rd_wr_pos (by omega), ← hv]
    rfl

theorem isFawn_cases (h : isFawn p n = true) : p = pgHmp0 ∧ n = 3 ∨ p = pgSte1 ∧ n = 3 ∨ p = pgLvu1 ∧ n = 7 := by
  simpa [isFawn, or_assoc] using h

theorem isEngine_of_fawn (h : isFawn p n = true) : isEngine p = true ∧ n < nSlots p := by
  obtain ⟨rfl, rfl⟩ | ⟨rfl, rfl⟩ | ⟨rfl, rfl⟩ := isFawn_cases h <;> decide

end

/-- Settles O24: a new START acts on the slot as it stands; a CANCEL goes by what the job has issued. -/
theorem jobSubmission : Obligations.JobSubmission := by
  refine ⟨fun ini p n engine hn fawn => ?_, fun ini p ptr fawn => ?_⟩
  · have row {α : Type} {a b : α} : (if isEngine p = false ∨ nSlots p ≤ n then a else b) = b := if_neg (by simp [engine, hn])
    have hn8 : n < 8 := Nat.lt_of_lt_of_le hn (nSlots_le p)
    refine ⟨writeBrings_of (fun _ => congrArg Host.Outcome.next row) fun u h => ?started,
      writes_of (fun _ => congrArg Host.Outcome.next row) fun u h => ?refused,
      fun j => ⟨writes_of (fun _ => congrArg Host.Outcome.next row) fun u h => ?shown,
        writes_of (fun _ => congrArg Host.Outcome.next row) fun u h => ?cancelled⟩⟩
    case started =>
      obtain ⟨fresh, working, idle⟩ := h
      have still : ¬((numbered u (iniId ini)).working p = false ∨ (numbered u (iniId ini)).slotSt p n ≠ slIdle) := by
        rw [numbered_working, numbered_slotSt hn8, working, idle]
        simp
      have place := jobPtr_pos p n
      have base := slotBase_le p
      have ptr : (numbered u (iniId ini)).rd p (slotF p R.jobPtr) n = u.rd p (slotF p R.jobPtr) n :=
        numbered_rd u _ (perfPos_high (by omega)) (by omega)
      have order : (numbered u (iniId ini)).jobSeq = u.jobSeq := numbered_part State.jobSeq u _ (fun _ _ _ _ => rfl) fun _ => rfl
      have mem : (numbered u (iniId ini)).mem = u.mem := numbered_part State.mem u _ (fun _ _ _ _ => rfl) fun _ => rfl
      have queued := enqueue_shows (n := n) ((numbered_working (i := iniId ini)).trans working)
        { ptr := u.rd p (slotF p R.jobPtr) n, part := iniPart u ini }
      have accepted : startSlot (numbered u (iniId ini)) p n (iniPart (numbered u (iniId ini)) ini) =
          (1, enqueue (numbered u (iniId ini)) p n { ptr := u.rd p (slotF p R.jobPtr) n, part := iniPart u ini }) := by
        simp only [startSlot, fawn, Bool.false_eq_true, if_false, if_neg still, ptr, iniPart_numbered]
      rw [once_fresh fresh]
      simp only [appliedOnce, accepted]
      rw [order, mem] at queued
      generalize enqueue (numbered u (iniId ini)) p n { ptr := u.rd p (slotF p R.jobPtr) n, part := iniPart u ini } = w at queued
      obtain ⟨state, active, next, bytes, job, -⟩ := queued
      exact ⟨state, active, next, bytes, job⟩
    case refused =>
      obtain ⟨fresh, other⟩ := h
      rw [once_fresh fresh]
      refine appliedOnce_congr (f := fun s => startSlot s p n (iniPart s ini)) (g := fun s => (0, s.prog p)) ?_
      have other' : (numbered u (iniId ini)).working p = false ∨ (numbered u (iniId ini)).slotSt p n ≠ slIdle := by
        rw [numbered_working, numbered_slotSt hn8]
        exact other
      simp only [startSlot, fawn, Bool.false_eq_true, if_false, if_pos other']
    case shown =>
      obtain ⟨here, live, issued⟩ := h
      have live' : ¬(u.slotSt p n ≠ slQueued ∧ u.slotSt p n ≠ slRunning) := by tauto
      simp only [fawn, Bool.false_eq_true, if_false, cancelSlot, here, if_neg live', if_pos issued]
    case cancelled =>
      obtain ⟨here, live, open', going, more, clean, idle⟩ := h
      have live' : ¬(u.slotSt p n ≠ slQueued ∧ u.slotSt p n ≠ slRunning) := by tauto
      have early : ¬(j.done.isSome = true ∨ j.ending.isSome = true ∨ allIssued p j = true) := by simp [open', going, more]
      simp only [fawn, Bool.false_eq_true, if_false, cancelSlot, here, if_neg live', if_neg early, clean, idle, ne_eq,
        not_true_eq_false]
  · obtain ⟨engine, hn⟩ := isEngine_of_fawn fawn
    have row {α : Type} {a b : α} : (if isEngine p = false ∨ nSlots p ≤ nSlots p - 1 then a else b) = b :=
      if_neg (by simp only [engine, not_or]; exact ⟨by simp, by omega⟩)
    refine ⟨writes_of (fun _ => congrArg Host.Outcome.next row) fun u fresh => ?_,
      writes_of (fun _ => congrArg Host.Outcome.next row) fun u _ => if_pos fawn, fun s h => ?_⟩
    · rw [once_fresh fresh]
      exact appliedOnce_congr (f := fun s => startSlot s p (nSlots p - 1) (iniPart s ini)) (g := fun s => (0, s)) (if_pos fawn)
    · obtain ⟨working, idle⟩ := h
      have here : ¬(isEngine p = false ∨ isFawn p (nSlots p - 1) = false ∨ s.working p = false ∨
          s.slotSt p (nSlots p - 1) ≠ slIdle) := by simp [engine, fawn, working, idle]
      have index := cqRdIdx_pos p (nSlots p - 1)
      have place := slotState_pos p (nSlots p - 1)
      have low : fldPos R.pstate 0 = 128 := by decide
      show ∃ t, execFawnSubmit p ptr s = .next t ∧ _
      simp only [execFawnSubmit, if_neg here, fawnEnqueue]
      generalize hv : s.wr p (slotF p R.cqRdIdx) (s.rd p (slotF p R.cqWrIdx) (nSlots p - 1)) (nSlots p - 1) = v
      have working' : v.working p = true := by
        have state : v.rd p R.pstate = s.rd p R.pstate := by rw [← hv]; exact rd_wr_pos (by omega)
        rw [State.working, state]
        exact working
      have order : v.jobSeq = s.jobSeq := by rw [← hv]; rfl
      have read : v.rd p (slotF p R.cqRdIdx) (nSlots p - 1) = s.rd p (slotF p R.cqWrIdx) (nSlots p - 1) % 2 ^ R.cqRdIdx.w := by
        rw [← hv, State.rd_wr_same, slotF_w]
      obtain ⟨state, -, -, -, job, kept⟩ := enqueue_shows (n := nSlots p - 1) working' { ptr := ptr, part := 0, sc := 3 }
      exact ⟨_, rfl, state, job.trans (by rw [order]), kept.trans read⟩

end Sys2Proof.Machine
end

section
/-! PROOFS. Weight planes and push orders (R202, R204, R207 to R209). -/
namespace Sys2Proof.Machine
set_option Elab.async false
open Sys2Proof

theorem planeState_pos (n : Nat) : fldPos R.planeState n = 4128 + n * 64 := by simp [fldPos, R.planeState]

theorem pgSta_sta {a : Nat} (ha : a < 4) : isSta (pgSta a) = true := by
  interval_cases a <;> decide

section
variable {s : State} {p k n : Nat}

/-- The state of a slot reads as it was written, and the others' as before. -/
theorem rd_wr_planeState (v : Nat) : (s.wr p R.planeState v k).rd p R.planeState n = if n = k then v % 8 else s.rd p R.planeState n := by
  split
  · next same =>
    subst same
    exact State.rd_wr_same ..
  · next other =>
    have hn := planeState_pos n
    have hk := planeState_pos k
    exact rd_wr_pos (by omega)

/-- A capture makes its slot READY or BAD and stores its plane; the other slots stay (R209). -/
theorem capture_shows (t : Transit) (hk : k < 32) :
    (∀ n, n < 32 → (capture s p k t).rd p R.planeState n = if n = k then (if planeBad t then 5 else 3) else s.rd p R.planeState n) ∧
      (∀ n, n < 32 → sget {} (capture s p k t).planes (32 * (p - 0xA0) + n) =
        if n = k then planeOf t else sget {} s.planes (32 * (p - 0xA0) + n)) ∧
      (capture s p k t).rd p R.chainBusy = s.rd p R.chainBusy ∧ (capture s p k t).mem = s.mem ∧
      (capture s p k t).transits = s.transits ∧ (planeBad t = true → bitOf ((capture s p k t).rd p R.pageErr) 9 = true) := by
  have place := planeState_pos
  have busy : fldPos R.chainBusy 0 = 1060 := by decide
  generalize hu : ({ s with planes := sset {} s.planes (32 * (p - 0xA0) + k) (planeOf t) } : State) = u
  have planes (n : Nat) : sget {} u.planes (32 * (p - 0xA0) + n) = if n = k then planeOf t else sget {} s.planes (32 * (p - 0xA0) + n) := by
    rw [← hu]
    split
    · next same =>
      subst same
      exact sget_sset_same ..
    · exact sget_sset_ne _ _ _ _ (by omega)
  have regs (f : Fld) (i : Nat) : u.rd p f i = s.rd p f i := by rw [← hu]; rfl
  cases bad : planeBad t with
  | false =>
    have shape : capture s p k t = u.wr p R.planeState 3 k := by rw [← hu]; simp [capture, bad]
    rw [shape]
    refine ⟨fun n hn => ?_, fun n hn => planes n, ?_, by rw [← hu]; rfl, by rw [← hu]; rfl, by simp⟩
    · rw [rd_wr_planeState, regs]
      rfl
    · rw [rd_wr_pos (by rw [place, busy]; omega), regs]
  | true =>
    have shape : capture s p k t = (u.wr p R.planeState 5 k).raise p 9 := by rw [← hu]; simp [capture, bad]
    have raised := flags_raise (u.wr p R.planeState 5 k) p 9
    rw [shape]
    refine ⟨fun n hn => ?_, fun n hn => ?_, ?_, ?_, ?_, fun _ => bitOf_pageErr_raise _ _ (by decide)⟩
    · rw [raised.rd (markPos_high (by rw [place]; omega)) (by rw [place]; omega), rd_wr_planeState, regs]
      rfl
    · rw [raised.part State.planes]
      exact planes n
    · rw [raised.rd, rd_wr_pos (by rw [place, busy]; omega), regs]
    · rw [raised.part State.mem, ← hu]
      rfl
    · rw [raised.part State.transits, ← hu]
      rfl

/-- The captures of a plane, slot by slot (R209). -/
theorem captures_show (t : Transit) (l : List Nat) (small : ∀ n ∈ l, n < 32) (s : State) :
    let v := l.foldl (fun s n => capture s p n t) s
    (∀ n, n < 32 → v.rd p R.planeState n = if n ∈ l then (if planeBad t then 5 else 3) else s.rd p R.planeState n) ∧
      (∀ n, n < 32 → sget {} v.planes (32 * (p - 0xA0) + n) =
        if n ∈ l then planeOf t else sget {} s.planes (32 * (p - 0xA0) + n)) ∧
      v.rd p R.chainBusy = s.rd p R.chainBusy ∧ v.mem = s.mem ∧ v.transits = s.transits ∧
      (planeBad t = true → l ≠ [] ∨ bitOf (s.rd p R.pageErr) 9 = true → bitOf (v.rd p R.pageErr) 9 = true) := by
  induction l generalizing s with
  | nil => simp
  | cons m l ih =>
    obtain ⟨state, plane, busy, mem, transits, flagged⟩ := capture_shows (s := s) (p := p) t (small m List.mem_cons_self)
    obtain ⟨state', plane', busy', mem', transits', flagged'⟩ :=
      ih (fun n hn => small n (List.mem_cons_of_mem m hn)) (capture s p m t)
    refine ⟨fun n hn => ?_, fun n hn => ?_, busy'.trans busy, mem'.trans mem, transits'.trans transits,
      fun bad _ => flagged' bad (.inr (flagged bad))⟩
    · rw [List.foldl_cons, state' n hn, state n hn]
      by_cases same : n = m <;> by_cases rest : n ∈ l <;> simp [same, rest]
    · rw [List.foldl_cons, plane' n hn, plane n hn]
      by_cases same : n = m <;> by_cases rest : n ∈ l <;> simp [same, rest]

/-- An execution that finishes changes its graph alone (R266). -/
theorem finishExec_part {α : Type} (g : State → α) (graphs : ∀ (u : State) l, g { u with graphs := l } = g u) (s : State)
    (key status : Nat) : g (finishExec s key status) = g s := by
  unfold finishExec modExec
  dsimp only
  split
  · exact graphs ..
  · rfl

/-- So does a PUSH node that ends (R257). -/
theorem pushNodeEnd_part {α : Type} (g : State → α) (graphs : ∀ (u : State) l, g { u with graphs := l } = g u) (s : State) (o : Push) :
    g (pushNodeEnd s o) = g s := by
  unfold pushNodeEnd
  split
  · rfl
  · split
    · exact finishExec_part g graphs ..
    · rfl

/-- What the orders learn of the captures leaves what looks neither at graphs, orders nor the chain. -/
theorem captureEnds_part {α : Type} (g : State → α) (graphs : ∀ (u : State) l, g { u with graphs := l } = g u) (s : State)
    (a : Nat) (slots bads : List Nat) :
    g (captureEnds s a slots bads) = g { s with
      pushes := s.pushes.map fun o => o.captured a slots bads,
      transits := s.transits.map fun t => { t with order := t.order.captured a slots bads } } :=
  foldl_leaves g (pushNodeEnd_part g graphs) _ _

end

section
variable {s : State} {a : Nat} {x : Transit} {poison : Bool} (chain : s.transits = [x]) (arrived : a < x.arrived) (there : x.ended = a)
  (ha : a < 4)
include chain arrived there ha

/-- The slots that take the plane. -/
def takers (s : State) (p : Nat) : List Nat := (List.range 32).filter fun n => s.rd p R.planeState n == 2

/-- The plane as its last array leaves it. -/
def leaving (x : Transit) (poison : Bool) (a : Nat) : Transit := { x with poisoned := x.poisoned || poison, ended := a + 1 }

/-- The end of a capture, slot by slot, and the orders' share of it (R209, R257). -/
theorem exec_planeCaptureEnd :
    exec (.planeCaptureEnd (pgSta a) poison) s = .next
      (let y := leaving x poison a
       let l := takers s (pgSta a)
       let u := ({ s with transits := if a + 1 = 4 ∧ x.sent then [] else [y] } : State).wr (pgSta a) R.chainBusy 0
       let v := l.foldl (fun s n => capture s (pgSta a) n y) u
       captureEnds v a l (l.filter fun n => v.rd (pgSta a) R.planeState n == 5)) := by
  have number : pgSta a - 0xA0 = a := by simp [pgSta]
  show execPlaneCaptureEnd (pgSta a) poison s = _
  simp only [execPlaneCaptureEnd, pgSta_sta ha, number, chain, List.find?_cons, decide_eq_true arrived, there, beq_self_eq_true,
    Bool.and_self, Bool.true_eq_false, if_false, modTransit, if_true]
  have same (u : State) (h : ∀ n, u.rd (pgSta a) R.planeState n = s.rd (pgSta a) R.planeState n) :
      (List.range 32).filter (fun n => u.rd (pgSta a) R.planeState n == 2) = takers s (pgSta a) := by
    simp only [takers, h]
  have place := planeState_pos
  have busy : fldPos R.chainBusy 0 = 1060 := by decide
  generalize hu : State.wr _ (pgSta a) R.chainBusy 0 = u
  have states (n : Nat) : u.rd (pgSta a) R.planeState n = s.rd (pgSta a) R.planeState n := by
    rw [← hu]
    exact rd_wr_pos (by rw [place, busy]; omega)
  rw [same u states, ← hu]
  rfl

end

theorem mem_takers {s : State} {p n : Nat} : n ∈ takers s p ↔ n < 32 ∧ s.rd p R.planeState n = 2 := by simp [takers]

/-- Settles O29: a slot that takes the plane is captured once, and the others keep their states. -/
theorem weightPlanes : Obligations.WeightPlanes := by
  refine ⟨fun ini p k sta hk => ?_, fun hit host s s' o rest bs ret waiting working chain plain read => ?started,
    fun a k x ha hk => ⟨?arrives, ?poisoned, fun poison => ?captured, ?ended⟩⟩
  · have row {α : Type} {x y : α} : (if isSta p = false ∨ 32 ≤ k then x else y) = y := if_neg (by simp [sta, hk])
    refine ⟨writes_of (fun _ => congrArg Host.Outcome.next row) fun u h => ?_,
      writes_of (fun _ => congrArg Host.Outcome.next row) fun u armed => ?_,
      writes_of (fun _ => congrArg Host.Outcome.next row) fun u ready => if_pos ready,
      writes_of (fun _ => rfl) fun u h => ?_, writes_of (fun _ => rfl) fun u h => ?_⟩
    · obtain ⟨empty, free⟩ := h
      have none' : ((List.range 32).any fun m => m != k && u.rd p R.planeId m == u.rd p R.planeId k &&
          [1, 2, 3].contains (u.rd p R.planeState m)) = false := by
        rw [List.any_eq_false]
        intro m hm
        have := free m (List.mem_range.1 hm)
        simp only [Bool.and_eq_true, bne_iff_ne, beq_iff_eq, List.contains_eq_mem, List.mem_cons, List.not_mem_nil, or_false,
          decide_eq_true_eq, not_and]
        rintro ⟨other, same⟩ states
        exact this other same (by omega)
      simp only [armPlane, none', empty, true_or, and_self, if_true]
    · simp [armPlane, armed]
    · obtain ⟨fresh, room, src, dig⟩ := h
      rw [once_fresh fresh]
      refine appliedOnce_congr (f := fun s => pushOrder s (iniPart s ini)) (g := fun s =>
        (1, queuePush s { src := u.rd (pgSta 0) R.pushSrc, dig := u.rd (pgSta 0) R.pushDig, part := iniPart u ini })) ?_
      have orders : (numbered u (iniId ini)).pushes = u.pushes := numbered_part State.pushes u _ (fun _ _ _ _ => rfl) fun _ => rfl
      have srcSame : (numbered u (iniId ini)).rd (pgSta 0) R.pushSrc = u.rd (pgSta 0) R.pushSrc := numbered_rd u _
      have digSame : (numbered u (iniId ini)).rd (pgSta 0) R.pushDig = u.rd (pgSta 0) R.pushDig := numbered_rd u _
      simp [pushOrder, orders, srcSame, digSame, Nat.not_le.2 room, al64, src, dig, iniPart_numbered]
    · obtain ⟨fresh, full⟩ := h
      rw [once_fresh fresh]
      refine appliedOnce_congr (f := fun s => pushOrder s (iniPart s ini)) (g := fun s => (0, s.raise (pgSta 0) 11)) ?_
      have orders : (numbered u (iniId ini)).pushes = u.pushes := numbered_part State.pushes u _ (fun _ _ _ _ => rfl) fun _ => rfl
      simp [pushOrder, orders, full]
  case started =>
    have idle : ¬(s.working (pgSta 0) = false ∨ s.transits.any (fun t => !t.sent) = true) := by
      simp only [working, Bool.true_eq_false, false_or, List.any_eq_true, not_exists, not_and]
      intro t ht
      simp [chain t ht]
    show execPushOrderStart hit host s = _
    simp only [execPushOrderStart, waiting, if_neg idle, read, plain, if_true]
  case arrives =>
    intro s ⟨chain, arrived, early, first⟩
    have number : pgSta a - 0xA0 = a := by simp [pgSta]
    have free : ¬(isSta (pgSta a) = false ∨ s.transits.any (fun t => decide (a < t.arrived) && decide (t.ended ≤ a)) = true) := by
      simp [pgSta_sta ha, chain, arrived]
    have place := planeState_pos
    have ids (n : Nat) : fldPos R.planeId n = 4096 + n * 64 := by simp [fldPos, R.planeId]
    have busy : fldPos R.chainBusy 0 = 1060 := by decide
    have notLast : ¬(x.ended = 4 ∧ x.sent = true) := by omega
    have states (u : State) (n : Nat) : (u.wr (pgSta a) R.chainBusy 1).rd (pgSta a) R.planeState n = u.rd (pgSta a) R.planeState n :=
      rd_wr_pos (by rw [place, busy]; omega)
    have names (u : State) (n : Nat) : (u.wr (pgSta a) R.chainBusy 1).rd (pgSta a) R.planeId n = u.rd (pgSta a) R.planeId n :=
      rd_wr_pos (by rw [ids, busy]; omega)
    show execPlaneArrival (pgSta a) s = _
    simp only [execPlaneArrival, number, if_neg free]
    simp only [chain, List.find?_cons, arrived, beq_self_eq_true, modTransit, if_true, if_neg notLast]
    generalize hu : State.wr _ (pgSta a) R.chainBusy 1 = u
    have same (f : Fld) (n : Nat) (h : fldPos f n ≠ fldPos R.chainBusy 0) : u.rd (pgSta a) f n = s.rd (pgSta a) f n := by
      rw [← hu]
      exact rd_wr_pos h
    have states (n : Nat) : u.rd (pgSta a) R.planeState n = s.rd (pgSta a) R.planeState n := same _ _ (by rw [place, busy]; omega)
    have names (n : Nat) : u.rd (pgSta a) R.planeId n = s.rd (pgSta a) R.planeId n := same _ _ (by rw [ids, busy]; omega)
    simp only [states, names, first]
  case poisoned =>
    intro s ⟨chain, arrived, there, open', taking⟩
    have notLast : ¬(a + 1 = 4 ∧ x.sent = true) := by simp [open']
    have bad : planeBad (leaving x true a) = true := by simp [planeBad, leaving]
    have taken : k ∈ takers s (pgSta a) := mem_takers.2 ⟨hk, taking⟩
    refine ⟨_, exec_planeCaptureEnd chain arrived there ha, ?_⟩
    simp only [if_neg notLast]
    generalize hu : State.wr _ (pgSta a) R.chainBusy 0 = u
    obtain ⟨state, -, busy, -, transits, flagged⟩ :=
      captures_show (p := pgSta a) (leaving x true a) (takers s (pgSta a)) (fun n hn => (mem_takers.1 hn).1) u
    have chain' : u.transits = [leaving x true a] := by rw [← hu]; rfl
    have idle : u.rd (pgSta a) R.chainBusy = 0 := by rw [← hu, State.rd_wr_same]; rfl
    generalize (takers s (pgSta a)).foldl (fun s n => capture s (pgSta a) n (leaving x true a)) u = v at state busy transits flagged ⊢
    have all : (takers s (pgSta a)).filter (fun n => v.rd (pgSta a) R.planeState n == 5) = takers s (pgSta a) := by
      refine List.filter_eq_self.2 fun n hn => ?_
      simp [state n (mem_takers.1 hn).1, hn, bad]
    have regs (f : Fld) (i : Nat) : (captureEnds v a (takers s (pgSta a)) (takers s (pgSta a))).rd (pgSta a) f i = v.rd (pgSta a) f i :=
      captureEnds_part (fun u => u.rd (pgSta a) f i) (fun _ _ => rfl) v ..
    rw [all]
    refine ⟨?_, ?_, ?_, ?_⟩
    · simp [regs, state k hk, taken, bad]
    · rw [regs, busy, idle]
    · rw [regs]
      exact flagged bad (.inl (List.ne_nil_of_mem taken))
    · rw [captureEnds_part State.transits (fun _ _ => rfl), transits, chain']
      simp [leaving, takers]
  case captured =>
    intro s ⟨chain, arrived, there⟩
    refine ⟨_, exec_planeCaptureEnd chain arrived there ha, ?_⟩
    dsimp only
    generalize hu : State.wr _ (pgSta a) R.chainBusy 0 = u
    have place := planeState_pos
    have busy' : fldPos R.chainBusy 0 = 1060 := by decide
    have before (n : Nat) : u.rd (pgSta a) R.planeState n = s.rd (pgSta a) R.planeState n := by
      rw [← hu]
      exact rd_wr_pos (by rw [place, busy']; omega)
    have idle : u.rd (pgSta a) R.chainBusy = 0 := by rw [← hu, State.rd_wr_same]; rfl
    have mem' : u.mem = s.mem := by rw [← hu]; rfl
    have planes : u.planes = s.planes := by rw [← hu]; rfl
    have number : pgSta a - 0xA0 = a := by simp [pgSta]
    obtain ⟨state, plane, busy, mem, -, -⟩ :=
      captures_show (p := pgSta a) (leaving x poison a) (takers s (pgSta a)) (fun n hn => (mem_takers.1 hn).1) u
    generalize (takers s (pgSta a)).foldl (fun s n => capture s (pgSta a) n (leaving x poison a)) u = v at state plane busy mem ⊢
    rw [number] at plane
    generalize (takers s (pgSta a)).filter _ = bads
    have regs (f : Fld) (i : Nat) : (captureEnds v a (takers s (pgSta a)) bads).rd (pgSta a) f i = v.rd (pgSta a) f i :=
      captureEnds_part (fun u => u.rd (pgSta a) f i) (fun _ _ => rfl) v ..
    have slots : (captureEnds v a (takers s (pgSta a)) bads).planes = v.planes := captureEnds_part State.planes (fun _ _ => rfl) v ..
    refine ⟨by rw [regs, busy, idle], ?_, fun n hn => ⟨fun taking => ?_, fun other => ?_⟩⟩
    · exact (captureEnds_part State.mem (fun _ _ => rfl) v ..).trans (mem.trans mem')
    · have taken : n ∈ takers s (pgSta a) := mem_takers.2 ⟨hn, taking⟩
      rw [regs, slots, state n hn, plane n hn, if_pos taken, if_pos taken]
      exact ⟨rfl, rfl⟩
    · have free : n ∉ takers s (pgSta a) := fun h => other (mem_takers.1 h).2
      rw [regs, slots, state n hn, plane n hn, if_neg free, if_neg free, before, planes]
      exact ⟨rfl, rfl⟩
  case ended =>
    intro s ⟨chain, open', past, alone, part⟩
    show ∃ t, execPushOrderEnd s = .next t ∧ _
    have fits : fldPos R.partEntry (16 * x.order.part + 1) < 1048576 := by simp [fldPos, R.partEntry]; omega
    simp only [execPushOrderEnd, chain, List.find?_cons, open', Bool.not_false, Bool.true_and, decide_eq_true past, modTransit,
      if_true, and_true, pushNodeEnd, alone]
    refine ⟨_, rfl, ?_, rfl⟩
    rw [State.bump, rd_wr_page (by decide) (by decide) fits, setMd_rd _ _ _ (by decide) part (by decide), State.bump, State.rd_wr_same]
    rfl

end Sys2Proof.Machine
end

section
/-! PROOFS. Graph entries, nodes and instances (R254 to R279, R524). -/
namespace Sys2Proof.Machine
set_option Elab.async false
open Sys2Proof

/-! ### The graph table -/

section
variable {s : State} {g h : Nat} {x : Graph}

@[simp] theorem graph_putGraph_same : (s.putGraph g x).graph g = x := sget_sset_same ..

/-- An operation that leaves the graphs leaves each of them. -/
theorem graph_of_graphs {t : State} (same : t.graphs = s.graphs) : t.graph g = s.graph g := by
  rw [State.graph, same]
  rfl

/-- A settled page changes registers only. -/
@[simp] theorem settle_graph (p : Nat) (busy : Bool) : (s.settle p busy).graph g = s.graph g :=
  (onlyRegs_settle s p busy).part fun u => u.graph g

/-- A page that works and has something to do is ACTIVE (R43). -/
theorem settle_busy {p : Nat} (working : s.working p = true) : (s.settle p true).rd p R.pstate = psActive := by
  rw [State.settle, if_pos working, State.rd_wr_same]
  rfl

end

section
variable {s : State} {g i n : Nat}

theorem keyGraph_execKey (g i n : Nat) : keyGraph (execKey g i n) = g := by unfold keyGraph execKey; omega
theorem keyInst_execKey (g i n : Nat) : keyInst (execKey g i n) = i % 2 ^ 32 := by unfold keyInst execKey; omega
theorem keyNode_execKey (g i n : Nat) : keyNode (execKey g i n) = n % 1024 := by unfold keyNode execKey; omega

/-- A run of a graph is found under its own number. -/
theorem inst_num {x : Graph} {a : Inst} (found : x.inst i = some a) : a.num = i := by
  have number := List.find?_some found
  simpa using number

/-- The run that was replaced is found. -/
theorem inst_setInst {x : Graph} {a b : Inst} (found : x.inst i = some a) (same : b.num = i) : (x.setInst b).inst i = some b := by
  subst same
  have replaced (l : List Inst) (found : l.find? (fun c => c.num == b.num) = some a) :
      (l.map fun c => if c.num = b.num then b else c).find? (fun c => c.num == b.num) = some b := by
    induction l with
    | nil => cases found
    | cons c l ih =>
      by_cases hc : c.num = b.num
      · simp [hc]
      · rw [List.find?_cons_of_neg (by simpa using hc)] at found
        rw [List.map_cons, if_neg hc, List.find?_cons_of_neg (by simpa using hc), ih found]
  exact replaced _ found

end

/-! ### Doorbells and operations -/

/-- A doorbell that is let through does what it says (R29, R30). -/
theorem doorbell_open {s : State} {n owner bar4 : Nat} {k : State → State} (h : DoorOpen s n owner) :
    doorbell s n owner bar4 k = k (doorAdmit s n) := by
  obtain ⟨bus, rfl, active⟩ := h
  simp [doorbell, bus, active, doorAdmit]

/-- Beside a core's, an operation on a graph is a register write. -/
theorem gop_row {s : State} {ini : Ini} {off g : Nat} {k : State → State} (hc : ∀ c, ini ≠ .core c) (hg : g < 256) :
    gop s ini off g k = regRow s ini pgFgs off k := by
  cases ini with
  | core c => exact absurd rfl (hc c)
  | _ => exact if_neg (Nat.not_le.2 hg)

/-! ### Entries -/

/-- What a new run leaves (R260): it enters the graph under the next number. -/
theorem startInst_shows {s : State} {g frame : Nat} (working : s.working pgFgs = true) :
    let x := s.graph g
    (startInst s g frame).rd pgFgs R.pstate = psActive ∧ (startInst s g frame).mem = s.mem ∧
    (startInst s g frame).graph g = { x with
      started := (x.started + 1) % 65536, nextInst := (x.nextInst + 1) % 2 ^ 32,
      insts := x.insts ++ [{ num := x.nextInst, k := (if x.stream.isSome then frame else x.nextInst) % x.ringN, frame := frame }] } := by
  refine ⟨?_, ?_, ?_⟩
  · unfold startInst
    exact settle_busy (p := pgFgs) working
  · unfold startInst
    exact (onlyRegs_settle ..).part State.mem
  · unfold startInst
    exact (settle_graph ..).trans graph_putGraph_same

/-- Settles O30: the entry's state decides, and a loaded graph is kept as its header and nodes say. -/
theorem graphEntries : Obligations.GraphEntries := by
  refine ⟨fun ini => ⟨writes_of (fun _ => rfl) fun u h => ?_, writes_of (fun _ => rfl) fun u other => ?_,
    writes_of (fun _ => rfl) fun u h => ?_⟩,
    fun g n host s s1 s2 hb nb r1 r2 y hg loading al header read ok readNodes => ?loaded,
    fun g n req hit host s hg => ⟨fun loading off => ?misaligned, fun bus ready owner free active new => ?start,
      fun ready free asked room working => ?begins⟩⟩
  · obtain ⟨empty, working⟩ := h
    simp [loadGraph, empty, working]
  · exact if_pos (.inl other)
  · obtain ⟨ready, idle, done⟩ := h
    have quiet : ¬((u.graph (u.rd pgFgs R.gtSel)).st = gLoading ∨ (u.graph (u.rd pgFgs R.gtSel)).insts ≠ [] ∨
        ((u.graph (u.rd pgFgs R.gtSel)).stream.isNone = true ∧
          (u.graph (u.rd pgFgs R.gtSel)).req ≠ (u.graph (u.rd pgFgs R.gtSel)).started)) := by
      rw [ready, idle]
      rintro (other | other | ⟨open', other⟩)
      · exact absurd other (by decide)
      · exact other rfl
      · obtain stream | same := done
        · rw [Option.isNone_iff_eq_none] at open'
          simp [open'] at stream
        · exact other same
    simp only [unloadGraph, if_neg quiet]
    simp only [ready, if_true]
  case loaded =>
    intro z nodes room
    have row : ¬(256 ≤ g ∨ (s.graph g).st ≠ gLoading) := by simp [hg, loading]
    have all : (List.range n).all (fun i => nodeOk s2 z i (z.node i)) = true := by simpa using nodes
    show execLoadDone g cleanHit host s = _
    simp only [execLoadDone, if_neg row, al, ne_eq, not_true_eq_false, if_false, read, header, ok, Bool.true_eq_false]
    simp only [cleanHit, if_true]
    simp only [cleanHit] at readNodes
    simp only [readNodes]
    exact congrArg Host.Outcome.next (if_pos ⟨all, room⟩)
  case misaligned =>
    have row : ¬(256 ≤ g ∨ (s.graph g).st ≠ gLoading) := by simp [hg, loading]
    show execLoadDone g hit host s = _
    simp only [execLoadDone, if_neg row, if_pos off]
  case start =>
    have open' : DoorOpen s n (s.graph g).owner := ⟨bus, owner, active⟩
    have same : (doorAdmit s n).graph g = s.graph g := hostWake_part s (.fn n) fun u => u.graph g
    have here : (doorAdmit s n).rd pgFab R.partState (s.graph g).owner = 1 := by rw [owner]; exact active
    have good : ¬((s.graph g).st ≠ gReady ∨ (s.graph g).stream.isSome = true ∨
        0x8000 ≤ (req % 65536 + 65536 - (s.graph g).started) % 65536) := by
      simp only [ready, free, ne_eq, not_true_eq_false, Option.isSome_none, Bool.false_eq_true, false_or]
      omega
    have row : ¬256 ≤ g := Nat.not_le.2 hg
    have notEmpty : ¬(s.graph g).st = gEmpty := by rw [ready]; decide
    show execStartDoorbell (.fn n) g req s = _
    simp only [execStartDoorbell, if_neg row, if_neg notEmpty, doorbell_open open', startReq, same, here, OfNat.one_ne_ofNat,
      if_false, if_neg good]
    rfl
  case begins =>
    have here : ¬(256 ≤ g ∨ (s.graph g).st ≠ gReady ∨ (s.graph g).stream.isSome = true ∨ (s.graph g).req = (s.graph g).started ∨
        (s.graph g).instMax ≤ (s.graph g).insts.length ∨ s.working pgFgs = false) := by
      simp [hg, ready, free, asked, room, working]
    obtain ⟨active, mem, graph⟩ := startInst_shows (g := g) (frame := 0) working
    refine ⟨noteElig (startInst s g 0), congrArg Host.Outcome.next (if_neg here), active, mem, ?_, ?_⟩
    · exact congrArg Graph.started graph
    · exact (congrArg Graph.insts graph).trans (by simp [free])

/-! ### Nodes -/

/-- What was the first of the eligible groups stays the first while it is eligible (R264). -/
theorem noteElig_head {s : State} {key : Nat} (first : s.elig.head? = some key) (still : key ∈ eligNow s) :
    (noteElig s).elig.head? = some key := by
  obtain ⟨l, hl⟩ : ∃ l, s.elig = key :: l := by
    cases h : s.elig with
    | nil => simp [h] at first
    | cons a l => exact ⟨l, by simpa [h] using first⟩
  simp [noteElig, hl, still]

/-- Settles O31: the first eligible group is the one that is admitted. -/
theorem graphNodes : Obligations.GraphNodes := by
  intro g i n hit host s s' x a hg graph ready found hn
  have number : a.num = i := inst_num found
  have row (working : s.working pgFgs = true) : exec (.nodeAdmit g i n hit host) s = .next
      (if (noteElig s).elig.head? = some (execKey g a.num (x.lead n)) then admitGroup (noteElig s) g x a n hit host else noteElig s) := by
    have here : ¬(256 ≤ g ∨ x.st ≠ gReady ∨ x.nodes.length ≤ n ∨ (s.working pgFgs = false ∧ s.rd pgFgs R.pstate ≠ psDraining)) := by
      simp [hg, ready, hn, working]
    show execNodeAdmit g i n hit host s = _
    simp only [execNodeAdmit, graph, found, if_neg here]
  refine ⟨fun key => noteElig_head, fun working first => ⟨?admitted, fun single taken => ⟨fun runs => ?runs, fun skipped => ?skips⟩⟩,
    fun working lacks => ?waits, fun e running => ⟨fun over' => ?ended, fun st late open' core => ?timeout⟩,
    fun st again idle => ?again, fun fuse run waits => ?deadlock⟩
  case admitted => rw [row working, if_pos first]
  case runs =>
    rw [row working, if_pos first]
    simp [admitGroup, Graph.group, single, taken, runs]
  case skips =>
    rw [row working, if_pos first]
    simp [admitGroup, Graph.group, single, taken, skipped]
  case waits =>
    rw [row working]
    split
    · simp only [admitGroup, lacks]
    · rfl
  case ended =>
    have here : ¬(256 ≤ g ∨ (s.graph g).nodes.length ≤ n) := by simp [hg, graph, hn]
    show execNodeEnd g i n hit s = _
    simp only [execNodeEnd, if_neg here, running, if_pos over']
  case timeout =>
    have here : ¬(256 ≤ g ∨ (s.graph g).nodes.length ≤ n) := by simp [hg, graph, hn]
    have still : ¬e.st = 3 := by omega
    have due : e.st = 1 ∧ e.start + usTicks e.budget ≤ s.time ∧ e.force.isNone = true := ⟨st, late, by simp [open']⟩
    have core' : ((s.graph g).node n).kind = nkCore := by rw [graph]; exact core
    show execNodeEnd g i n hit s = _
    simp only [execNodeEnd, if_neg here, running, if_neg still, if_pos due, if_pos core']
  case again =>
    have here : ¬((a.exec n).st ≠ 1 ∨ (a.exec n).again = false ∨ s.slotSt (x.node n).page (slotIn (x.node n) a) ≠ slIdle) := by
      simp [st, again, idle]
    show execRedispatch g i n s = _
    simp only [execRedispatch, graph, found, if_neg here]
  case deadlock =>
    show execHoDeadlock g i fuse s = _
    simp [execHoDeadlock, graph, found, run, waits, Nat.not_le.2 hg]

end Sys2Proof.Machine
end

section
/-! PROOFS. Graph instances, triggers and semaphores (R263, R267, R276, R278, R279, R285, R286, R370). -/
namespace Sys2Proof.Machine
set_option Elab.async false
open Sys2Proof

/-! ### Cancelled instances -/

section
variable {s : State} {g i : Nat} {a : Inst}

/-- A cancel does nothing to an execution that does not run. -/
theorem cancelExec_idle {n : Nat} (hi : i < 2 ^ 32) (hn : n < 1024) (found : (s.graph g).inst i = some a) (idle : (a.exec n).st ≠ 1) :
    cancelExec s g i n = s := by
  have here : execOf s (execKey g i n) = some (a.exec n) := by
    rw [execOf, keyGraph_execKey, keyInst_execKey, keyNode_execKey, Nat.mod_eq_of_lt hi, Nat.mod_eq_of_lt hn, found]
    rfl
  simp only [cancelExec, here, if_pos idle]

/-- A fold whose every step stays stays. -/
theorem foldl_stays {α : Type} {f : State → α → State} (l : List α) (h : ∀ x ∈ l, f s x = s) : l.foldl f s = s := by
  induction l with
  | nil => rfl
  | cons x l ih =>
    rw [List.foldl_cons, h x List.mem_cons_self]
    exact ih fun y hy => h y (List.mem_cons_of_mem _ hy)

/-- A run without running executions only shows how it ends (R276). -/
theorem endInst_idle {st : Nat} (hi : i < 2 ^ 32) (found : (s.graph g).inst i = some a) (open' : a.ending = none)
    (few : (s.graph g).nodes.length ≤ 1024) (idle : ∀ m, m < (s.graph g).nodes.length → (a.exec m).st ≠ 1) :
    endInst s g i st = s.putGraph g ((s.graph g).setInst { a with ending := some st }) := by
  simp only [endInst, found, open', Option.isSome_none, Bool.false_eq_true, if_false]
  refine foldl_stays _ fun m hm => ?_
  rw [List.mem_range] at hm
  refine cancelExec_idle (a := { a with ending := some st }) hi (by omega) ?_ (idle m hm)
  rw [graph_putGraph_same]
  exact inst_setInst found (inst_num found : a.num = i)

end

/-! ### Instances -/

/-- A run whose nodes have all ended leaves the entry (R276). -/
theorem instanceEnd_brings {g i : Nat} {hit : Hit} {x : Graph} {a : Inst} (hg : g < 256) (found : x.inst i = some a) :
    Brings (.instanceEnd g i hit)
      (fun s => s.graph g = x ∧ x.cqEn = false ∧ x.doneEn = false ∧ a.ending = none ∧ ∀ m, m < x.nodes.length → (a.exec m).st = 2)
      (fun s t => (t.graph g).insts = x.insts.filter (fun b => b.num != i) ∧ t.mem = s.mem ∧ t.sems = s.sems ∧ t.outs = s.outs) := by
  intro s ⟨graph, noRecord, noPost, open', ended⟩
  have here : ¬(256 ≤ g ∨ (List.range x.nodes.length).any (fun m => (a.exec m).st != 2) = true) := by
    simp only [not_or, Nat.not_le]
    exact ⟨hg, by simpa using ended⟩
  have quiet : ¬(x.cqEn = true ∧ s.rd (pgHq x.owner) R.qpState x.cqp = qpActive ∧ cqRoom s x.owner x.cqp = false) := by simp [noRecord]
  have step : execInstanceEnd g i hit s = .next ((s.putGraph g { x with insts := x.insts.filter (fun b => b.num != i), dlRun := 0 }).settle
      pgFgs ((s.putGraph g { x with insts := x.insts.filter (fun b => b.num != i), dlRun := 0 }).graphs.any
        fun y => !y.2.insts.isEmpty)) := by
    simp only [execInstanceEnd, graph, found, if_neg here, if_neg quiet]
    simp [noRecord, noPost, open']
  refine ⟨_, step, ?_⟩
  generalize hu : s.putGraph g { x with insts := x.insts.filter (fun b => b.num != i), dlRun := 0 } = u
  have shown : (u.graph g).insts = x.insts.filter (fun b => b.num != i) := by rw [← hu, graph_putGraph_same]
  have settled := onlyRegs_settle u pgFgs (u.graphs.any fun y => !y.2.insts.isEmpty)
  exact ⟨by rw [settle_graph, shown], (settled.part State.mem).trans (by rw [← hu]; rfl),
    (settled.part State.sems).trans (by rw [← hu]; rfl), (settled.part State.outs).trans (by rw [← hu]; rfl)⟩

/-- What the end of a run at its deadline records (R279). -/
def deadlineMarks (s : State) (g : Nat) (x : Graph) (a : Inst) : Nat × State :=
  let (inc, s) := s.logI a.inc { event := 0x23, level := 3, cls := if 1 ≤ x.dlRun then 2 else 0, part := x.owner,
                                 page := pgFgs, tag := x.tag, d0 := g, d1 := a.num }
  (inc, ((s.bump pgFgs R.deadlineCnt).raise pgFgs 9).doubt (.part x.owner) inc)

theorem deadlineMarks_shows {s : State} {g : Nat} {x : Graph} {a : Inst} :
    let t := (deadlineMarks s g x a).2
    t.graphs = s.graphs ∧ t.rd pgFgs R.deadlineCnt = (s.rd pgFgs R.deadlineCnt + 1) % 2 ^ R.deadlineCnt.w ∧
    t.logQ.length = s.logQ.length + 1 ∧ t.doubtQ.length = s.doubtQ.length + 1 := by
  unfold deadlineMarks
  generalize hv : s.logI a.inc _ = v
  have records : v.2.logQ.length = s.logQ.length + 1 := by rw [← hv]; exact logI_logQ_length ..
  have doubts : v.2.doubtQ = s.doubtQ := by rw [← hv]; exact logI_doubtQ ..
  have graphs : v.2.graphs = s.graphs := by
    rw [← hv, State.logI]
    split <;> rfl
  have count : v.2.rd pgFgs R.deadlineCnt = s.rd pgFgs R.deadlineCnt := by
    rw [← hv]
    exact logI_rd _ _ _ (by decide)
  have raised := flags_raise (v.2.bump pgFgs R.deadlineCnt) pgFgs 9
  refine ⟨(raised.part State.graphs).trans graphs, ?_,
    (congrArg List.length (raised.part State.logQ)).trans records, ?_⟩
  · rw [← count]
    exact raised.rd.trans (State.rd_wr_same ..)
  · rw [← doubts]
    show (State.doubtQ _ ++ [_]).length = _
    rw [List.length_append, raised.part State.doubtQ]
    rfl

/-- A run past its deadline ends TIMEOUT, with a record, a count and doubt (R279). -/
theorem instanceDeadline_brings {g i : Nat} {x : Graph} {a : Inst} (hg : g < 256) (found : x.inst i = some a) :
    Brings (.instanceDeadline g i)
      (fun s => s.graph g = x ∧ i < 2 ^ 32 ∧ x.nodes.length ≤ 1024 ∧ x.deadline ≠ 0 ∧ a.ending = none ∧
        (∃ t, a.first = some t ∧ t + usTicks x.deadline ≤ s.time) ∧ (∃ m, m < x.nodes.length ∧ (a.exec m).st ≠ 2) ∧
        ∀ m, m < x.nodes.length → (a.exec m).st ≠ 1)
      (fun s t => (((t.graph g).inst i).map (·.ending)) = some (some stTimeout) ∧
        t.rd pgFgs R.deadlineCnt = (s.rd pgFgs R.deadlineCnt + 1) % 2 ^ R.deadlineCnt.w ∧
        t.logQ.length = s.logQ.length + 1 ∧ t.doubtQ.length = s.doubtQ.length + 1) := by
  intro s ⟨graph, hi, few, limit, open', ⟨t, first, late⟩, ⟨m, hm, waits⟩, idle⟩
  have some' : ¬(List.range x.nodes.length).all (fun m => (a.exec m).st == 2) = true := by
    simp only [List.all_eq_true, List.mem_range, beq_iff_eq]
    exact fun all => waits (all m hm)
  have here : ¬(256 ≤ g ∨ x.deadline = 0 ∨ a.ending.isSome = true ∨ s.time < t + usTicks x.deadline ∨
      (List.range x.nodes.length).all (fun m => (a.exec m).st == 2) = true) := by
    simp only [not_or, Nat.not_le, Nat.not_lt]
    exact ⟨hg, limit, by simp [open'], late, some'⟩
  have step : execInstanceDeadline g i s = .next (endInst ((deadlineMarks s g x a).2.putGraph g
      (((deadlineMarks s g x a).2.graph g).setInst { a with inc := (deadlineMarks s g x a).1 })) g i stTimeout) := by
    simp only [execInstanceDeadline, graph, found, first, if_neg here]
    rfl
  obtain ⟨graphs, count, records, doubts⟩ := deadlineMarks_shows (s := s) (g := g) (x := x) (a := a)
  have number : a.num = i := inst_num found
  have graph' : (deadlineMarks s g x a).2.graph g = x := (graph_of_graphs graphs).trans graph
  rw [graph'] at step
  refine ⟨_, step, ?_⟩
  generalize deadlineMarks s g x a = v at *
  have replaced : (x.setInst { a with inc := v.1 }).inst i = some { a with inc := v.1 } := inst_setInst found number
  rw [endInst_idle (a := { a with inc := v.1 }) hi (by rw [graph_putGraph_same, replaced]) open'
    (by rw [graph_putGraph_same]; exact few) (by rw [graph_putGraph_same]; exact idle)]
  refine ⟨?_, count, records, doubts⟩
  rw [graph_putGraph_same, graph_putGraph_same,
    inst_setInst (b := { a with inc := v.1, ending := some stTimeout }) replaced (number : a.num = i)]
  rfl

/-- Settles O32: the executions of a run say when it ends, and a cancel goes to those that still go on. -/
theorem graphInstances : Obligations.GraphInstances := by
  refine ⟨fun g i hit x a hg found => ⟨instanceEnd_brings hg found, instanceDeadline_brings hg found⟩, fun ini g n hc hg => ?_⟩
  have trig (s : State) : exec (.trig ini g n) s = .next (regRow s ini pgFgs 0x0A4
      fun s => (trigOnce s (iniId ini) (iniPart s ini) g n).2) := congrArg Host.Outcome.next (gop_row hc hg)
  have same (u : State) : (numbered u (iniId ini)).graph g = u.graph g :=
    graph_of_graphs (numbered_part State.graphs u _ (fun _ _ _ _ => rfl) fun _ => rfl)
  have once {u : State} {f : State → Nat × State} (fresh : Fresh u (iniId ini) pgFgs)
      (h : trigNode (numbered u (iniId ini)) g n = ((f (numbered u (iniId ini))).1 == 1, (f (numbered u (iniId ini))).2))
      (hb : (f (numbered u (iniId ini))).1 ≤ 1) :
      (trigOnce u (iniId ini) (iniPart u ini) g n).2 = appliedOnce u (iniId ini) pgFgs f := by
    rw [trigOnce, once_fresh fresh]
    refine appliedOnce_congr (f := fun s => (b2n (trigNode s g n).1, (trigNode s g n).2)) (g := f) ?_
    have bit : b2n ((f (numbered u (iniId ini))).1 == 1) = (f (numbered u (iniId ini))).1 := by
      have cases' : (f (numbered u (iniId ini))).1 = 0 ∨ (f (numbered u (iniId ini))).1 = 1 := by omega
      obtain h0 | h1 := cases'
      · rw [h0]; rfl
      · rw [h1]; rfl
    simp only [h, bit]
  refine ⟨writes_of trig fun u h => ?trig, writes_of trig fun u h => ?full, writes_of (fun s => ?cancel) fun _ _ => rfl,
    fun a => writeBrings_of (k := fun s => cancelAll s (s.rd pgFgs R.gtSel)) (fun s => ?cancelAll) fun u h => ?all, fun i => writes_of (fun s => congrArg Host.Outcome.next (gop_row hc hg))
    fun u h => ?node, fun c s h => ?core⟩
  case trig =>
    obtain ⟨ready, hn, node, room, fresh⟩ := h
    refine once (f := fun s => (1, s.putGraph g { s.graph g with credits := sset 0 (s.graph g).credits n (credit (s.graph g) n + 1) }))
      fresh ?_ (Nat.le_refl 1)
    have taken : ¬((u.graph g).st ≠ gReady ∨ (u.graph g).nodes.length ≤ n ∨ ((u.graph g).node n).trig = false ∨ 15 ≤ credit (u.graph g) n) := by
      simp [ready, hn, node, room]
    rw [trigNode, same, if_neg taken]
    rfl
  case full =>
    obtain ⟨full, fresh⟩ := h
    refine once (f := fun s => (0, s.prog pgFgs)) fresh ?_ (Nat.zero_le 1)
    rw [trigNode, same]
    exact if_pos (.inr (.inr (.inr full)))
  case cancel =>
    cases ini with
    | core c => exact absurd rfl (hc c)
    | _ => rfl
  case cancelAll =>
    cases ini with
    | core c => exact absurd rfl (hc c)
    | _ => rfl
  case all =>
    obtain ⟨sel, insts, nodes, open'⟩ := h
    have found : (u.graph g).inst a.num = some a := by simp [Graph.inst, insts]
    simp [sel, cancelAll, insts, endInst, found, open', nodes, Graph.setInst]
  case node => simp only [h]
  case core =>
    obtain ⟨ready, other⟩ := h
    show execTrig (.core c) g n s = _
    simp [execTrig, gop, Nat.not_le.2 hg, other]

/-! ### Semaphores -/

/-- What a semaphore operation leaves with its initiator (R286). -/
def semAnswered (i op n : Nat) (x : Bool × State) : State :=
  { x.2 with semIfs := sset (0, 0) x.2.semIfs i (semResOf op n x.1, sget 0 x.2.sems n) }

@[simp] theorem semAnswered_sems (i op n : Nat) (x : Bool × State) : (semAnswered i op n x).sems = x.2.sems := rfl
@[simp] theorem semAnswered_mem (i op n : Nat) (x : Bool × State) : (semAnswered i op n x).mem = x.2.mem := rfl
@[simp] theorem semAnswered_rd (i op n p : Nat) (f : Fld) (x : Bool × State) : (semAnswered i op n x).rd p f = x.2.rd p f := rfl
@[simp] theorem semAnswered_result (i op n : Nat) (x : Bool × State) :
    sget (0, 0) (semAnswered i op n x).semIfs i = (semResOf op n x.1, sget 0 x.2.sems n) := sget_sset_same ..

theorem semAnswered_eq {i op n c : Nat} {ok : Bool} {u t : State} (results : t.semIfs = u.semIfs) (count : sget 0 t.sems n = c) :
    semAnswered i op n (ok, t) = { t with semIfs := sset (0, 0) u.semIfs i (semResOf op n ok, c) } := by
  simp only [semAnswered, results, count]

/-- Beside a core's, a semaphore operation is a register write. -/
theorem semRow_row {s : State} {ini : Ini} {op n : Nat} (hc : ∀ c, ini ≠ .core c) (hn : n < 1024) :
    semRow s ini op n = regRow s ini pgFgs 0x0A8 fun s =>
      semAnswered (iniId ini) op n (semDo s (iniId ini) (iniPart s ini) op n (s.rd pgFgs R.semVal)) := by
  cases ini with
  | core c => exact absurd rfl (hc c)
  | _ => exact if_neg (Nat.not_le.2 hn)

/-- A watch leaves what looks neither at registers nor at the cores. -/
theorem semWatch_part {α : Type} (g : State → α) (s : State) (n : Nat) (regs : ∀ (u : State) r, g { u with regs := r } = g u)
    (cores : ∀ (u : State) c, g { u with cores := c } = g u) : g (semWatch s n) = g s := by
  refine foldl_leaves g (fun u c => ?_) _ _
  dsimp only
  split
  · unfold coreWake
    dsimp only
    split
    · exact (regs _ _).trans (cores _ _)
    · exact cores _ _
  · rfl

/-- A post that is counted, through its port. -/
theorem semPostI_fresh {u : State} {i part n : Nat} (fresh : Fresh u i pgFgs) :
    u.semPostI i part n = (((numbered u i).semPostB n).1,
      appliedOnce u i pgFgs fun s => (b2n (s.semPostB n).1, (s.semPostB n).2)) := by
  rw [State.semPostI, once_fresh fresh]
  cases h : ((numbered u i).semPostB n).1 <;> simp [h, b2n]

/-- A new TRY_TAKE, through its port. -/
theorem semTryTake_fresh {u : State} {i part n v : Nat} (fresh : Fresh u i pgFgs) :
    semDo u i part 2 n v = ((semTake (numbered u i) n).1, appliedOnce u i pgFgs fun s => (b2n (semTake s n).1, (semTake s n).2)) := by
  simp only [semDo, OfNat.ofNat_ne_one, if_false, if_true, once_fresh fresh]
  cases h : (semTake (numbered u i) n).1 <;> simp [b2n]

/-- Settles O33: the count decides, and the result stays with the initiator. -/
theorem semaphores : Obligations.Semaphores := by
  intro ini n c pair part hc hn hp hpart
  have row (op : Nat) (s : State) : (.next (semRow s ini op n) : Result) = .next (regRow s ini pgFgs 0x0A8 fun s =>
      semAnswered (iniId ini) op n (semDo s (iniId ini) (iniPart s ini) op n (s.rd pgFgs R.semVal))) :=
    congrArg Host.Outcome.next (semRow_row hc hn)
  have sems (u : State) : (numbered u (iniId ini)).sems = u.sems :=
    numbered_part State.sems u _ (fun _ _ _ _ => rfl) fun _ => rfl
  have mem (u : State) : (numbered u (iniId ini)).mem = u.mem :=
    numbered_part State.mem u _ (fun _ _ _ _ => rfl) fun _ => rfl
  have semIfs (u : State) : (numbered u (iniId ini)).semIfs = u.semIfs :=
    numbered_part State.semIfs u _ (fun _ _ _ _ => rfl) fun _ => rfl
  have own {a b : State} : (if 512 ≤ pair ∨ 8 ≤ part then a else b) = b := if_neg (by omega)
  refine ⟨writeBrings_of (row 1) fun u h => ?post, writeBrings_of (row 1) fun u h => ?full, writes_of (row 2) fun u h => ?take,
    writes_of (row 2) fun u h => ?empty, writes_of (row 3) fun _ _ => rfl, writes_of (row 4) fun u free => ?set, fun s other => ?core,
    writes_of (fun _ => congrArg Host.Outcome.next own) fun u free => if_neg (by simp [free]),
    writes_of (fun _ => congrArg Host.Outcome.next own) fun u used => if_pos used⟩
  case post =>
    obtain ⟨room, fresh⟩ := h
    have counted : (numbered u (iniId ini)).semPostB n = (true, semWatch { numbered u (iniId ini) with
        sems := sset 0 u.sems n (sget 0 u.sems n + 1) } n) := by
      rw [State.semPostB, sems]
      exact if_neg (Nat.ne_of_lt room)
    simp only [semDo, if_true, semPostI_fresh fresh, counted]
    have shown : (appliedOnce u (iniId ini) pgFgs fun s => (b2n (s.semPostB n).1, (s.semPostB n).2)).sems =
        sset 0 u.sems n (sget 0 u.sems n + 1) := by
      simp only [appliedOnce, counted]
      exact semWatch_part State.sems _ n (fun _ _ => rfl) fun _ _ => rfl
    have kept : (appliedOnce u (iniId ini) pgFgs fun s => (b2n (s.semPostB n).1, (s.semPostB n).2)).mem = u.mem := by
      simp only [appliedOnce, counted]
      exact (semWatch_part State.mem _ n (fun _ _ => rfl) fun _ _ => rfl).trans (mem u)
    simp [shown, kept]
  case full =>
    obtain ⟨full, fresh⟩ := h
    have refused : (numbered u (iniId ini)).semPostB n = (false, semSaturated (numbered u (iniId ini)) n) := by
      rw [State.semPostB, sems]
      exact if_pos full
    have saturated : (semSaturated (numbered u (iniId ini)) n).sems = u.sems :=
      ((marks_log ..).part State.sems).trans (((flags_raise ..).part State.sems).trans (sems u))
    simp only [semDo, if_true, semPostI_fresh fresh, refused]
    have shown : (appliedOnce u (iniId ini) pgFgs fun s => (b2n (s.semPostB n).1, (s.semPostB n).2)).sems = u.sems := by
      simp only [appliedOnce, refused, saturated]
    have flagged : bitOf ((appliedOnce u (iniId ini) pgFgs fun s => (b2n (s.semPostB n).1, (s.semPostB n).2)).rd pgFgs R.pageErr) 8 =
        true := by
      simp only [appliedOnce, refused]
      show bitOf ((semSaturated (numbered u (iniId ini)) n).rd pgFgs R.pageErr) 8 = true
      rw [semSaturated, log_rd _ _ _ (by decide)]
      exact bitOf_pageErr_raise _ pgFgs (by decide)
    simp [shown, flagged, full]
  case take =>
    obtain ⟨some', fresh⟩ := h
    have taken : semTake (numbered u (iniId ini)) n = (true, { numbered u (iniId ini) with
        sems := sset 0 u.sems n (sget 0 u.sems n - 1) }) := by
      rw [semTake, sems]
      exact if_neg some'
    rw [semTryTake_fresh fresh, taken, appliedOnce_congr (f := fun s => (b2n (semTake s n).1, (semTake s n).2))
      (g := fun s => (1, { s with sems := sset 0 s.sems n (sget 0 s.sems n - 1) })) (by rw [taken, sems]; rfl)]
    refine semAnswered_eq (semIfs u) ?_
    show sget 0 (sset 0 (numbered u (iniId ini)).sems n _) n = _
    rw [sget_sset_same, sems]
  case empty =>
    obtain ⟨none', fresh⟩ := h
    have empty : semTake (numbered u (iniId ini)) n = (false, numbered u (iniId ini)) := by
      rw [semTake, sems]
      exact if_pos none'
    rw [semTryTake_fresh fresh, empty, appliedOnce_congr (f := fun s => (b2n (semTake s n).1, (semTake s n).2))
      (g := fun s => (0, s)) (by rw [empty]; rfl)]
    exact semAnswered_eq (semIfs u) ((congrArg (sget 0 · n) (sems u)).trans none')
  case set =>
    simp only [semDo, OfNat.ofNat_ne_one, if_false, if_true, free, Bool.false_eq_true]
    exact semAnswered_eq rfl (sget_sset_same ..)
  case core =>
    have reach : ¬1024 ≤ n := Nat.not_le.2 hn
    show execTryTake (.core c) n s = _
    simp only [execTryTake, semRow, if_neg reach, if_pos other]

end Sys2Proof.Machine
end

section
/-! PROOFS. Control cores and their accesses (R281 to R287, R370, R557). -/
namespace Sys2Proof.Machine
set_option Elab.async false
open Sys2Proof

/-! ### Executions and cores -/

/-- A changed execution is found as it was changed. -/
theorem execOf_modExec {s : State} {key : Nat} {e : Exec} (found : execOf s key = some e) (f : Exec → Exec) :
    execOf (modExec s key f) key = some (f e) := by
  unfold execOf at found
  cases inst : (s.graph (keyGraph key)).inst (keyInst key) with
  | none => simp [inst] at found
  | some a =>
    rw [inst] at found
    obtain rfl : a.exec (keyNode key) = e := Option.some.inj found
    have changed : (a.setExec (keyNode key) (f (a.exec (keyNode key)))).exec (keyNode key) = f (a.exec (keyNode key)) :=
      sget_sset_same ..
    rw [execOf, modExec]
    simp only [inst, graph_putGraph_same]
    rw [inst_setInst inst (b := a.setExec (keyNode key) (f (a.exec (keyNode key)))) (inst_num inst : a.num = _)]
    exact congrArg some changed

/-- What leaves the graphs leaves the executions. -/
theorem execOf_of_graphs {s t : State} (same : t.graphs = s.graphs) (key : Nat) : execOf t key = execOf s key := by
  rw [execOf, graph_of_graphs same, execOf]

section
variable {s : State} {c : Nat}

@[simp] theorem core_putCore_same (k : Core) : (s.putCore c k).core c = k := sget_sset_same ..
@[simp] theorem rd_putCore (k : Core) (p : Nat) (f : Fld) (i : Nat) : (s.putCore c k).rd p f i = s.rd p f i := rfl
@[simp] theorem coreSt_putCore (k : Core) (d : Nat) : (s.putCore c k).coreSt d = s.coreSt d := rfl

/-- A settled page keeps every field but its state. -/
theorem settle_rd {p : Nat} {busy : Bool} {f : Fld} {i : Nat} (h : fldPos f i ≠ fldPos R.pstate 0) :
    (s.settle p busy).rd p f i = s.rd p f i := by
  unfold State.settle
  split
  · exact rd_wr_pos h
  · split
    · exact rd_wr_pos h
    · rfl

/-- A waking core changes registers only. -/
theorem onlyRegs_coreWake (s : State) (c : Nat) : OnlyRegs s (coreWake s c) := by
  unfold coreWake
  dsimp only
  split
  · exact (OnlyRegs.refl s).wr
  · rfl

/-- A core that starts runs from RESET_PC (R287). -/
theorem startCore_shows : (startCore s c).coreSt c = 1 ∧ (startCore s c).rd (pgCc c) R.ccRun = s.rd (pgCc c) R.ccRun ∧
    ((startCore s c).core c).pc = 2 * s.rd (pgCc c) R.resetPc := by
  refine ⟨?_, ?_, congrArg Core.pc (core_putCore_same _)⟩
  · exact (settle_rd (by decide)).trans (State.rd_wr_same ..)
  · exact (settle_rd (by decide)).trans (rd_wr_pos (by decide))

/-- Taking a number leaves the message that is pushed (R283). -/
theorem mbxMsg_numbered {i : Nat} : mbxMsg (numbered s i) c = mbxMsg s c := by
  have place : ∀ k < 8, perfPos (fldPos R.mbxIn k) = false ∧ fldPos R.mbxIn k < 1048576 := by decide
  have time : (numbered s i).time = s.time := numbered_part State.time s i (fun _ _ _ _ => rfl) fun _ => rfl
  refine List.map_congr_left fun k hk => ?_
  obtain ⟨uncounted, low⟩ := place k (List.mem_range.1 hk)
  simp only [numbered_rd s i uncounted low, time]

end

/-! ### Tightly coupled memory -/

theorem leBytes_length (n v : Nat) : (leBytes n v).length = n := by
  induction n generalizing v with
  | zero => rfl
  | succ n ih => rw [leBytes, List.length_cons, ih]

/-- Bytes put in a core's memory are read back. -/
theorem tcmBytes_puts {s t : State} {c a n : Nat} {bs : List Byte} (stored : t.tcm = memPuts s.tcm (c * tcmSize + a) bs)
    (length : bs.length = n) : tcmBytes t c a n = bs := by
  subst length
  refine List.ext_getElem (by simp [tcmBytes]) fun i hi hb => ?_
  simp only [tcmBytes, List.getElem_map, List.getElem_range, stored]
  rw [memPuts_in _ _ ⟨by omega, by omega⟩, Nat.add_sub_cancel_left, List.getElem?_eq_getElem hb]
  rfl

/-- Settles O34: the core's state and its inbox decide. -/
theorem cores : Obligations.Cores := by
  intro ini c v g n st e hc
  have core : ¬8 ≤ c := Nat.not_le.2 hc
  have row {α : Type} {a b : α} : (if 8 ≤ c then a else b) = b := if_neg core
  have same (u : State) : (numbered u (iniId ini)).core c = u.core c :=
    numbered_part (fun u => u.core c) u _ (fun _ _ _ _ => rfl) fun _ => rfl
  have mem (u : State) : (numbered u (iniId ini)).mem = u.mem :=
    numbered_part State.mem u _ (fun _ _ _ _ => rfl) fun _ => rfl
  refine ⟨writeBrings_of (fun _ => congrArg Host.Outcome.next row) fun u h => ?push,
    writes_of (fun _ => congrArg Host.Outcome.next row) fun u h => ?full, fun s fresh => ?pop,
    writeBrings_of (fun _ => congrArg Host.Outcome.next row) fun u h => ?run,
    writes_of (fun _ => congrArg Host.Outcome.next row) fun u running => ?stop,
    fun s h => ?halted,
    writeBrings_of (fun _ => congrArg Host.Outcome.next row) fun u h => ?store,
    writes_of (fun _ => congrArg Host.Outcome.next row) fun u running => if_pos running, fun s h => ?done, fun s h => ?stale,
    fun s running => ?trap, fun s due => ?timer⟩
  case push =>
    obtain ⟨room, fresh⟩ := h
    have room' : ¬16 ≤ ((numbered u (iniId ini)).core c).inbox.length := by rw [same]; exact Nat.not_le.2 room
    rw [once_fresh fresh]
    have pushed : pushMsg (numbered u (iniId ini)) c = (1, pushInbox (numbered u (iniId ini)) c (mbxMsg (numbered u (iniId ini)) c)) :=
      if_neg room'
    have woken := onlyRegs_coreWake ((numbered u (iniId ini)).putCore c { (numbered u (iniId ini)).core c with
      inbox := ((numbered u (iniId ini)).core c).inbox ++ [mbxMsg (numbered u (iniId ini)) c] }) c
    refine ⟨?_, ?_⟩
    · show ((pushMsg (numbered u (iniId ini)) c).2.core c).inbox = _
      rw [pushed]
      refine (congrArg Core.inbox (woken.part fun u => u.core c)).trans ?_
      rw [core_putCore_same, same, mbxMsg_numbered]
    · show (pushMsg (numbered u (iniId ini)) c).2.mem = _
      rw [pushed]
      exact (woken.part State.mem).trans (mem u)
  case full =>
    obtain ⟨full, fresh⟩ := h
    rw [once_fresh fresh]
    exact appliedOnce_congr (f := fun s => pushMsg s c) (g := fun s => (0, s.putCore c { s.core c with mbxOvf := true }))
      (if_pos (by rw [same]; exact full))
  case pop =>
    show execMbxPop c s = _
    simp only [execMbxPop, if_neg core, once_fresh fresh]
    refine congrArg Host.Outcome.next (appliedOnce_congr (f := fun s => popMsg s c)
      (g := fun u => (1, u.putCore c { u.core c with inbox := (u.core c).inbox.tail })) ?_)
    simp [popMsg]
  case run =>
    obtain ⟨can, halted⟩ := h
    have here : (u.wr (pgCc c) R.ccRun 1).coreSt c = 0 := (rd_wr_pos (by decide)).trans halted
    simp only [can, if_true, here, Bool.true_eq_false, if_false]
    obtain ⟨running, run, pc⟩ := startCore_shows (s := u.wr (pgCc c) R.ccRun 1) (c := c)
    exact ⟨running, run.trans (State.rd_wr_same ..), pc.trans (congrArg (2 * ·) (rd_wr_pos (by decide)))⟩
  case stop =>
    have here : ¬(u.wr (pgCc c) R.ccRun 0).coreSt c = 0 := fun h => running (((rd_wr_pos (by decide)).symm).trans h)
    simp only [Bool.false_eq_true, if_false, if_neg here]
    rfl
  case halted =>
    obtain ⟨halting, running, off⟩ := h
    have here : ¬(8 ≤ c ∨ (s.core c).halting = false ∨ s.coreSt c = 0) := by simp [halting, running, hc]
    generalize hu : ((s.wr (pgCc c) R.ccState 0).settle (pgCc c) false).putCore c { s.core c with halting := false } = u
    have state : u.coreSt c = 0 := by rw [← hu]; exact (settle_rd (by decide)).trans (State.rd_wr_same ..)
    have off' : ¬(u.on (pgCc c) R.ccRun = true ∧ coreCanRun u c = true) := by
      have run : u.rd (pgCc c) R.ccRun = s.rd (pgCc c) R.ccRun := by rw [← hu]; exact (settle_rd (by decide)).trans (rd_wr_pos (by decide))
      rw [State.on, run, ← State.on, off]
      exact fun h => absurd h.1 (by decide)
    have step : execCoreHalted c s = .next u := by
      simp only [execCoreHalted, if_neg here, hu]
      exact congrArg Host.Outcome.next (if_neg off')
    refine ⟨u, step, state, ?_⟩
    rw [← hu, core_putCore_same]
  case store =>
    obtain ⟨halted, _⟩ := h
    have here : ¬u.coreSt c ≠ 0 := by simp [halted]
    simp only [if_neg here]
    refine ⟨tcmBytes_puts rfl (leBytes_length 4 v), rfl, ?_⟩
    rw [State.rd_wr_same, bitOf_mod_two_pow _ (by decide), bitOf_setBit]
    simp
  case done =>
    obtain ⟨status, found, st1, open', kind, page⟩ := h
    have low : ¬6 < st := Nat.not_lt.2 status
    have row' : execNodeDone c g n st s = .next (if st = stOk then (finishExec s (execKey g (s.core c).doneInst n) st).perf (pgCc c) 0x04
        else ((finishExec s (execKey g (s.core c).doneInst n) st).perf (pgCc c) 0x04).perf (pgCc c) 0x05) := by
      simp [execNodeDone, if_neg core, if_neg low, found, st1, kind, page]
    refine ⟨_, row', ?_⟩
    have ended : execOf (finishExec s (execKey g (s.core c).doneInst n) st) (execKey g (s.core c).doneInst n) =
        some { e with st := 3, status := st } := by
      rw [finishExec, execOf_modExec found, if_pos st1, open']
      rfl
    generalize finishExec s (execKey g (s.core c).doneInst n) st = u at ended ⊢
    have counted : (if st = stOk then u.perf (pgCc c) 0x04 else (u.perf (pgCc c) 0x04).perf (pgCc c) 0x05).graphs = u.graphs := by
      split
      · exact (flags_perf ..).part State.graphs
      · exact ((flags_perf ..).trans (flags_perf ..)).part State.graphs
    exact (execOf_of_graphs counted _).trans ended
  case stale =>
    obtain ⟨status, none'⟩ := h
    have low : ¬6 < st := Nat.not_lt.2 status
    show execNodeDone c g n st s = _
    simp only [execNodeDone, if_neg core, if_neg low, none', Bool.false_eq_true, if_false]
  case trap => exact congrArg Host.Outcome.next (if_neg (by simp [hc, running]))
  case timer =>
    have here : ¬(8 ≤ c ∨ s.time < (s.core c).timerCmp) := by simp [hc, due]
    refine ⟨_, congrArg Host.Outcome.next (if_neg here), ?_⟩
    have woken := onlyRegs_coreWake (s.putCore c { s.core c with pendTimer := true }) c
    have kept := (woken.part fun u => u.core c).trans (core_putCore_same _)
    exact ⟨congrArg Core.pendTimer kept, (congrArg Core.inbox kept :)⟩

/-! ### Accesses -/

section
variable {s : State} {c a n : Nat}

/-- Without a bad word and without an injection, a read of a core's memory answers its bytes (R281). -/
theorem tcmRead_good (good : s.tcmBad = []) (h : calm s (pgCc c) = true) :
    tcmRead s c a n .ok = (some (tcmBytes s c a n), s) := by
  have known : (tcmWords c a n).any s.tcmBad.contains = false := by simp [good]
  simp [tcmRead, known, hit_calm (injectNow_calm h _)]

/-- Bytes stored one by one are the bytes put in a row, and every word stays good. -/
theorem foldl_tcmStore (s : State) (a : Nat) (bs : List Byte) (good : s.tcmBad = []) :
    (List.range bs.length).foldl (fun t i => tcmStore t c (a + i) ((bs.drop i).take 1)) s =
      { s with tcm := memPuts s.tcm (c * tcmSize + a) bs } := by
  induction bs generalizing s a with
  | nil => rfl
  | cons b bs ih =>
    have first : tcmStore s c a [b] = { s with tcm := memPut s.tcm (c * tcmSize + a) b } := by
      simp [tcmStore, good, memPuts]
    have tail := ih { s with tcm := memPut s.tcm (c * tcmSize + a) b } (a + 1) good
    rw [List.length_cons, List.range_succ_eq_map, List.foldl_cons, List.foldl_map]
    simp only [Nat.add_zero, List.drop_zero, List.take_succ_cons, List.take_zero, first, List.drop_succ_cons]
    simpa only [memPuts, Nat.add_assoc, Nat.succ_eq_one_add] using tail

/-- So a write of a core's memory stores its bytes. -/
theorem tcmWrite_good (good : s.tcmBad = []) (h : calm s (pgCc c) = true) (bs : List Byte) :
    tcmWrite s c a bs .ok = { s with tcm := memPuts s.tcm (c * tcmSize + a) bs } := by
  have stored : tcmStoreBut s c a bs [] = { s with tcm := memPuts s.tcm (c * tcmSize + a) bs } := by
    simp only [tcmStoreBut, List.contains_nil, Bool.false_eq_true, if_false, foldl_tcmStore s a bs good, good, List.filter_nil]
  unfold tcmWrite
  dsimp only
  split
  · exact stored
  · have known : ∀ l : List Nat, l.filter s.tcmBad.contains = [] := by simp [good]
    simp [known, hit_calm (injectNow_calm h _), stored]

/-- A register of another page arms no injection. -/
theorem calm_wr_page {p q : Nat} {f : Fld} {v i : Nat} (h : p ≠ q) (hf : fldPos f i < 1048576) :
    calm (s.wr q f v i) p = calm s p := by
  simp only [calm, rd_wr_page h (show fldPos R.injArm 0 < 1048576 by decide) hf,
    rd_wr_page h (show fldPos R.injCont 0 < 1048576 by decide) hf]

/-- Tracing the flow leaves the core's page and its memory. -/
theorem coreFlow_part {α : Type} (g : State → α) (cores : ∀ (u : State) l, g { u with cores := l } = g u)
    (trace : ∀ (u : State) t, g { u with trace := t } = g u)
    (count : ∀ (u : State) v, g (u.wr pgDbg R.traceDropCnt v) = g u) : g (coreFlow s c a n) = g s := by
  unfold coreFlow
  dsimp only
  split
  · exact cores ..
  · unfold tracePkt
    split
    · exact cores ..
    · split
      · exact (trace _ _).trans ((count _ _).trans (cores ..))
      · exact (trace _ _).trans (cores ..)

end

/-- Settles O35: the address says which unit answers, and a core's own memory is read and written in place. -/
theorem coreAccesses : Obligations.CoreAccesses := by
  intro c a n v hc hn
  have row {s : State} (h : s.coreSt c = 1) (dbg : (s.core c).dbg = false) {addr : Nat} (ha : addr < 2 ^ 32) :
      ¬(8 ≤ c ∨ s.coreSt c ≠ 1 ∨ (s.core c).dbg = true ∨ 2 ^ 32 ≤ addr) := by simp [h, dbg, hc]; omega
  have size : tcmSize = 262144 := rfl
  refine ⟨fun inside hn1 s h => ?fetch, fun inside => ⟨fun s h => ?load, fun s h => ?store⟩,
    fun above below => ⟨fun s h => ?loadFault, fun s h => ?storeFault⟩, fun s h => ?wait⟩
  case fetch =>
    obtain ⟨running, dbg, good, calm'⟩ := h
    have here := row running dbg (addr := a) (by omega)
    have width : n = 2 ∨ n = 4 := by omega
    have within : ¬tcmSize < a + n := by omega
    have good' : (coreFlow s c a n).tcmBad = [] :=
      (coreFlow_part State.tcmBad (fun _ _ => rfl) (fun _ _ => rfl) fun _ _ => rfl).trans good
    have calm'' : calm (coreFlow s c a n) (pgCc c) = true :=
      (coreFlow_part (fun u => calm u (pgCc c)) (fun _ _ => rfl) (fun _ _ => rfl) fun _ _ =>
        calm_wr_page (by unfold pgCc pgDbg; omega) (by decide)).trans calm'
    have bytes : tcmBytes (coreFlow s c a n) c a n = tcmBytes s c a n :=
      coreFlow_part (fun u => tcmBytes u c a n) (fun _ _ => rfl) (fun _ _ => rfl) fun _ _ => rfl
    show execCoreAccess c .fetch a n v .ok [] s = _
    simp only [execCoreAccess, if_neg here, if_pos width, coreFetch, if_neg within, respEcc, tcmRead_good good' calm'', bytes]
    rfl
  case load =>
    obtain ⟨running, dbg, good, calm'⟩ := h
    have here := row running dbg (addr := a) (by omega)
    show execCoreAccess c .load a n v .ok [] s = _
    simp only [execCoreAccess, if_neg here, if_pos hn, coreLoad, if_pos inside, respEcc, tcmRead_good good calm']
  case store =>
    obtain ⟨running, dbg, good, calm'⟩ := h
    have here := row running dbg (addr := a) (by omega)
    have step : execCoreAccess c .store a n v .ok [] s =
        .next { s with reply := ⟨0, 0⟩, tcm := memPuts s.tcm (c * tcmSize + a) (leBytes n v) } := by
      simp only [execCoreAccess, if_neg here, if_pos hn, coreStore, if_pos inside, respEcc]
      exact congrArg Host.Outcome.next (tcmWrite_good (s := { s with reply := ⟨0, 0⟩ }) good calm' (leBytes n v))
    refine ⟨_, step, tcmBytes_puts rfl (leBytes_length n v), rfl, rfl, rfl, fun x hx => memPuts_out _ _ ?_⟩
    rw [leBytes_length]
    exact hx
  case loadFault =>
    obtain ⟨running, dbg⟩ := h
    have here := row running dbg (addr := a) (by omega)
    have noMem : coreMem (s.core c) a = none := by
      rw [coreMem, if_neg (by omega), if_neg (by omega), if_neg (by omega)]
    show execCoreAccess c .load a n v .ok [] s = _
    simp only [execCoreAccess, if_neg here, if_pos hn, coreLoad, if_neg (show ¬a + n ≤ tcmSize by omega),
      if_neg (show ¬(0x00100000 ≤ a ∧ a + n ≤ 0x00101000) by omega), if_neg (show ¬(0x40000000 ≤ a ∧ a < 0x44000000) by omega), noMem]
    rfl
  case storeFault =>
    obtain ⟨running, dbg⟩ := h
    have here := row running dbg (addr := a) (by omega)
    have noMem : coreMem (s.core c) a = none := by
      rw [coreMem, if_neg (by omega), if_neg (by omega), if_neg (by omega)]
    show execCoreAccess c .store a n v .ok [] s = _
    simp only [execCoreAccess, if_neg here, if_pos hn, coreStore, if_neg (show ¬a + n ≤ tcmSize by omega),
      if_neg (show ¬(0x00100000 ≤ a ∧ a + n ≤ 0x00101000) by omega), if_neg (show ¬(0x40000000 ≤ a ∧ a < 0x44000000) by omega), noMem]
    rfl
  case wait =>
    obtain ⟨running, dbg, none'⟩ := h
    have here := row running dbg (addr := 0) (by omega)
    have asleep : (sget {} (s.wr (pgCc c) R.ccState 2).cores c).irqEn = 0 := none'
    show execCoreAccess c .wfi 0 n v .ok [] s = _
    simp only [execCoreAccess, if_neg here, coreWake, asleep]
    simp [bitOf]

end Sys2Proof.Machine
end

section
/-! PROOFS. Stream Mover channels (R288 to R317). -/
namespace Sys2Proof.Machine
set_option Elab.async false
open Sys2Proof

/-! ### Channels and their registers -/

section
variable {s : State} {c : Nat}

@[simp] theorem chan_putChan_same (k : Chan) : (s.putChan c k).chan c = k := sget_sset_same ..
@[simp] theorem rd_putChan (k : Chan) (p : Nat) (f : Fld) (i : Nat) : (s.putChan c k).rd p f i = s.rd p f i := rfl
@[simp] theorem chSt_putChan (k : Chan) : (s.putChan c k).chSt c = s.chSt c := rfl
@[simp] theorem chan_wr (p : Nat) (f : Fld) (v i : Nat) : (s.wr p f v i).chan c = s.chan c := rfl
@[simp] theorem settle_chan (p : Nat) (busy : Bool) : (s.settle p busy).chan c = s.chan c :=
  (onlyRegs_settle s p busy).part fun u => u.chan c

/-- The fill level shows in BYTES_BUF and PAUSED (R294, R295). -/
theorem onlyRegs_chBuf (s : State) (c : Nat) : OnlyRegs s (chBuf s c) := by
  unfold chBuf chPace
  dsimp only
  split
  · exact (OnlyRegs.refl s).wr.wr
  · split
    · exact (OnlyRegs.refl s).wr.wr
    · split
      · exact (OnlyRegs.refl s).wr.wr
      · exact (OnlyRegs.refl s).wr

theorem chBuf_rd {f : Fld} {i : Nat} (hb : fldPos f i ≠ fldPos R.bytesBuf 0) (hp : fldPos f i ≠ fldPos R.chPaused 0) :
    (chBuf s c).rd (pgCh c) f i = s.rd (pgCh c) f i := by
  unfold chBuf chPace
  dsimp only
  split
  · exact (rd_wr_pos hp).trans (rd_wr_pos hb)
  · split
    · exact (rd_wr_pos hp).trans (rd_wr_pos hb)
    · split
      · exact (rd_wr_pos hp).trans (rd_wr_pos hb)
      · exact rd_wr_pos hb

/-- A channel that goes on with a descriptor runs, and fetches it (R289). -/
theorem chFetch_shows {a : Nat} : (chFetch s c a).chSt c = cRun ∧ ((chFetch s c a).chan c).fetch = some a ∧
    (chFetch s c a).mem = s.mem := by
  unfold chFetch
  dsimp only
  refine ⟨?_, congrArg Chan.fetch (chan_putChan_same _), ?_⟩
  · have run : (((s.setChSt c cRun).settle (pgCh c) true).wr (pgCh c) R.curDesc a).rd (pgCh c) R.chState = cRun :=
      (rd_wr_pos (by decide)).trans ((settle_rd (by decide)).trans (State.rd_wr_same ..))
    rw [chSt_putChan, State.chSt]
    split
    · exact run
    · exact (rd_wr_pos (f := R.extPend) (by decide)).trans run
  · have mem : (((s.setChSt c cRun).settle (pgCh c) true).wr (pgCh c) R.curDesc a).mem = s.mem :=
      (onlyRegs_settle ..).part State.mem
    split
    · exact mem
    · exact mem

/-- It keeps every register but its state, CUR_DESC and EXT_PEND. -/
theorem chFetch_rd {a : Nat} {f : Fld} {i : Nat} (hs : fldPos f i ≠ fldPos R.chState 0) (hp : fldPos f i ≠ fldPos R.pstate 0)
    (hd : fldPos f i ≠ fldPos R.curDesc 0) (he : fldPos f i ≠ fldPos R.extPend 0) :
    (chFetch s c a).rd (pgCh c) f i = s.rd (pgCh c) f i := by
  have kept : (((s.setChSt c cRun).settle (pgCh c) true).wr (pgCh c) R.curDesc a).rd (pgCh c) f i = s.rd (pgCh c) f i :=
    (rd_wr_pos hd).trans ((settle_rd hp).trans (rd_wr_pos hs))
  unfold chFetch
  dsimp only
  rw [rd_putChan]
  split
  · exact kept
  · exact (rd_wr_pos he).trans kept

/-- A channel without a node comes to rest in the state it is given (R319). -/
theorem chRest_shows {st : Nat} (noNode : (s.chan c).node = none) (hst : st < 16) :
    (chRest s c st).chSt c = st ∧ ((chRest s c st).chan c).fetch = none := by
  unfold chRest
  simp only [noNode]
  refine ⟨?_, congrArg Chan.fetch (((onlyRegs_chBuf ..).part fun u => u.chan c).trans (chan_putChan_same _))⟩
  refine (chBuf_rd (by decide) (by decide)).trans ((settle_rd (by decide)).trans ((State.rd_wr_same ..).trans ?_))
  exact Nat.mod_eq_of_lt hst

end

/-! ### Doorbells -/

/-- A doorbell through the channel's own page is a register write (R302). -/
theorem chDoor_row {s : State} {ini : Ini} {c off bar : Nat} {k : State → State} (hc : c < 64) :
    chDoor s ini false c off bar k = regRow s ini (pgCh c) off k := by
  simp [chDoor, Nat.not_le.2 hc]

/-- Settles O36: the count, the ring and the channel's state decide. -/
theorem channelDoorbells : Obligations.ChannelDoorbells := by
  intro ini c v hc
  have row {off bar : Nat} {k : State → State} (s : State) : (.next (chDoor s ini false c off bar k) : Result) =
      .next (regRow s ini (pgCh c) off k) := congrArg Host.Outcome.next (chDoor_row hc)
  have page {a b : State} : (if 64 ≤ c then a else b) = b := if_neg (Nat.not_le.2 hc)
  refine ⟨writeBrings_of (fun s => row s) fun u h => ?start, writes_of (fun s => row s) fun u h => ?wrong,
    writeBrings_of (fun s => row s) fun u h => ?ring, writeBrings_of (fun s => row s) fun u h => ?parked,
    writes_of (fun s => row s) fun u h => ?running, writes_of (fun s => row s) fun u h => if_pos h,
    writeBrings_of (fun _ => congrArg Host.Outcome.next page) fun u h => ?cancel,
    writeBrings_of (fun _ => congrArg Host.Outcome.next page) fun u h => ?disable⟩
  case start =>
    obtain ⟨chain, idle, working, next, new⟩ := h
    simp only [chDoorbell, chain, Bool.false_eq_true, if_false, if_neg new, idle, working, true_and, if_pos next]
    generalize hw : (u.wr (pgCh c) R.chStarted v).putChan c _ = w
    have pointer : w.rd (pgCh c) R.chainPtr = u.rd (pgCh c) R.chainPtr := by rw [← hw]; exact rd_wr_pos (by decide)
    have started : w.rd (pgCh c) R.chStarted = v % 65536 := by rw [← hw]; exact State.rd_wr_same ..
    obtain ⟨run, fetch, mem⟩ := chFetch_shows (s := w) (c := c) (a := w.rd (pgCh c) R.chainPtr)
    refine ⟨run, by rw [fetch, pointer], (chFetch_rd (by decide) (by decide) (by decide) (by decide)).trans started, ?_⟩
    rw [mem, ← hw]
    rfl
  case wrong =>
    obtain ⟨chain, new, skip⟩ := h
    have here : ¬(u.chSt c = cIdle ∧ u.working (pgCh c) = true ∧ v % 65536 = (u.rd (pgCh c) R.chStarted + 1) % 65536) :=
      fun h => skip h.2.2
    simp only [chDoorbell, chain, Bool.false_eq_true, if_false, if_neg new, if_neg here]
  case ring =>
    obtain ⟨ring, idle, working, on, new, more, inside, ok⟩ := h
    have taken : ¬(u.on (pgCh c) R.enable = false ∨ u.rd (pgCh c) R.chRingCount ≤ ixIdx v ∨
        ringOkRd (u.rd (pgCh c) R.chRingCount) (v % 131072) (u.rd (pgCh c) R.chRingHead) = false) := by
      simp only [on, ok, Bool.true_eq_false, false_or, or_false]
      omega
    have waits : ¬cIdle = cWaitOwn := by decide
    simp only [chDoorbell, ring, if_true, if_neg new, if_neg taken, idle, if_neg waits]
    generalize hw : u.wr (pgCh c) R.chRingTail (v % 131072) = w
    have tail : w.rd (pgCh c) R.chRingTail = v % 131072 := by
      rw [← hw]
      exact (State.rd_wr_same ..).trans (Nat.mod_mod ..)
    have working' : w.working (pgCh c) = true := by
      have state : w.rd (pgCh c) R.pstate = u.rd (pgCh c) R.pstate := by rw [← hw]; exact rd_wr_pos (by decide)
      rw [State.working, state]
      exact working
    have head : ringHeadAddr w c = ringHeadAddr u c := by
      rw [← hw, ringHeadAddr, ringHeadAddr, rd_wr_pos (by decide), rd_wr_pos (by decide)]
    have here : True ∧ True ∧ w.working (pgCh c) = true ∧ w.rd (pgCh c) R.chRingTail ≠ u.rd (pgCh c) R.chRingHead :=
      ⟨trivial, trivial, working', by rw [tail]; exact more⟩
    rw [if_pos here]
    obtain ⟨run, fetch, _⟩ := chFetch_shows (s := w.putChan c { w.chan c with cancel := false }) (c := c) (a := ringHeadAddr w c)
    exact ⟨(chFetch_rd (by decide) (by decide) (by decide) (by decide)).trans tail, run, by rw [fetch, head]⟩
  case parked =>
    obtain ⟨chain, parked⟩ := h
    simp only [chExtend, chain, Bool.false_eq_true, if_false, if_pos parked]
    simp only [State.chSt, rd_putChan, chan_putChan_same]
    exact ⟨(rd_wr_pos (by decide)).trans ((settle_rd (by decide)).trans (State.rd_wr_same ..)), trivial, State.rd_wr_same ..⟩
  case running =>
    obtain ⟨chain, run⟩ := h
    have parked : ¬cRun = cParked := by decide
    simp only [chExtend, chain, Bool.false_eq_true, if_false, run, if_neg parked, true_or, if_true]
  case cancel =>
    obtain ⟨chain, run, idle, noNode⟩ := h
    have rests : ¬(cRun = cParked ∨ cRun = cHalted ∨ cRun = cWaitOwn) := by decide
    have waits : ¬cRun = cCqWait := by decide
    simp only [cancelChan, run, if_neg rests, if_neg waits, if_true, idle, chain, Bool.false_eq_true, if_false]
    exact chRest_shows ((congrArg Chan.node (chan_putChan_same _)).trans noNode) (by decide)
  case disable =>
    obtain ⟨notOff, fenced, reset⟩ := h
    simp only [disableChan, if_neg notOff]
    generalize hv : (State.setChSt _ c cDraining).wr (pgCh c) R.chPaused 0 = v
    have state : v.rd (pgCh c) R.pstate = u.rd (pgCh c) R.pstate := by
      rw [← hv]
      simp (disch := decide) only [State.setChSt, rd_wr_pos]
      rfl
    have draining : v.chSt c = cDraining := by
      rw [← hv]
      simp (disch := decide) only [State.chSt, State.setChSt, rd_wr_pos, State.rd_wr_same]
      decide
    have off : v.rd (pgCh c) R.enable = 0 := by
      rw [← hv]
      simp (disch := decide) only [State.setChSt, rd_wr_pos]
      exact State.rd_wr_same ..
    have mem : v.mem = u.mem := by
      rw [← hv]
      simp only [State.setChSt, State.wr_mem]
      rfl
    have open' : ¬(v.fenced (pgCh c) = true ∨ v.rd (pgCh c) R.pstate = psResetting) := by
      rw [State.fenced, state, ← State.fenced, fenced]
      simp [reset]
    simp only [if_neg open', chSt_putChan, rd_putChan, chan_putChan_same, Chan.inflight]
    exact ⟨(rd_wr_pos (by decide)).trans draining, (rd_wr_pos (by decide)).trans off, State.rd_wr_same .., trivial, mem⟩

/-! ### Descriptors and data -/

/-- Settles O37: what was fetched ahead is run, and else what is read; a second attempt is counted and recorded. -/
theorem channelData : Obligations.ChannelData := by
  intro c a i hit host r w s s' bs ret hc
  have page : ¬64 ≤ c := Nat.not_le.2 hc
  refine ⟨fun fetch none' read => ?fetched, fun fetch ahead => ?kept, fun none' ahead read => ?prefetched,
    fun st open' more => ⟨fun got => ?beat, fun got => ?late, fun got => ?denied⟩, fun fail => ⟨fun got => ?retried, fun got => ?lost⟩⟩
  case fetched =>
    show execSmvDescFetch c hit host s = _
    simp only [execSmvDescFetch, if_neg page, fetch, none', chReadDesc, read]
  case kept =>
    show execSmvDescFetch c hit host s = _
    simp only [execSmvDescFetch, if_neg page, fetch, ahead, if_true]
  case prefetched =>
    show execSmvDescFetch c hit host s = _
    simp only [execSmvDescFetch, if_neg page, none', ahead, read]
    cases ret with
    | false => rfl
    | true => rfl
  case beat =>
    have here : ¬(64 ≤ c ∨ (s.chan c).st ≠ 1 ∨ (s.chan c).fail.isSome = true) := by simp [page, st, open']
    show execSmvReadResponse c r 0 w false host s = _
    simp only [execSmvReadResponse, if_neg here, if_neg more, got]
    rfl
  case late =>
    have here : ¬(64 ≤ c ∨ (s.chan c).st ≠ 1 ∨ (s.chan c).fail.isSome = true) := by simp [page, st, open']
    show execSmvReadResponse c r 0 w false host s = _
    simp only [execSmvReadResponse, if_neg here, if_neg more, got, chFailed]
  case denied =>
    have here : ¬(64 ≤ c ∨ (s.chan c).st ≠ 1 ∨ (s.chan c).fail.isSome = true) := by simp [page, st, open']
    show execSmvReadResponse c r 0 w false host s = _
    simp only [execSmvReadResponse, if_neg here, if_neg more, got, chFailed]
  case retried =>
    show execSmvTransferFail c r host s = _
    simp only [execSmvTransferFail, if_neg page, fail, if_true, got]
  case lost =>
    show execSmvTransferFail c r host s = _
    simp only [execSmvTransferFail, if_neg page, fail, if_true, got, chLost]

/-! ### Ends -/

/-- Settles O38: each step of a descriptor's end leads to the next. -/
theorem channelEnds : Obligations.ChannelEnds := by
  intro c a hit host w s s' bs n ret hc
  have page : ¬64 ≤ c := Nat.not_le.2 hc
  refine ⟨fun st open' read written => ?last, fun st read => ?flushed, fun st chain written chain' => ?group,
    fun st room open' written => ?record, fun due st read good => ⟨fun next => ?next, fun next off => ?done⟩,
    fun st open' late => ?budget, fun off draining fenced reset => ?drained, fun on st run status => ?goesOn⟩
  case last =>
    have here : ¬(64 ≤ c ∨ (s.chan c).st ≠ 1 ∨ (s.chan c).fail.isSome = true ∨ ((s.chan c).srcMode ≠ 2 ∧ (s.chan c).rdDone < (s.chan c).beats)) := by
      simp [page, st, open', read]
    have none' : (s.chan c).beats - (s.chan c).wrDone = 0 := by omega
    show execSmvCompletionPoint c w false s = _
    simp only [execSmvCompletionPoint, if_neg here, none', chWrites]
    exact congrArg Host.Outcome.next (if_pos ⟨st, written⟩)
  case flushed =>
    have here : ¬(64 ≤ c ∨ (s.chan c).st ≠ 3) := by simp [page, st]
    show execFlushDone c hit host s = _
    simp only [execFlushDone, if_neg here, read]
  case group =>
    have here : ¬(64 ≤ c ∨ (s.chan c).st ≠ 4) := by simp [page, st]
    show execWriteBackDone c hit s = _
    simp only [execWriteBackDone, if_neg here, written, chain', Bool.false_eq_true, false_and, if_false, true_or, if_true]
    rfl
  case record =>
    have here : ¬(64 ≤ c ∨ (s.chan c).st ≠ 5 ∨ crFull s c = true) := by simp [page, st, room]
    show execSmvRecordDone c hit s = _
    simp only [execSmvRecordDone, if_neg here, if_neg open', written]
    rfl
  case next =>
    have here : ¬(64 ≤ c ∨ (s.chan c).tailDue = false) := by simp [page, due]
    show execTailRereadData c hit host s = _
    simp only [execTailRereadData, if_neg here, read, good, next]
    simp only [st, if_true, Bool.false_eq_true, false_and, if_false]
    rfl
  case done =>
    have here : ¬(64 ≤ c ∨ (s.chan c).tailDue = false) := by simp [page, due]
    have off' : ((chAgain s' c false).on (pgCh c) R.extPend) = false := off
    show execTailRereadData c hit host s = _
    simp only [execTailRereadData, if_neg here, read, good, next]
    simp only [st, if_true, Bool.false_eq_true, false_and, if_false, off']
    rfl
  case budget =>
    have here : ¬(64 ≤ c ∨ (s.chan c).st ≠ 1 ∨ s.time < (s.chan c).start + usTicks (s.chan c).budget) := by simp [page, st, late]
    show execSmvBudgetExpiry c s = _
    simp only [execSmvBudgetExpiry, if_neg here, open', Option.isSome_none]
    rfl
  case drained =>
    show execChannelDrainDone c s = _
    have open' : ¬(((s.setChSt c cOff).putChan c
        { lastPcie := (s.chan c).lastPcie, node := (s.chan c).node, nodeSt := (s.chan c).nodeSt }).fenced (pgCh c) = true ∨
        ((s.setChSt c cOff).putChan c
        { lastPcie := (s.chan c).lastPcie, node := (s.chan c).node, nodeSt := (s.chan c).nodeSt }).rd (pgCh c) R.pstate = psResetting) := by
      have state : (s.setChSt c cOff).rd (pgCh c) R.pstate = s.rd (pgCh c) R.pstate := rd_wr_pos (by decide)
      rw [State.fenced, rd_putChan, state, ← State.fenced, fenced]
      simp [reset]
    simp only [execChannelDrainDone, if_neg page, off, draining, and_self, if_true, if_neg open']
  case goesOn =>
    have off' : ¬(s.on (pgCh c) R.enable = false ∧ s.chSt c = cDraining) := by simp [on]
    have run' : ¬s.chSt c = cDraining := by rw [run]; decide
    have status' : ¬(s.chan c).status = stCancelled := by rw [status]; decide
    show execChannelDrainDone c s = _
    simp only [execChannelDrainDone, if_neg page, if_neg off', if_pos st]
    simp only [if_neg run', if_neg status']

end Sys2Proof.Machine
end

section
/-! PROOFS. Prefetch queues, and the translations of queues and channels (R322 to R347). -/
namespace Sys2Proof.Machine
set_option Elab.async false
open Sys2Proof

/-! ### Queues and their registers -/

section
variable {s : State} {q : Nat}

@[simp] theorem pq_putPq_same (k : Pq) : (s.putPq q k).pq q = k := sget_sset_same ..
@[simp] theorem rd_putPq (k : Pq) (p : Nat) (f : Fld) (i : Nat) : (s.putPq q k).rd p f i = s.rd p f i := rfl
@[simp] theorem injectNow_putPq (k : Pq) (p bit : Nat) : injectNow (s.putPq q k) p bit = injectNow s p bit := rfl
@[simp] theorem qSt_putPq (k : Pq) : (s.putPq q k).qSt q = s.qSt q := rfl
@[simp] theorem pq_wr (p : Nat) (f : Fld) (v i : Nat) : (s.wr p f v i).pq q = s.pq q := rfl

/-- A register beside those of the injection takes no injection. -/
theorem injectNow_wr {p bit v i : Nat} {f : Fld} (h : ∀ g ∈ [R.injArm, R.injCont, R.injBit], fldPos g 0 ≠ fldPos f i) :
    injectNow (s.wr p f v i) p bit = injectNow s p bit := by
  simp only [List.mem_cons, List.not_mem_nil, or_false, forall_eq_or_imp, forall_eq] at h
  obtain ⟨arm, cont, bit'⟩ := h
  simp only [injectNow, State.on, rd_wr_pos arm, rd_wr_pos cont, rd_wr_pos bit']

/-- A flag that is set stays set when another is raised (R39). -/
theorem pageErr_raise_keeps {p b k : Nat} (hk : k < 32) (set : bitOf (s.rd p R.pageErr) k = true) :
    bitOf ((s.raise p b).rd p R.pageErr) k = true := by
  have flag (u : State) (b : Nat) (set : bitOf (u.rd p R.pageErr) k = true) : bitOf ((u.flag p b).rd p R.pageErr) k = true := by
    rw [bitOf_pageErr_flag u p b hk, set]
    rfl
  unfold State.raise
  split
  · have taken : (s.wr p R.injArm 0).rd p R.pageErr = s.rd p R.pageErr := rd_wr_pos (by decide)
    exact flag _ eInjected (flag (injectTake s p b) b ((congrArg (bitOf · k) taken).trans set))
  · exact flag s b set

/-- A release changes registers, and marks a wrong one (R328, R330). -/
theorem qRelease_part {α : Type} (g : State → α) (regs : ∀ (u : State) r p j, g { u with regs := r, reports := p, injections := j } = g u)
    (v : Nat) : g (qRelease s q v) = g s := by
  unfold qRelease
  dsimp only
  split
  · exact regs s _ s.reports s.injections
  · split
    · rfl
    · split
      · exact (flags_prog ..).part g (regs _ _ _ _)
      · exact regs s _ s.reports s.injections

theorem qRelease_rd {v i : Nat} {f : Fld} (hm : markPos (fldPos f i) = false) (hf : fldPos f i < 1048576)
    (free : ∀ g ∈ [R.qStaleCnt, R.consIdx, R.qOccupied, R.qReturning], fldPos f i ≠ fldPos g 0) :
    (qRelease s q v).rd (pgPq q) f i = s.rd (pgPq q) f i := by
  simp only [List.mem_cons, List.not_mem_nil, or_false, forall_eq_or_imp, forall_eq] at free
  obtain ⟨stale, cons, occupied, returning⟩ := free
  unfold qRelease
  dsimp only
  split
  · exact rd_wr_pos stale
  · split
    · rfl
    · split
      · exact (flags_prog ..).rd hm hf
      · exact (rd_wr_pos returning).trans ((rd_wr_pos occupied).trans (rd_wr_pos cons))

/-- A flag that is set stays set. -/
theorem qRelease_flag {v k : Nat} (hk : k < 32) (set : bitOf (s.rd (pgPq q) R.pageErr) k = true) :
    bitOf ((qRelease s q v).rd (pgPq q) R.pageErr) k = true := by
  unfold qRelease
  dsimp only
  split
  · rw [show (s.bump (pgPq q) R.qStaleCnt).rd (pgPq q) R.pageErr = _ from rd_wr_pos (by decide)]
    exact set
  · split
    · exact set
    · split
      · exact pageErr_raise_keeps hk set
      · simp (disch := decide) only [State.bump, rd_wr_pos]
        exact set

/-- The releases held for an audit go on (R333). -/
theorem qLetGo_rd {i : Nat} {f : Fld} (hm : markPos (fldPos f i) = false) (hf : fldPos f i < 1048576)
    (free : ∀ g ∈ [R.qStaleCnt, R.consIdx, R.qOccupied, R.qReturning], fldPos f i ≠ fldPos g 0) :
    (qLetGo s q).rd (pgPq q) f i = s.rd (pgPq q) f i :=
  foldl_leaves (fun u => u.rd (pgPq q) f i) (fun _ _ => qRelease_rd hm hf free) _ _

theorem qLetGo_flag {k : Nat} (hk : k < 32) (set : bitOf (s.rd (pgPq q) R.pageErr) k = true) :
    bitOf ((qLetGo s q).rd (pgPq q) R.pageErr) k = true := by
  unfold qLetGo
  dsimp only
  generalize (s.pq q).held = l
  have start : bitOf ((s.putPq q { s.pq q with held := [] }).rd (pgPq q) R.pageErr) k = true := set
  generalize s.putPq q { s.pq q with held := [] } = u at start
  induction l generalizing u with
  | nil => exact start
  | cons v l ih => exact ih _ (qRelease_flag hk start)

/-- What a stream that begins to drain leaves (R336, R341): its books, its state, and how it will end. -/
theorem qBegin_shape {st : Nat} {cancel : Bool} : ∃ a c k, qBegin s q st cancel =
    ((((((qLetGo s q).wr (pgPq q) R.qReserved a).wr (pgPq q) R.qDraining a).wr (pgPq q) R.qOccupied c).wr (pgPq q) R.qState qDrain).putPq
      q k) ∧ k.ending = some st ∧ (cancel = true → c = 0) :=
  ⟨_, _, _, rfl, rfl, fun h => if_pos h⟩

/-- Every other register stays. -/
theorem qBegin_rd {st i : Nat} {cancel : Bool} {f : Fld} (hm : markPos (fldPos f i) = false) (hf : fldPos f i < 1048576)
    (free : ∀ g ∈ [R.qStaleCnt, R.consIdx, R.qOccupied, R.qReturning, R.qReserved, R.qDraining, R.qState], fldPos f i ≠ fldPos g 0) :
    (qBegin s q st cancel).rd (pgPq q) f i = s.rd (pgPq q) f i := by
  simp only [List.mem_cons, List.not_mem_nil, or_false, forall_eq_or_imp, forall_eq] at free
  obtain ⟨stale, cons, occupied, returning, reserved, draining, state⟩ := free
  obtain ⟨a, c, k, shape, _, _⟩ := qBegin_shape (s := s) (q := q) (st := st) (cancel := cancel)
  rw [shape, rd_putPq, rd_wr_pos state, rd_wr_pos occupied, rd_wr_pos draining, rd_wr_pos reserved]
  exact qLetGo_rd hm hf (by simp [stale, cons, occupied, returning])

/-- It drains, with its status and, when cancelled, without credits. -/
theorem qBegin_shows {st : Nat} {cancel : Bool} : (qBegin s q st cancel).qSt q = qDrain ∧
    ((qBegin s q st cancel).pq q).ending = some st ∧
    (cancel = true → (qBegin s q st cancel).rd (pgPq q) R.qOccupied = 0) := by
  obtain ⟨a, c, k, shape, ending, books⟩ := qBegin_shape (s := s) (q := q) (st := st) (cancel := cancel)
  rw [shape, pq_putPq_same, qSt_putPq, rd_putPq]
  refine ⟨State.rd_wr_same .., ending, fun full => ?_⟩
  rw [rd_wr_pos (by decide), State.rd_wr_same, books full]
  rfl

theorem qBegin_part {α : Type} (g : State → α) {st : Nat} {cancel : Bool}
    (regs : ∀ (u : State) r p j, g { u with regs := r, reports := p, injections := j } = g u)
    (pqs : ∀ (u : State) l, g { u with pqs := l } = g u) : g (qBegin s q st cancel) = g s := by
  obtain ⟨a, c, k, shape, _, _⟩ := qBegin_shape (s := s) (q := q) (st := st) (cancel := cancel)
  rw [shape]
  refine (pqs _ _).trans ((regs (qLetGo s q) _ (qLetGo s q).reports (qLetGo s q).injections).trans ?_)
  exact (foldl_leaves g (fun _ _ => qRelease_part g regs _) _ _).trans (pqs _ _)

theorem qBegin_flag {st k : Nat} {cancel : Bool} (hk : k < 32) (set : bitOf (s.rd (pgPq q) R.pageErr) k = true) :
    bitOf ((qBegin s q st cancel).rd (pgPq q) R.pageErr) k = true := by
  obtain ⟨a, c, x, shape, _, _⟩ := qBegin_shape (s := s) (q := q) (st := st) (cancel := cancel)
  rw [shape]
  simp (disch := decide) only [rd_putPq, rd_wr_pos]
  exact qLetGo_flag hk set

/-- Through the queue's own page, a doorbell is a register write (R328). -/
theorem qDoor_row {ini : Ini} {off : Nat} {k : State → State} (hq : q < 64) :
    qDoor s ini false q off k = regRow s ini (pgPq q) off k := by
  simp [qDoor, Nat.not_le.2 hq]

end

/-! ### Streams -/

/-- Settles O39: the count, the ring and the queue's state decide. -/
theorem queueStreams : Obligations.QueueStreams := by
  intro ini q v hit host hq
  have page : ¬64 ≤ q := Nat.not_le.2 hq
  have here {a b : State} : (if 64 ≤ q then a else b) = b := if_neg page
  have start (s : State) : exec (.queueStart ini false q v) s = .next (regRow s ini (pgPq q) 0x0B0 fun s => qStart s q v) :=
    congrArg Host.Outcome.next (qDoor_row hq)
  have release (s : State) : exec (.queueRelease ini false q v) s =
      .next (regRow s ini (pgPq q) 0x0B4 fun s => qReleaseIn s q (v % 131072)) := congrArg Host.Outcome.next (qDoor_row hq)
  have released {u : State} (noSnap : (u.pq q).snap = false) (state : u.qSt q ≠ qDrain) (hv : v < 131072) :
      qReleaseIn u q (v % 131072) = qRelease u q v := by
    simp [qReleaseIn, noSnap, Nat.mod_eq_of_lt hv]
  refine ⟨writeBrings_of start fun u h => ?start, writes_of start fun u h => ?wrong, writeBrings_of release fun u h => ?release,
    writes_of release fun u h => ?outside, fun n s opened => ?bar4, fun s s' bs ret fetch read calm' => ?fetched,
    fun s h => congrArg Host.Outcome.next (if_neg (by simp [page, h])),
    writeBrings_of (fun _ => congrArg Host.Outcome.next here) fun u h => ?cancel,
    writeBrings_of (fun _ => congrArg Host.Outcome.next here) fun u h => ?disable⟩
  case start =>
    obtain ⟨idle, working, next, new⟩ := h
    have taken : u.qSt q = qIdle ∧ u.working (pgPq q) = true ∧ v % 65536 = (u.rd (pgPq q) R.qStarted + 1) % 65536 :=
      ⟨idle, working, next⟩
    simp only [qStart, if_neg new, if_pos taken]
    simp only [pq_putPq_same, rd_putPq, State.qSt, State.setQSt]
    refine ⟨?_, trivial, ?_, State.rd_wr_same ..⟩
    · exact (rd_wr_pos (by decide)).trans ((settle_rd (by decide)).trans (State.rd_wr_same ..))
    · exact (rd_wr_pos (by decide)).trans ((settle_rd (by decide)).trans ((rd_wr_pos (by decide)).trans (State.rd_wr_same ..)))
  case wrong =>
    obtain ⟨new, busy⟩ := h
    have refused : ¬(u.qSt q = qIdle ∧ u.working (pgPq q) = true ∧ v % 65536 = (u.rd (pgPq q) R.qStarted + 1) % 65536) :=
      fun h => busy h.1
    simp only [qStart, if_neg new, if_neg refused]
  case release =>
    obtain ⟨noSnap, state, hv, new, between⟩ := h
    have inside : ¬ringBetween (u.rd (pgPq q) R.qCap) (u.rd (pgPq q) R.prodIdx) (u.rd (pgPq q) R.consIdx) v = false := by simp [between]
    rw [released noSnap state hv]
    simp only [qRelease, if_neg state, if_neg new, if_neg inside]
    refine ⟨?_, (OnlyRegs.refl u).wr.wr.wr, ((RegsBut.refl _ u).wr (by simp)).wr (by simp) |>.wr (by simp)⟩
    simp (disch := decide) only [State.bump, rd_wr_pos, State.rd_wr_same]
    exact Nat.mod_eq_of_lt hv
  case outside =>
    obtain ⟨noSnap, state, hv, new, outside⟩ := h
    rw [released noSnap state hv]
    simp only [qRelease, if_neg state, if_neg new, if_pos outside]
  case bar4 =>
    have door (off : Nat) (k : State → State) : qDoor s (.fn n) true q off k = k (doorAdmit s n) := by
      simp only [qDoor, if_neg page, if_true]
      exact doorbell_open opened
    exact ⟨congrArg Host.Outcome.next (door ..), congrArg Host.Outcome.next (door ..)⟩
  case fetched =>
    have fetching : ¬(64 ≤ q ∨ (s.pq q).fetch = false) := by simp [page, fetch]
    show execStreamDescFetch q hit host s = _
    simp only [execStreamDescFetch, if_neg fetching, read]
    have time : (if ret = true then s'.bump (pgPq q) R.qRetryCnt else s').time = s'.time := by cases ret <;> rfl
    have quiet : injectNow (if ret = true then s'.bump (pgPq q) R.qRetryCnt else s') (pgPq q) eProg = false := by
      cases ret with
      | false => exact calm'
      | true => exact (injectNow_wr (by decide)).trans calm'
    rw [time]
    generalize (if ret = true then s'.bump (pgPq q) R.qRetryCnt else s') = u at quiet
    have begun : injectNow (u.wr (pgPq q) R.nextElem 0) (pgPq q) eProg = false := (injectNow_wr (by decide)).trans quiet
    have quiet' (k : Pq) : injectNow ((u.wr (pgPq q) R.nextElem 0).putPq q k) (pgPq q) eProg = false := begun
    simp only [State.found, hit_calm (quiet' _), raiseI_calm (quiet' _)]
    cases ok : qFieldsOk { s.pq q with fetch := false, desc := bs, start := s'.time, retried := ret } <;> rfl
  case cancel =>
    simp only [if_pos h]
    obtain ⟨drains, ends, books⟩ := qBegin_shows (s := qGiveUp u q) (q := q) (st := stCancelled) (cancel := true)
    exact ⟨drains, ends, books rfl⟩
  case disable =>
    obtain ⟨run, fenced, reset⟩ := h
    have run' : (u.wr (pgPq q) R.enable 0).qSt q = qRun := (rd_wr_pos (by decide)).trans run
    have notOff : ¬qRun = qOff := by decide
    have notDrain : ¬qRun = qDrain := by decide
    simp only [disableQueue, run', if_neg notOff, if_neg notDrain]
    obtain ⟨drains, _, _⟩ := qBegin_shows (s := u.wr (pgPq q) R.enable 0) (q := q) (st := stCancelled) (cancel := false)
    have state : (qBegin (u.wr (pgPq q) R.enable 0) q stCancelled false).rd (pgPq q) R.pstate = u.rd (pgPq q) R.pstate :=
      (qBegin_rd (by decide) (by decide) (by decide)).trans (rd_wr_pos (by decide))
    have off : (qBegin (u.wr (pgPq q) R.enable 0) q stCancelled false).rd (pgPq q) R.enable = 0 :=
      (qBegin_rd (by decide) (by decide) (by decide)).trans (State.rd_wr_same ..)
    generalize qBegin (u.wr (pgPq q) R.enable 0) q stCancelled false = w at drains state off
    have open' (k : Pq) : ¬((w.putPq q k).fenced (pgPq q) = true ∨ (w.putPq q k).rd (pgPq q) R.pstate = psResetting) := by
      rw [State.fenced, rd_putPq, state, ← State.fenced, fenced]
      simp [reset]
    rw [if_neg (open' _)]
    exact ⟨(rd_wr_pos (by decide)).trans drains, (rd_wr_pos (by decide)).trans off, State.rd_wr_same ..⟩

/-! ### Responses and ends -/

/-- A budget that is over drains the stream, with TIMEOUT, a flag and a record (R340). -/
theorem pfqBudget_brings {s : State} {q : Nat} (hq : q < 64) (busy : (s.pq q).desc ≠ []) (run : s.qSt q = qRun)
    (late : (s.pq q).start + usTicks (s.pq q).budget ≤ s.time) (fresh : ∀ y ∈ (s.pq q).reqs, y.again = false) :
    ∃ t, exec (.pfqBudgetExpiry q) s = .next t ∧ t.qSt q = qDrain ∧ (t.pq q).ending = some stTimeout ∧
      bitOf (t.rd (pgPq q) R.pageErr) eTimeout = true ∧ t.logQ.length = s.logQ.length + 1 := by
  have here : ¬(64 ≤ q ∨ (s.pq q).desc = [] ∨ (s.qSt q ≠ qRun ∧ s.qSt q ≠ qHaltd) ∨ s.time < (s.pq q).start + usTicks (s.pq q).budget) := by
    simp [run, busy, hq, late]
  generalize hl : s.logI (s.pq q).inc
    { event := 0x19, level := 2, cls := if 1 ≤ sget 0 s.toRuns (jobKey (pgPq q) 0) then 2 else 0, part := s.ownerOf (pgPq q),
      page := pgPq q, tag := (s.pq q).tag, d0 := q } = l
  have records : l.2.logQ.length = s.logQ.length + 1 := by rw [← hl]; exact logI_logQ_length ..
  generalize hu : l.2.putPq q { s.pq q with inc := l.1 } = u
  have none' : qGiveUp u q = u := by
    have idle : (u.pq q).reqs.filter (·.again) = [] := by
      rw [← hu, pq_putPq_same]
      exact List.filter_eq_nil_iff.2 fun y hy => by simp [fresh y hy]
    simp [qGiveUp, idle]
  have step : execPfqBudgetExpiry q s = .next (qBegin (u.raise (pgPq q) eTimeout) q stTimeout false) := by
    simp only [execPfqBudgetExpiry, if_neg here, hl, hu, none']
  obtain ⟨drains, ends, _⟩ := qBegin_shows (s := u.raise (pgPq q) eTimeout) (q := q) (st := stTimeout) (cancel := false)
  refine ⟨_, step, drains, ends, qBegin_flag (by decide) (bitOf_pageErr_raise _ _ (by decide)), ?_⟩
  rw [qBegin_part State.logQ (fun _ _ _ _ => rfl) fun _ _ => rfl, (flags_raise u (pgPq q) eTimeout).part State.logQ, ← hu]
  exact records

/-- The books that an audit captures (R333). -/
def auditBooks (s : State) (q : Nat) : State :=
  (((((s.wr (pgPq q) R.aFree (qFreeOf s q)).wr (pgPq q) R.aReserved (s.rd (pgPq q) R.qReserved)).wr (pgPq q) R.aOccupied
    (s.rd (pgPq q) R.qOccupied)).wr (pgPq q) R.aDraining (s.rd (pgPq q) R.qDraining)).wr (pgPq q) R.auditTime s.time).wr
      (pgPq q) R.snapValid 1

theorem auditBooks_shows {s : State} {q : Nat} : (auditBooks s q).rd (pgPq q) R.snapValid = 1 ∧
    (auditBooks s q).rd (pgPq q) R.aFree = qFreeOf s q % 2 ^ R.aFree.w ∧
    (auditBooks s q).rd (pgPq q) R.aOccupied = s.rd (pgPq q) R.qOccupied % 2 ^ R.aOccupied.w ∧
    (auditBooks s q).mem = s.mem ∧ (auditBooks s q).logQ = s.logQ := by
  unfold auditBooks
  simp (disch := decide) only [rd_wr_pos, State.rd_wr_same, State.wr_mem, State.wr_logQ, and_true]
  decide

/-- Settles O40: a drained queue drops what arrives, and else the answer decides. -/
theorem queueEnds : Obligations.QueueEnds := by
  intro ini q i b host s s' v x hq
  have page : ¬64 ≤ q := Nat.not_le.2 hq
  refine ⟨fun found first tried => ⟨fun drains => ?dropped, fun runs => ⟨fun bs got => ?landed, fun k got => ?denied, fun noData noDenial => ?again⟩⟩,
    fun found tried => ⟨fun bs got => ?retried, fun k got => ?lost, fun k got => ?late⟩, pfqBudget_brings hq,
    fun drains idle => ⟨fun off fenced reset => ?off, fun on ending => ?ended⟩,
    writes_of (fun _ => congrArg Host.Outcome.next (if_neg page)) fun _ _ => rfl, fun asked returned held calm' books => ?audit⟩
  case dropped =>
    show execPfqResponse q i b host s = _
    simp only [execPfqResponse, if_neg page, found, first, Bool.false_eq_true, if_false, tried, qSt_putPq, if_pos drains]
  case landed =>
    subst got
    show execPfqResponse q i b host s = _
    simp only [execPfqResponse, if_neg page, found, first, Bool.false_eq_true, if_false, tried, qSt_putPq, if_neg runs]
  case denied =>
    subst got
    show execPfqResponse q i b host s = _
    simp only [execPfqResponse, if_neg page, found, first, Bool.false_eq_true, if_false, tried, qSt_putPq, if_neg runs]
  case again =>
    show execPfqResponse q i b host s = _
    simp only [execPfqResponse, if_neg page, found, first, Bool.false_eq_true, if_false, tried, qSt_putPq, if_neg runs]
  case retried =>
    subst got
    show execPfqTransferFail q b host s = _
    simp only [execPfqTransferFail, if_neg page, found, tried]
  case lost =>
    subst got
    show execPfqTransferFail q b host s = _
    simp only [execPfqTransferFail, if_neg page, found, tried]
  case late =>
    subst got
    show execPfqTransferFail q b host s = _
    simp only [execPfqTransferFail, if_neg page, found, tried]
  case off =>
    have here : ¬(64 ≤ q ∨ s.qSt q ≠ qDrain ∨ (s.pq q).reqs ≠ []) := by simp [page, drains, idle]
    generalize hw : (s.setQSt q qOff).putPq q { snap := (s.pq q).snap, held := (s.pq q).held } = w
    have state : w.rd (pgPq q) R.pstate = s.rd (pgPq q) R.pstate := by
      rw [← hw, rd_putPq, State.setQSt]
      exact rd_wr_pos (by decide)
    have isOff : w.qSt q = qOff := by
      rw [← hw, qSt_putPq, State.setQSt]
      exact State.rd_wr_same ..
    have empty : (w.pq q).desc = [] := by rw [← hw, pq_putPq_same]
    have open' : ¬(w.fenced (pgPq q) = true ∨ w.rd (pgPq q) R.pstate = psResetting) := by
      rw [State.fenced, state, ← State.fenced, fenced]
      simp [reset]
    have step : execQueueDrainDone q s = .next (w.wr (pgPq q) R.pstate psOff) := by
      simp only [execQueueDrainDone, if_neg here, off, if_true, hw, if_neg open']
    exact ⟨_, step, (rd_wr_pos (by decide)).trans isOff, State.rd_wr_same .., empty⟩
  case ended =>
    have here : ¬(64 ≤ q ∨ s.qSt q ≠ qDrain ∨ (s.pq q).reqs ≠ []) := by simp [page, drains, idle]
    have failed : ¬stBusErr = stCancelled := by decide
    show execQueueDrainDone q s = _
    simp only [execQueueDrainDone, if_neg here, on, Bool.true_eq_false, if_false, ending, Option.getD_some, if_neg failed]
  case audit =>
    have here : ¬(64 ≤ q ∨ (s.pq q).snap = false ∨ s.rd (pgPq q) R.qReturning ≠ 0) := by simp [page, asked, returned]
    obtain ⟨valid, free, occupied, mem, records⟩ := auditBooks_shows (s := s) (q := q)
    have step : execAuditCapture q s = .next (qLetGo ((auditBooks s q).putPq q { s.pq q with snap := false }) q) := by
      simp only [execAuditCapture, if_neg here]
      rw [hit_calm]
      · simp (disch := decide) only [rd_putPq, rd_wr_pos, books, bne_self_eq_false]
        rfl
      · simp (disch := decide) only [injectNow_putPq, injectNow_wr]
        exact injectNow_calm calm' 8
    refine ⟨_, step, ?_⟩
    generalize auditBooks s q = w at *
    have idle : qLetGo (w.putPq q { s.pq q with snap := false }) q = (w.putPq q { s.pq q with snap := false }).putPq q
        { s.pq q with snap := false, held := [] } := by
      simp only [qLetGo, pq_putPq_same, held]
      rfl
    rw [idle, rd_putPq, rd_putPq, rd_putPq, pq_putPq_same]
    exact ⟨valid, rfl, free, occupied, mem, records⟩

/-! ### Translations -/

/-- An invalidation that has reached every unit of its function (R347). -/
def invalidated (s : State) (fn key page n : Nat) : State :=
  (List.range 64).foldl (fun s q => if unitFn s (64 + q) = fn then qInval s q key page n else s)
    ((List.range 64).foldl (fun s c => if unitFn s c = fn then chInval s c key page n else s) s)

theorem invalidated_part {α : Type} (g : State → α) {s : State} {fn key page n : Nat}
    (chans : ∀ (u : State) l, g { u with chans := l } = g u) (pqs : ∀ (u : State) l, g { u with pqs := l } = g u) :
    g (invalidated s fn key page n) = g s := by
  refine (foldl_leaves g (fun u q => ?_) _ _).trans (foldl_leaves g (fun u c => ?_) _ _)
  · split
    · exact pqs ..
    · rfl
  · split
    · exact chans ..
    · rfl

/-- It takes the covered translations from the function's queues, and leaves the other queues. -/
theorem invalidated_pq {s : State} {fn key page n q : Nat} (hq : q < 64) :
    (unitFn s (64 + q) = fn → ∀ x ∈ ((invalidated s fn key page n).pq q).trans, inInval page n x.page = false) ∧
    (unitFn s (64 + q) ≠ fn → (invalidated s fn key page n).pq q = s.pq q) := by
  have reach (l : List Nat) (u : State) :
      let t := l.foldl (fun s q => if unitFn s (64 + q) = fn then qInval s q key page n else s) u
      (unitFn u (64 + q) ≠ fn → t.pq q = u.pq q) ∧
      (unitFn u (64 + q) = fn → (q ∈ l ∨ ∀ x ∈ (u.pq q).trans, inInval page n x.page = false) →
        ∀ x ∈ (t.pq q).trans, inInval page n x.page = false) := by
    induction l generalizing u with
    | nil => exact ⟨fun _ => rfl, fun _ h => h.resolve_left (by simp)⟩
    | cons r l ih =>
      generalize hv : (if unitFn u (64 + r) = fn then qInval u r key page n else u) = v
      have same : unitFn v (64 + q) = unitFn u (64 + q) := by
        rw [← hv]
        split <;> rfl
      have other (h : q ≠ r) : v.pq q = u.pq q := by
        rw [← hv]
        split
        · exact sget_sset_ne _ _ _ _ h
        · rfl
      have covered (h : q = r) (mine : unitFn u (64 + q) = fn) : ∀ x ∈ (v.pq q).trans, inInval page n x.page = false := by
        subst h
        rw [← hv, if_pos mine, qInval, pq_putPq_same]
        intro x hx
        simpa using (List.mem_filter.1 hx).2
      obtain ⟨untouched, cleared⟩ := ih v
      rw [List.foldl_cons, hv]
      refine ⟨fun foreign => ?_, fun mine reached => ?_⟩
      · rw [untouched (by rw [same]; exact foreign)]
        by_cases h : q = r
        · rw [← hv, ← h, if_neg foreign]
        · exact other h
      · refine cleared (same.trans mine) ?_
        by_cases h : q = r
        · exact .inr (covered h mine)
        · rw [other h]
          exact reached.imp_left fun m => (List.mem_cons.1 m).resolve_left h
  have before : (List.foldl (fun s c => if unitFn s c = fn then chInval s c key page n else s) s (List.range 64)).pq q = s.pq q :=
    foldl_leaves (fun u => u.pq q) (fun u c => by split <;> rfl) _ _
  have unit : unitFn (List.foldl (fun s c => if unitFn s c = fn then chInval s c key page n else s) s (List.range 64)) (64 + q) =
      unitFn s (64 + q) := foldl_leaves (fun u => unitFn u (64 + q)) (fun u c => by split <;> rfl) _ _
  obtain ⟨untouched, cleared⟩ := reach (List.range 64)
    (List.foldl (fun s c => if unitFn s c = fn then chInval s c key page n else s) s (List.range 64))
  refine ⟨fun mine => cleared (unit.trans mine) (.inl (List.mem_range.2 hq)), fun foreign => (untouched ?_).trans before⟩
  rw [unit]
  exact foreign

/-- Settles O41: a translation goes where it is wanted, and an invalidation to its function's units. -/
theorem translations : Obligations.Translations := by
  intro q fn page dest prg tag n h v
  have unit : 64 + q - 64 = q := by omega
  have high : ¬64 + q < 64 := by omega
  refine ⟨fun hq s w => ?wanted, fun hq s off => ?off, fun hq s w => ?denied, fun s w => ?answered, fun s hq => ?inval, fun s w => ?done,
    fun s w => ?held⟩
  case wanted =>
    obtain ⟨on, wants, free⟩ := w
    have reach : 64 + q < 128 := by omega
    have here : ¬(s.on (pgPq q) R.qAtMode = false ∨ wantsPage (qWants s q) page = false) := by simp [on, wants]
    show execTranslationResponse (64 + q) page dest true true s = _
    simp only [execTranslationResponse, if_neg high, if_pos reach, unit, qTranslated, if_neg here, free]
  case off =>
    have reach : 64 + q < 128 := by omega
    show execTranslationResponse (64 + q) page dest true true s = _
    simp only [execTranslationResponse, if_neg high, if_pos reach, unit, qTranslated, if_pos (Or.inl off)]
  case denied =>
    obtain ⟨on, wants, halted⟩ := w
    have reach : 64 + q < 128 := by omega
    have here : ¬(s.on (pgPq q) R.qAtMode = false ∨ wantsPage (qWants s q) (h.addr / 4096) = false) := by simp [on, wants]
    show execTranslationResponse (64 + q) (h.addr / 4096) dest false true s = _
    simp only [execTranslationResponse, if_neg high, if_pos reach, unit, qTranslated, if_neg here, halted]
    simp
  case answered =>
    obtain ⟨asked, halted, waits, owner⟩ := w
    have same (l : List Prg) : haltOf { s with prgs := l } (64 + q) = some h := by
      rw [haltOf, if_neg high, unit]
      exact halted
    have here (l : List Prg) : h.prg = some prg ∧ unitFn { s with prgs := l } (64 + q) = fn := ⟨waits, owner⟩
    have found : s.prgs.find? (fun g => g.fn == fn && g.idx == prg) = some ⟨fn, prg, 64 + q⟩ := by simp [asked]
    have empty : s.prgs.filter (fun x => !(x.fn == fn && x.idx == prg)) = [] := by simp [asked]
    show execPageResponse fn prg 0 s = _
    simp only [execPageResponse, found, empty, same, if_pos (here _), if_true, setHalt, if_neg high, unit]
    rfl
  case inval =>
    have page' : 4096 * page / 4096 = page := by omega
    have step : execAtsInvalidate fn (4096 * page) n tag s = .next { (invalidated s fn (invKey fn tag) page n).bump pgPfq R.invCnt with
        invals := (invalidated s fn (invKey fn tag) page n).invals ++ [⟨fn, tag, page, n⟩] } := by
      simp only [execAtsInvalidate, page']
      rfl
    obtain ⟨mine, foreign⟩ := invalidated_pq (s := s) (fn := fn) (key := invKey fn tag) (page := page) (n := n) hq
    have invals := invalidated_part State.invals (s := s) (fn := fn) (key := invKey fn tag) (page := page) (n := n)
      (fun _ _ => rfl) fun _ _ => rfl
    have mem := invalidated_part State.mem (s := s) (fn := fn) (key := invKey fn tag) (page := page) (n := n)
      (fun _ _ => rfl) fun _ _ => rfl
    refine ⟨_, step, ?_⟩
    generalize invalidated s fn (invKey fn tag) page n = w at *
    exact ⟨congrArg (· ++ _) invals, mem, mine, foreign⟩
  case done =>
    obtain ⟨owed, free⟩ := w
    show execInvalidationComplete v.fn v.tag s = _
    simp [execInvalidationComplete, owed, free]
  case held =>
    obtain ⟨owed, under⟩ := w
    show execInvalidationComplete v.fn v.tag s = _
    simp [execInvalidationComplete, owed, under]

end Sys2Proof.Machine
end

section
/-! PROOFS. Host queue pairs and their commands (R258 to R278, R410 to R426). -/
namespace Sys2Proof.Machine
set_option Elab.async false
open Sys2Proof

/-! ### Commands -/

section
variable {s : State} {n q : Nat} {c : HCmd} {rest : List HCmd}

/-- The pair exists. -/
theorem pairOk_of_lt (hn : n < 8) (hq : q < 16) : pairOk n q = true := by simp [pairOk, hn, hq]

/-- A command at the front of its pair that has not started is the next to start (R413). -/
theorem nextCmd_front (front : (s.qp n q).cmds = c :: rest) (waits : c.st = 0) : nextCmd s n q = some (0, c) := by
  simp [nextCmd, front, waits, List.findIdx?_cons]

/-- It does what its opcode says, and takes its status. -/
theorem perform_front {op : Nat} (hn : n < 8) (hq : q < 16) (front : (s.qp n q).cmds = c :: rest) (waits : c.st = 0) (good : c.bad = false)
    (code : c.op = op) (f : HCmd → State → HCmd × State) : perform s n q op f = setCmd (f c s).2 n q 0 (f c s).1 := by
  simp [perform, pairOk_of_lt hn hq, nextCmd_front front waits, good, code]

/-- A command on a graph of its own partition reaches it (R416). -/
theorem onGraph_own {f : HCmd → State → HCmd × State} (loaded : (s.graph c.graph).st ≠ gEmpty) (owner : (s.graph c.graph).owner = n) :
    onGraph n f c s = f c s := by
  simp [onGraph, loaded, owner]

/-- A trigger that is new and finds its node ready adds a credit (R267, R370). -/
theorem trigOnce_fresh {i part g m : Nat} (fresh : Fresh s i pgFgs) (ready : (s.graph g).st = gReady) (hm : m < (s.graph g).nodes.length)
    (node : ((s.graph g).node m).trig = true) (room : credit (s.graph g) m < 15) :
    trigOnce s i part g m = (true, appliedOnce s i pgFgs fun u =>
      (1, u.putGraph g { u.graph g with credits := sset 0 (u.graph g).credits m (credit (u.graph g) m + 1) })) := by
  have same : (numbered s i).graph g = s.graph g :=
    graph_of_graphs (numbered_part State.graphs s i (fun _ _ _ _ => rfl) fun _ => rfl)
  have taken : ¬((s.graph g).st ≠ gReady ∨ (s.graph g).nodes.length ≤ m ∨ ((s.graph g).node m).trig = false ∨ 15 ≤ credit (s.graph g) m) := by
    simp [ready, hm, node, room]
  have added : trigNode (numbered s i) g m = (true, (numbered s i).putGraph g { (numbered s i).graph g with
      credits := sset 0 ((numbered s i).graph g).credits m (credit ((numbered s i).graph g) m + 1) }) := by
    rw [trigNode, same, if_neg taken]
  rw [trigOnce, once_fresh fresh, appliedOnce_congr (f := fun s => (b2n (trigNode s g m).1, (trigNode s g m).2))
    (g := fun u => (1, u.putGraph g { u.graph g with credits := sset 0 (u.graph g).credits m (credit (u.graph g) m + 1) }))
    (by rw [added]; rfl)]
  simp [added, b2n]

/-- The credit that was added is there. -/
theorem trigApplied_credit {i g m : Nat} :
    credit ((appliedOnce s i pgFgs fun u =>
      (1, u.putGraph g { u.graph g with credits := sset 0 (u.graph g).credits m (credit (u.graph g) m + 1) })).graph g) m =
      credit (s.graph g) m + 1 := by
  have same : (numbered s i).graph g = s.graph g :=
    graph_of_graphs (numbered_part State.graphs s i (fun _ _ _ _ => rfl) fun _ => rfl)
  have applied : (appliedOnce s i pgFgs fun u =>
      (1, u.putGraph g { u.graph g with credits := sset 0 (u.graph g).credits m (credit (u.graph g) m + 1) })).graph g =
      { s.graph g with credits := sset 0 (s.graph g).credits m (credit (s.graph g) m + 1) } := by
    rw [← same]
    exact graph_putGraph_same
  exact (congrArg (fun x => credit x m) applied).trans (by simp [credit])

end

/-- Settles O44: the command at the front does what its opcode says. -/
theorem hostCommands : Obligations.HostCommands := by
  intro n q i hit c rest hn hq waits good
  refine ⟨fun s h => ?nop, fun s h => ?load, fun s h => ?unload, fun s h => ?start, fun s h => ?cancel, fun s h => ?cancelAll,
    fun s h => ?trig, fun s h => ?nodeCancel, fun s h => ?sem, fun s h => ?attest,
    fun s s' bs ws ret k a op list report fn qp tag front written => ?signed⟩
  case nop =>
    obtain ⟨front, op⟩ := h
    exact congrArg Host.Outcome.next (perform_front hn hq front waits good op _)
  case load =>
    obtain ⟨front, op, empty, working⟩ := h
    refine congrArg Host.Outcome.next ((perform_front hn hq front waits good op _).trans ?_)
    simp [empty, working, loadGraph]
  case unload =>
    obtain ⟨front, op, owner, ready, idle, done⟩ := h
    have loaded : (s.graph c.graph).st ≠ gEmpty := by rw [ready]; decide
    have quiet : ¬((s.graph c.graph).st = gLoading ∨ (s.graph c.graph).insts ≠ [] ∨
        ((s.graph c.graph).stream.isNone = true ∧ (s.graph c.graph).req ≠ (s.graph c.graph).started)) := by
      rw [ready, idle]
      rintro (other | other | ⟨open', other⟩)
      · exact absurd other (by decide)
      · exact other rfl
      · obtain stream | same := done
        · rw [Option.isNone_iff_eq_none] at open'
          simp [open'] at stream
        · exact other same
    have unloaded : unloadGraph s c.graph =
        (s.wr pgFgs R.stateUsed (s.rd pgFgs R.stateUsed - (s.graph c.graph).room)).putGraph c.graph {} := by
      simp only [unloadGraph, if_neg quiet]
      rw [if_pos ready]
    refine congrArg Host.Outcome.next ((perform_front hn hq front waits good op _).trans ?_)
    rw [onGraph_own loaded owner, unloaded]
    simp only [graph_putGraph_same]
    rfl
  case start =>
    obtain ⟨front, op, owner, ready, free, active, new⟩ := h
    have loaded : (s.graph c.graph).st ≠ gEmpty := by rw [ready]; decide
    have here : ¬s.rd pgFab R.partState (s.graph c.graph).owner = 2 := by rw [owner]; exact active
    have taken : ¬((s.graph c.graph).st ≠ gReady ∨ (s.graph c.graph).stream.isSome = true ∨
        0x8000 ≤ (c.arg % 65536 + 65536 - (s.graph c.graph).started) % 65536) := by
      simp only [ready, free, ne_eq, not_true_eq_false, Option.isSome_none, Bool.false_eq_true, false_or]
      omega
    refine congrArg Host.Outcome.next ((perform_front hn hq front waits good op _).trans ?_)
    rw [onGraph_own loaded owner]
    have started : startReq s c.graph (c.arg % 65536) = s.putGraph c.graph { s.graph c.graph with req := c.arg % 65536 } := by
      simp only [startReq, Nat.mod_mod]
      simp only [if_neg here, if_neg taken]
    have ok : (s.graph c.graph).st = gReady ∧ (s.graph c.graph).stream.isNone = true ∧
        (c.arg % 65536 + 65536 - (s.graph c.graph).started) % 65536 < 0x8000 := ⟨ready, by simp [free], new⟩
    simp only [started, if_pos ok]
  case cancel =>
    obtain ⟨front, op, owner, loaded⟩ := h
    refine congrArg Host.Outcome.next ((perform_front hn hq front waits good op _).trans ?_)
    rw [onGraph_own loaded owner]
  case cancelAll =>
    obtain ⟨front, op, owner, loaded⟩ := h
    refine congrArg Host.Outcome.next ((perform_front hn hq front waits good op _).trans ?_)
    rw [onGraph_own loaded owner]
  case trig =>
    obtain ⟨front, op, owner, ready, hm, node, room, fresh⟩ := h
    have loaded : (s.graph c.graph).st ≠ gEmpty := by rw [ready]; decide
    refine congrArg Host.Outcome.next ((perform_front hn hq front waits good op _).trans ?_)
    rw [onGraph_own loaded owner, trigOnce_fresh fresh ready hm node room]
    simp only [trigApplied_credit, if_true]
  case nodeCancel =>
    obtain ⟨front, op, owner, loaded, running⟩ := h
    refine congrArg Host.Outcome.next ((perform_front hn hq front waits good op _).trans ?_)
    rw [onGraph_own loaded owner]
    simp only [running]
  case sem =>
    obtain ⟨front, op, owner, take, some', fresh⟩ := h
    have sems : (numbered s n).sems = s.sems := numbered_part State.sems s n (fun _ _ _ _ => rfl) fun _ => rfl
    have taken : semTake (numbered s n) c.sem = (true, { numbered s n with sems := sset 0 s.sems c.sem (sget 0 s.sems c.sem - 1) }) := by
      rw [semTake, sems]
      exact if_neg some'
    have here : ¬(sget 0 s.semOwner (c.sem / 2) ≠ n ∨ c.semop = 0 ∨ 4 < c.semop) := by simp [owner, take]
    refine congrArg Host.Outcome.next ((perform_front hn hq front waits good op _).trans ?_)
    simp only [if_neg here]
    simp only [take, semTryTake_fresh fresh, taken]
    rw [appliedOnce_congr (f := fun s => (b2n (semTake s c.sem).1, (semTake s c.sem).2))
      (g := fun u => (1, { u with sems := sset 0 u.sems c.sem (sget 0 u.sems c.sem - 1) })) (by rw [taken, sems]; rfl)]
    have left : sget 0 (appliedOnce s n pgFgs fun u => (1, { u with sems := sset 0 u.sems c.sem (sget 0 u.sems c.sem - 1) })).sems c.sem =
        sget 0 s.sems c.sem - 1 := by
      rw [← sems]
      exact sget_sset_same ..
    simp only [left, true_or, if_true]
  case attest =>
    obtain ⟨front, op, aligned⟩ := h
    refine congrArg Host.Outcome.next ((perform_front hn hq front waits good op _).trans ?_)
    simp [aligned]
  case signed =>
    subst fn qp
    have found : (s.qp a.fn a.qp).cmds.findIdx? (fun c => c.op == 9 && c.st == 1 && c.tag == a.tag) = some 0 := by
      simp [front, List.findIdx?_cons, op, tag]
    have found' : (({ s with attests := [] } : State).qp a.fn a.qp).cmds.findIdx? (fun c => c.op == 9 && c.st == 1 && c.tag == a.tag) =
        some 0 := found
    have here : (({ s with attests := [] } : State).qp a.fn a.qp).cmds = { c with st := 1 } :: rest := front
    show execAttestSigned hit s = _
    simp only [execAttestSigned, list, report, found']
    simp only [here, List.getElem?_cons_zero, Option.getD_some, written]

/-! ### Queue pairs -/

section
variable {s : State} {n q : Nat}

@[simp] theorem qp_putQp_same (k : HPair) : (s.putQp n q k).qp n q = k := sget_sset_same ..
@[simp] theorem rd_putQp (k : HPair) (p : Nat) (f : Fld) (i : Nat) : (s.putQp n q k).rd p f i = s.rd p f i := rfl
@[simp] theorem qp_wr (p : Nat) (f : Fld) (v i : Nat) : (s.wr p f v i).qp n q = s.qp n q := rfl

end

/-- The registers of a pair that is created (R410). -/
def pairReset (s : State) (n q : Nat) : State :=
  (((((((s.wr (pgHq n) R.sqHead 0 q).wr (pgHq n) R.sqTail 0 q).wr (pgHq n) R.cqTail 0 q).wr (pgHq n) R.cqHead 0 q).wr
    (pgHq n) R.errCause 0 q).wr (pgHq n) R.noticePend 0 q).wr (pgHq n) R.qpInflight 0 q).wr (pgHq n) R.qpState qpActive q

theorem pairReset_shows {s : State} {n q c : Nat} :
    let t := (pairReset s n q).putQp n q { cond := c }
    t.rd (pgHq n) R.qpState q = qpActive ∧ t.rd (pgHq n) R.sqHead q = 0 ∧ t.rd (pgHq n) R.sqTail q = 0 ∧
    t.rd (pgHq n) R.cqTail q = 0 ∧ t.rd (pgHq n) R.cqHead q = 0 ∧ (t.qp n q).cmds = [] ∧ t.mem = s.mem := by
  simp only [rd_putQp, qp_putQp_same]
  have mem : (pairReset s n q).mem = s.mem := by simp only [pairReset, State.wr_mem]
  refine ⟨State.rd_wr_same .., ?_, ?_, ?_, ?_, trivial, mem⟩
  all_goals
    unfold pairReset
    simp (disch := simp [fldPos, R.sqHead, R.sqTail, R.cqTail, R.cqHead, R.errCause, R.noticePend, R.qpInflight, R.qpState]) only
      [rd_wr_pos, State.rd_wr_same]
    rfl

/-- Settles O43: the pair's state and its rings decide. -/
theorem queuePairs : Obligations.QueuePairs := by
  intro ini n q v i st r hit host c s s' bs ret hn hq
  have pair : pairOk n q = true := pairOk_of_lt hn hq
  have here {a b : State} : (if pairOk n q = false then a else b) = b := if_neg (by simp [pair])
  refine ⟨writeBrings_of (fun _ => congrArg Host.Outcome.next here) fun u h => ?create,
    writes_of (fun _ => congrArg Host.Outcome.next here) fun u h => ?present,
    writes_of (fun _ => congrArg Host.Outcome.next here) fun u h => ?delete, fun s h => ?deleted,
    fun opened hv active inside phase above => ?tail, fun opened stopped => ?stopped,
    fun opened hv active new noCond quiet between => ?head, fun working active more none' room read => ?fetched,
    fun found good done => ?complete, fun found bad first turn => ?malformed, fun dead on noCond changed => ?dropped,
    fun active on noCond changed room => ?recorded⟩
  case create =>
    obtain ⟨off, sq, cq, sqSize, cqSize⟩ := h
    have ok : u.rd (pgHq n) R.qpState q = qpOff ∧ al64 [u.rd (pgHq n) R.sqBase q, u.rd (pgHq n) R.hqCqBase q] = true ∧
        qpSizeOk (u.rd (pgHq n) R.sqSize q) = true ∧ qpSizeOk (u.rd (pgHq n) R.hqCqSize q) = true :=
      ⟨off, by simp [al64, sq, cq], sqSize, cqSize⟩
    rw [if_pos ok]
    exact pairReset_shows
  case present => exact if_neg fun other => h other.1
  case delete =>
    simp only [deletePair, if_pos h]
  case deleted =>
    obtain ⟨deleting, empty⟩ := h
    exact congrArg Host.Outcome.next (if_neg (by simp [pair, deleting, empty]))
  case tail =>
    have value : v % 131072 = v := Nat.mod_eq_of_lt hv
    refine congrArg Host.Outcome.next (here.trans ((doorbell_open opened).trans ?_))
    simp only [value, phase, if_true]
    exact if_neg (by simp [active, above, inside])
  case stopped =>
    refine congrArg Host.Outcome.next (here.trans ((doorbell_open opened).trans ?_))
    exact if_pos (.inl stopped)
  case head =>
    have value : v % 131072 = v := Nat.mod_eq_of_lt hv
    refine congrArg Host.Outcome.next (here.trans ((doorbell_open opened).trans ?_))
    simp only [value, between, Bool.true_eq_false, if_false, if_neg new, qp_wr, noCond]
    have quiet' : (State.wr (doorAdmit s n) (pgHq n) R.cqHead v q).on (pgHq n) R.hqIrqEn q = false := by
      rw [State.on, rd_wr_pos (by simp [fldPos, R.cqHead, R.hqIrqEn])]
      exact quiet
    exact if_neg fun raised => by simp [quiet'] at raised
  case fetched =>
    have taken : ¬(s.working (pgHq n) = false ∨ s.rd (pgHq n) R.qpState q ≠ qpActive ∨
        s.rd (pgHq n) R.sqHead q = s.rd (pgHq n) R.sqTail q ∨ 64 ≤ (s.qp n q).cmds.length ∨
        s.rd (pgHq n) R.hqCqSize q ≤ cqUsed s n q + (s.qp n q).cmds.length + 1) := by
      simp [working, active, more, none', room]
    refine congrArg Host.Outcome.next (here.trans ((if_neg taken).trans ?_))
    simp only [read]
  case complete =>
    have complete : completed s n q i c = some (st, r) := by simp [completed, good, done]
    refine congrArg Host.Outcome.next (here.trans ?_)
    simp only [found, complete]
  case malformed => simp [completed, bad, first, turn]
  case dropped =>
    have live : s.rd (pgHq n) R.qpState q ≠ qpOff ∧ s.rd (pgHq n) R.qpState q ≠ qpActive := by
      obtain dead | dead := dead <;> rw [dead] <;> decide
    have some' : ¬(s.rd (pgHq n) R.qpState q = qpOff ∨ s.on (pgHq n) R.condEvt q = false ∨ (s.qp n q).condAt.isSome = true ∨
        (s.qp n q).cond = (condNoNotice s n).code) := by
      simp [live.1, on, noCond, changed]
    exact congrArg Host.Outcome.next (here.trans ((if_neg some').trans (if_pos live.2)))
  case recorded =>
    have some' : ¬(s.rd (pgHq n) R.qpState q = qpOff ∨ s.on (pgHq n) R.condEvt q = false ∨ (s.qp n q).condAt.isSome = true ∨
        (s.qp n q).cond = (condNoNotice s n).code) := by
      simp [active, on, noCond, changed, qpOff, qpActive]
    refine congrArg Host.Outcome.next (here.trans ((if_neg some').trans ((if_neg (not_not.2 active)).trans (if_neg (by simp [room])))))

end Sys2Proof.Machine
end

section
/-! PROOFS. Configuration space and the PCIe link (R366, R403, R408, R428, R528). -/
namespace Sys2Proof.Machine
set_option Elab.async false
open Sys2Proof

/-! ### Folds -/

/-- What every step of a fold keeps, the fold keeps. -/
theorem foldl_keeps {α : Type} {f : State → α → State} (P : State → Prop) (l : List α) (keep : ∀ s, ∀ b ∈ l, P s → P (f s b)) {s : State}
    (start : P s) : P (l.foldl f s) := by
  induction l generalizing s with
  | nil => exact start
  | cons b l ih => exact ih (fun s c hc => keep s c (List.mem_cons_of_mem _ hc)) (keep s b List.mem_cons_self start)

/-- What one step of a fold brings about under an invariant, and the others keep, the fold brings about. -/
theorem foldl_establishes {α : Type} {f : State → α → State} (I P : State → Prop) (l : List α) {a : α} (ha : a ∈ l)
    (inv : ∀ s, ∀ b ∈ l, I s → I (f s b)) (est : ∀ s, I s → P (f s a)) (keep : ∀ s, ∀ b ∈ l, P s → P (f s b)) {s : State}
    (start : I s) : P (l.foldl f s) := by
  induction l generalizing s with
  | nil => cases ha
  | cons b l ih =>
    have tail {Q : State → Prop} (h : ∀ s, ∀ c ∈ b :: l, Q s → Q (f s c)) : ∀ s, ∀ c ∈ l, Q s → Q (f s c) :=
      fun s c hc => h s c (List.mem_cons_of_mem _ hc)
    obtain rfl | later := List.mem_cons.1 ha
    · exact foldl_keeps P l (tail keep) (est s start)
    · exact ih later (tail inv) (tail keep) (inv s b List.mem_cons_self start)

/-! ### Function resets -/

/-- A pair that the link takes down says so (R408). -/
def dropMark (n : Nat) (link : Bool) (s : State) (q : Nat) : State :=
  if link ∧ s.rd (pgHq n) R.qpState q = qpActive then (s.wr (pgHq n) R.errCause 3 q).raise (pgHq n) 9 else s

/-- One pair is deleted without waiting (R408). -/
def dropPair (n : Nat) (link : Bool) (s : State) (q : Nat) : State :=
  (((dropMark n link s q).wr (pgHq n) R.qpState qpOff q).wr (pgHq n) R.qpInflight 0 q).putQp n q {}

theorem dropPairs_eq (s : State) (n : Nat) (link : Bool) : dropPairs s n link = hqSettle ((List.range 16).foldl (dropPair n link) s) n := rfl

section
variable {s : State} {n : Nat} {link : Bool}

theorem dropMark_part {α : Type} (g : State → α) {q : Nat} (regs : ∀ (u : State) r p j, g { u with regs := r, reports := p, injections := j } = g u) :
    g (dropMark n link s q) = g s := by
  unfold dropMark
  split
  · exact ((flags_raise (s.wr (pgHq n) R.errCause 3 q) (pgHq n) 9).part g (regs _ _ _ _)).trans (regs s _ s.reports s.injections)
  · rfl

/-- A deleted pair leaves what looks neither at registers, marks nor pairs. -/
theorem dropPair_part {α : Type} (g : State → α) {q : Nat} (regs : ∀ (u : State) r p j, g { u with regs := r, reports := p, injections := j } = g u)
    (qps : ∀ (u : State) l, g { u with qps := l } = g u) : g (dropPair n link s q) = g s := by
  unfold dropPair
  have marked := dropMark_part (s := s) (n := n) (link := link) (q := q) g regs
  generalize dropMark n link s q = v at *
  exact (qps _ _).trans ((regs v _ v.reports v.injections).trans marked)

theorem dropPairs_part {α : Type} (g : State → α) (regs : ∀ (u : State) r p j, g { u with regs := r, reports := p, injections := j } = g u)
    (qps : ∀ (u : State) l, g { u with qps := l } = g u) : g (dropPairs s n link) = g s := by
  rw [dropPairs_eq]
  exact ((onlyRegs_settle ..).part g (regs _ _ (State.reports _) (State.injections _))).trans
    (foldl_leaves g (fun _ _ => dropPair_part g regs qps) _ _)

/-- Registers of other pages stay. -/
theorem dropPairs_rd {p i : Nat} {f : Fld} (hp : p ≠ pgHq n) (hm : markPos (fldPos f i) = false) (hf : fldPos f i < 1048576) :
    (dropPairs s n link).rd p f i = s.rd p f i := by
  have place : ∀ q < 16, fldPos R.errCause q < 1048576 ∧ fldPos R.qpState q < 1048576 ∧ fldPos R.qpInflight q < 1048576 := by decide
  rw [dropPairs_eq]
  refine Eq.trans ?_ (foldl_leaves_on (fun u => u.rd p f i) (f := dropPair n link) (List.range 16) (fun q hq u => ?_) s)
  · unfold hqSettle State.settle
    split
    · exact rd_wr_page hp hf (by decide)
    · split
      · exact rd_wr_page hp hf (by decide)
      · rfl
  · obtain ⟨cause, state, count⟩ := place q (List.mem_range.1 hq)
    rw [dropPair, rd_putQp, rd_wr_page hp hf count, rd_wr_page hp hf state]
    unfold dropMark
    split
    · exact ((flags_raise ..).rd hm hf).trans (rd_wr_page hp hf cause)
    · rfl

/-- The pair that is deleted is OFF and empty. -/
theorem dropPair_off {q : Nat} : (dropPair n link s q).rd (pgHq n) R.qpState q = qpOff ∧ (dropPair n link s q).qp n q = {} := by
  have apart : fldPos R.qpState q ≠ fldPos R.qpInflight q := by simp [fldPos, R.qpState, R.qpInflight]
  rw [dropPair, rd_putQp, rd_wr_pos apart, State.rd_wr_same]
  exact ⟨rfl, qp_putQp_same _⟩

/-- The others stay. -/
theorem dropPair_other {q r : Nat} (other : q ≠ r) (hq : q < 16) :
    (dropPair n link s r).rd (pgHq n) R.qpState q = s.rd (pgHq n) R.qpState q ∧ (dropPair n link s r).qp n q = s.qp n q := by
  have state : fldPos R.qpState q ≠ fldPos R.qpState r := by simp [fldPos, R.qpState]; omega
  have count : fldPos R.qpState q ≠ fldPos R.qpInflight r := by simp [fldPos, R.qpState, R.qpInflight]; omega
  have cause : fldPos R.qpState q ≠ fldPos R.errCause r := by simp [fldPos, R.qpState, R.errCause]; omega
  have place : ∀ q < 16, markPos (fldPos R.qpState q) = false ∧ fldPos R.qpState q < 1048576 := by decide
  obtain ⟨unmarked, low⟩ := place q hq
  refine ⟨?_, ?_⟩
  · rw [dropPair, rd_putQp, rd_wr_pos count, rd_wr_pos state]
    unfold dropMark
    split
    · exact ((flags_raise ..).rd unmarked low).trans (rd_wr_pos cause)
    · rfl
  · have marked : (dropMark n link s r).qp n q = s.qp n q := dropMark_part (fun u => u.qp n q) fun _ _ _ _ => rfl
    refine Eq.trans ?_ marked
    unfold dropPair
    generalize dropMark n link s r = v
    exact sget_sset_ne ({} : HPair) {} v.qps {} (show 16 * n + q ≠ 16 * n + r by omega)

/-- Every pair of the function is OFF and empty. -/
theorem dropPairs_off {q : Nat} (hq : q < 16) :
    (dropPairs s n link).rd (pgHq n) R.qpState q = qpOff ∧ (dropPairs s n link).qp n q = {} := by
  have place : fldPos R.qpState q ≠ fldPos R.pstate 0 := by simp [fldPos, R.qpState, R.pstate]; omega
  have settled (u : State) : (hqSettle u n).rd (pgHq n) R.qpState q = u.rd (pgHq n) R.qpState q ∧ (hqSettle u n).qp n q = u.qp n q :=
    ⟨settle_rd place, (onlyRegs_settle ..).part fun u => u.qp n q⟩
  rw [dropPairs_eq, (settled _).1, (settled _).2]
  refine foldl_establishes (fun _ => True) (fun u => u.rd (pgHq n) R.qpState q = qpOff ∧ u.qp n q = {}) (List.range 16)
    (List.mem_range.2 hq) (fun _ _ _ _ => trivial) (fun u _ => ?_) (fun u r hr h => ?_) trivial
  · exact dropPair_off
  · by_cases same : q = r
    · rw [same]
      exact dropPair_off
    · obtain ⟨state, empty⟩ := dropPair_other (s := u) (n := n) (link := link) same hq
      exact ⟨state.trans h.1, empty.trans h.2⟩

/-- Without a halted transfer, a Function Level Reset deletes the pairs and resets the configuration (R408). -/
theorem flrOne_calm (calm' : ∀ u, u < 128 → haltOf s u = none) :
    flrOne s n link = (putFn (dropPairs s n link) n {}).wr pgFab R.remoteTo 75000 n := by
  have none' (u : Nat) (hu : u < 128) : haltOf ((putFn (dropPairs s n link) n {}).wr pgFab R.remoteTo 75000 n) u = none :=
    (dropPairs_part (fun t => haltOf t u) (fun _ _ _ _ => rfl) fun _ _ => rfl).trans (calm' u hu)
  rw [flrOne, resetFnCfg, priOff]
  refine foldl_stays _ fun u hu => if_neg fun h => ?_
  rw [none' u (List.mem_range.1 hu)] at h
  exact absurd h.2 (by decide)

end

section
variable {s : State} {n : Nat} {link : Bool} (calm' : ∀ u, u < 128 → haltOf s u = none)
include calm'

/-- What a Function Level Reset leaves of the rest of the device (R408). -/
theorem flrOne_part {α : Type} (g : State → α) (regs : ∀ (u : State) r p j, g { u with regs := r, reports := p, injections := j } = g u)
    (qps : ∀ (u : State) l, g { u with qps := l } = g u) (fns : ∀ (u : State) l, g { u with fns := l } = g u) : g (flrOne s n link) = g s := by
  have kept := dropPairs_part (s := s) (n := n) (link := link) g regs qps
  rw [flrOne_calm calm']
  generalize dropPairs s n link = v at *
  exact (regs (putFn v n {}) _ v.reports v.injections).trans ((fns v _).trans kept)

theorem flrOne_rd {p i : Nat} {f : Fld} (hn : n < 8) (hp : p ≠ pgHq n) (hfab : p ≠ pgFab) (hm : markPos (fldPos f i) = false)
    (hf : fldPos f i < 1048576) : (flrOne s n link).rd p f i = s.rd p f i := by
  have place : ∀ n < 8, fldPos R.remoteTo n < 1048576 := by decide
  rw [flrOne_calm calm', rd_wr_page hfab hf (place n hn)]
  exact dropPairs_rd hp hm hf

theorem flrOne_fn : fnOf (flrOne s n link) n = {} := by
  rw [flrOne_calm calm']
  exact sget_sset_same ({} : FnCfg) (dropPairs s n link).fns n {}

theorem flrOne_fn_other {k : Nat} (other : k ≠ n) : fnOf (flrOne s n link) k = fnOf s k := by
  have kept : fnOf (dropPairs s n link) k = fnOf s k := dropPairs_part (fun u => fnOf u k) (fun _ _ _ _ => rfl) fun _ _ => rfl
  rw [flrOne_calm calm', ← kept]
  exact sget_sset_ne ({} : FnCfg) {} _ {} other

end

/-! ### The link -/

/-- A LINK event leaves every register but the aggregator's, and logs one record (R528). -/
theorem linkEvent_shows (s : State) (r : LogRec) : (∀ f : Fld, fldPos f 0 < 1048576 → (linkEvent s r).2.rd pgPci f = s.rd pgPci f) ∧
    (linkEvent s r).2.logQ.length = s.logQ.length + 1 ∧ (∀ u, haltOf (linkEvent s r).2 u = haltOf s u) ∧
    (linkEvent s r).2.linkInc = s.linkInc := by
  have records : (s.logI s.linkInc r).2.logQ.length = s.logQ.length + 1 := logI_logQ_length ..
  have halts (u : Nat) : haltOf (s.logI s.linkInc r).2 u = haltOf s u := by
    unfold State.logI
    split <;> rfl
  have inc : (s.logI s.linkInc r).2.linkInc = s.linkInc := by
    unfold State.logI
    split <;> rfl
  have regs (f : Fld) (hf : fldPos f 0 < 1048576) : (s.logI s.linkInc r).2.rd pgPci f = s.rd pgPci f := logI_rd _ _ _ (by decide) hf
  unfold linkEvent
  generalize s.logI s.linkInc r = v at *
  exact ⟨regs, records, halts, inc⟩

/-- A recovery takes an incident, and attaches it to what is outstanding (R528). -/
def recoveryBegun (s : State) : State :=
  let (inc, s) := s.newInc
  { s with linkInc := inc,
           txns := s.txns.map fun t => (t.1, if t.2.busy ∧ t.2.remote ∧ t.2.inc = 0 then { t.2 with inc := inc } else t.2) }

/-- What the registers of the link say once it is down (R408). -/
def linkDowned (s : State) (hot : Bool) : State :=
  let s := (linkEvent s { event := 0x0A, level := 0, page := pgPci }).2
  let s := (((s.wr pgPci R.dlUp 0).wr pgPci R.linkWidth 0).wr pgPci R.linkRate 0).wr pgPci R.ltssm (if hot then 7 else 0)
  let s := ((s.wr pgPci R.reversed 0).bump pgPci R.dlDownCnt).raise pgPci 8
  { s with linkInc := 0 }

theorem linkDowned_shows {s : State} {hot : Bool} : (linkDowned s hot).rd pgPci R.dlUp = 0 ∧
    (linkDowned s hot).rd pgPci R.dlDownCnt = (s.rd pgPci R.dlDownCnt + 1) % 2 ^ 16 ∧ (linkDowned s hot).linkInc = 0 ∧
    ∀ u, haltOf (linkDowned s hot) u = haltOf s u := by
  obtain ⟨regs, _, halts, _⟩ := linkEvent_shows s { event := 0x0A, level := 0, page := pgPci }
  unfold linkDowned
  generalize (linkEvent s { event := 0x0A, level := 0, page := pgPci }).2 = v at *
  dsimp only
  generalize hw : (((((v.wr pgPci R.dlUp 0).wr pgPci R.linkWidth 0).wr pgPci R.linkRate 0).wr pgPci R.ltssm (if hot then 7 else 0)).wr
    pgPci R.reversed 0).bump pgPci R.dlDownCnt = w
  have up : w.rd pgPci R.dlUp = 0 := by
    rw [← hw]
    simp (disch := decide) only [State.bump, rd_wr_pos, State.rd_wr_same]
    rfl
  have count : w.rd pgPci R.dlDownCnt = (s.rd pgPci R.dlDownCnt + 1) % 2 ^ 16 := by
    rw [← hw, ← regs R.dlDownCnt (by decide)]
    simp (disch := decide) only [State.bump, rd_wr_pos, State.rd_wr_same]
    rfl
  have halted (u : Nat) : haltOf w u = haltOf s u := by
    rw [← halts u, ← hw]
    rfl
  have raised := flags_raise w pgPci 8
  exact ⟨raised.rd.trans up, raised.rd.trans count, rfl, fun u => (raised.part (fun t => haltOf t u)).trans (halted u)⟩

/-- No transfer is halted, and the link is down for the count-th time. -/
def LinkGone (count : Nat) (t : State) : Prop :=
  (∀ u, u < 128 → haltOf t u = none) ∧ t.rd pgPci R.dlUp = 0 ∧ t.linkInc = 0 ∧ t.rd pgPci R.dlDownCnt = count

/-- The link goes down (R408). -/
theorem linkDown_brings {b : Bool} : Brings (.linkDown b) (fun s => s.on pgPci R.dlUp = true ∧ ∀ u, u < 128 → haltOf s u = none)
    (fun s t => t.rd pgPci R.dlUp = 0 ∧ t.linkInc = 0 ∧ (∀ k, k < 8 → fnOf t k = {}) ∧
      t.rd pgPci R.dlDownCnt = (s.rd pgPci R.dlDownCnt + 1) % 2 ^ 16) := by
  intro s ⟨up, calm'⟩
  have here : ¬s.on pgPci R.dlUp = false := by simp [up]
  have step : execLinkDown b s = .next ((List.range 8).foldl (fun s n => flrOne s n true) (linkDowned s b)) := by
    simp only [execLinkDown, linkDown, if_neg here, linkDowned]
  obtain ⟨down, count, inc, halts⟩ := linkDowned_shows (s := s) (hot := b)
  refine ⟨_, step, ?_⟩
  have pages (n : Nat) (hn : n ∈ List.range 8) : n < 8 ∧ pgPci ≠ pgHq n := by
    rw [List.mem_range] at hn
    exact ⟨hn, by unfold pgPci pgHq; omega⟩
  generalize linkDowned s b = v at down count inc halts
  have start : LinkGone ((s.rd pgPci R.dlDownCnt + 1) % 2 ^ 16) v := ⟨fun u hu => (halts u).trans (calm' u hu), down, inc, count⟩
  have keep (t : State) (n : Nat) (hn : n ∈ List.range 8) (h : LinkGone ((s.rd pgPci R.dlDownCnt + 1) % 2 ^ 16) t) :
      LinkGone ((s.rd pgPci R.dlDownCnt + 1) % 2 ^ 16) (flrOne t n true) := by
    obtain ⟨quiet, down, inc, count⟩ := h
    obtain ⟨hn', page⟩ := pages n hn
    refine ⟨fun u hu => ?_, ?_, ?_, ?_⟩
    · exact (flrOne_part quiet (fun t => haltOf t u) (fun _ _ _ _ => rfl) (fun _ _ => rfl) fun _ _ => rfl).trans (quiet u hu)
    · exact (flrOne_rd quiet hn' page (by decide) (by decide) (by decide)).trans down
    · exact (flrOne_part quiet State.linkInc (fun _ _ _ _ => rfl) (fun _ _ => rfl) fun _ _ => rfl).trans inc
    · exact (flrOne_rd quiet hn' page (by decide) (by decide) (by decide)).trans count
  obtain ⟨_, down', inc', count'⟩ := foldl_keeps _ (List.range 8) keep start
  refine ⟨down', inc', fun k hk => ?_, count'⟩
  refine (foldl_establishes _ (fun t => LinkGone ((s.rd pgPci R.dlDownCnt + 1) % 2 ^ 16) t ∧ fnOf t k = {}) (List.range 8) (List.mem_range.2 hk) keep
    (fun t h => ⟨keep t k (List.mem_range.2 hk) h, flrOne_fn h.1⟩) (fun t n hn h => ⟨keep t n hn h.1, ?_⟩) start).2
  obtain ⟨⟨quiet, _⟩, reset⟩ := h
  by_cases same : k = n
  · rw [same]
    exact flrOne_fn quiet
  · exact (flrOne_fn_other quiet same).trans reset

/-- Settles O42: a reset returns what it names to its reset values, and the link's registers follow the link. -/
theorem pcieLink : Obligations.PcieLink := by
  intro ini n v us width rate rev b hn
  have fn {s : State} (h : n = 0 ∨ (fnOf s 0).vfEn = true) : ¬(8 ≤ n ∨ (n ≠ 0 ∧ (fnOf s 0).vfEn = false)) := by
    rintro (high | ⟨other, off⟩)
    · omega
    · obtain first | on := h
      · exact other first
      · simp [on] at off
  have widths (h : width = 1 ∨ width = 2 ∨ width = 4 ∨ width = 8) : [1, 2, 4, 8].contains width = true := by
    simpa using h
  refine ⟨fun s h => ?memEn, fun s h => ?cplTo, fun s h => ?flr, linkDown_brings, fun s off => ?isDown, writes_of (fun _ => rfl) fun u h => ?retrain,
    fun s h => ?up, fun s h => ?errors, fun s h => ?recovered, fun s h => ?replay, fun s h => ?asleep, fun s h => ?awake⟩
  case memEn => exact congrArg Host.Outcome.next (if_neg (fn h))
  case cplTo => exact congrArg Host.Outcome.next (if_neg (fn h))
  case flr =>
    obtain ⟨virtual, calm'⟩ := h
    have high : ¬8 ≤ n := Nat.not_le.2 hn
    have apart : pgHq n ≠ pgFab := by unfold pgHq pgFab; omega
    have step : execFlr n s = .next (flrOne s n false) := by
      simp only [execFlr, if_neg high, virtual, false_and, if_false]
    refine ⟨_, step, flrOne_fn calm', ?_, flrOne_part calm' State.mem (fun _ _ _ _ => rfl) (fun _ _ => rfl) fun _ _ => rfl, fun q hq => ?_⟩
    · rw [flrOne_calm calm', State.rd_wr_same]
      rfl
    · have place : ∀ q < 16, fldPos R.qpState q < 1048576 := by decide
      have low : ∀ n < 8, fldPos R.remoteTo n < 1048576 := by decide
      obtain ⟨off, empty⟩ := dropPairs_off (s := s) (n := n) (link := false) hq
      rw [flrOne_calm calm', rd_wr_page apart (place q hq) (low n hn)]
      generalize dropPairs s n false = v at *
      exact ⟨off, empty⟩
  case isDown => exact congrArg Host.Outcome.next (if_pos off)
  case retrain =>
    obtain ⟨up, other⟩ := h
    simp only [up, Bool.true_eq_false, if_false, if_neg other]
  case up =>
    obtain ⟨down, wide, some', rate'⟩ := h
    have here : ¬(s.on pgPci R.dlUp = true ∨ [1, 2, 4, 8].contains width = false ∨ rate = 0 ∨ s.rd pgPci R.rateCap < rate) := by
      simp [down, wide, some', rate']
    exact congrArg Host.Outcome.next (if_neg here)
  case errors =>
    obtain ⟨up, other⟩ := h
    have here : ¬s.on pgPci R.dlUp = false := by simp [up]
    have step : execLinkRecovery false us width rate s = .next
        ((((recoveryBegun s).wr pgPci R.ltssm 4).bump pgPci R.recoveryCnt).bump pgPci R.rxErrCnt) := by
      simp only [execLinkRecovery, if_neg here, Bool.false_eq_true, if_false, if_neg other]
      rfl
    have kept (f : Fld) (hf : fldPos f 0 < 1048576) : (recoveryBegun s).rd pgPci f = s.rd pgPci f := rd_wr_page (by decide) hf (by decide)
    have counts := kept R.recoveryCnt (by decide)
    have errors := kept R.rxErrCnt (by decide)
    have number : (recoveryBegun s).linkInc = s.rd pgErl R.incidentNext := rfl
    refine ⟨_, step, ?_⟩
    generalize recoveryBegun s = w at *
    refine ⟨?_, ?_, ?_, number⟩
    · simp (disch := decide) only [State.bump, rd_wr_pos, State.rd_wr_same]
      rfl
    · simp (disch := decide) only [State.bump, rd_wr_pos, State.rd_wr_same, counts]
      rfl
    · simp (disch := decide) only [State.bump, rd_wr_pos, State.rd_wr_same, errors]
      rfl
  case recovered =>
    obtain ⟨up, recovering, wide, some', fits, rate'⟩ := h
    have here : ¬s.on pgPci R.dlUp = false := by simp [up]
    have goes : ¬(s.rd pgPci R.ltssm ≠ 4 ∨ [1, 2, 4, 8].contains width = false ∨ rate = 0 ∨ s.rd pgPci R.rateCap < rate) := by
      simp only [recovering, widths wide, ne_eq, not_true_eq_false, Bool.true_eq_false, false_or]
      omega
    obtain ⟨_, records, _, _⟩ := linkEvent_shows s { event := 0x09, level := 0, page := pgPci, d0 := us }
    have step : execLinkRecovery true us width rate s = .next
        { (((linkEvent s { event := 0x09, level := 0, page := pgPci, d0 := us }).2.wr pgPci R.ltssm 3).wr pgPci R.linkWidth width).wr
            pgPci R.linkRate rate with linkInc := 0 } := by
      simp only [execLinkRecovery, if_neg here, if_true, if_neg goes]
    refine ⟨_, step, ?_⟩
    generalize (linkEvent s { event := 0x09, level := 0, page := pgPci, d0 := us }).2 = v at *
    have fields : ((((v.wr pgPci R.ltssm 3).wr pgPci R.linkWidth width).wr pgPci R.linkRate rate).rd pgPci R.ltssm = 3) ∧
        ((((v.wr pgPci R.ltssm 3).wr pgPci R.linkWidth width).wr pgPci R.linkRate rate).rd pgPci R.linkWidth = width) ∧
        ((((v.wr pgPci R.ltssm 3).wr pgPci R.linkWidth width).wr pgPci R.linkRate rate).rd pgPci R.linkRate = rate) := by
      simp (disch := decide) only [rd_wr_pos, State.rd_wr_same]
      exact ⟨rfl, Nat.mod_eq_of_lt (show width < 16 by omega), Nat.mod_eq_of_lt (show rate < 8 from fits)⟩
    exact ⟨fields.1, fields.2.1, fields.2.2, rfl, records⟩
  case replay =>
    obtain ⟨up, some'⟩ := h
    have here : ¬(s.on pgPci R.dlUp = false ∨ v = 0) := by simp [up, some']
    obtain ⟨regs, records, _, _⟩ := linkEvent_shows (s.bump pgPci R.replayCnt v) { event := 0x08, level := 0, page := pgPci, count := v }
    refine ⟨_, congrArg Host.Outcome.next (if_neg here), (regs _ (by decide)).trans (State.rd_wr_same ..), records⟩
  case asleep =>
    obtain ⟨up, active⟩ := h
    show execAspmL1 true s = _
    simp [execAspmL1, up, active]
  case awake =>
    obtain ⟨up, asleep⟩ := h
    show execAspmL1 false s = _
    simp [execAspmL1, up, asleep]

end Sys2Proof.Machine
end

section
/-! PROOFS. The Verdict Port: its cycles, its entries and its conditions (R430, R433 to R436, R440, R446, R456). -/
namespace Sys2Proof.Machine
set_option Elab.async false
open Sys2Proof

/-! ### The verdict entries -/

section
variable {s t : State} {id : Nat} {e : Entry}

theorem entry_of_vt (h : t.vt = s.vt) (k : Nat) : t.entry k = s.entry k := congrArg (sget ({} : Entry) · k) h

theorem entry_putEntry_same : (s.putEntry id e).entry id = e := sget_sset_same ({} : Entry) s.vt id e

theorem entry_putEntry_ne {k : Nat} (h : k ≠ id) : (s.putEntry id e).entry k = s.entry k := sget_sset_ne ({} : Entry) {} s.vt e h

/-- A changed entry is as it was written, with the next SEQ (R433). -/
theorem entry_chgEntry_changed
    (changed : ¬((s.entry id).st = e.st ∧ (s.entry id).lane = e.lane ∧ (s.entry id).dim = e.dim ∧ (s.entry id).flags = e.flags)) :
    (s.chgEntry id e).entry id = { e with seq := ((s.entry id).seq + 1) % 16 } := by
  unfold State.chgEntry
  rw [if_neg changed]
  exact entry_putEntry_same

theorem entry_chgEntry_st (other : (s.entry id).st ≠ e.st) :
    (s.chgEntry id e).entry id = { e with seq := ((s.entry id).seq + 1) % 16 } :=
  entry_chgEntry_changed fun same => other same.1

/-- Whatever becomes of SEQ, the entry is as it was written. -/
theorem entry_chgEntry : ∃ n, (s.chgEntry id e).entry id = { e with seq := n } := by
  unfold State.chgEntry
  extract_lets o
  split
  · exact ⟨_, entry_putEntry_same⟩
  · exact ⟨_, entry_putEntry_same⟩

theorem entry_chgEntry_ne {k : Nat} (h : k ≠ id) : (s.chgEntry id e).entry k = s.entry k := by
  unfold State.chgEntry
  extract_lets o
  split
  · exact entry_putEntry_ne h
  · exact entry_putEntry_ne h

/-- A changed entry leaves what does not look at the entries. -/
theorem chgEntry_part {α : Type} (g : State → α) (vt : ∀ l, g { s with vt := l } = g s) : g (s.chgEntry id e) = g s := by
  unfold State.chgEntry
  extract_lets o
  split
  · exact vt _
  · exact vt _

end

/-! ### Cycles of the port -/

section
variable {s : State} {id word l : Nat} (up : vpUp s = true) (hid : id < 65536) (hw : word < 2 ^ 32)

theorem entry_vpCycle (k : Nat) : (vpCycle s).entry k = s.entry k := (flags_perf ..).part (·.entry k)

theorem vpCycle_part {α : Type} (g : State → α) (hg : ∀ r p j v, g { s with regs := r, reports := p, injections := j, vpLast := v } = g s) :
    g (vpCycle s) = g s :=
  (congrArg g (flags_perf ((vpEdge s).bump pgVpt R.vpWriteCnt) pgVpt 0x04 1).rest).trans (hg _ _ _ s.time)

include up hid hw

/-- A write cycle whose parity is good, to an enabled line (R434). -/
theorem vpWrite_line (ecc : Ecc) (line : lineOfId (vpCycle s) id = some l) :
    vpWrite s id word true ecc =
      if bitsOf word 31 28 = 1 ∧ bitsOf word 27 24 = 0 then vpAnnounce (vpCycle s) l id (bitsOf word 23 0) ecc
      else if bitsOf word 31 28 = 2 ∧ bitsOf word 23 0 = 0 then vpAck (vpCycle s) id (bitsOf word 27 24) ecc
      else vpBad (vpCycle s) := by
  have taken : ¬(vpUp s = false ∨ 65536 ≤ id ∨ 2 ^ 32 ≤ word) := by simp [up]; omega
  unfold vpCycle at line
  simp only [vpWrite, if_neg taken, line, Bool.true_eq_false, if_false, vpCycle]

theorem vpWrite_parity (ecc : Ecc) : vpWrite s id word false ecc = vpParityErr (vpCycle s) := by
  have taken : ¬(vpUp s = false ∨ 65536 ≤ id ∨ 2 ^ 32 ≤ word) := by simp [up]; omega
  simp only [vpWrite, if_neg taken, if_true, vpCycle]

/-- A word that is neither command is counted, whatever line it is for (R434). -/
theorem vpWrite_bad (bad : vpGood word = false) : vpWrite s id word true .ok = vpBad (vpCycle s) := by
  have taken : ¬(vpUp s = false ∨ 65536 ≤ id ∨ 2 ^ 32 ≤ word) := by simp [up]; omega
  simp only [vpGood, Bool.or_eq_false_iff, Bool.and_eq_false_iff, beq_eq_false_iff_ne] at bad
  obtain ⟨noAnnounce, noAck⟩ := bad
  have noAnnounce : ¬(bitsOf word 31 28 = 1 ∧ bitsOf word 27 24 = 0) := by tauto
  have noAck : ¬(bitsOf word 31 28 = 2 ∧ bitsOf word 23 0 = 0) := by tauto
  cases line : lineOfId (vpCycle s) id with
  | none =>
    unfold vpCycle at line
    simp only [vpWrite, if_neg taken, line, Bool.true_eq_false, if_false, vpCycle]
  | some l => rw [vpWrite_line up hid hw .ok line, if_neg noAnnounce, if_neg noAck]

end

/-- A sound word is found as it is (R384). -/
theorem vpLook_sound {s : State} {id : Nat} (sound : (s.entry id).poisoned = false) : vpLook s id .ok = (false, s) := by
  simp [vpLook, sound]

/-! ### ANNOUNCE and ACK -/

section
variable {s : State} {id pos seq l : Nat} (up : vpUp s = true) (hid : id < 65536)
  (line : lineOfId (vpCycle s) id = some l)
include up hid line

theorem exec_announce (room : pos < 2 ^ 24) : exec (.announce id pos .ok) s = .next (vpAnnounce (vpCycle s) l id pos .ok) := by
  have command : bitsOf (0x10000000 + pos) 31 28 = 1 ∧ bitsOf (0x10000000 + pos) 27 24 = 0 := by
    constructor <;> simp only [bitsOf] <;> omega
  have place : bitsOf (0x10000000 + pos) 23 0 = pos := by simp only [bitsOf]; omega
  refine congrArg Host.Outcome.next ((if_neg (Nat.not_le.2 room)).trans ?_)
  rw [vpWrite_line up hid (by omega) .ok line, if_pos command, place]

theorem exec_ack (room : seq < 16) : exec (.ack id seq .ok) s = .next (vpAck (vpCycle s) id seq .ok) := by
  have other : ¬(bitsOf (0x20000000 + seq * 2 ^ 24) 31 28 = 1 ∧ bitsOf (0x20000000 + seq * 2 ^ 24) 27 24 = 0) := by
    simp only [bitsOf]; omega
  have command : bitsOf (0x20000000 + seq * 2 ^ 24) 31 28 = 2 ∧ bitsOf (0x20000000 + seq * 2 ^ 24) 23 0 = 0 := by
    constructor <;> simp only [bitsOf] <;> omega
  have number : bitsOf (0x20000000 + seq * 2 ^ 24) 27 24 = seq := by simp only [bitsOf]; omega
  refine congrArg Host.Outcome.next ((if_neg (Nat.not_le.2 room)).trans ?_)
  rw [vpWrite_line up hid (by omega) .ok line, if_neg other, if_pos command, number]

end

/-- The entry that an ANNOUNCE opens (R440). -/
def openedEntry (s : State) (l id pos : Nat) : Entry :=
  { st := vAnnounced, seq := (s.entry id).seq, lane := 0xFF, dim := 0xF, flags := 0, pos := some pos,
    epos := linePos s l + s24 ((pos : Int) - (lineCnt s l + s.rd pgVpt R.encOfs l : Nat)), since := s.time }

/-- Without an event that waits, an ANNOUNCE only opens its entry (R440). -/
theorem announce_unpaired {s : State} {l : Nat} (id pos : Nat) (alone : listedOf s l = []) :
    announce s l id pos = s.chgEntry id (openedEntry s l id pos) := by
  have events (e : Entry) : listedOf (s.chgEntry id e) l = [] := (chgEntry_part (listedOf · l) fun _ => rfl).trans alone
  simp only [announce, events, List.filter_nil, leastBy, openedEntry]

/-- Settles O45: a write cycle is one of the two commands or a bad write, and the entry's SEQ advances with its STATE. -/
theorem verdictPort : Obligations.VerdictPort := by
  intro id pos seq w l hid
  refine ⟨?read, ?parity, ?down, ?announce, ?ack, ?stale, ?badParity, ?badWord, ?clock⟩
  case read =>
    intro s ⟨up, sound⟩
    have here : ¬65536 ≤ id := by omega
    have entry : (((vpEdge s).bump pgVpt R.vpReadCnt).perf pgVpt 0x04).entry id = s.entry id := (flags_perf ..).part (·.entry id)
    have look := vpLook_sound (s := ((vpEdge s).bump pgVpt R.vpReadCnt).perf pgVpt 0x04) (id := id) (by rw [entry, sound])
    show execVpRead id true .ok s = _
    simp only [execVpRead, up, Bool.true_eq_false, if_false, if_neg here, look, Bool.false_eq_true, entry]
  case parity =>
    intro s up
    have here : ¬65536 ≤ id := by omega
    show execVpRead id false .ok s = _
    simp only [execVpRead, up, Bool.true_eq_false, if_false, if_neg here, if_true, vpParity]
  case down =>
    intro s down
    exact congrArg Host.Outcome.next (if_pos down)
  case announce =>
    intro s ⟨up, room, line, fresh, alone⟩
    have entry : (vpCycle s).entry id = { seq := seq } := (entry_vpCycle id).trans fresh
    have look := vpLook_sound (s := vpCycle s) (id := id) (by rw [entry])
    have time : (vpCycle s).time = s.time := vpCycle_part State.time fun _ _ _ _ => rfl
    have opens := announce_unpaired (s := vpCycle s) id pos ((vpCycle_part (listedOf · l) fun _ _ _ _ => rfl).trans alone)
    have step : exec (.announce id pos .ok) s = .next ((vpCycle s).chgEntry id (openedEntry (vpCycle s) l id pos)) := by
      rw [exec_announce up hid line room, vpAnnounce, look, ← opens]
      simp only [Bool.false_eq_true, if_false, entry, vEmpty, if_true]
    have opened := entry_chgEntry_st (s := vpCycle s) (e := openedEntry (vpCycle s) l id pos) (by rw [entry]; exact Nat.zero_ne_one)
    refine ⟨_, step, ?_⟩
    beta_reduce
    rw [opened, entry]
    exact ⟨rfl, rfl, rfl, rfl, rfl, rfl, time, fun k hk => (entry_chgEntry_ne hk).trans (entry_vpCycle k)⟩
  case ack =>
    intro s ⟨up, room, line, sound, used, number⟩
    have entry := entry_vpCycle (s := s) id
    have look := vpLook_sound (s := vpCycle s) (id := id) (by rw [entry, sound])
    have step : exec (.ack id seq .ok) s = .next ((vpCycle s).chgEntry id { st := vEmpty, seq := seq }) := by
      rw [exec_ack up hid line room, vpAck, look]
      simp only [Bool.false_eq_true, if_false, entry, if_neg used, number, ne_eq, not_true_eq_false]
    refine ⟨_, step, ?_, fun k hk => (entry_chgEntry_ne hk).trans (entry_vpCycle k)⟩
    rw [entry_chgEntry_st (by rw [entry]; exact used), entry, number]
  case stale =>
    intro s ⟨up, room, line, sound, used, number⟩
    have entry := entry_vpCycle (s := s) id
    have look := vpLook_sound (s := vpCycle s) (id := id) (by rw [entry, sound])
    rw [exec_ack up hid line room, vpAck, look]
    simp only [Bool.false_eq_true, if_false, entry, if_neg used, ne_eq, number, not_false_eq_true, if_true]
  case badParity =>
    intro s ⟨up, hw⟩
    show execBadWrite id w false s = _
    simp only [execBadWrite, Bool.false_eq_true, false_and, if_false, vpWrite_parity up hid hw, vpParityErr, vpParity]
  case badWord =>
    intro s ⟨up, hw, bad⟩
    show execBadWrite id w true s = _
    simp only [execBadWrite, bad, Bool.false_eq_true, false_and, and_false, if_false, vpWrite_bad up hid hw bad, vpBad, vpBadOp]
  case clock =>
    intro s quiet
    exact congrArg Host.Outcome.next (if_pos quiet)

end Sys2Proof.Machine
end

section
/-! PROOFS. Photo-eye events, their pairing and their deadlines (R20, R438 to R441). -/
namespace Sys2Proof.Machine
set_option Elab.async false
open Sys2Proof

/-- Clearing a bit clears no other. -/
theorem bitOf_clrBit (x i j : Nat) : bitOf (clrBit x i) j = (bitOf x j && decide (j ≠ i)) := by
  unfold clrBit
  split
  case isTrue set =>
    obtain ⟨y, rfl⟩ : ∃ y, x = y + 2 ^ i := by
      refine ⟨x - 2 ^ i, (Nat.sub_add_cancel (Nat.le_of_not_lt fun small => ?_)).symm⟩
      rw [bitOf, Nat.div_eq_of_lt small] at set
      cases set
    have clear : bitOf y i = false := by
      rw [bitOf, Nat.add_div_right _ i.two_pow_pos, beq_iff_eq] at set
      rw [bitOf, beq_eq_false_iff_ne]
      omega
    rw [Nat.add_sub_cancel, bitOf_add_two_pow clear]
    by_cases same : j = i
    · simp [same, clear]
    · simp [same]
  case isFalse clear =>
    by_cases same : j = i
    · simpa [same] using clear
    · simp [same]

/-- A notice reaches the pages of host queues only (R641). -/
theorem noticeOn_rd {s : State} {p q : Nat} {f : Fld} {i : Nat} (hp : p < 8) (other : ∀ n < 8, q ≠ pgHq n) (hf : fldPos f i < 1048576) :
    (s.noticeOn p).rd q f i = s.rd q f i := by
  have pairs (u : State) (n : Nat) (hn : n < 8) : (noticePairs u n).rd q f i = u.rd q f i := by
    refine foldl_leaves_on (fun v => v.rd q f i) (List.range 16) (fun k hk v => ?_) u
    have place : fldPos R.noticePend k < 1048576 := by
      revert k; decide
    split
    · exact rd_wr_page (other n hn) hf place
    · rfl
  unfold State.noticeOn
  extract_lets v
  split
  · exact pairs _ p hp
  · exact (pairs _ 0 (by decide)).trans (pairs _ p hp)

/-! ### Events -/

/-- The event that the eye of a line records (R438). -/
def eyeParcel (s : State) (l : Nat) : Parcel :=
  { line := l, c := lineCnt s l, time := s.time, pos := linePos s l, done := !s.on pgSaf R.fawnEn l }

section
variable {s : State} {l p : Nat} {x : Pin} {o : Parcel}

/-- An edge that an awake line's eye accepts is recorded (R438). -/
theorem eyeRow_accepted {rise : Bool} (hl : l < 4) (pin : s.rd pgVpt R.eyePin l = p) (own : sget {} s.pins p = x) (settled : x.sw = none)
    (level : x.level = some (!rise)) (func : s.rd pgLio R.pinFunc p = 5) (unit : s.rd pgLio R.pinUnit p = l) (up : awake s = true)
    (works : eyeWorks { s with pins := sset {} s.pins p { x with level := some rise } } l p = true) :
    eyeRow s l rise = if rise = true then recordEvent { s with pins := sset {} s.pins p { x with level := some rise } } l
      else recordTrail { s with pins := sset {} s.pins p { x with level := some rise } } l := by
  subst own
  have accepted : ¬(4 ≤ l ∨ (sget ({} : Pin) s.pins p).sw.isSome = true ∨ s.rd pgLio R.pinFunc p ≠ 5 ∨
      (sget ({} : Pin) s.pins p).level ≠ some (!rise)) := by
    simp [settled, level, func]; omega
  generalize hu : ({ s with pins := sset {} s.pins p { sget ({} : Pin) s.pins p with level := some rise } } : State) = u at *
  have wakes : awake u = true := by subst hu; exact up
  have runs : ¬(awake u = false ∨ eyeWorks u l p = false) := by simp [wakes, works]
  have line : u.rd pgLio R.pinUnit p = l := by subst hu; exact unit
  simp only [eyeRow, pin, if_neg accepted, hu, eyeEdge, line, if_neg runs]

/-- Without an announced entry and without an event that waits, an edge only adds its event (R440). -/
theorem recordEvent_alone (empty : s.vt = []) (alone : listedOf s l = []) :
    recordEvent s l = { s.bump pgVpt R.evtCnt (i := l) with parcels := s.parcels ++ [eyeParcel s l] } := by
  have vt : (s.bump pgVpt R.evtCnt (i := l)).vt = [] := empty
  have listed : listedOf (s.bump pgVpt R.evtCnt (i := l)) l = [] := alone
  simp only [recordEvent, vt, listed, List.filter_nil, List.map_nil, leastBy, List.length_nil, show ¬64 ≤ 0 by decide, if_false]
  rfl

theorem sameEvent_self (q : Parcel) : sameEvent q q = true := by simp [sameEvent]

theorem modParcel_single (only : s.parcels = [o]) (f : Parcel → Parcel) : modParcel s o f = { s with parcels := [f o] } := by
  simp [modParcel, only, sameEvent_self]

/-- The trailing edge of the latest event (R438). -/
theorem recordTrail_single (only : s.parcels = [o]) (line : o.line = l) (lasts : o.trail = none) (free : o.id = none)
    (listed : o.listed = true) :
    recordTrail s l = { s with parcels := [{ o with trail := some (lineCnt s l), tpos := linePos s l }] } := by
  have latest : openEvent s l = some o := by simp [openEvent, only, line, lasts]
  simp only [recordTrail, latest, free, modParcel_single only, sweepParcels]
  simp [listed]

/-- An unpaired event is no longer listed (R441). -/
theorem unpairedEvent_single (only : s.parcels = [o]) : ∀ q ∈ (unpairedEvent s o).parcels, q.listed = false := by
  have parcels : (unpairedEvent s o).parcels = (sweepParcels (modParcel s o fun r => { r with listed := false })).parcels :=
    ((marks_log ..).part State.parcels).trans ((flags_raise ..).part State.parcels)
  intro q hq
  rw [parcels, modParcel_single only, sweepParcels] at hq
  obtain ⟨here, -⟩ := List.mem_filter.1 hq
  rw [List.mem_singleton.1 here]

end

/-- The counters of the lines stand beside the flags. -/
theorem lineCounters_place : ∀ f ∈ [R.unpairedEvtCnt, R.unpairedAnnCnt, R.missedCnt], ∀ l < 4,
    markPos (fldPos f l) = false ∧ fldPos f l < 1048576 ∧ f.w = 32 := by
  decide

/-- A line's counter goes up by one, through its flag and its record. -/
theorem counted_rd {s : State} {f : Fld} {l b : Nat} {r : LogRec} (hf : f ∈ [R.unpairedEvtCnt, R.unpairedAnnCnt, R.missedCnt]) (hl : l < 4) :
    (((s.bump pgVpt f (i := l)).raise pgVpt b).log r).rd pgVpt f l = (s.rd pgVpt f l + 1) % 2 ^ 32 := by
  obtain ⟨mark, place, width⟩ := lineCounters_place f hf l hl
  rw [log_rd _ _ _ (by decide) place, (flags_raise ..).rd mark place, State.bump, State.rd_wr_same, width]

/-- And one record is added. -/
theorem counted_logQ {s : State} {f : Fld} {l b : Nat} {r : LogRec} :
    (((s.bump pgVpt f (i := l)).raise pgVpt b).log r).logQ.length = s.logQ.length + 1 :=
  (logI_logQ_length ..).trans (congrArg (·.length + 1) ((flags_raise ..).part State.logQ))

/-- And the entries stay. -/
theorem counted_vt {s : State} {f : Fld} {l b : Nat} {r : LogRec} : (((s.bump pgVpt f (i := l)).raise pgVpt b).log r).vt = s.vt :=
  ((marks_log ..).part State.vt).trans ((flags_raise ..).part State.vt)

/-- What the deadline makes of an entry (R20). -/
def missedEntry (e : Entry) : Entry :=
  markFawn { e with
    st := vFallback
    lane := 0xFF
    dim := e.fawn.getD 0xF
    held := none
    flags := setBit e.flags fMissed }

theorem missedEntry_missed (e : Entry) : bitOf (missedEntry e).flags fMissed = true := by
  simp only [missedEntry, markFawn]
  split
  · simp [bitOf_setBit, fMissed, fFawn]
  · simp [bitOf_setBit, bitOf_clrBit, fMissed, fFawn]

/-- A missed entry is FALLBACK with MISSED (R20). -/
theorem missEntry_entry {s : State} {id : Nat} (sound : (s.entry id).poisoned = false) :
    ∃ n, (missEntry s id).entry id = { missedEntry (s.entry id) with seq := n } := by
  have misses : missEntry s id = s.chgEntry id (missedEntry (s.entry id)) := if_neg (by simp [sound])
  rw [misses]
  exact entry_chgEntry

/-- The deadline changes nothing but the entry. -/
theorem missEntry_part {α : Type} {s : State} {id : Nat} (g : State → α) (vt : ∀ l, g { s with vt := l } = g s) : g (missEntry s id) = g s := by
  unfold missEntry
  extract_lets e
  split
  · rfl
  · exact chgEntry_part g vt

/-- The notices of a line's partitions leave the port's registers. -/
theorem lineNotices_rd {s u : State} {l : Nat} {f : Fld} {i : Nat} (hf : fldPos f i < 1048576) :
    ((partsOf s l).foldl (fun u p => u.noticeOn p) u).rd pgVpt f i = u.rd pgVpt f i := by
  refine foldl_leaves_on (fun v => v.rd pgVpt f i) _ (fun p hp v => ?_) u
  obtain ⟨hp, -⟩ := List.mem_filter.1 hp
  exact noticeOn_rd (List.mem_range.1 hp) (by decide) hf

theorem lineNotices_part {α : Type} {s u : State} {l : Nat} (g : State → α) (regs : ∀ (u : State) r, g { u with regs := r } = g u)
    (notice : ∀ (u : State) n, g { u with notice := n } = g u) : g ((partsOf s l).foldl (fun u p => u.noticeOn p) u) = g u :=
  foldl_leaves g (fun v p => noticeOn_part g v p regs (notice v)) _ u

/-- Settles O46: an edge of a settled eye pin is an event or its end, and each deadline marks, counts and records once. -/
theorem eyeEvents : Obligations.EyeEvents := by
  intro l p id x o hl
  refine ⟨?leading, ?trailing, ?unpairedEvt, ?unpairedAnn, ?missed⟩
  case leading =>
    intro s ⟨pin, own, settled, level, func, unit, up, empty, alone, works⟩
    have row := eyeRow_accepted (rise := true) hl pin own settled level func unit up works
    rw [if_pos rfl] at row
    refine ⟨_, congrArg Host.Outcome.next (row.trans (recordEvent_alone empty alone)), rfl, ?_⟩
    exact State.rd_wr_same ..
  case trailing =>
    intro s ⟨pin, own, settled, level, func, unit, up, only, line, lasts, free, listed, works⟩
    have row := eyeRow_accepted (rise := false) hl pin own settled level func unit up works
    rw [if_neg Bool.false_ne_true] at row
    exact ⟨_, congrArg Host.Outcome.next (row.trans (recordTrail_single only line lasts free listed)), rfl, rfl⟩
  case unpairedEvt =>
    intro s ⟨on, only, line, listed, late⟩
    have found : (listedOf s l).find? (fun q => decide (q.pos + (s.rd pgVpt R.annWait l : Nat) ≤ linePos s l)) = some o := by
      simp [listedOf, only, line, listed, late]
    have step : exec (.unpairedEvt l) s = .next (unpairedEvent s o) := by
      show execUnpairedEvt l s = _
      simp only [execUnpairedEvt, on, Bool.true_eq_false, if_false, found]
    refine ⟨_, step, ?_, unpairedEvent_single only, ?_⟩
    · subst line
      exact counted_rd (by decide) hl
    · exact counted_logQ
  case unpairedAnn =>
    intro s ⟨line, waits, sound, late⟩
    have acts : ¬(waiting s l (id, s.entry id) = false ∨ (s.entry id).poisoned = true ∨
        linePos s l < (s.entry id).epos + (s.rd pgVpt R.annWait l : Nat)) := by
      simp [waits, sound]; omega
    let u := (s.chgEntry id { s.entry id with flags := setBit (s.entry id).flags fUnpaired }).bump pgVpt R.unpairedAnnCnt (i := l)
    have step : exec (.unpairedAnn id) s = .next ((u.raise pgVpt vpUnpaired).log
        { event := 0x29, part := linePart u l, page := pgVpt, d0 := l, d1 := id }) := by
      show execUnpairedAnn id s = _
      simp only [execUnpairedAnn, line, if_neg acts, u]
    refine ⟨_, step, ?_, (counted_rd (by decide) hl).trans ?_, counted_logQ.trans ?_⟩
    · obtain ⟨n, entry⟩ := entry_chgEntry (s := s) (id := id) (e := { s.entry id with flags := setBit (s.entry id).flags fUnpaired })
      rw [entry_of_vt counted_vt, entry]
    · rw [chgEntry_part (fun u => u.rd pgVpt R.unpairedAnnCnt l) fun _ => rfl]
    · rw [chgEntry_part State.logQ fun _ => rfl]
  case missed =>
    intro s ⟨line, origin, opened, sound, late⟩
    have acts : ¬((s.entry id).origin.isNone = true ∨ ((s.entry id).st ≠ vAnnounced ∧ (s.entry id).st ≠ vPending) ∨
        (s.entry id).poisoned = true ∨ linePos s l < (s.entry id).epos + (s.rd pgVpt R.divertDist l : Nat)) := by
      simp only [Option.isNone_iff_eq_none, origin, sound, false_or, Bool.false_eq_true, not_or]
      exact ⟨by tauto, by omega⟩
    let u := ((missEntry s id).bump pgVpt R.missedCnt (i := l)).raise pgVpt vpMissed
    let v := u.log { event := 0x2B, part := linePart u l, page := pgVpt, d0 := l, d1 := id }
    have step : exec (.missed id) s = .next ((partsOf v l).foldl (fun s p => s.noticeOn p) v) := by
      show execMissed id s = _
      simp only [execMissed, line, if_neg acts, u, v]
    have vt : ((partsOf v l).foldl (fun s p => s.noticeOn p) v).vt = (missEntry s id).vt :=
      (lineNotices_part State.vt (fun _ _ => rfl) fun _ _ => rfl).trans counted_vt
    obtain ⟨n, entry⟩ := missEntry_entry (id := id) sound
    have place := (lineCounters_place R.missedCnt (by decide) l hl).2.1
    refine ⟨_, step, ?_⟩
    beta_reduce
    rw [entry_of_vt vt, entry]
    refine ⟨rfl, rfl, rfl, missedEntry_missed _, ?_, ?_⟩
    · rw [lineNotices_rd place, counted_rd (by decide) hl, missEntry_part (fun u => u.rd pgVpt R.missedCnt l) fun _ => rfl]
    · rw [lineNotices_part State.logQ (fun _ _ => rfl) fun _ _ => rfl, counted_logQ, missEntry_part State.logQ fun _ => rfl]

end Sys2Proof.Machine
end

section
/-! PROOFS. Staging requests and the lines' configuration (R437, R443, R489). -/
namespace Sys2Proof.Machine
set_option Elab.async false
open Sys2Proof

/-! ### A write of one verdict word -/

/-- Four bytes of a word are the word. -/
theorem fromLe_leBytes_four {w : Nat} (hw : w < 2 ^ 32) : fromLe (leBytes 4 w) = w := by
  simp only [leBytes, fromLe, BitVec.toNat_ofNat]
  omega

section
variable {s : State} {t : Tag} {id w : Nat}

theorem targetOf_vt (hid : id < 65536) : targetOf (vtBase + 4 * id) = .vt := by
  have above : ¬vtBase + 4 * id < 0x06000000 := by simp only [vtBase]; omega
  have within : vtBase ≤ vtBase + 4 * id ∧ vtBase + 4 * id < vtBase + 0x40000 := by omega
  rw [targetOf, if_neg above, if_pos within]

theorem vtIds_word (id : Nat) : vtIds (vtBase + 4 * id) 4 = [id] := by
  have one : cdiv ((vtBase + 4 * id) % 4 + 4) 4 = 1 := by simp only [cdiv, vtBase]; omega
  have here : (vtBase + 4 * id - vtBase) / 4 = id := by omega
  rw [vtIds, one, List.range_one, List.map_singleton, here, Nat.add_zero]

/-- A whole word replaces the entry's word. -/
theorem vtMerged_word (hw : w < 2 ^ 32) : vtMerged s (vtBase + 4 * id) (leBytes 4 w) id = w := by
  have byte : ∀ j ∈ List.range 4, (if vtBase + 4 * id ≤ vtBase + 4 * id + j ∧ vtBase + 4 * id + j < vtBase + 4 * id + (leBytes 4 w).length
      then ((leBytes 4 w)[vtBase + 4 * id + j - (vtBase + 4 * id)]?).getD 0
      else ((leBytes 4 (entryWord (s.entry id) 0))[j]?).getD 0) = ((leBytes 4 w)[j]?).getD 0 := by
    intro j hj
    have low := List.mem_range.1 hj
    rw [if_pos (by rw [leBytes_length]; omega), Nat.add_sub_cancel_left]
  simp only [vtMerged]
  rw [List.map_congr_left byte]
  exact fromLe_leBytes_four hw

variable (hid : id < 65536) (hw : w < 2 ^ 32) (sound : (s.entry id).poisoned = false)
include hid hw sound

/-- A word that reaches a sound entry is a staging request (R443). -/
theorem serveWrite_vt (inc : Nat) : serveWrite s t (vtBase + 4 * id) (leBytes 4 w) .ok inc = (.ok [], stage s t id w) := by
  have part : vtReadPart s t (vtBase + 4 * id) 4 .ok = s := by
    unfold vtReadPart
    split
    · rfl
    · rfl
  simp only [serveWrite, targetOf_vt hid, leBytes_length, part, vtIds_word]
  simp [sound, vtMerged_word hw]

theorem tryWrite_vt (dap : t.init ≠ 0xE8) (slot : freeTid s t.init ≠ none) (quiet : injectNow s pgFab 12 = false)
    (granted : judge s t opWrite (vtBase + 4 * id) 4 = .pass) :
    tryWrite s t (vtBase + 4 * id) (leBytes 4 w) .ok = (.ok [], stage s t id w) := by
  obtain ⟨tid, free⟩ := Option.ne_none_iff_exists'.1 slot
  have mapped : targetOf (vtBase + 4 * id) ≠ .none := by rw [targetOf_vt hid]; decide
  simp only [tryWrite, free, fabWrite, respEcc, leBytes_length, dap, reduceCtorEq, decide_false, if_false,
    passes_granted mapped quiet granted, serveWrite_vt hid hw sound, false_and]

/-- A staging request of an initiator that the firewall lets through (R443). -/
theorem exec_stagingRequest {ini : Ini} {page : Nat} (runs : ¬(ini = Ini.island ∧ s.on pgSaf R.fault = true))
    (dap : (tagIni s ini).init ≠ 0xE8) (port : pageOfInit (tagIni s ini).init = some page) (slot : freeTid s (tagIni s ini).init ≠ none)
    (quiet : injectNow s pgFab 12 = false) (granted : judge s (tagIni s ini) opWrite (vtBase + 4 * id) 4 = .pass) :
    exec (.stagingRequest ini id w) s = .next (perfWr (stage s (tagIni s ini) id w) page) := by
  have taken : ¬(65536 ≤ id ∨ (ini = Ini.island ∧ s.on pgSaf R.fault = true)) := by
    rintro (far | stopped)
    · omega
    · exact runs stopped
  show execStagingRequest ini id w s = _
  simp only [execStagingRequest, if_neg taken, tryWrite_vt hid hw sound dap slot quiet granted, port, Bool.false_eq_true, and_false, if_false]

end

theorem perfWr_vt (s : State) (page : Nat) : (perfWr s page).vt = s.vt :=
  ((flags_perf ..).part State.vt).trans ((flags_perf ..).part State.vt)

/-! ### What a staging word does -/

section
variable {s : State} {t : Tag} {id w : Nat}

theorem stage_pending (port : t.init = 0x18) (sc : t.sc = 3) (waits : (s.entry id).st = vAnnounced) (asks : bitsOf w 11 9 = vPending) :
    stage s t id w = s.chgEntry id { s.entry id with
      st := vPending
      lane := 0xFF
      dim := bitsOf w 15 12
      fawn := some (bitsOf w 15 12)
      flags := setBit (mergeFlags (s.entry id).flags (bitsOf w 8 0)) fFawn } := by
  simp only [stage, asks, waits, port, sc, and_self, if_true]

theorem stage_final (waits : (s.entry id).st = vPending) (asks : bitsOf w 11 9 = vFinal) (free : finalBarred s id = false)
    (room : heldOfLine s id < 256) :
    stage s t id w = (s.bump pgSaf R.heldCnt).putEntry id
      { s.entry id with held := some ⟨bitsOf w 23 16, bitsOf w 15 12, bitsOf w 8 0⟩ } := by
  have holds : ¬((s.entry id).held.isNone = true ∧ 256 ≤ heldOfLine s id) := by omega
  have other : ¬(vFinal = vPending ∧ vPending = vAnnounced ∧ t.init = 0x18 ∧ t.sc = 3) := fun same => absurd same.1 (by decide)
  simp only [stage, asks, waits, if_neg other, and_self, if_true, acceptFinal, free, Bool.false_eq_true, if_false, if_neg holds]

/-- Nothing is staged in an EMPTY entry. -/
theorem stage_empty (empty : (s.entry id).st = vEmpty) : stage s t id w = s.bump pgVpt R.stageRefusedCnt := by
  have idle : vEmpty ≠ vAnnounced ∧ vEmpty ≠ vPending ∧ vEmpty ≠ vFinal := by decide
  simp [stage, empty, idle]

end

/-! ### The lines' configuration -/

section
variable {s : State} {l off v : Nat}

/-- LINE_CFG of a register of a line's block (R437). -/
theorem exec_lineCfg {ini : Ini} (hl : l < 4) (hv : v < 2 ^ 32) (known : [0, 4, 8, 0xC, 0x10, 0x14].contains off = true) (s : State) :
    exec (.lineCfg ini l off v) s = .next (regRow s ini pgVpt (0x100 + 0x40 * l + off) fun u =>
      if unlocked u pgVpt = false then u
      else if (lineFields u l off v).on pgVpt R.lineEn l ∧ lineOkCfg (lineFields u l off v) l = false then u.prog pgVpt
      else lineFields u l off v) := by
  have taken : ¬(4 ≤ l ∨ 2 ^ 32 ≤ v ∨ [0, 4, 8, 0xC, 0x10, 0x14].contains off = false) := by
    rw [known]; simp; omega
  exact congrArg Host.Outcome.next (if_neg taken)

/-- The block of a line: its fields stand at places of their own. -/
theorem lineBlock_apart : ∀ l < 4, fldPos R.lineEn l ≠ fldPos R.annWait l ∧ fldPos R.lineEn l ≠ fldPos R.idLo l ∧
    fldPos R.lineEn l ≠ fldPos R.idHi l ∧ fldPos R.idLo l ≠ fldPos R.idHi l := by
  decide

/-- An ID range that is empty breaks the rules of R437. -/
theorem lineOkCfg_crossed (hl : l < 4) (crossed : bitsOf v 31 16 < bitsOf v 15 0) : lineOkCfg (lineFields s l 4 v) l = false := by
  obtain ⟨-, -, -, apart⟩ := lineBlock_apart l hl
  have low : (lineFields s l 4 v).rd pgVpt R.idLo l = bitsOf v 15 0 :=
    (rd_wr_pos apart).trans ((State.rd_wr_same ..).trans (Nat.mod_eq_of_lt (bitsOf_lt v 15 0)))
  have high : (lineFields s l 4 v).rd pgVpt R.idHi l = bitsOf v 31 16 :=
    (State.rd_wr_same ..).trans (Nat.mod_eq_of_lt (bitsOf_lt v 31 16))
  simp only [lineOkCfg, low, high, Nat.not_le.2 crossed, decide_false, Bool.false_and]

end

/-- Settles O47: a word that passes the firewall is staged by the entry's state, and a line's block is written through its rules. -/
theorem stagingAndLines : Obligations.StagingAndLines := by
  intro ini id w l off v n hid hw hl hv
  refine ⟨?pending, ?held, ?refused, ?written, ?broken, ?locked⟩
  case pending =>
    intro s ⟨runs, granted, slot, quiet, sound, waits, asks⟩
    have step := exec_stagingRequest (ini := .island) (page := pgSaf) hid hw sound (by simp [runs]) (show 0x18 ≠ 0xE8 by decide) rfl slot quiet granted
    rw [stage_pending rfl rfl waits asks] at step
    refine ⟨_, step, ?_⟩
    beta_reduce
    simp only [entry_of_vt (perfWr_vt ..)]
    rw [entry_chgEntry_st (by rw [waits]; exact (show vAnnounced ≠ vPending by decide))]
    exact ⟨rfl, rfl, rfl, fun k hk => entry_chgEntry_ne hk⟩
  case held =>
    intro s ⟨granted, sound, hn, slot, quiet, waits, asks, free, room⟩
    have port : pageOfInit n = some (pgHq n) := if_pos hn
    rw [exec_stagingRequest (ini := .fn n) hid hw sound (by simp) (show n ≠ 0xE8 by omega) port slot quiet granted,
      stage_final waits asks free room]
  case refused =>
    intro s ⟨granted, sound, slot, quiet, empty, hn⟩
    have port : pageOfInit n = some (pgHq n) := if_pos hn
    rw [exec_stagingRequest (ini := .fn n) hid hw sound (by simp) (show n ≠ 0xE8 by omega) port slot quiet granted, stage_empty empty]
  case written =>
    refine writes_of (exec_lineCfg hl hv (by decide)) fun u ⟨opened, off⟩ => ?_
    have disabled : (lineFields u l 0x10 v).on pgVpt R.lineEn l = false :=
      (congrArg (· != 0) (rd_wr_pos (lineBlock_apart l hl).1)).trans off
    rw [opened, disabled]
    rfl
  case broken =>
    refine writes_of (exec_lineCfg hl hv (by decide)) fun u ⟨opened, on, crossed⟩ => ?_
    obtain ⟨-, low, high, -⟩ := lineBlock_apart l hl
    have enabled : (lineFields u l 4 v).on pgVpt R.lineEn l = true :=
      (congrArg (· != 0) ((rd_wr_pos high).trans (rd_wr_pos low))).trans on
    simp only [opened, enabled, lineOkCfg_crossed hl crossed, Bool.true_eq_false, if_false, and_self, if_true]
  case locked =>
    intro known
    have known : [0, 4, 8, 0xC, 0x10, 0x14].contains off = true := by simpa using known
    exact writes_of (exec_lineCfg hl hv known) fun u shut => if_pos shut

end Sys2Proof.Machine
end

section
/-! PROOFS. The compositor: what a latch point does to each plane, and late or failed fetches (R462 to R464, R466, R469, R470). -/
namespace Sys2Proof.Machine
set_option Elab.async false
open Sys2Proof

/-! ### The registers of a plane -/

/-- The registers of a plane that a latch point writes. -/
def latchFields : List Fld :=
  [R.plSlotState0, R.plSlotState1, R.plSlotState2, R.plSlotState3, R.lastFreed, R.plSkipCnt, R.repeatCnt, R.planeMissCnt]

theorem slotFld_mem (n : Nat) : slotFld n ∈ latchFields := by
  unfold slotFld
  split_ifs <;> decide

/-- The planes' registers lie beyond the header of the page, beside its control and its events. -/
theorem planeCell_place : ∀ f ∈ R.plEn :: latchFields, ∀ k < 4, 1024 ≤ fldPos f k ∧ fldPos f k < 1048576 ∧
    fldPos f k ≠ fldPos R.monEvt 0 ∧ fldPos f k ≠ fldPos R.monFrameCnt 0 := by
  decide

/-- Each plane has cells of its own. -/
theorem planeCell_apart : ∀ k < 4, ∀ j < 4, k ≠ j → ∀ f ∈ R.plEn :: latchFields, ∀ g ∈ latchFields, fldPos f k ≠ fldPos g j := by
  decide

/-- A slot's state stands beside the other slots' and beside what a latch point counts. -/
theorem slotCell_apart : ∀ k < 4, ∀ n < 4, (∀ m < 4, n ≠ m → fldPos (slotFld n) k ≠ fldPos (slotFld m) k) ∧
    ∀ g ∈ [R.lastFreed, R.plSkipCnt, R.repeatCnt, R.planeMissCnt], fldPos (slotFld n) k ≠ fldPos g k := by
  decide

section
variable {f : Fld} {k : Nat} (hf : f ∈ R.plEn :: latchFields) (hk : k < 4)
include hf hk

theorem monBody_plane : MonBody (cellKey pgMon f k) := by
  obtain ⟨low, high, -⟩ := planeCell_place f hf k hk
  unfold MonBody cellKey
  omega

theorem planeCell_ne_evt : cellKey pgMon f k ≠ cellKey pgMon R.monEvt 0 := cellKey_ne_pos _ (planeCell_place f hf k hk).2.2.1

end

/-! ### Slots -/

theorem plSlot_event {s : State} {k : Nat} (hk : k < 4) (n b : Nat) : (s.event pgMon evMon b).plSlot k n = s.plSlot k n := by
  have mem : slotFld n ∈ R.plEn :: latchFields := List.mem_cons_of_mem _ (slotFld_mem n)
  exact (spares_event_mon (monBody_plane mem hk) (planeCell_ne_evt mem hk) s b).rd

section
variable {s : State} {k n m v : Nat} (hk : k < 4) (hn : n < 4)
include hk hn

theorem plSlot_setPlSlot (hm : m < 4) : (s.setPlSlot k m v).plSlot k n = if n = m then v % 4 else s.plSlot k n := by
  split
  next same =>
    subst same
    have width : (slotFld n).w = 2 := by revert n; decide
    exact (State.rd_wr_same ..).trans (congrArg (v % 2 ^ ·) width)
  next other => exact rd_wr_pos ((slotCell_apart k hk n hn).1 m hm other)

theorem plSlot_wr {g : Fld} (hg : g ∈ [R.lastFreed, R.plSkipCnt, R.repeatCnt, R.planeMissCnt]) : (s.wr pgMon g v k).plSlot k n = s.plSlot k n :=
  rd_wr_pos ((slotCell_apart k hk n hn).2 g hg)

/-- The slots of a list are freed, and the others stay. -/
theorem plSlot_freed (l : List Nat) (hl : ∀ i ∈ l, i < 4) :
    (l.foldl (fun s i => s.setPlSlot k i slFree) s).plSlot k n = if n ∈ l then slFree else s.plSlot k n := by
  induction l generalizing s with
  | nil => rfl
  | cons i l ih =>
    rw [List.foldl_cons, ih fun j hj => hl j (List.mem_cons_of_mem _ hj), plSlot_setPlSlot hk hn (hl i List.mem_cons_self)]
    by_cases first : n = i
    · simp [first, slFree]
    · simp [first]

/-- A slot that the test selects is FREE afterwards (R464). -/
theorem plSlot_freeSlots (test : Nat → Bool) : (freeSlots s k test).plSlot k n = if test n then slFree else s.plSlot k n := by
  unfold freeSlots
  extract_lets l x
  rw [plSlot_wr hk hn (by decide), plSlot_freed hk hn l fun i hi => List.mem_range.1 (List.mem_filter.1 hi).1]
  by_cases free : s.plSlot k n = slFree
  · simp [free]
  · simp [l, free, hn]

end

/-! ### One plane at a latch point -/

theorem spares_freeSlots {s : State} {c k : Nat} {test : Nat → Bool} (other : ∀ f ∈ latchFields, c ≠ cellKey pgMon f k) :
    Spares c s (freeSlots s k test) :=
  (Spares.foldl _ _ (fun n _ u => spares_wr (other _ (slotFld_mem n)) u _) s).trans (spares_wr (other _ (by decide)) _ _)

/-- What another plane looks at is as before, and nothing of the compositor but the plane's commits differs. -/
theorem latchPlane_beside {s : State} {c j : Nat} (body : MonBody c) (evt : c ≠ cellKey pgMon R.monEvt 0)
    (other : ∀ f ∈ latchFields, c ≠ cellKey pgMon f j) :
    Spares c { s with disp := { s.disp with commits := serase s.disp.commits j } } (latchPlane s j) := by
  unfold latchPlane
  extract_lets l _ erased
  have freed (test : Nat → Bool) : Spares c erased (freeSlots erased j test) := spares_freeSlots other
  refine .ite (freed _) ?_
  split
  next n _ =>
    exact (((freed _).trans (spares_wr (other _ (slotFld_mem n)) _ slShown)).trans (spares_wr (other _ (by decide)) _ _)).trans
      (spares_event_mon body evt ..)
  next =>
    have missed : Spares c erased (planeMiss (freeSlots erased j fun _ => true) j) :=
      ((freed _).trans (spares_wr (other _ (by decide)) _ _)).trans (spares_event_mon body evt ..)
    exact .ite ((freed _).trans (spares_wr (other _ (by decide)) _ _)) missed

/-- The compositor after one plane's latch. -/
theorem latchPlane_disp {s : State} {j : Nat} (hj : j < 4) :
    (latchPlane s j).disp = { s.disp with commits := serase s.disp.commits j } := by
  refine (latchPlane_beside (c := cellKey pgMon R.monRun 0) monBody_monRun (by decide) fun f hf => cellKey_ne_pos _ ?_).disp
  revert f j
  decide

/-- What plane k looks at is as before. -/
structure PlaneKept (k : Nat) (s t : State) : Prop where
  en : t.on pgMon R.plEn k = s.on pgMon R.plEn k
  slot : ∀ n, t.plSlot k n = s.plSlot k n
  commits : sfind t.disp.commits k = sfind s.disp.commits k

theorem PlaneKept.refl (k : Nat) (s : State) : PlaneKept k s s := ⟨rfl, fun _ => rfl, rfl⟩

theorem PlaneKept.trans {k : Nat} {s t u : State} (h : PlaneKept k s t) (g : PlaneKept k t u) : PlaneKept k s u :=
  ⟨g.en.trans h.en, fun n => (g.slot n).trans (h.slot n), g.commits.trans h.commits⟩

/-- What spares each of the plane's cells, and its commits. -/
theorem PlaneKept.of_cells {k : Nat} {s t : State}
    (cells : ∀ f ∈ R.plEn :: latchFields, sfind t.regs (cellKey pgMon f k) = sfind s.regs (cellKey pgMon f k))
    (commits : sfind t.disp.commits k = sfind s.disp.commits k) : PlaneKept k s t := by
  have read (f : Fld) (hf : f ∈ R.plEn :: latchFields) : t.rd pgMon f k = s.rd pgMon f k := by
    simp only [State.rd, sget, cells f hf]
  exact ⟨congrArg (· != 0) (read _ List.mem_cons_self), fun n => read _ (List.mem_cons_of_mem _ (slotFld_mem n)), commits⟩

theorem latchPlane_other {s : State} {k j : Nat} (hk : k < 4) (hj : j < 4) (other : j ≠ k) : PlaneKept k s (latchPlane s j) := by
  refine .of_cells (fun f hf => ?_) ?_
  · exact (latchPlane_beside (monBody_plane hf hk) (planeCell_ne_evt hf hk) fun g hg =>
      cellKey_ne_pos _ (planeCell_apart k hk j hj other.symm f hf g hg)).cell
  · rw [latchPlane_disp hj]
    exact sfind_serase_ne _ other.symm

section
variable {s : State} {k n m : Nat} (hk : k < 4) (hn : n < 4)
include hk hn

/-- A disabled plane frees its slots (R464). -/
theorem latchPlane_disabled (off : s.on pgMon R.plEn k = false) : (latchPlane s k).plSlot k n = slFree := by
  have here : latchPlane s k = freeSlots { s with disp := { s.disp with commits := serase s.disp.commits k } } k fun _ => true := if_pos off
  rw [here, plSlot_freeSlots hk hn]
  rfl

/-- The last slot committed is shown, and the others are free (R464). -/
theorem latchPlane_shown (hm : m < 4) (on : s.on pgMon R.plEn k = true) (last : (sget [] s.disp.commits k).getLast? = some m) :
    (latchPlane s k).plSlot k n = if n = m then slShown else slFree := by
  have enabled : ({ s with disp := { s.disp with commits := serase s.disp.commits k } } : State).on pgMon R.plEn k = true := on
  simp only [latchPlane, enabled, Bool.true_eq_false, if_false, last]
  rw [plSlot_event hk, State.bump, plSlot_wr hk hn (by decide), plSlot_setPlSlot hk hn hm, plSlot_freeSlots hk hn]
  by_cases same : n = m
  · simp [same, slShown]
  · simp [same]

end

/-! ### A latch point -/

/-- Before the planes: the frame is counted, video may resume, and the latch point is now (R463). -/
def latchBegin (s : State) : State :=
  let s := ((s.bump pgMon R.monFrameCnt).event pgMon evMon 0).perf pgMon 0x04
  let s := if s.disp.resume ∧ s.link = dpIdle then s.setLink dpVideo else s
  { s with disp := { s.disp with latch := s.time, resume := s.disp.resume && s.link != dpVideo, under := [] } }

theorem latchBegin_spares {c : Nat} (body : MonBody c) (evt : c ≠ cellKey pgMon R.monEvt 0) (count : c ≠ cellKey pgMon R.monFrameCnt 0)
    (s : State) : sfind (latchBegin s).regs c = sfind s.regs c ∧ (latchBegin s).time = s.time ∧
      ∃ r, (latchBegin s).disp = { s.disp with latch := s.time, resume := r, under := [] } := by
  unfold latchBegin
  extract_lets counted resumed
  have counts : Spares c s counted :=
    ((spares_wr count s _).trans (spares_event_mon body evt _ 0)).trans (spares_perf body _ _ _ _)
  have resumes : Spares c s resumed := .ite (counts.trans (spares_wr_page body (by decide) (by decide) _ _)) counts
  have time : resumed.time = s.time := by
    have counted : counted.time = s.time := ((quiet_event (s.bump pgMon R.monFrameCnt) pgMon evMon 0).trans (quiet_perf ..)).time
    unfold resumed
    split
    · exact counted
    · exact counted
  refine ⟨resumes.cell, time, resumed.disp.resume && resumed.link != dpVideo, ?_⟩
  show ({ resumed.disp with
    latch := resumed.time
    resume := resumed.disp.resume && resumed.link != dpVideo
    under := [] } : Mon) = _
  rw [time, resumes.disp]

theorem latchBegin_disp (s : State) : ∃ r, (latchBegin s).disp = { s.disp with latch := s.time, resume := r, under := [] } :=
  (latchBegin_spares monBody_monRun (by decide) (by decide) s).2.2

theorem latchBegin_kept {k : Nat} (hk : k < 4) (s : State) : PlaneKept k s (latchBegin s) := by
  refine .of_cells (fun f hf => ?_) ?_
  · exact (latchBegin_spares (monBody_plane hf hk) (planeCell_ne_evt hf hk)
      (cellKey_ne_pos _ (planeCell_place f hf k hk).2.2.2) s).1
  · obtain ⟨r, disp⟩ := latchBegin_disp s
    rw [disp]

/-- The planes one after another. -/
def latchPlanes (s : State) : State := [0, 1, 2, 3].foldl latchPlane s

theorem latchPlanes_disp (s : State) : ∃ c, (latchPlanes s).disp = { s.disp with commits := c } :=
  foldl_keeps (fun u => ∃ c, u.disp = { s.disp with commits := c }) [0, 1, 2, 3] (fun u j hj ⟨c, disp⟩ => by
    have low : j < 4 := by
      revert j
      decide
    exact ⟨_, (latchPlane_disp low).trans (by rw [disp])⟩) ⟨s.disp.commits, rfl⟩

/-- The other planes, before and after plane k. -/
theorem planes_split : ∀ k < 4, [0, 1, 2, 3] = List.range k ++ k :: (List.range 4).drop (k + 1) ∧
    ∀ j ∈ List.range k ++ (List.range 4).drop (k + 1), j < 4 ∧ j ≠ k := by
  decide

/-- Plane k latches what it finds, and the other planes leave it (R464). -/
theorem latchPlanes_plane {k : Nat} (hk : k < 4) (s : State) : ∃ u, PlaneKept k s u ∧ PlaneKept k (latchPlane u k) (latchPlanes s) := by
  obtain ⟨split, others⟩ := planes_split k hk
  have part {l : List Nat} (sub : ∀ j ∈ l, j ∈ List.range k ++ (List.range 4).drop (k + 1)) (u : State) :
      PlaneKept k u (l.foldl latchPlane u) :=
    foldl_keeps (PlaneKept k u) l (fun v j hj kept => by
      obtain ⟨low, other⟩ := others j (sub j hj)
      exact kept.trans (latchPlane_other hk low other)) (.refl k u)
  refine ⟨(List.range k).foldl latchPlane s, part (fun j hj => List.mem_append_left _ hj) s, ?_⟩
  rw [latchPlanes, split, List.foldl_append, List.foldl_cons]
  exact part (fun j hj => List.mem_append_right _ hj) _

/-- A stop that waits ends the generator (R471). -/
def latchEnd (s : State) : State :=
  if s.on pgMon R.monRun then s
  else
    let s := { s with disp := { s.disp with gen := false, pll := false, resume := false } }
    (if s.link = dpVideo then s.setLink dpIdle else s).settle pgMon false

theorem latchEnd_disp (s : State) : (latchEnd s).disp =
    if s.on pgMon R.monRun then s.disp else { s.disp with gen := false, pll := false, resume := false } := by
  unfold latchEnd
  split
  · rfl
  · refine ((onlyRegs_settle ..).part State.disp).trans ?_
    split
    · rfl
    · rfl

/-- Without a pending timing, a latch point is the planes', and then a stop that waits. -/
theorem latchPoint_planes {s : State} (commit : s.on pgMon R.tcommit = false) :
    latchPoint s = latchEnd (latchPlanes (latchBegin s)) := by
  have body : MonBody (cellKey pgMon R.tcommit 0) := by unfold MonBody; decide
  have cell := (latchBegin_spares body (by decide) (by decide) s).1
  have pending : (latchBegin s).on pgMon R.tcommit = false := by
    rw [← commit]
    simp only [State.on, State.rd, sget, cell]
  have timed : (if (latchBegin s).on pgMon R.tcommit then applyTiming (latchBegin s) else latchBegin s) = latchBegin s := by
    rw [pending]
    rfl
  unfold latchPoint
  extract_lets counted resumed _ begun timing latched
  have same : timing = latchBegin s := timed
  have planes : latched = latchPlanes (latchBegin s) := congrArg latchPlanes same
  rw [latchEnd, ← planes]

/-- At a latch point, before a stop that waits: RUN is as before, and of the compositor the latch point, the commits and what a
line's FILL rests on differ (R463). -/
theorem latched_shows (s : State) : (latchPlanes (latchBegin s)).on pgMon R.monRun = s.on pgMon R.monRun ∧
    ∃ c r, (latchPlanes (latchBegin s)).disp = { s.disp with commits := c, latch := s.time, resume := r, under := [] } := by
  have cell := (latchBegin_spares monBody_monRun (by decide) (by decide) s).1
  have begun : (latchBegin s).on pgMon R.monRun = s.on pgMon R.monRun := by
    simp only [State.on, State.rd, sget, cell]
  obtain ⟨r, disp⟩ := latchBegin_disp s
  obtain ⟨c, latched⟩ := latchPlanes_disp (latchBegin s)
  exact ⟨(RunKept.foldl _ runKept_latchPlane _ _).run.trans begun, c, r, latched.trans (by rw [disp])⟩

/-! ### Fetches -/

theorem found_fst_true (s : State) (p b : Nat) : (s.found p b true).1 = true := by
  cases inj : injectNow s p b <;> simp only [State.found, State.hit, inj] <;> rfl

/-- Nothing found, and nothing injected. -/
theorem found_quiet {s : State} {p b : Nat} (calm : injectNow s p b = false) : s.found p b false = (false, s) := by
  simp [State.found, hit_calm calm]

theorem found_real (s : State) (p b : Nat) : s.found p b true = (true, s.raise p b) :=
  Prod.ext (found_fst_true s p b) (found_true s p b)

/-- A flag leaves what a slot shows. -/
theorem raise_slW {s : State} {p b i : Nat} (hi : i < 16) : (s.raise p b).rd pgMon R.slW i = s.rd pgMon R.slW i := by
  have place : ∀ i < 16, markPos (fldPos R.slW i) = false ∧ fldPos R.slW i < 1048576 := by decide
  obtain ⟨mark, room⟩ := place i hi
  exact (flags_raise s p b).rd mark room

section
variable {s s' : State} {k n line : Nat} {late bad : Bool} {e : Ecc} {bs : List Byte} (hk : k < 4) (shown : shownSlot s k = some n)
  (runs : s.disp.gen = true) (low : line < s.rd pgMon R.slH (4 * k + n))
  (read : readOnce s ⟨0xE0, 0, 0⟩ pgMon (s.rd pgMon R.slBase (4 * k + n) + line * s.rd pgMon R.slPitch (4 * k + n))
    (max 1 (fmtBytes (s.rd pgMon R.plFmt k) * s.rd pgMon R.slW (4 * k + n)))
    ⟨s.rd pgMon R.slBase (4 * k + n) + line * s.rd pgMon R.slPitch (4 * k + n), ofEcc e⟩ = (bs, bad, s'))
include hk shown runs low read

/-- What the fetch of a line of the shown slot comes to (R466). -/
theorem exec_underrun_fetched : exec (.underrun k line late e) s =
    .next (let (err, u) := s'.found pgMon 9 bad
      let (under, u) := u.found pgMon 8 (late || err)
      let u := if under then underrun u k line (u.rd pgMon R.slW (4 * k + n)) else u
      if err then u.bump pgMon R.fetchErrCnt (i := k) else u) := by
  have here : ¬(4 ≤ k ∨ s.disp.gen = false ∨ s.rd pgMon R.slH (4 * k + n) ≤ line) := by
    simp [runs]; omega
  show execUnderrun k line late e s = _
  simp only [execUnderrun, shown, if_neg here, read]

end

/-- The state before the latch point at which the new timing starts (R470). -/
def pllLocked (s : State) : State := { s with disp := { s.disp with pll := false, resume := false } }

/-- And after it: video resumes after one whole frame (R470). -/
def resumeLater (s : State) : State := { s with disp := { s.disp with resume := s.disp.gen } }

theorem exec_pixelPllLock {s : State} (runs : s.disp.gen = true) (pll : s.disp.pll = true) :
    exec .pixelPllLock s = .next (resumeLater (latchPoint (pllLocked s))) := by
  have locks : ¬(s.disp.gen = false ∨ s.disp.pll = false) := by simp [runs, pll]
  show execPixelPllLock s = _
  simp only [execPixelPllLock, if_neg locks, resumeLater, pllLocked]

/-- Settles O48: a latch point leaves what another plane looks at, and plane k latches its own slots. -/
theorem compositor : Obligations.Compositor := by
  refine ⟨fun ini k n hk hn => ⟨?commits, ?refused, ?releases, ?idle⟩, fun s ⟨runs, pll, done⟩ => ?point, fun k n hk hn => ?latches,
    ?fetches, fun ini => ⟨?timing, ?broken⟩, ?locks⟩
  case commits =>
    have outside : ¬(4 ≤ k ∨ 4 ≤ n) := by omega
    refine writes_of (fun s => congrArg Host.Outcome.next (if_neg outside)) fun u ⟨free, keeps⟩ => if_neg ?_
    simp [free, keeps]
  case refused =>
    have outside : ¬(4 ≤ k ∨ 4 ≤ n) := by omega
    exact writes_of (fun s => congrArg Host.Outcome.next (if_neg outside)) fun u breaks => if_pos breaks
  case releases =>
    refine writes_of (fun s => congrArg Host.Outcome.next (if_neg (by omega))) fun u ⟨shown, first⟩ => ?_
    have found : (List.range 4).find? (fun n => u.plSlot k n == slShown) = some n := by
      rw [List.find?_range_eq_some]
      exact ⟨by simp [shown], List.mem_range.2 hn, fun m hm => by simp [first m hm]⟩
    simp only [found]
  case idle =>
    refine writes_of (fun s => congrArg Host.Outcome.next (if_neg (by omega))) fun u none => ?_
    have found : (List.range 4).find? (fun n => u.plSlot k n == slShown) = Option.none := by
      rw [List.find?_range_eq_none]
      exact fun m hm => by simp [none m hm]
    simp only [found]
  case point =>
    exact congrArg Host.Outcome.next (if_neg (by simp [runs, pll, done]))
  case latches =>
    intro s ⟨runs, pll, done, commit, run⟩
    have step : exec .latchPoint s = .next (latchPoint s) := congrArg Host.Outcome.next (if_neg (by simp [runs, pll, done]))
    obtain ⟨running, c, r, disp⟩ := latched_shows s
    have goes : latchPoint s = latchPlanes (latchBegin s) := (latchPoint_planes commit).trans (if_pos (running.trans run))
    rw [goes] at step
    obtain ⟨u, before, after⟩ := latchPlanes_plane hk (latchBegin s)
    have found := (latchBegin_kept hk s).trans before
    refine ⟨_, step, by rw [disp], by rw [disp]; exact runs, ?_, fun off => ?_, fun on last => ?_⟩
    · rw [after.commits, latchPlane_disp hk]
      exact sfind_serase_same ..
    · rw [after.slot, latchPlane_disabled hk hn (found.en.trans off)]
    · have last : (sget [] u.disp.commits k).getLast? = some n := by rw [sget, found.commits]; exact last
      have shows {m : Nat} (hm : m < 4) := (after.slot m).trans (latchPlane_shown hk hm hn (found.en.trans on) last)
      exact ⟨(shows hn).trans (if_pos rfl), fun m hm other => (shows hm).trans (if_neg other)⟩
  case fetches =>
    intro k n line late bad e s s' bs hk shown runs low a read quiet8 quiet9
    have slot : n < 4 := List.mem_range.1 (List.mem_of_find?_eq_some shown)
    have hi : 4 * k + n < 16 := by omega
    have fetched := exec_underrun_fetched (late := late) hk shown runs low read
    refine ⟨fun good prompt => ?_, fun good slow => ?_, fun failed => ?_⟩
    · subst good prompt
      simp only [fetched, found_quiet quiet9, Bool.or_self, found_quiet quiet8, Bool.false_eq_true, if_false]
    · subst good slow
      simp only [fetched, found_quiet quiet9, Bool.or_false, found_real, if_true, raise_slW hi, Bool.false_eq_true, if_false]
    · subst failed
      simp only [fetched, found_real, Bool.or_true, if_true, raise_slW hi]
  case timing =>
    exact writes_of (fun _ => rfl) fun u keeps => if_pos keeps
  case broken =>
    exact writes_of (fun _ => rfl) fun u breaks => if_neg (by simp [breaks])
  case locks =>
    intro s ⟨runs, pll, commit⟩
    have point := latchPoint_planes (s := pllLocked s) commit
    obtain ⟨running, c, r, disp⟩ := latched_shows (pllLocked s)
    have running : (latchPlanes (latchBegin (pllLocked s))).on pgMon R.monRun = s.on pgMon R.monRun := running
    have ended := latchEnd_disp (latchPlanes (latchBegin (pllLocked s)))
    rw [← point, running, disp] at ended
    have step := exec_pixelPllLock runs pll
    generalize latchPoint (pllLocked s) = v at *
    have gen : v.disp.gen = s.on pgMon R.monRun := by
      rw [ended]
      cases s.on pgMon R.monRun
      · rfl
      · exact runs
    have parts : v.disp.pll = false ∧ v.disp.latch = s.time := by
      rw [ended]
      split
      · exact ⟨rfl, rfl⟩
      · exact ⟨rfl, rfl⟩
    exact ⟨_, step, parts.1, parts.2, gen, gen⟩

end Sys2Proof.Machine
end

section
/-! PROOFS. The DisplayPort link and its AUX channel (R472 to R477); before them, what an event leaves of other pages' fields (R301). -/
namespace Sys2Proof.Machine
set_option Elab.async false
open Sys2Proof

/-! ### Events -/

/-- A field that no message and no post touches: of another page than theirs, and none of the counters. -/
structure Aside (p : Nat) (f : Fld) (i : Nat) : Prop where
  fab : p ≠ pgFab
  fgs : p ≠ pgFgs
  incident : cellKey p f i ≠ cellKey pgErl R.incidentNext 0
  core : ∀ c < 8, p ≠ pgCc c
  queue : ∀ n, p ≠ pgHq n
  perf : perfPos (fldPos f i) = false
  room : fldPos f i < 1048576

/-- The field, the transmitter's own state and the count of lost records are as before. -/
structure AsideKept (p : Nat) (f : Fld) (i : Nat) (s t : State) : Prop where
  rd : t.rd p f i = s.rd p f i
  dp : t.dp = s.dp
  lost : t.lostRecs = s.lostRecs

section
variable {p i : Nat} {f : Fld}

theorem AsideKept.refl (s : State) : AsideKept p f i s s := ⟨rfl, rfl, rfl⟩

theorem AsideKept.trans {s t u : State} (h : AsideKept p f i s t) (k : AsideKept p f i t u) : AsideKept p f i s u :=
  ⟨k.rd.trans h.rd, k.dp.trans h.dp, k.lost.trans h.lost⟩

theorem AsideKept.ite {q : Prop} [Decidable q] {s t u : State} (h : AsideKept p f i s t) (k : AsideKept p f i s u) :
    AsideKept p f i s (if q then t else u) := by
  split
  · exact h
  · exact k

/-- An update of other parts of the state. -/
theorem AsideKept.same {s t : State} (hr : t.regs = s.regs := by rfl) (hd : t.dp = s.dp := by rfl)
    (hl : t.lostRecs = s.lostRecs := by rfl) : AsideKept p f i s t :=
  ⟨rd_of_regs hr, hd, hl⟩

theorem AsideKept.foldl {α : Type} {g : State → α → State} (l : List α) (h : ∀ a ∈ l, ∀ s, AsideKept p f i s (g s a)) (s : State) :
    AsideKept p f i s (l.foldl g s) :=
  foldl_keeps (AsideKept p f i s) l (fun u a ha kept => kept.trans (h a ha u)) (.refl s)

variable (h : Aside p f i)
include h

theorem asideKept_wr {q j : Nat} {g : Fld} (hq : p ≠ q) (hg : fldPos g j < 1048576) (s : State) (v : Nat) :
    AsideKept p f i s (s.wr q g v j) := ⟨rd_wr_page hq h.room hg, rfl, rfl⟩

theorem asideKept_perf (s : State) (q code n : Nat) : AsideKept p f i s (s.perf q code n) :=
  ⟨perf_rd s q p code n h.perf h.room, (flags_perf ..).part State.dp, (flags_perf ..).part State.lostRecs⟩

/-- A flag of another page. -/
theorem asideKept_raise {q : Nat} (hq : p ≠ q) (s : State) (b : Nat) : AsideKept p f i s (s.raise q b) := by
  have flag (u : State) (k : Nat) : AsideKept p f i u (u.flag q k) := by
    have first : AsideKept p f i u ((u.wr q R.errFirstBit k).wr q R.errFirstValid 1) :=
      (asideKept_wr h hq (by decide) u k).trans (asideKept_wr h hq (by decide) _ 1)
    have report (v : State) (n : Nat) (l : List (Nat × Nat)) :
        AsideKept p f i v { (v.wr q R.pageErr n).perf q 0x0B with reports := l } :=
      ((asideKept_wr h hq (g := R.pageErr) (j := 0) (by decide) v n).trans (asideKept_perf h _ q 0x0B 1)).trans .same
    unfold State.flag
    exact .ite (.refl u) ((AsideKept.ite first (.refl u)).trans (report ..))
  have taken : AsideKept p f i s (injectTake s q b) := (asideKept_wr h hq (g := R.injArm) (j := 0) (by decide) s 0).trans .same
  have injected (u : State) : AsideKept p f i u (u.raiseI q b true) := ((flag u b).trans (flag _ eInjected)).trans .same
  exact .ite (taken.trans (injected _)) (flag s b)

theorem asideKept_log (s : State) (r : LogRec) (inc : Nat) : AsideKept p f i s (s.log r inc) := by
  have number : AsideKept p f i s s.newInc.2 := ⟨State.rd_wr_ne _ _ _ _ _ h.incident, rfl, rfl⟩
  unfold State.log State.logI
  split
  · exact number.trans .same
  · exact .same

theorem asideKept_msix (s : State) (n v : Nat) : AsideKept p f i s (s.msix n v) :=
  .ite (asideKept_wr h (h.queue n) (by decide) s _) .same

theorem asideKept_semPostB (s : State) (n : Nat) : AsideKept p f i s (s.semPostB n).2 := by
  have wake (u : State) (c : Nat) (hc : c < 8) : AsideKept p f i u (coreWake u c) :=
    .ite (asideKept_wr h (h.core c hc) (by decide) u _) (.refl u)
  have watch (u : State) : AsideKept p f i u (semWatch u n) :=
    .foldl _ (fun c hc v => .ite (AsideKept.trans .same (wake _ c (List.mem_range.1 hc))) (.refl v)) u
  have saturated : AsideKept p f i s (semSaturated s n) :=
    ((asideKept_wr h h.fgs (g := R.semSatCnt) (j := 0) (by decide) s _).trans (asideKept_raise h h.fgs _ 8)).trans (asideKept_log h _ _ 0)
  unfold State.semPostB
  extract_lets
  split
  · exact saturated
  · dsimp only
    exact AsideKept.trans .same (watch _)

/-- A semaphore operation of a unit (R370, R371). -/
theorem asideKept_semPost (s : State) (init part n : Nat) : AsideKept p f i s (s.semPost init part n) := by
  have post (u : State) (seq : Nat) : AsideKept p f i u
      (u.deliver init part pgFgs seq fun s => let (ok, s) := s.semPostB n; (b2n ok, s)).2.2 := by
    have count {g : Fld} (hg : fldPos g 0 < 1048576) (b : Nat) : AsideKept p f i u ((u.bump pgFab g).raise pgFab b) :=
      (asideKept_wr h h.fab hg u _).trans (asideKept_raise h h.fab _ b)
    unfold State.deliver
    dsimp only
    split
    · exact (asideKept_semPostB h u n).trans .same
    · split
      · exact count (by decide) 10
      · exact (count (by decide) 9).trans (asideKept_log h _ _ 0)
  unfold State.semPost State.semPostI State.once
  dsimp only
  refine AsideKept.trans ?_ (post _ _)
  split
  · exact AsideKept.trans .same (asideKept_perf h _ _ 0x07 1)
  · exact .same

/-- What an event sends touches no such field (R301). -/
theorem asideKept_evtSend (s : State) (q : Nat) (e : EvtRegs) : AsideKept p f i s (evtSend s q e) := by
  have message : AsideKept p f i s (if s.on q e.irqEn then s.msix (s.ownerOf q) (s.rd q e.vec) else s) :=
    .ite (asideKept_msix h s _ _) (.refl s)
  exact .ite (message.trans (asideKept_semPost h _ _ _ _)) message

/-- And the event itself only its bit (R301). -/
theorem asideKept_event (s : State) (e : EvtRegs) (b : Nat) (own : fldPos f i ≠ fldPos e.evt 0) : AsideKept p f i s (s.event p e b) := by
  have mark : AsideKept p f i s (s.wrBit p e.evt b true) := ⟨rd_wr_pos own, rfl, rfl⟩
  exact .ite (.refl s) (.ite (mark.trans (asideKept_evtSend h _ p e)) mark)

end

/-- An event sets its bit. -/
theorem event_set {p b : Nat} {e : EvtRegs} (h : Aside p e.evt 0) (low : b < e.evt.w) (s : State) :
    bitOf ((s.event p e b).rd p e.evt) b = true := by
  have mark : bitOf ((s.wrBit p e.evt b true).rd p e.evt) b = true := by
    rw [State.wrBit, State.rd_wr_same, bitOf_mod_two_pow _ low]
    simp [bitOf_setBit]
  unfold State.event
  split
  next set => exact set
  next =>
    dsimp only
    split
    · rw [(asideKept_evtSend h _ p e).rd]
      exact mark
    · exact mark

/-! ### Training -/

/-- The transmitter's fields lie aside of what an event sends. -/
theorem aside_dp {f : Fld} {i : Nat} (perf : perfPos (fldPos f i) = false := by decide) (room : fldPos f i < 1048576 := by decide) :
    Aside pgDp f i :=
  ⟨by decide, by decide, cellKey_ne_page (by decide) room (by decide), by decide, fun n => by unfold pgDp pgHq; omega, perf, room⟩

/-- The end of a training run: what it drove is shown, and it was no retry of itself (R474). -/
def trainEnded (s : State) (sw pre : Nat) : State :=
  { (s.wr pgDp R.dpSwing sw).wr pgDp R.dpPreemph pre with dp := { s.dp with retry := false } }

/-- The rate and lanes of a run that succeeded. -/
def trainShown (s : State) : State :=
  ((s.wr pgDp R.rateTrained (s.rd pgDp R.dpRate)).wr pgDp R.lanesTrained (s.rd pgDp R.dpLanes)).wr pgDp R.dpFailStep 0

/-- A retry is counted (R475). -/
def trainCounted (again : Bool) (s : State) : State := if again then s.bump pgDp R.linkRetryCnt else s

/-- The end of a training run that succeeded, but for its event (R474). -/
def trained (s : State) (sw pre : Nat) : State :=
  let s := trainCounted s.dp.retry (trainShown (trainEnded s sw pre))
  { s.setLink dpIdle with disp := { s.disp with resume := s.disp.gen && !s.disp.pll } }

section
variable {s : State} {step sw pre : Nat} (training : s.link = dpTraining) (hs : sw < 4) (hp : pre < 4)
include training hs hp

theorem exec_trainDone_good : exec (.trainDone true step sw pre) s = .next ((trained s sw pre).event pgDp evDp 3) := by
  have runs : ¬(s.link ≠ dpTraining ∨ 4 ≤ sw ∨ 4 ≤ pre) := by simp [training]; omega
  exact congrArg Host.Outcome.next ((if_neg runs).trans (if_pos rfl))

end

/-- What success shows (R474). -/
theorem trained_shows {s : State} {sw pre : Nat} (hs : sw < 4) (hp : pre < 4) :
    (trained s sw pre).link = dpIdle ∧ (trained s sw pre).rd pgDp R.rateTrained = s.rd pgDp R.dpRate % 4 ∧
      (trained s sw pre).rd pgDp R.lanesTrained = s.rd pgDp R.dpLanes % 4 ∧ (trained s sw pre).rd pgDp R.dpFailStep = 0 ∧
      (trained s sw pre).rd pgDp R.dpSwing = sw ∧ (trained s sw pre).rd pgDp R.dpPreemph = pre ∧ (trained s sw pre).dp.retry = false ∧
      (trained s sw pre).rd pgDp R.linkRetryCnt =
        if s.dp.retry then (s.rd pgDp R.linkRetryCnt + 1) % 2 ^ 32 else s.rd pgDp R.linkRetryCnt := by
  have ended (f : Fld) : (trainEnded s sw pre).rd pgDp f = ((s.wr pgDp R.dpSwing sw).wr pgDp R.dpPreemph pre).rd pgDp f := rfl
  have counted (u : State) (again : Bool) (f : Fld) (other : fldPos f 0 ≠ fldPos R.linkRetryCnt 0) :
      (trainCounted again u).rd pgDp f = u.rd pgDp f := by
    cases again
    · rfl
    · exact rd_wr_pos other
  have regs : (trained s sw pre).regs = ((trainCounted s.dp.retry (trainShown (trainEnded s sw pre))).wr pgDp R.dpState dpIdle).regs := rfl
  have idle (f : Fld) (other : fldPos f 0 ≠ fldPos R.dpState 0) :
      (trained s sw pre).rd pgDp f = (trainCounted s.dp.retry (trainShown (trainEnded s sw pre))).rd pgDp f :=
    (rd_of_regs regs).trans (rd_wr_pos other)
  refine ⟨(rd_of_regs regs).trans (State.rd_wr_same ..), ?_, ?_, ?_, ?_, ?_, ?_, ?_⟩
  · rw [idle _ (by decide), counted _ _ _ (by decide)]
    simp (disch := decide) only [trainShown, ended, State.rd_wr_same, rd_wr_pos]
    rfl
  · rw [idle _ (by decide), counted _ _ _ (by decide)]
    simp (disch := decide) only [trainShown, ended, State.rd_wr_same, rd_wr_pos]
    rfl
  · rw [idle _ (by decide), counted _ _ _ (by decide)]
    exact State.rd_wr_same ..
  · rw [idle _ (by decide), counted _ _ _ (by decide)]
    simp (disch := decide) only [trainShown, ended, State.rd_wr_same, rd_wr_pos]
    exact Nat.mod_eq_of_lt hs
  · rw [idle _ (by decide), counted _ _ _ (by decide)]
    simp (disch := decide) only [trainShown, ended, State.rd_wr_same, rd_wr_pos]
    exact Nat.mod_eq_of_lt hp
  · show (trainCounted s.dp.retry (trainShown (trainEnded s sw pre))).dp.retry = false
    cases s.dp.retry
    · rfl
    · rfl
  · rw [idle _ (by decide)]
    cases s.dp.retry
    · simp (disch := decide) only [trainCounted, trainShown, ended, rd_wr_pos, Bool.false_eq_true, if_false]
    · simp (disch := decide) only [trainCounted, trainShown, ended, rd_wr_pos, if_true, State.bump, State.rd_wr_same]
      rfl

/-! ### The AUX channel -/

/-- The counters of a page leave what lies beyond its header. -/
theorem perf_rd_own {s : State} {p i : Nat} {f : Fld} (body : 1024 ≤ fldPos f i) (code n : Nat) : (s.perf p code n).rd p f i = s.rd p f i := by
  have place : ∀ k ∈ [0, 1, 2, 3], fldPos R.perf k < 1024 := by decide
  have overflow : fldPos R.perfOvf 0 < 1024 := by decide
  have add (k : Nat) (hk : k ∈ [0, 1, 2, 3]) (u : State) : (perfAdd u p k n).rd p f i = u.rd p f i := by
    have low := place k hk
    unfold perfAdd
    extract_lets v c
    have counted : c.rd p f i = u.rd p f i := rd_wr_pos (by omega)
    split
    · exact counted
    · exact (rd_wr_pos (by omega)).trans counted
  unfold State.perf
  split
  · rfl
  · refine foldl_leaves_on (fun u => u.rd p f i) _ (fun k hk u => ?_) s
    split
    · exact add k hk u
    · rfl

theorem auxData_pos (i : Nat) : fldPos R.auxData i = 1280 + i * 8 := rfl

/-- The result of a transaction: an injection on the flag of the time-outs makes it one (R42, R477). -/
def auxLate (s : State) (res : Nat) : Bool := (s.found pgDp 9 (res == 2)).1

theorem auxLate_quiet {s : State} {res : Nat} (quiet : injectNow s pgDp 9 = false) (other : res ≠ 2) : auxLate s res = false := by
  have good : (res == 2) = false := by simp [other]
  rw [auxLate, good, found_quiet quiet]

/-- The end of a transaction shows its result and its bytes, and leaves its data (R477). -/
theorem auxEnd_shows (s : State) (res n : Nat) : (auxEnd s res n).rd pgDp R.auxBusy = 0 ∧
    (auxEnd s res n).rd pgDp R.auxResult = (if auxLate s res then 2 else res) % 8 ∧
    (auxEnd s res n).rd pgDp R.auxBytes = (if auxLate s res then 0 else n) % 2 ^ R.auxBytes.w ∧
    ∀ i, (auxEnd s res n).rd pgDp R.auxData i = (s.found pgDp 9 (res == 2)).2.rd pgDp R.auxData i := by
  unfold auxEnd auxLate
  generalize s.found pgDp 9 (res == 2) = x
  obtain ⟨late, u⟩ := x
  dsimp only
  generalize (if late = true then 2 else res) = r
  generalize (if late = true then 0 else n) = m
  have ends (f : Fld) (i : Nat) (low : 1024 ≤ fldPos f i) :
      ((if r = 0 then (((u.wr pgDp R.auxBusy 0).wr pgDp R.auxResult r).wr pgDp R.auxBytes m).perf pgDp 0x04
        else ((((u.wr pgDp R.auxBusy 0).wr pgDp R.auxResult r).wr pgDp R.auxBytes m).perf pgDp 0x04).perf pgDp 0x05).settle pgDp
        false).rd pgDp f i = (((u.wr pgDp R.auxBusy 0).wr pgDp R.auxResult r).wr pgDp R.auxBytes m).rd pgDp f i := by
    have header : fldPos R.pstate 0 < 1024 := by decide
    rw [settle_rd (by omega)]
    split
    · exact perf_rd_own low _ _
    · exact (perf_rd_own low _ _).trans (perf_rd_own low _ _)
  refine ⟨?_, ?_, ?_, fun i => ?_⟩
  · rw [ends _ _ (by decide)]
    simp (disch := decide) only [rd_wr_pos, State.rd_wr_same]
    rfl
  · rw [ends _ _ (by decide)]
    simp (disch := decide) only [rd_wr_pos, State.rd_wr_same]
    rfl
  · rw [ends _ _ (by decide)]
    exact State.rd_wr_same ..
  · have place : fldPos R.auxBytes 0 < 1280 ∧ fldPos R.auxResult 0 < 1280 ∧ fldPos R.auxBusy 0 < 1280 := by decide
    have data := auxData_pos i
    rw [ends _ _ (by omega), rd_wr_pos (by omega), rd_wr_pos (by omega), rd_wr_pos (by omega)]

/-- The bytes of a reply go to the data registers (R477). -/
def auxStore (s : State) (bs : List Nat) : State :=
  (List.range bs.length).foldl (fun s i => s.wr pgDp R.auxData ((bs[i]?).getD 0) i) s

theorem auxStore_data {bs : List Nat} {n : Nat} (hn : n < bs.length) (s : State) :
    (auxStore s bs).rd pgDp R.auxData n = (bs[n]?).getD 0 % 256 := by
  have own (u : State) : (u.wr pgDp R.auxData ((bs[n]?).getD 0) n).rd pgDp R.auxData n = (bs[n]?).getD 0 % 256 := State.rd_wr_same ..
  refine foldl_establishes (f := fun s i => s.wr pgDp R.auxData ((bs[i]?).getD 0) i) (fun _ => True)
    (fun u => u.rd pgDp R.auxData n = (bs[n]?).getD 0 % 256) (List.range bs.length) (List.mem_range.2 hn) (fun _ _ _ _ => trivial)
    (fun u _ => own u) (fun u i hi kept => ?_) trivial
  by_cases same : i = n
  · subst same
    exact own u
  · have apart : fldPos R.auxData n ≠ fldPos R.auxData i := by rw [auxData_pos, auxData_pos]; omega
    exact (rd_wr_pos apart).trans kept

theorem auxStore_quiet {bs : List Nat} {s : State} (quiet : injectNow s pgDp 9 = false) : injectNow (auxStore s bs) pgDp 9 = false := by
  have place : ∀ g ∈ [R.injArm, R.injCont, R.injBit], fldPos g 0 < 1280 := by decide
  refine (foldl_leaves (fun u => injectNow u pgDp 9) (fun u i => injectNow_wr fun g hg => ?_) _ s).trans quiet
  have low := place g hg
  rw [auxData_pos]
  omega

/-- Settles O50: training, its ends and HPD move the link, and each answer of the sink ends the transaction or goes on with it. -/
theorem displayPort : Obligations.DisplayPort := by
  refine ⟨fun ini => ⟨?train, ?unplugged, ?off, ?offUnplugged, ?go, ?busy⟩, fun step sw pre hs hp => ⟨?success, ?failure, ?idle⟩,
    ?irq, ?lost, ?unplug, ?plug, fun data => ⟨?written, ?read, ?nack, ?defer, ?deferred⟩, ?again, ?timeout⟩
  case train => exact writes_of (fun _ => rfl) fun u there => if_neg there
  case unplugged => exact writes_of (fun _ => rfl) fun u gone => if_pos gone
  case off => exact writes_of (fun _ => rfl) fun u there => if_neg there
  case offUnplugged => exact writes_of (fun _ => rfl) fun u gone => if_pos gone
  case go => exact writes_of (fun _ => rfl) fun u free => if_neg (by simp [free])
  case busy => exact writes_of (fun _ => rfl) fun u busy => if_pos busy
  case success =>
    intro s training
    have kept {f : Fld} (own : fldPos f 0 ≠ fldPos evDp.evt 0) (perf : perfPos (fldPos f 0) = false) (room : fldPos f 0 < 1048576) :=
      (asideKept_event (aside_dp perf room) (trained s sw pre) evDp 3 own).rd
    have dp := (asideKept_event (aside_dp (f := R.dpState) (i := 0)) (trained s sw pre) evDp 3 (by decide)).dp
    obtain ⟨link, rate, lanes, fail, swing, preemph, retry, count⟩ := trained_shows (s := s) hs hp
    exact ⟨_, exec_trainDone_good training hs hp, (kept (f := R.dpState) (by decide) (by decide) (by decide)).trans link,
      (kept (by decide) (by decide) (by decide)).trans rate, (kept (by decide) (by decide) (by decide)).trans lanes,
      (kept (by decide) (by decide) (by decide)).trans fail, (kept (by decide) (by decide) (by decide)).trans swing,
      (kept (by decide) (by decide) (by decide)).trans preemph, (congrArg Dp.retry dp).trans retry,
      event_set aside_dp (by decide) _, (kept (by decide) (by decide) (by decide)).trans count⟩
  case failure =>
    intro s training
    have runs : ¬(s.link ≠ dpTraining ∨ 4 ≤ sw ∨ 4 ≤ pre) := by simp [training]; omega
    have row : exec (.trainDone false step sw pre) s = .next ((((trainEnded s sw pre).setLink dpFailed).wr pgDp R.dpFailStep step).raise pgDp 8
        |>.event pgDp evDp 3) := congrArg Host.Outcome.next ((if_neg runs).trans (if_neg Bool.false_ne_true))
    refine ⟨_, row, ?_, ?_, event_set aside_dp (by decide) _⟩
    · refine (asideKept_event aside_dp _ evDp 3 (by decide)).rd.trans ((flags_raise ..).rd.trans ((rd_wr_pos (by decide)).trans ?_))
      exact State.rd_wr_same ..
    · rw [(asideKept_event aside_dp _ evDp 3 (by decide)).rd]
      exact bitOf_pageErr_raise _ _ (by decide)
  case idle =>
    exact fun s other => congrArg Host.Outcome.next (if_pos (.inl other))
  case irq =>
    intro s plugged
    have here : ¬s.on pgDp R.hpd = false := by simp [plugged]
    exact congrArg Host.Outcome.next ((if_neg here).trans (if_neg (by simp)))
  case lost =>
    intro s ⟨plugged, runs⟩
    have here : ¬s.on pgDp R.hpd = false := by simp [plugged]
    exact congrArg Host.Outcome.next ((if_neg here).trans (if_pos ⟨rfl, runs⟩))
  case unplug => exact fun s plugged => congrArg Host.Outcome.next (if_neg (by simp [plugged]))
  case plug => exact fun s gone => congrArg Host.Outcome.next (if_neg (by simp [gone]))
  case written =>
    intro s ⟨busy, write⟩
    show execAuxReply 0 data s = _
    simp only [execAuxReply, busy, write, Bool.true_eq_false, if_false, if_true, Nat.zero_ne_one]
  case read =>
    intro s ⟨busy, read, quiet⟩
    have step : exec (.auxReply 0 data) s = .next (auxEnd (auxStore s (data.take (s.rd pgDp R.auxLen + 1))) 0
        (data.take (s.rd pgDp R.auxLen + 1)).length) := by
      show execAuxReply 0 data s = _
      simp only [execAuxReply, busy, read, Bool.true_eq_false, if_false, if_true, auxStore]
    have calm := auxStore_quiet (bs := data.take (s.rd pgDp R.auxLen + 1)) quiet
    have late := auxLate_quiet (res := 0) calm (by decide)
    obtain ⟨busy, result, bytes, kept⟩ := auxEnd_shows (auxStore s (data.take (s.rd pgDp R.auxLen + 1))) 0
      (data.take (s.rd pgDp R.auxLen + 1)).length
    rw [late] at result bytes
    refine ⟨_, step, busy, result, bytes, fun n hn => ?_⟩
    rw [kept n, show ((0 : Nat) == 2) = false from rfl, found_quiet calm, auxStore_data hn, List.getD_eq_getElem?_getD, List.getElem?_take]
    rw [List.length_take] at hn
    rw [if_pos (by omega)]
  case nack =>
    intro s busy
    show execAuxReply 1 data s = _
    simp only [execAuxReply, busy, Bool.true_eq_false, if_false, if_true, Nat.one_ne_zero]
  case defer =>
    intro s ⟨busy, few⟩
    show execAuxReply 2 data s = _
    simp only [execAuxReply, busy, few, Bool.true_eq_false, if_false, if_true, OfNat.ofNat_ne_one, OfNat.ofNat_ne_zero]
  case deferred =>
    intro s ⟨busy, many⟩
    have step : exec (.auxReply 2 data) s = .next (auxEnd (s.free 1).2 (1 + (s.free 1).1) 0) := by
      show execAuxReply 2 data s = _
      simp only [execAuxReply, busy, Nat.not_lt.2 many, Bool.true_eq_false, if_false, if_true, OfNat.ofNat_ne_one, OfNat.ofNat_ne_zero]
    have bit : (s.free 1).1 < 2 := Nat.mod_lt _ (by decide)
    obtain ⟨busy, result, bytes, -⟩ := auxEnd_shows (s.free 1).2 (1 + (s.free 1).1) 0
    refine ⟨_, step, busy, ?_, ?_⟩
    · rw [result]
      split
      · exact .inr rfl
      · omega
    · rw [bytes, ite_self]
      rfl
  case again =>
    intro s ⟨busy, late, first⟩
    have acts : ¬(s.on pgDp R.auxBusy = false ∨ s.time < s.dp.sent + usTicks 400) := by simp [busy]; omega
    exact congrArg Host.Outcome.next ((if_neg acts).trans (if_pos first))
  case timeout =>
    intro s ⟨busy, late, second⟩
    have acts : ¬(s.on pgDp R.auxBusy = false ∨ s.time < s.dp.sent + usTicks 400) := by simp [busy]; omega
    exact congrArg Host.Outcome.next ((if_neg acts).trans (if_neg second))

end Sys2Proof.Machine
end

section
/-! PROOFS. Doubt: reports, their scopes and DOUBT_REQ (R483, R484, R487, R488). -/
namespace Sys2Proof.Machine
set_option Elab.async false
open Sys2Proof

/-- The island takes the oldest report and counts it (R487). -/
def reportTaken (s : State) (rest : List Doubt) : State := ({ s with doubtQ := rest } : State).bump pgSaf R.doubtCnt

section
variable {s : State} {d : Doubt} {rest : List Doubt} (oldest : s.doubtQ = d :: rest)
include oldest

theorem exec_doubtReport_injected (injected : d.injected = true) : exec .doubtReport s = .next { s with doubtQ := rest } := by
  show execDoubtReport s = _
  simp only [execDoubtReport, oldest, injected, if_true]

/-- A report that starts no continued scope is only applied. -/
theorem exec_doubtReport_applied (real : d.injected = false) (once : ∀ k e0 e1, d.scope = .frame k e0 e1 → d.cont = false) :
    exec .doubtReport s = .next (applyScope (reportTaken s rest) d.scope d.inc) := by
  show execDoubtReport s = _
  simp only [execDoubtReport, oldest, real, Bool.false_eq_true, if_false]
  cases scope : d.scope with
  | frame k e0 e1 => simp only [once k e0 e1 scope, Bool.false_eq_true, false_and, if_false, reportTaken]
  | entry _ => rfl
  | line _ => rfl
  | part _ => rfl
  | resync _ => rfl
  | device => rfl

end

/-! ### FALLBACK by the island -/

section
variable {s : State} {id : Nat} {e : Entry}

/-- An entry that falls back shows LANE MANUAL, holds nothing, and has DOUBT if the word asks for it (R443, R487). -/
theorem asFallback_doubt (e : Entry) (dim : Nat) : (asFallback e dim 16).st = vFallback ∧ (asFallback e dim 16).lane = 0xFF ∧
    (asFallback e dim 16).held = none ∧ bitOf (asFallback e dim 16).flags fDoubt = true := by
  have merged : bitOf (mergeFlags e.flags 16) fDoubt = true := by
    simp only [bitOf, mergeFlags, fDoubt, beq_iff_eq]
    omega
  refine ⟨rfl, rfl, rfl, ?_⟩
  simp only [asFallback, markFawn]
  split
  · simp [bitOf_setBit, merged]
  · rw [bitOf_clrBit, merged]
    decide

/-- The island's word asks for FALLBACK with DOUBT, whatever the class. -/
theorem stageWord_fallback (dim : Nat) : bitsOf (stageWord vFallback 0xFF dim 16) 11 9 = vFallback ∧
    bitsOf (stageWord vFallback 0xFF dim 16) 8 0 = 16 := by
  simp only [bitsOf, stageWord, vFallback]
  omega

theorem stage_fallback {t : Tag} {w : Nat} (opened : (s.entry id).st = vAnnounced ∨ (s.entry id).st = vPending ∨ (s.entry id).st = vFinal)
    (asks : bitsOf w 11 9 = vFallback) :
    stage s t id w = s.chgEntry id (asFallback (s.entry id) (bitsOf w 15 12) (bitsOf w 8 0)) := by
  have pending : ¬vFallback = vPending := by decide
  have final : ¬vFallback = vFinal := by decide
  simp only [stage, asks, pending, final, false_and, if_false, opened, and_self, if_true]

/-- The island's FALLBACK of an open entry, where FW1 lets it through (R487). -/
theorem islandFallback_open (hid : id < 65536) (opened : (s.entry id).st = vAnnounced ∨ (s.entry id).st = vPending ∨ (s.entry id).st = vFinal)
    (runs : s.on pgSaf R.fault = false) (sound : (s.entry id).poisoned = false) (quiet : injectNow s pgFab 12 = false)
    (granted : judge s tagIsland opWrite (vtBase + 4 * id) 4 = .pass) :
    ∃ dim, islandFallback s id = s.chgEntry id (asFallback (s.entry id) dim 16) := by
  obtain ⟨asks, flags⟩ := stageWord_fallback (((s.entry id).fawn).getD 0xF)
  have mapped : targetOf (vtBase + 4 * id) ≠ .none := by rw [targetOf_vt hid]; decide
  have staged := stage_fallback (t := tagIsland) opened asks
  rw [flags] at staged
  refine ⟨_, Eq.trans ?_ staged⟩
  simp only [islandFallback, islandStage, runs, sound, Bool.false_eq_true, or_self, if_false, passes_granted mapped quiet granted, if_true]

end

/-- Settles O51: the oldest report is applied by its scope, and an open entry becomes FALLBACK with DOUBT. -/
theorem doubts : Obligations.Doubts := by
  refine ⟨fun d rest => ⟨?injected, ?applied, fun id entry => ⟨?late, ?falls⟩⟩, fun k e0 => ?continued, fun ini tag line => ⟨?own, ?other⟩⟩
  case injected =>
    exact fun s ⟨oldest, injected⟩ => exec_doubtReport_injected oldest injected
  case applied =>
    exact fun s ⟨oldest, real, once⟩ => exec_doubtReport_applied oldest real fun _ _ _ _ => once
  case late =>
    intro s ⟨oldest, real, empty⟩
    have empty : ((reportTaken s rest).entry id).st = vEmpty := empty
    rw [exec_doubtReport_applied oldest real fun _ _ _ frame => absurd (entry.symm.trans frame) (by simp), entry, applyScope, if_pos empty]
    rfl
  case falls =>
    intro s ⟨oldest, real, opened, runs, sound, hid, quiet, granted⟩
    have entries : (reportTaken s rest).entry id = s.entry id := rfl
    have fault : (reportTaken s rest).on pgSaf R.fault = false := (congrArg (· != 0) (rd_wr_pos (by decide))).trans runs
    have calm : injectNow (reportTaken s rest) pgFab 12 = false := by
      have page {g : Fld} (hg : fldPos g 0 < 1048576) : (reportTaken s rest).rd pgFab g = s.rd pgFab g := rd_wr_page (by decide) hg (by decide)
      rw [← quiet]
      simp only [injectNow, State.on, page (show fldPos R.injArm 0 < 1048576 by decide), page (show fldPos R.injCont 0 < 1048576 by decide),
        page (show fldPos R.injBit 0 < 1048576 by decide)]
    obtain ⟨dim, falls⟩ := islandFallback_open (s := reportTaken s rest) hid opened fault sound calm granted
    have notEmpty : (s.entry id).st ≠ vEmpty := by
      rcases opened with st | st | st <;> rw [st] <;> decide
    have step : exec .doubtReport s = .next ((reportTaken s rest).chgEntry id (asFallback (s.entry id) dim 16)) := by
      rw [exec_doubtReport_applied oldest real fun _ _ _ frame => absurd (entry.symm.trans frame) (by simp), entry, applyScope,
        entries, if_neg notEmpty]
      simp only [doubtEntry, entries, opened, if_true, falls]
    obtain ⟨st, lane, held, doubt⟩ := asFallback_doubt (s.entry id) dim
    obtain ⟨n, changed⟩ := entry_chgEntry (s := reportTaken s rest) (id := id) (e := asFallback (s.entry id) dim 16)
    refine ⟨_, step, ?_⟩
    beta_reduce
    rw [changed]
    exact ⟨st, lane, held, doubt⟩
  case continued =>
    intro s ⟨runs, conts, unsound, others⟩
    have kept : ({ s with conts := s.conts.filter fun x => !streamSound s x.1 } : State) = s := by
      have filtered : s.conts.filter (fun x => !streamSound s x.1) = s.conts := by simp [conts, unsound]
      rw [filtered]
    have started : downStreams s = s := by
      refine foldl_stays _ (fun j hj => if_neg ?_)
      rintro ⟨safe, -, fresh⟩
      by_cases same : j = k
      · simp [conts, sfind, same] at fresh
      · rw [others j (List.mem_range.1 hj) same] at safe
        cases safe
    show execDoubtReevaluate s = _
    simp only [execDoubtReevaluate, runs, Bool.true_eq_false, if_false, kept, started]
    rw [conts, List.foldl_cons, List.foldl_nil]
  case own =>
    refine writes_of (fun _ => rfl) fun u ⟨low, on, maps⟩ => if_neg ?_
    simp [on, maps, low]
  case other =>
    exact writes_of (fun _ => rfl) fun u stays => if_pos stays

end Sys2Proof.Machine
end

section
/-! PROOFS. The island's confirmations, watchdogs and checks (R481, R482, R489, R491, R496, R529). -/
namespace Sys2Proof.Machine
set_option Elab.async false
open Sys2Proof

/-- The first fault takes its cause, and DEV_OK_N is released (R455, R496). -/
theorem raiseFault_first {s : State} (sound : s.on pgSaf R.fault = false) (cause : Nat) :
    (raiseFault s cause).on pgSaf R.fault = true ∧ (raiseFault s cause).rd pgSaf R.faultCause = cause % 16 ∧
      (raiseFault s cause).on pgSaf R.devOk = false ∧ (raiseFault s cause).faultTime = s.time := by
  refine ⟨raiseFault_on .., ?_⟩
  unfold raiseFault
  extract_lets u v
  have logged : u.on pgSaf R.fault = false := (congrArg (· != 0) (log_rd _ _ _ (by decide))).trans sound
  have time : u.time = s.time := (marks_log ..).part State.time
  rw [logged]
  refine ⟨?_, ?_, time⟩
  · show v.rd pgSaf R.faultCause = cause % 16
    simp only [v]
    rw [rd_wr_pos (by decide), State.rd_wr_same]
    rfl
  · show (v.rd pgSaf R.devOk != 0) = false
    simp only [v]
    rw [State.rd_wr_same]
    rfl

/-- FAULT leaves what looks neither at registers, records nor the time of the fault. -/
theorem raiseFault_part {α : Type} (g : State → α) (s : State) (cause inc : Nat) (inj : Bool)
    (hg : ∀ r p j l d t, g { s with regs := r, reports := p, injections := j, logQ := l, doubtQ := d, faultTime := t } = g s) :
    g (raiseFault s cause inc inj) = g s := by
  unfold raiseFault
  extract_lets u v
  have rest := (marks_log s { event := 0x31, level := if cause = 3 then 5 else 6, page := pgSaf, d0 := cause, inj := inj } inc).rest
  have logged : g { s with
    regs := u.regs
    reports := u.reports
    injections := u.injections
    logQ := u.logQ
    doubtQ := u.doubtQ } = g s := hg _ _ _ _ _ s.faultTime
  split
  · exact (congrArg g rest).trans logged
  · have later : ({ v with faultTime := v.time } : State) = { s with
        regs := v.regs
        reports := u.reports
        injections := u.injections
        logQ := u.logQ
        doubtQ := u.doubtQ
        faultTime := v.time } := by
      have shape : v = { u with regs := v.regs } := rfl
      rw [shape]
      show ({ u with regs := v.regs, faultTime := u.time } : State) = _
      rw [show u = _ from rest]
    rw [later]
    exact hg ..

/-! ### Confirmation -/

/-- A plausible FINAL of a line that is not in fallback is stored (R489, R491). -/
theorem storeFinal_plausible {s : State} {l id f : Nat} {e : Entry} {h : Held} (free : finalBarred s id = false) (fawn : e.fawn = some f)
    (classed : f ≠ 0xF) (plausible : f ≤ h.dim + s.rd pgSaf R.classSlack l) :
    storeFinal s l id e h = s.chgEntry id { e with
      st := vFinal
      lane := h.lane
      dim := h.dim
      held := none
      flags := clrBit (mergeFlags e.flags h.user) fFawn } := by
  have stored : ¬(f = 0xF ∨ h.dim + s.rd pgSaf R.classSlack l < f) := by omega
  simp only [storeFinal, free, Bool.false_eq_true, if_false, fawn, Option.getD_some, if_neg stored]

/-! ### Watchdogs -/

section
variable {s : State} {p q : Nat} {w : Wd}

theorem wd_putWd_same : (s.putWd p w).wd p = w := sget_sset_same ({} : Wd) s.wds p w

theorem wd_putWd_ne (h : q ≠ p) : (s.putWd p w).wd q = s.wd q := sget_sset_ne ({} : Wd) {} s.wds w h

end

/-! ### The clock monitor -/

/-- A window's measurements are shown (R482, R590). -/
def clocksShown (s : State) (khz : List Nat) : State :=
  ((List.range 5).foldl (fun s i => s.wr pgClk R.clkKhz ((khz[i]?).getD 0) i) s).wr pgClk R.refKhz ((khz[5]?).getD 0)

theorem clocksShown_clk (s : State) (khz : List Nat) : (clocksShown s khz).rd pgClk R.clkKhz 0 = (khz[0]?).getD 0 % 2 ^ R.clkKhz.w := by
  simp (disch := decide) only [clocksShown, List.range_succ, List.range_zero, List.nil_append, List.cons_append, List.foldl_cons, List.foldl_nil,
    rd_wr_pos, State.rd_wr_same]

theorem clocksShown_saf (s : State) (khz : List Nat) {f : Fld} (hf : fldPos f 0 < 1048576) :
    (clocksShown s khz).rd pgSaf f = s.rd pgSaf f := by
  have place : ∀ i ∈ List.range 5, fldPos R.clkKhz i < 1048576 := by decide
  refine (rd_wr_page (by decide) hf (by decide)).trans (foldl_leaves_on (fun u => u.rd pgSaf f) _ (fun i hi u => ?_) s)
  exact rd_wr_page (by decide) hf (place i hi)

/-- What looks at no register is as before. -/
theorem clocksShown_part {α : Type} (s : State) (khz : List Nat) (g : State → α) (regs : ∀ (u : State) r, g { u with regs := r } = g u) :
    g (clocksShown s khz) = g s := by
  have each := foldl_leaves (f := fun s i => s.wr pgClk R.clkKhz ((khz[i]?).getD 0) i) g (fun u i => regs u _) (List.range 5) s
  exact (regs _ _).trans each

/-- Any of the six clocks deviates (R482). -/
theorem clocksBad_iff (a b c d e r : Nat) :
    ((List.range 6).any fun i => clockBad (([a, b, c, d, e, r][i]?).getD 0) ((nominalKhz[i]?).getD 0)) = true ↔
      clockBad a 1200000 ∨ clockBad b 800000 ∨ clockBad c 600000 ∨ clockBad d 400000 ∨ clockBad e 100000 ∨ clockBad r 100000 := by
  simp [List.range_succ, nominalKhz]

/-- Settles O52: what is confirmed and plausible is stored, and each check of the island raises FAULT with its own cause. -/
theorem islandSafety : Obligations.IslandSafety := by
  refine ⟨fun id l h => ?confirm, fun ini => ?kick, fun p hp => ?expired, ?firmware, ?lockstep, ?tcm, ?device, fun a b c d e r => ?clocks⟩
  case confirm =>
    intro s ⟨line, held, ready, fault, sound, runs, free, f, fawn, classed, plausible⟩
    have step : exec (.finalConfirm id) s = .next (storeFinal s l id (s.entry id) h) := by
      show execFinalConfirm id s = _
      simp only [execFinalConfirm, line, held, ready, fault, sound, runs, Bool.true_eq_false, Bool.false_eq_true, or_self, if_false]
    rw [storeFinal_plausible free fawn classed plausible] at step
    obtain ⟨n, entry⟩ := entry_chgEntry (s := s) (id := id) (e := { s.entry id with
      st := vFinal
      lane := h.lane
      dim := h.dim
      held := none
      flags := clrBit (mergeFlags (s.entry id).flags h.user) fFawn })
    refine ⟨_, step, ?_⟩
    beta_reduce
    rw [entry]
    exact ⟨rfl, rfl, rfl, rfl, chgEntry_part State.mem fun _ => rfl, chgEntry_part State.regs fun _ => rfl⟩
  case kick =>
    exact writeBrings_of (fun _ => rfl) fun u _ => ⟨wd_putWd_same, fun p other => wd_putWd_ne other⟩
  case expired =>
    intro s ⟨on, waits, late, runs, awake⟩
    have acts : ¬(8 ≤ p ∨ (s.wd p).on = false ∨ (s.wd p).expired = true ∨ s.time < (s.wd p).last + wdTicks 250 ∨ islandRuns s = false ∨
        s.on pgPwr R.entering = true) := by
      simp [on, waits, runs, awake]; omega
    exact congrArg Host.Outcome.next (if_neg acts)
  case firmware =>
    intro s ⟨rom, lives, runs, awake⟩
    exact congrArg Host.Outcome.next (if_neg (by simp [rom, lives, runs, awake]))
  case lockstep =>
    intro s ⟨runs, sound⟩
    exact ⟨_, congrArg Host.Outcome.next (if_pos runs), raiseFault_first sound 1⟩
  case tcm =>
    intro s ⟨runs, sound⟩
    exact ⟨_, congrArg Host.Outcome.next (if_pos runs), raiseFault_first sound 7⟩
  case device =>
    intro s ⟨on, late, runs, awake, sound⟩
    have acts : ¬(s.isl.wdOn = false ∨ s.time < s.isl.lastKick + wdTicks 500 ∨ islandRuns s = false ∨ s.on pgPwr R.entering = true) := by
      simp [on, runs, awake]; omega
    obtain ⟨fault, cause, dev, time⟩ := raiseFault_first (s := { s with isl := { s.isl with wdOn := false } }) sound 3
    have isl := raiseFault_part State.isl { s with isl := { s.isl with wdOn := false } } 3 0 false fun _ _ _ _ _ _ => rfl
    exact ⟨_, congrArg Host.Outcome.next (if_neg acts), fault, cause, dev, congrArg Island.wdOn isl, time⟩
  case clocks =>
    intro s ⟨runs, awake, entered, lock, sound⟩
    have acts : ¬(islandRuns s = false ∨ s.on pgPwr R.entering = true ∨ s.on pgPwr R.exiting = true ∨ s.on pgClk R.pllLock = false) := by
      simp [runs, awake, entered, lock]
    have step : exec (.clockWindowEnd [a, b, c, d, e, r]) s = .next
        (if ((List.range 6).any fun i => clockBad (([a, b, c, d, e, r][i]?).getD 0) ((nominalKhz[i]?).getD 0)) = true
          then raiseFault (clocksShown s [a, b, c, d, e, r]) 2 else clocksShown s [a, b, c, d, e, r]) :=
      congrArg Host.Outcome.next (if_neg acts)
    have clk := clocksShown_clk s [a, b, c, d, e, r]
    have ref : (clocksShown s [a, b, c, d, e, r]).rd pgClk R.refKhz = r % 2 ^ R.refKhz.w := State.rd_wr_same ..
    have fault : (clocksShown s [a, b, c, d, e, r]).on pgSaf R.fault = false :=
      (congrArg (· != 0) (clocksShown_saf s _ (by decide))).trans sound
    have time := clocksShown_part s [a, b, c, d, e, r] State.time fun _ _ => rfl
    have quiet := clocksShown_part s [a, b, c, d, e, r] (fun u => (u.logQ, u.faultTime)) fun _ _ => rfl
    generalize clocksShown s [a, b, c, d, e, r] = u at *
    rw [if_congr (clocksBad_iff a b c d e r) rfl rfl] at step
    refine ⟨_, step, ?_⟩
    beta_reduce
    split
    · have place : fldPos R.clkKhz 0 < 1048576 ∧ fldPos R.refKhz 0 < 1048576 := by decide
      obtain ⟨on, cause, dev, at'⟩ := raiseFault_first fault 2
      exact ⟨(raiseFault_rd u 2 0 false (by decide) (by decide) place.1).trans clk,
        (raiseFault_rd u 2 0 false (by decide) (by decide) place.2).trans ref, on, cause, dev, at'.trans time⟩
    · exact ⟨clk, ref, congrArg Prod.fst quiet, congrArg Prod.snd quiet⟩

end Sys2Proof.Machine
end

section
/-! PROOFS. Return from fallback, the checker rotation and return to service (R495, R504 to R506, R531). -/
namespace Sys2Proof.Machine
set_option Elab.async false
open Sys2Proof

/-- A register write whose effect is known brings about what is true of that effect. -/
theorem writeBrings_by {c : Instr} {ini : Ini} {p off : Nat} {w : State → Prop} {q : State → State → Prop} {k f : State → State}
    (row : ∀ s, exec c s = .next (regRow s ini p off k)) (effect : ∀ u, w u → k u = f u) (shows : ∀ u, w u → q u (f u)) :
    WriteBrings c ini p off w q :=
  writeBrings_of row fun u found => by rw [effect u found]; exact shows u found

/-! ### RESUME -/

/-- Without listed entries there is none to move. -/
theorem moveOpen_none {s : State} (empty : s.vt = []) (l : Nat) (finals : Bool) : moveOpen s l finals = s := by
  simp [moveOpen, idsOfLine, empty]

/-- The fallback of the lines of a RESUME clears, and FALLBACK_ALL with ALL (R495). -/
def fallbackCleared (s : State) (v : Nat) : State :=
  let s := s.wr pgSaf R.lineFb (clrMask 4 (s.rd pgSaf R.lineFb) (v % 16))
  if bitOf v 4 then setFallbackAll { s with fbAllRaised := false } else s

theorem fallbackCleared_shows (s : State) (v : Nat) :
    (fallbackCleared s v).rd pgSaf R.lineFb = clrMask 4 (s.rd pgSaf R.lineFb) (v % 16) % 16 ∧
      (bitOf v 4 = true → (fallbackCleared s v).fbAllRaised = false ∧ (fallbackCleared s v).on pgSaf R.fallbackAll = s.fbSleep) ∧
      (bitOf v 4 = false → (fallbackCleared s v).fbAllRaised = s.fbAllRaised) ∧ (fallbackCleared s v).mem = s.mem ∧
      (fallbackCleared s v).vt = s.vt := by
  unfold fallbackCleared
  extract_lets u
  have lines : u.rd pgSaf R.lineFb = clrMask 4 (s.rd pgSaf R.lineFb) (v % 16) % 16 := State.rd_wr_same ..
  cases all : bitOf v 4 with
  | true =>
    have shown : (setFallbackAll { u with fbAllRaised := false }).on pgSaf R.fallbackAll = s.fbSleep := by
      show ((setFallbackAll { u with fbAllRaised := false }).rd pgSaf R.fallbackAll != 0) = s.fbSleep
      rw [setFallbackAll, State.rd_wr_same]
      show (b2n (s.fbSleep || false) % 2 ^ 1 != 0) = s.fbSleep
      cases s.fbSleep <;> rfl
    exact ⟨(rd_wr_pos (by decide)).trans lines, fun _ => ⟨rfl, shown⟩, fun h => absurd h (by decide), rfl, rfl⟩
  | false => exact ⟨lines, fun h => absurd h (by decide), fun _ => rfl, rfl, rfl⟩

/-! ### UNFENCE -/

/-- The self-test that an UNFENCE starts (R531). -/
def unfenceBegun (s : State) (page : Nat) : State :=
  let s := (s.wr pgErl R.unfenceState 1).wr pgErl R.unfencePage page
  { selftestFill (((s.wr page R.pstate psSelftest).wr page R.stDone 0).wr page R.stPass 0) page 0 with unfence := some page }

theorem unfenceBegun_shows (s : State) (page : Nat) : (unfenceBegun s page).unfence = some page ∧
    (unfenceBegun s page).rd page R.pstate = psSelftest ∧ (unfenceBegun s page).rd page R.stDone = 0 ∧
    (unfenceBegun s page).rd page R.stPass = 0 := by
  let u := (s.wr pgErl R.unfenceState 1).wr pgErl R.unfencePage page
  have regs : (unfenceBegun s page).regs = (((u.wr page R.pstate psSelftest).wr page R.stDone 0).wr page R.stPass 0).regs := rfl
  refine ⟨rfl, (rd_of_regs regs).trans ?_, (rd_of_regs regs).trans ?_, (rd_of_regs regs).trans (State.rd_wr_same ..)⟩
  · rw [rd_wr_pos (by decide), rd_wr_pos (by decide)]
    exact State.rd_wr_same ..
  · rw [rd_wr_pos (by decide)]
    exact State.rd_wr_same ..

/-- Settles O53: RESUME, an injection, its time-out and UNFENCE act where their conditions hold, and set PROG elsewhere. -/
theorem recovery : Obligations.Recovery := by
  refine ⟨fun ini v => ⟨?refused, ?resumed⟩, fun page bit turn seen => ⟨?tests, ?arms⟩, fun page j => ⟨?none, ?failed⟩,
    fun ini page => ⟨?unfences, ?inService⟩⟩
  case refused =>
    refine writes_of (fun _ => rfl) fun u ⟨own, some', stays⟩ => ?_
    rw [if_pos own]
    exact (if_neg some').trans (if_pos stays)
  case resumed =>
    refine writeBrings_by (f := (fallbackCleared · v)) (fun _ => rfl) (fun u ⟨own, some', empty, may⟩ => ?_) fun u _ => ?_
    · have goes : ¬mayResume u ((List.range 4).filter fun l => bitOf v l || (bitOf v 4 && lineOn u l)) = false := by rw [may]; decide
      have moved : ((List.range 4).filter fun l => bitOf v l || (bitOf v 4 && lineOn u l)).foldl (fun s l => moveOpen s l false)
          (fallbackCleared u v) = fallbackCleared u v :=
        foldl_stays _ fun l _ => moveOpen_none ((fallbackCleared_shows u v).2.2.2.2.trans empty) l false
      exact (if_pos own).trans ((if_neg some').trans ((if_neg goes).trans moved))
    · obtain ⟨lines, all, others, mem, -⟩ := fallbackCleared_shows u v
      exact ⟨lines, all, others, mem⟩
  case tests =>
    intro s ⟨on, rom, phase, runs, free, due, idle⟩
    show execCheckerInjection page bit turn seen s = _
    simp [execCheckerInjection, on, rom, phase, runs, free, due, idle]
  case arms =>
    intro s ⟨on, rom, phase, runs, free, due, busy, kind⟩
    show execCheckerInjection page bit turn seen s = _
    simp [execCheckerInjection, on, rom, phase, runs, free, due, busy, kind]
  case none =>
    intro s none
    show execCheckerTimeout page s = _
    simp only [execCheckerTimeout, none]
  case failed =>
    intro s ⟨found, unseen, late⟩
    show execCheckerTimeout page s = _
    simp only [execCheckerTimeout, found]
    obtain ⟨t, taken, late⟩ | ⟨waits, kind, late⟩ := late
    · have acts : ¬(j.confirmed = true ∨ s.time < t + msTicks 2) := by simp [unseen]; omega
      simp only [taken, if_neg acts]
    · simp only [waits, if_neg kind, if_neg (Nat.not_lt.2 late)]
  case unfences =>
    refine writeBrings_by (f := (unfenceBegun · page)) (fun _ => rfl) (fun u ⟨own, kind, fenced, free, may⟩ => ?_) fun u _ => unfenceBegun_shows u page
    exact (if_pos own).trans (if_neg (by simp [kind, fenced, free, may]))
  case inService =>
    refine writes_of (fun _ => rfl) fun u ⟨own, stays⟩ => ?_
    rw [if_pos own]
    refine if_pos ?_
    rw [Option.isSome_iff_ne_none]
    exact stays

end Sys2Proof.Machine
end

section
/-! PROOFS. The error aggregator's records and the automatic reset (R530, R532). -/
namespace Sys2Proof.Machine
set_option Elab.async false
open Sys2Proof

section
variable {s : State} {hit : Hit}

/-- Without a failure of copy A to tell of, nothing is recorded at boot (R602). -/
theorem bootRecs_none (good : s.rst.badCopy = []) : bootRecs s = s := by
  have same : ({ s with rst := { s.rst with badCopy := [] } } : State) = s := by rw [← good]
  simp only [bootRecs, good, List.foldl_nil, same, ite_self]

variable (runs : s.rst.ph < 3) (good : s.rst.badCopy = [])
include runs good

/-- A turn of the aggregator without a LOST record (R532). -/
theorem exec_logRecordWrite_queue (none : ¬(logRoom s = true ∧ s.lostRecs ≠ 0)) :
    exec (.logRecordWrite hit) s = .next (match s.logQ with
      | [] => s
      | r :: rest => if logRoom { s with logQ := rest } then (logWrite { s with logQ := rest } r hit).2 else logDrop { s with logQ := rest }) := by
  refine congrArg Host.Outcome.next ((if_neg (Nat.not_le.2 runs)).trans ?_)
  rw [bootRecs_none good]
  exact if_neg none

/-- The LOST record goes first (R532). -/
theorem exec_logRecordWrite_lost {t : State} (room : logRoom s = true) (lost : s.lostRecs ≠ 0)
    (written : logWrite s.newInc.2 { event := 0x3F, incident := s.newInc.1, first := true, time := s.time, page := pgErl, count := s.lostRecs }
      hit = (true, t)) : exec (.logRecordWrite hit) s = .next { t with lostRecs := 0 } := by
  refine congrArg Host.Outcome.next ((if_neg (Nat.not_le.2 runs)).trans ?_)
  rw [bootRecs_none good]
  refine (if_pos ⟨room, lost⟩).trans ?_
  show (match logWrite s.newInc.2 { event := 0x3F, incident := s.newInc.1, first := true, time := s.time, page := pgErl, count := s.lostRecs }
    hit with
    | (true, t) => { t with lostRecs := 0 }
    | (false, t) => t) = _
  rw [written]

end

/-- A dropped record is counted, and will be told of (R532). -/
theorem logDrop_shows (s : State) : (logDrop s).lostRecs = s.lostRecs + 1 ∧ (logDrop s).mem = s.mem ∧
    (logDrop s).rd pgErl R.logLost = (s.rd pgErl R.logLost + 1) % 2 ^ R.logLost.w := by
  have aside : Aside pgErl R.logLost 0 :=
    ⟨by decide, by decide, by decide, by decide, fun n => by unfold pgErl pgHq; omega, by decide, by decide⟩
  have kept := asideKept_event aside { s.bump pgErl R.logLost with lostRecs := s.lostRecs + 1 } evErl 1 (by decide)
  exact ⟨kept.lost, (quiet_event ..).mem, kept.rd.trans (State.rd_wr_same ..)⟩

/-- Settles O54: the LOST record goes first, then the oldest record, which is dropped without room. -/
theorem errorLog : Obligations.ErrorLog := by
  refine ⟨fun hit r rest => ⟨?oldest, ?dropped, ?empty, fun t => ?lost⟩, ?resets, ?limit⟩
  case oldest =>
    intro s ⟨runs, good, lost, queue, room⟩
    rw [exec_logRecordWrite_queue runs good (by simp [lost]), queue]
    exact congrArg Host.Outcome.next (if_pos room)
  case dropped =>
    intro s ⟨runs, good, queue, room⟩
    have step : exec (.logRecordWrite hit) s = .next (logDrop { s with logQ := rest }) := by
      rw [exec_logRecordWrite_queue runs good (by simp [room]), queue]
      exact congrArg Host.Outcome.next (if_neg (Bool.eq_false_iff.1 room))
    obtain ⟨lost, mem, count⟩ := logDrop_shows { s with logQ := rest }
    exact ⟨_, step, rfl, lost, mem, count⟩
  case empty =>
    intro s ⟨runs, good, lost, queue⟩
    rw [exec_logRecordWrite_queue runs good (by simp [lost]), queue]
  case lost =>
    intro s ⟨runs, good, lost, room, written⟩
    exact exec_logRecordWrite_lost runs good room lost written
  case resets =>
    intro s ⟨fault, on, few, phase, held⟩
    have acts : ¬(s.on pgSaf R.fault = false ∨ s.on pgErl R.autoReset = false ∨ s.rd pgErl R.autoLimit ≤ s.rd pgErl R.autoResetCnt ∨
        s.rst.ph ≠ 0 ∨ s.time < s.faultTime + msTicks (s.rd pgErl R.faultHold)) := by
      simp only [fault, on, phase, Bool.true_eq_false, false_or, ne_eq, not_true_eq_false]
      omega
    exact congrArg Host.Outcome.next (if_neg acts)
  case limit =>
    intro s spent
    exact congrArg Host.Outcome.next (if_pos (.inr (.inr (.inl spent))))

end Sys2Proof.Machine
end

section
/-! PROOFS. Measured loads, UPDATING marks and the one-time registers (R541, R543, R545, R548, R560). -/
namespace Sys2Proof.Machine
set_option Elab.async false
open Sys2Proof

/-! ### The anti-rollback advance -/

/-- A refused advance (R548). -/
def advanceRefused (s : State) : State :=
  let s := (s.prog pgFus).wr pgFus R.rbState 3
  if rbCountOf s = 64 then s.raise pgFus 8 else s

theorem advanceRefused_shows (s : State) : (advanceRefused s).rd pgFus R.rbState = 3 ∧
    bitOf ((advanceRefused s).rd pgFus R.pageErr) eProg = true ∧ (advanceRefused s).fuses = s.fuses ∧ (advanceRefused s).blowTo = s.blowTo := by
  unfold advanceRefused
  extract_lets u
  have state : u.rd pgFus R.rbState = 3 := State.rd_wr_same ..
  have prog : bitOf (u.rd pgFus R.pageErr) eProg = true := by
    rw [show u.rd pgFus R.pageErr = (s.prog pgFus).rd pgFus R.pageErr from rd_wr_pos (by decide)]
    exact bitOf_pageErr_raise s pgFus (by decide)
  have fuses : u.fuses = s.fuses := (flags_prog s pgFus).part State.fuses
  have blow : u.blowTo = s.blowTo := (flags_prog s pgFus).part State.blowTo
  split
  · have full := flags_raise u pgFus 8
    exact ⟨full.rd.trans state, pageErr_raise_keeps (by decide) prog, (full.part State.fuses).trans fuses, (full.part State.blowTo).trans blow⟩
  · exact ⟨state, prog, fuses, blow⟩

/-! ### Loads -/

section
variable {hit : Hit} {host : Cells} {d : Load} {h body : List Byte} {b1 b2 : Bool} {s s1 s2 : State}
  (load : s.load = some d) (header : readAll s tagLoader pgSec 0 d.src 256 hit host 0 = (.ok h, b1, s1))
include load header

/-- The header's own checks come first (R541). -/
theorem exec_imageLoadDone_header {st : Nat} (fails : imHeaderFail s1 3 h = some st) :
    exec (.imageLoadDone hit host) s = .next (loadFail s1 st) := by
  show execImageLoadDone hit host s = _
  simp only [execImageLoadDone, load, header, fails]

/-- Then the body, by its status (R541, R543). -/
theorem exec_imageLoadDone_body (good : imHeaderFail s1 3 h = none)
    (read : readAll s1 tagLoader pgSec 0 (d.src + 256) (imLen h)
      ⟨hit.idx - 4, if hit.idx < 4 then .ok else hit.r1, if hit.idx < 4 then .ok else hit.r2⟩ host 0 = (.ok body, b2, s2)) :
    exec (.imageLoadDone hit host) s = .next
      (if imBodyStatus s2 h body = ldOk then
        loadInto (({ s2 with load := none } : State).wr pgSec R.ldStat ldOk) d.core h body (imWord s2 (2 + d.core) 1 + 1)
       else loadFail s2 (imBodyStatus s2 h body)) := by
  show execImageLoadDone hit host s = _
  simp only [execImageLoadDone, load, header, good, read]

end

/-- What a header of good format and key comes to: its signature decides (R541). -/
theorem imHeaderFail_signature {s : State} {h : List Byte} (format : imFormatOk 3 h = true) (key : s.rotpk = 0 ∨ rotpkBytes s = shaBytes (imKey h)) :
    imHeaderFail s 3 h = if Config.ecdsaVerify (imKey h) (Config.sha384 (h.take 0xA0)) (imSig h) = false then some ldSig else none := by
  have known : ¬(s.rotpk ≠ 0 ∧ rotpkBytes s ≠ shaBytes (imKey h)) := fun ⟨programmed, other⟩ => key.elim programmed other
  have sound : ¬imFormatOk 3 h = false := by simp [format]
  rw [imHeaderFail, if_neg sound, if_neg known]

/-- Settles O56: each row is accepted under its rules, and a load is decided by header, signature, digest and version in that order. -/
theorem loadsAndFuses : Obligations.LoadsAndFuses := by
  refine ⟨fun ini => ⟨?begins, ?busy, fun v => writes_of (fun _ => rfl) fun u _ => rfl, ?advances, ?refused, ?hash, ?hashed⟩,
    fun hit host d h body b1 b2 s s1 s2 st load header => ⟨fun fails => exec_imageLoadDone_header load header fails, fun format key read => ?loads⟩⟩
  case begins =>
    refine writes_of (fun _ => rfl) fun u ⟨own, halted, free⟩ => if_neg ?_
    have mine : ¬(iniPart u ini ≠ 0 ∧ u.ownerOf (pgCc (u.rd pgSec R.ldCore)) ≠ iniPart u ini) := fun ⟨other, foreign⟩ => own.elim other foreign
    simp [mine, halted, free]
  case busy =>
    refine writes_of (fun _ => rfl) fun u busy => if_pos (.inr ?_)
    rw [Option.isSome_iff_ne_none]
    exact busy
  case advances =>
    refine writes_of (fun _ => rfl) fun u ⟨own, idle, above, low, svns⟩ => ?_
    exact (if_pos own).trans ((if_neg idle).trans (if_pos ⟨above, low, svns⟩))
  case refused =>
    refine writeBrings_by (f := advanceRefused) (fun _ => rfl) (fun u ⟨own, idle, breaks⟩ => ?_) fun u _ => advanceRefused_shows u
    exact (if_pos own).trans ((if_neg idle).trans (if_neg breaks))
  case hash =>
    refine writes_of (fun _ => rfl) fun u ⟨own, blank⟩ => ?_
    exact (if_pos own).trans (if_neg (not_not.2 blank))
  case hashed =>
    refine writes_of (fun _ => rfl) fun u ⟨own, programmed⟩ => ?_
    exact (if_pos own).trans (if_pos programmed)
  case loads =>
    have signature := imHeaderFail_signature format key
    split
    next bad =>
      rw [if_pos bad] at signature
      exact exec_imageLoadDone_header load header signature
    next good =>
      rw [if_neg good] at signature
      rw [exec_imageLoadDone_body load header signature read]
      by_cases digest : shaBytes body = imDigest h
      · by_cases old : imSvn h < rbCountOf s2
        · have status : imBodyStatus s2 h body = ldRollback := by simp [imBodyStatus, digest, old]
          rw [status, if_neg (not_not.2 digest), if_pos old]
          rfl
        · have status : imBodyStatus s2 h body = ldOk := by simp [imBodyStatus, digest, old]
          rw [status, if_neg (not_not.2 digest), if_neg old, if_pos rfl]
      · have status : imBodyStatus s2 h body = ldDigest := by simp [imBodyStatus, digest]
        rw [status, if_pos digest]
        rfl

end Sys2Proof.Machine
end

section
/-! PROOFS. The TAP, the debug module and the trace samples (R554 to R557, R591). -/
namespace Sys2Proof.Machine
set_option Elab.async false
open Sys2Proof

/-! ### The debug flags -/

section
variable {s : State} {k : Nat} (hk : k < 4)
include hk

/-- Setting a debug flag leaves the others (R556). -/
theorem debugFlag_set (b : Nat) :
    bitOf ((s.wrBit pgDbg R.debugFlags b true).rd pgDbg R.debugFlags) k = (bitOf (s.rd pgDbg R.debugFlags) k || decide (k = b)) := by
  rw [State.wrBit, State.rd_wr_same, bitOf_mod_two_pow _ (show k < R.debugFlags.w from hk)]
  exact bitOf_setBit ..

/-- DEBUG_TOUCHED sets, and no other flag differs (R555, R556). -/
theorem debugTouch_flags : bitOf ((debugTouch s).rd pgDbg R.debugFlags) k = (bitOf (s.rd pgDbg R.debugFlags) k || decide (k = 0)) := by
  unfold debugTouch
  split
  next touched =>
    by_cases zero : k = 0
    · simp [zero, touched]
    · simp [zero]
  next =>
    rw [rd_wr_pos (by decide)]
    exact debugFlag_set hk 0

theorem probe_flags : bitOf ((probe s).rd pgDbg R.debugFlags) k = (bitOf (s.rd pgDbg R.debugFlags) k || decide (k = 1)) :=
  debugFlag_set hk 1

end

theorem onlyRegs_debugTouch (s : State) : OnlyRegs s (debugTouch s) := by
  unfold debugTouch
  split
  · exact .refl s
  · exact ((OnlyRegs.refl s).wr).wr

/-- What a state-changing action of the debug module finds (R555). -/
def debugged (s : State) : State := debugTouch (probe s)

theorem debugged_part {α : Type} (g : State → α) (s : State) (regs : ∀ (u : State) r, g { u with regs := r } = g u) : g (debugged s) = g s :=
  ((onlyRegs_debugTouch (probe s)).part g (regs _ _)).trans (regs s _)

theorem debugged_touched (s : State) : bitOf ((debugged s).rd pgDbg R.debugFlags) 0 = true := by
  rw [debugged, debugTouch_flags (by decide)]
  simp

section
variable {s : State} {c pc : Nat}

theorem debugCore_acts (hc : c < 10) (k : State → State) : debugCore s c k = k (debugged s) := if_neg (Nat.not_le.2 hc)

/-- A control core stops (R555). -/
theorem debugStop_core (hc : c < 8) : ((debugStop s c pc).core c).dbg = true ∧ ((debugStop s c pc).core c).pc = pc ∧
    (debugStop s c pc).regs = (s.wrBit pgDbg R.debugFlags 3 true).regs := by
  have core : debugStop s c pc = (s.wrBit pgDbg R.debugFlags 3 true).putCore c { s.core c with dbg := true, pc := pc, flen := 0 } :=
    if_neg (Nat.not_le.2 hc)
  rw [core, core_putCore_same]
  exact ⟨rfl, rfl, rfl⟩

/-- It shows as stopped, and the device as touched. -/
theorem debugStop_flags (hc : c < 8) : bitOf ((debugStop (debugged s) c pc).rd pgDbg R.debugFlags) 0 = true ∧
    bitOf ((debugStop (debugged s) c pc).rd pgDbg R.debugFlags) 3 = true := by
  obtain ⟨-, -, regs⟩ := debugStop_core (s := debugged s) (pc := pc) hc
  rw [rd_of_regs regs, debugFlag_set (by decide), debugFlag_set (by decide), debugged_touched]
  exact ⟨rfl, by simp⟩

end

/-! ### EXTEST and CLAMP -/

theorem tapDrive_shows (s : State) (ir : Nat) : (tapDrive s ir).tap = { s.tap with ir := ir } ∧
    bitOf ((tapDrive s ir).rd pgDbg R.debugFlags) 0 = true ∧ bitOf ((tapDrive s ir).rd pgDbg R.debugFlags) 1 = true ∧
    bitOf ((tapDrive s ir).rd pgDbg R.debugFlags) 2 = true := by
  have flags {k : Nat} (hk : k < 4) : bitOf ((tapDrive s ir).rd pgDbg R.debugFlags) k =
      (((bitOf (s.rd pgDbg R.debugFlags) k || decide (k = 1)) || decide (k = 0)) || decide (k = 2)) := by
    rw [tapDrive, debugFlag_set hk, debugTouch_flags hk]
    exact congrArg (fun b => (b || decide (k = 0)) || decide (k = 2)) (probe_flags hk)
  refine ⟨(onlyRegs_debugTouch (tapIr s ir)).part State.tap, ?_, ?_, ?_⟩
  · rw [flags (by decide)]
    simp
  · rw [flags (by decide)]
    simp
  · rw [flags (by decide)]
    simp

/-! ### Trace samples -/

section
variable {s : State} (enabled : bitOf (s.rd pgDbg R.traceSrcEn) 11 = true)
  (due : s.trace.last + usTicks (s.rd pgDbg R.sampleUs) ≤ s.time)
include enabled due

/-- A sample that is due offers one packet and passes on to the next counter (R557). -/
theorem exec_traceSample_due : ∃ payload next, exec .traceSample s = .next { tracePkt s 11 payload with
    trace := { (tracePkt s 11 payload).trace with next := next, last := (tracePkt s 11 payload).time } } := by
  have acts : ¬(bitOf (s.rd pgDbg R.traceSrcEn) 11 = false ∨ s.time < s.trace.last + usTicks (s.rd pgDbg R.sampleUs)) := by
    simp only [enabled, Bool.true_eq_false, false_or]
    omega
  exact ⟨_, _, congrArg Host.Outcome.next (if_neg acts)⟩

end

/-- Settles O58: what each TAP instruction and each action of the debug module marks, and what a sample adds to the trace. -/
theorem debugAndTrace : Obligations.DebugAndTrace := by
  refine ⟨fun s _ => rfl, fun s _ => ⟨_, rfl, rfl, ?bypass, rfl⟩, fun cells s _ => ⟨_, rfl, rfl, ?sample⟩, fun s _ => ?extest,
    fun s _ => ?clamp, fun s _ => ⟨_, rfl, rfl, ?highz⟩, fun s _ => ⟨_, rfl, rfl, rfl⟩, fun s _ => rfl,
    fun c pc reg v => ⟨fun hc => ⟨?halt, ?trigger, ?step, ?running, ?write, ?resume⟩, fun low high => ⟨?islStep, ?islHalt, ?islResume, ?islWrite⟩,
      fun far => funext fun s => congrArg Host.Outcome.next (if_pos far)⟩, ?taken, ?full, ?disabled⟩
  case bypass => exact (probe_flags (by decide)).trans (by simp)
  case sample => exact (probe_flags (by decide)).trans (by simp)
  case extest =>
    obtain ⟨tap, touched, seen, driven⟩ := tapDrive_shows s 3
    exact ⟨_, rfl, tap, touched, seen, driven⟩
  case clamp =>
    obtain ⟨tap, touched, -, driven⟩ := tapDrive_shows s 4
    exact ⟨_, rfl, tap, touched, driven⟩
  case highz => exact (probe_flags (by decide)).trans (by simp)
  case halt =>
    intro s _
    obtain ⟨dbg, at', -⟩ := debugStop_core (s := debugged s) (pc := pc) hc
    exact ⟨_, congrArg Host.Outcome.next (debugCore_acts (by omega) _), dbg, at', debugStop_flags hc⟩
  case trigger =>
    intro s _
    obtain ⟨dbg, at', -⟩ := debugStop_core (s := debugged s) (pc := pc) hc
    exact ⟨_, congrArg Host.Outcome.next (debugCore_acts (by omega) _), dbg, at', debugStop_flags hc⟩
  case step =>
    intro s stopped
    have row : exec (.debugStep c pc) s = .next ((debugged s).putCore c { (debugged s).core c with pc := pc, flen := 0 }) := by
      show execDebugStep c pc s = _
      simp only [execDebugStep, if_pos hc, stopped, Bool.true_eq_false, if_false, debugCore_acts (show c < 10 by omega), if_neg (Nat.not_le.2 hc)]
    have core : (debugged s).core c = s.core c := debugged_part (State.core · c) s fun _ _ => rfl
    refine ⟨_, row, (core_putCore_same ..).trans (by rw [core]), debugged_touched s⟩
  case running =>
    intro s runs
    show execDebugStep c pc s = _
    simp only [execDebugStep, if_pos hc, runs, if_true]
  case write =>
    intro s _
    have row : exec (.debugRegisterWrite c 0x7B1 v) s = .next ((debugged s).putCore c { (debugged s).core c with pc := v % 2 ^ 32, flen := 0 }) :=
      congrArg Host.Outcome.next ((debugCore_acts (by omega) _).trans (if_pos ⟨hc, rfl⟩))
    have core : (debugged s).core c = s.core c := debugged_part (State.core · c) s fun _ _ => rfl
    exact ⟨_, row, (core_putCore_same ..).trans (by rw [core]), debugged_touched s⟩
  case resume =>
    intro s _
    refine ⟨_, congrArg Host.Outcome.next ((if_neg (by omega)).trans (if_neg (by omega))), core_putCore_same .., ?_⟩
    exact (probe_flags (by decide)).trans (by simp)
  case islStep =>
    intro s runs
    show execDebugStep c pc s = _
    simp only [execDebugStep, if_neg (Nat.not_lt.2 low), runs, if_true]
  case islHalt =>
    intro s _
    have row : exec (.debugHalt c pc) s = .next { (debugged s).wrBit pgDbg R.debugFlags 3 true with isl := { (debugged s).isl with halted := true } } :=
      congrArg Host.Outcome.next ((debugCore_acts high _).trans (if_pos low))
    have isl : (debugged s).isl = s.isl := debugged_part State.isl s fun _ _ => rfl
    refine ⟨_, row, congrArg (fun i : Island => { i with halted := true }) isl, ?_⟩
    exact (debugFlag_set (by decide) 3).trans (by rw [debugged_touched]; rfl)
  case islResume =>
    intro s _
    exact ⟨_, congrArg Host.Outcome.next ((if_neg (Nat.not_le.2 high)).trans (if_pos low)), rfl⟩
  case islWrite =>
    intro s _
    have row : exec (.debugRegisterWrite c reg v) s = .next (debugged s) :=
      congrArg Host.Outcome.next ((debugCore_acts high _).trans (if_neg (by omega)))
    exact ⟨_, row, debugged_part State.cores s fun _ _ => rfl, debugged_touched s⟩
  case taken =>
    intro s ⟨enabled, due, room⟩
    obtain ⟨payload, next, step⟩ := exec_traceSample_due enabled due
    have pushed : tracePkt s 11 payload = tracePush s 11 payload := by
      simp only [tracePkt, enabled, Bool.true_eq_false, if_false, if_neg (Nat.not_le.2 room)]
    rw [pushed] at step
    exact ⟨_, step, rfl, List.length_append, rfl, rfl⟩
  case full =>
    intro s ⟨enabled, due, full⟩
    obtain ⟨payload, next, step⟩ := exec_traceSample_due enabled due
    have dropped : tracePkt s 11 payload = traceDrop s := by
      simp only [tracePkt, enabled, Bool.true_eq_false, if_false, if_pos full]
    rw [dropped] at step
    exact ⟨_, step, rfl, rfl, rfl⟩
  case disabled =>
    exact fun s off => congrArg Host.Outcome.next (if_pos (.inl off))

end Sys2Proof.Machine
end

section
/-! PROOFS. The power ladder and the temperature sensors (R569, R571 to R577, R583 to R586, R589). -/
namespace Sys2Proof.Machine
set_option Elab.async false
open Sys2Proof

/-! ### Entry to a sleep rung -/

/-- A request of a legal rung reads back as it is. -/
theorem sleepReq_rd {s : State} {r : Nat} (hr : r < 8) : (s.wr pgPwr R.sleepReq r).rd pgPwr R.sleepReq = r :=
  (State.rd_wr_same ..).trans (Nat.mod_eq_of_lt hr)

/-- What SLEEP_GO answers, by its refusal (R571). -/
def sleepAnswer (s : State) (r : Nat) : State :=
  match sleepRefusal s r with
  | 0 => enterSleep s r
  | c => (((s.prog pgPwr).raise pgPwr 8).wr pgPwr R.refuseCause c)

theorem sleepAnswer_accepted {s : State} {r : Nat} (free : sleepRefusal s r = 0) : sleepAnswer s r = enterSleep s r := by
  simp only [sleepAnswer, free]

theorem sleepAnswer_refused {s : State} {r c : Nat} (cause : sleepRefusal s r = c) (hc : c ≠ 0) :
    sleepAnswer s r = (((s.prog pgPwr).raise pgPwr 8).wr pgPwr R.refuseCause c) := by
  subst cause
  unfold sleepAnswer
  split
  next free => exact absurd free hc
  next => rfl

/-- Only DOZE, REST and DORMANT can be entered. -/
theorem sleepRefusal_rung {s : State} {r : Nat} (free : sleepRefusal s r = 0) : 3 ≤ r ∧ r ≤ 5 := by
  by_contra outside
  have far : r < 3 ∨ 5 < r := by omega
  unfold sleepRefusal at free
  split_ifs at free

/-- The effect of the row on what it finds. -/
theorem sleepGo_effect {u : State} {ini : Ini} {r : Nat} (hr : r < 8) (own : p0Ok u ini = true) :
    (if p0Ok u ini then sleepAnswer (u.wr pgPwr R.sleepReq r) ((u.wr pgPwr R.sleepReq r).rd pgPwr R.sleepReq) else u.prog pgPwr) =
      sleepAnswer (u.wr pgPwr R.sleepReq r) r := by
  rw [if_pos own, sleepReq_rd hr]

/-- The sleep cause of FALLBACK_ALL is set (R572). -/
def sleepBegun (s : State) : State := setFallbackAll { s.wr pgPwr R.entering 1 with fbSleep := true }

/-- DEV_OK_N is released, and the island pauses (R572). -/
def sleepMarked (s : State) (r : Nat) : State :=
  let s := (s.wr pgSaf R.devOk 0).wr pgPwr R.wakeCause 0
  { s with
    isl := { s.isl with pausedAt := s.time }
    parcels := s.parcels.filter fun q => !q.listed
    pw := { s.pw with target := r, back := false, idle := 0 } }

theorem sleepBegun_shows (s : State) : (sleepBegun s).rd pgPwr R.entering = 1 ∧ (sleepBegun s).rd pgSaf R.fallbackAll = 1 ∧
    (sleepBegun s).fbSleep = true ∧ (sleepBegun s).vt = s.vt ∧ (sleepBegun s).mem = s.mem := by
  refine ⟨?_, State.rd_wr_same .., rfl, rfl, rfl⟩
  have on : (s.wr pgPwr R.entering 1).rd pgPwr R.entering = 1 := State.rd_wr_same ..
  exact (rd_wr_page (by decide) (by decide) (by decide)).trans on

theorem sleepMarked_shows (s : State) (r : Nat) : (sleepMarked s r).rd pgPwr R.entering = s.rd pgPwr R.entering ∧
    (sleepMarked s r).rd pgSaf R.fallbackAll = s.rd pgSaf R.fallbackAll ∧ (sleepMarked s r).rd pgSaf R.devOk = 0 ∧
    (sleepMarked s r).fbSleep = s.fbSleep ∧ (sleepMarked s r).pw.target = r ∧ (sleepMarked s r).mem = s.mem := by
  have regs : (sleepMarked s r).regs = ((s.wr pgSaf R.devOk 0).wr pgPwr R.wakeCause 0).regs := rfl
  refine ⟨(rd_of_regs regs).trans ?_, (rd_of_regs regs).trans ?_, (rd_of_regs regs).trans ?_, rfl, rfl, rfl⟩
  · rw [rd_wr_pos (by decide), rd_wr_page (by decide) (by decide) (by decide)]
  · rw [rd_wr_page (by decide) (by decide) (by decide), rd_wr_pos (by decide)]
  · rw [rd_wr_page (by decide) (by decide) (by decide), State.rd_wr_same]
    rfl

/-- An accepted entry: FALLBACK_ALL with the sleep cause, and DEV_OK_N released (R572). -/
theorem enterSleep_shows {s : State} {r : Nat} (empty : s.vt = []) : (enterSleep s r).on pgPwr R.entering = true ∧
    (enterSleep s r).on pgSaf R.fallbackAll = true ∧ (enterSleep s r).fbSleep = true ∧ (enterSleep s r).on pgSaf R.devOk = false ∧
    (enterSleep s r).pw.target = r ∧ (enterSleep s r).mem = s.mem := by
  obtain ⟨entering, fallback, sleep, vt, mem⟩ := sleepBegun_shows s
  have moved : (List.range 4).foldl (fun s l => moveOpen s l false) (sleepBegun s) = sleepBegun s :=
    foldl_stays _ fun l _ => moveOpen_none (vt.trans empty) l false
  have shape : enterSleep s r = sleepMarked (sleepBegun s) r := congrArg (sleepMarked · r) moved
  obtain ⟨entering', fallback', dev, sleep', target, mem'⟩ := sleepMarked_shows (sleepBegun s) r
  rw [shape]
  simp only [State.on, entering', entering, fallback', fallback, dev]
  exact ⟨rfl, rfl, sleep'.trans sleep, rfl, target, mem'.trans mem⟩

/-! ### The end of an entry -/

/-- A page settles on its own page only. -/
theorem settle_rd_page {s : State} {p q i : Nat} {f : Fld} {busy : Bool} (other : p ≠ q) (hf : fldPos f i < 1048576) :
    (s.settle q busy).rd p f i = s.rd p f i := by
  have wr (v : Nat) : (s.wr q R.pstate v).rd p f i = s.rd p f i := rd_wr_page other hf (by decide)
  unfold State.settle
  split
  · exact wr _
  · split
    · exact wr _
    · rfl

/-- The monitor and the I3C controllers before their queues are dropped (R579). -/
def sleepPages (s : State) : State :=
  let s := { s with disp := { s.disp with gen := false, pll := false, resume := false } }
  let s := if s.link = dpUnplugged then s else s.setLink dpOff
  (List.range 12).foldl (fun s i => s.settle (pgI3c i) false) (s.settle pgMon false)

theorem sleepPages_rd {s : State} {p i : Nat} {f : Fld} (hp : p < 4) (hf : fldPos f i < 1048576) : (sleepPages s).rd p f i = s.rd p f i := by
  have apart : p ≠ pgMon ∧ p ≠ pgDp ∧ ∀ n, p ≠ pgI3c n := by
    simp only [pgMon, pgDp, pgI3c]
    exact ⟨by omega, by omega, fun n => by omega⟩
  obtain ⟨mon, dp, i3c⟩ := apart
  unfold sleepPages
  extract_lets _ u v
  have linked : v.rd p f i = s.rd p f i := by
    unfold v
    split
    · rfl
    · exact rd_wr_page dp hf (by decide)
  exact (foldl_leaves (fun w => w.rd p f i) (fun w n => settle_rd_page (i3c n) hf) _ _).trans ((settle_rd_page mon hf).trans linked)

theorem sleepPages_pw (s : State) : (sleepPages s).pw = s.pw := by
  unfold sleepPages
  extract_lets _ u v
  have linked : v.pw = s.pw := by
    unfold v
    split
    · rfl
    · rfl
  exact (foldl_leaves State.pw (fun w n => (onlyRegs_settle ..).part State.pw) _ _).trans (((onlyRegs_settle ..).part State.pw).trans linked)

/-- Their queues are dropped, and the timing generators wait for nothing (R579). -/
def dropQueues (s : State) : State :=
  let tgs := s.tgs.map fun (t : Nat × Tg) =>
    (t.1, { t.2 with wait := none, trigEnd := none, strobes := [], strobeEnd := none })
  let pwms := s.pwms.map fun (t : Nat × Pwm) => (t.1, { t.2 with fall := none })
  { s with uarts := [], i3cs := [], tgs := tgs, pwms := pwms }

theorem sleepIo_eq (s : State) : sleepIo s = dropQueues (sleepPages s) := rfl

theorem dropQueues_shows (s : State) : (dropQueues s).regs = s.regs ∧ (dropQueues s).pw = s.pw ∧ (dropQueues s).uarts = [] ∧
    (dropQueues s).i3cs = [] := ⟨rfl, rfl, rfl, rfl⟩

/-- The line I/O units' sleep leaves the pages of clocks and power, and no character or I3C queue (R579). -/
theorem sleepIo_shows (s : State) : (sleepIo s).regs = (sleepPages s).regs ∧ (sleepIo s).pw = s.pw ∧ (sleepIo s).uarts = [] ∧
    (sleepIo s).i3cs = [] := by
  obtain ⟨regs, pw, uarts, i3cs⟩ := dropQueues_shows (sleepPages s)
  rw [sleepIo_eq]
  exact ⟨regs, pw.trans (sleepPages_pw s), uarts, i3cs⟩

/-- External memory in DOZE: only the controllers' states differ (R385). -/
theorem sleepExt_doze_rd {s : State} {p i : Nat} {f : Fld} (hp : p < 4) (hf : fldPos f i < 1048576) : (sleepExt s 3).rd p f i = s.rd p f i := by
  have apart (n : Nat) : p ≠ pgLpc n := by unfold pgLpc; omega
  refine foldl_leaves (fun u => u.rd p f i) (fun u n => ?_) lpcs s
  simp only [if_true]
  split
  · exact rd_wr_page (apart n) hf (by decide)
  · rfl

theorem sleepExt_doze_part {α : Type} {s : State} (g : State → α) (regs : ∀ (u : State) r, g { u with regs := r } = g u) :
    g (sleepExt s 3) = g s := by
  refine foldl_leaves g (fun u n => ?_) lpcs s
  simp only [if_true]
  split
  · exact regs _ _
  · rfl

/-- The clocks stop and the rung is DOZE (R572). -/
def dozeMarked (s : State) : State :=
  let s := s.wr pgClk R.pllLock 0
  let s := s.wr pgClk R.slowFromRef 1
  let s := (s.wr pgPwr R.preq (preqOf 3)).wr pgPwr R.rung 3
  { s with pw := { s.pw with encAt := s.rd pgLio R.encCnt (s.rd pgPwr R.wakeEnc) } }

theorem dozeMarked_shows (s : State) : (dozeMarked s).rd pgPwr R.entering = s.rd pgPwr R.entering ∧ (dozeMarked s).rd pgPwr R.rung = 3 ∧
    (dozeMarked s).rd pgClk R.pllLock = 0 ∧ (dozeMarked s).rd pgClk R.slowFromRef = 1 ∧ (dozeMarked s).rd pgPwr R.preq = 7 ∧
    (dozeMarked s).uarts = s.uarts ∧ (dozeMarked s).i3cs = s.i3cs := by
  have regs : (dozeMarked s).regs = ((((s.wr pgClk R.pllLock 0).wr pgClk R.slowFromRef 1).wr pgPwr R.preq (preqOf 3)).wr pgPwr R.rung 3).regs := rfl
  refine ⟨(rd_of_regs regs).trans ?_, (rd_of_regs regs).trans (State.rd_wr_same ..), (rd_of_regs regs).trans ?_, (rd_of_regs regs).trans ?_,
    (rd_of_regs regs).trans ?_, rfl, rfl⟩
  · rw [rd_wr_pos (by decide), rd_wr_pos (by decide), rd_wr_page (by decide) (by decide) (by decide),
      rd_wr_page (by decide) (by decide) (by decide)]
  · rw [rd_wr_page (by decide) (by decide) (by decide), rd_wr_page (by decide) (by decide) (by decide), rd_wr_pos (by decide)]
    exact State.rd_wr_same ..
  · rw [rd_wr_page (by decide) (by decide) (by decide), rd_wr_page (by decide) (by decide) (by decide)]
    exact State.rd_wr_same ..
  · rw [rd_wr_pos (by decide)]
    exact State.rd_wr_same ..

/-- A wake during the entry turns the device back (R574). -/
def turnedBack (s : State) : State := { s.wr pgPwr R.exiting 1 with pw := { s.pw with since := s.time } }

section
variable {s : State} (entering : s.on pgPwr R.entering = true)
include entering

theorem exec_rungEntryDone_doze (stays : s.pw.back = false) (target : s.pw.target = 3) :
    exec .rungEntryDone s = .next (dozeMarked (sleepExt (sleepIo (s.wr pgPwr R.entering 0)) 3)) := by
  have pw : (sleepIo (s.wr pgPwr R.entering 0)).pw = s.pw := (sleepIo_shows _).2.1
  show execRungEntryDone s = _
  simp only [execRungEntryDone, entering, Bool.true_eq_false, if_false]
  generalize sleepIo (s.wr pgPwr R.entering 0) = u at *
  simp only [pw, stays, target, Bool.false_eq_true, if_false, if_true, dozeMarked]

theorem exec_rungEntryDone_back (back : s.pw.back = true) :
    exec .rungEntryDone s = .next (turnedBack (sleepIo (s.wr pgPwr R.entering 0))) := by
  have pw : (sleepIo (s.wr pgPwr R.entering 0)).pw = s.pw := (sleepIo_shows _).2.1
  show execRungEntryDone s = _
  simp only [execRungEntryDone, entering, Bool.true_eq_false, if_false]
  generalize sleepIo (s.wr pgPwr R.entering 0) = u at *
  simp only [pw, back, if_true, turnedBack]

end

theorem turnedBack_shows (s : State) : (turnedBack s).rd pgPwr R.entering = s.rd pgPwr R.entering ∧
    (turnedBack s).on pgPwr R.exiting = true ∧ (turnedBack s).rd pgPwr R.rung = s.rd pgPwr R.rung := by
  have regs : (turnedBack s).regs = (s.wr pgPwr R.exiting 1).regs := rfl
  refine ⟨(rd_of_regs regs).trans (rd_wr_pos (by decide)), ?_, (rd_of_regs regs).trans (rd_wr_pos (by decide))⟩
  unfold State.on
  rw [rd_of_regs regs, State.rd_wr_same]
  rfl

/-- The line I/O units' sleep leaves the pages of clocks and power. -/
theorem sleepIo_rd {s : State} {p i : Nat} {f : Fld} (hp : p < 4) (hf : fldPos f i < 1048576) : (sleepIo s).rd p f i = s.rd p f i :=
  (rd_of_regs (sleepIo_shows s).1).trans (sleepPages_rd hp hf)

/-- The end of an entry to DOZE. -/
def dozeEntered (s : State) : State := dozeMarked (sleepExt (sleepIo (s.wr pgPwr R.entering 0)) 3)

theorem dozeEntered_shows (s : State) : (dozeEntered s).on pgPwr R.entering = false ∧ (dozeEntered s).rd pgPwr R.rung = 3 ∧
    (dozeEntered s).rd pgClk R.pllLock = 0 ∧ (dozeEntered s).rd pgClk R.slowFromRef = 1 ∧ (dozeEntered s).rd pgPwr R.preq = 7 ∧
    (dozeEntered s).uarts = [] ∧ (dozeEntered s).i3cs = [] := by
  obtain ⟨-, -, uarts, i3cs⟩ := sleepIo_shows (s.wr pgPwr R.entering 0)
  obtain ⟨entering, rung, lock, slow, preq, uarts', i3cs'⟩ := dozeMarked_shows (sleepExt (sleepIo (s.wr pgPwr R.entering 0)) 3)
  have cleared : (dozeEntered s).rd pgPwr R.entering = 0 := by
    refine entering.trans ((sleepExt_doze_rd (by decide) (by decide)).trans ((sleepIo_rd (by decide) (by decide)).trans ?_))
    exact State.rd_wr_same ..
  refine ⟨?_, rung, lock, slow, preq, uarts'.trans ((sleepExt_doze_part State.uarts fun _ _ => rfl).trans uarts),
    i3cs'.trans ((sleepExt_doze_part State.i3cs fun _ _ => rfl).trans i3cs)⟩
  unfold State.on
  rw [cleared]
  rfl

theorem enteredBack_shows (s : State) : (turnedBack (sleepIo (s.wr pgPwr R.entering 0))).on pgPwr R.entering = false ∧
    (turnedBack (sleepIo (s.wr pgPwr R.entering 0))).on pgPwr R.exiting = true ∧
    (turnedBack (sleepIo (s.wr pgPwr R.entering 0))).rd pgPwr R.rung = s.rd pgPwr R.rung := by
  obtain ⟨entering, exiting, rung⟩ := turnedBack_shows (sleepIo (s.wr pgPwr R.entering 0))
  have cleared : (turnedBack (sleepIo (s.wr pgPwr R.entering 0))).rd pgPwr R.entering = 0 :=
    entering.trans ((sleepIo_rd (by decide) (by decide)).trans (State.rd_wr_same ..))
  refine ⟨?_, exiting, rung.trans ((sleepIo_rd (by decide) (by decide)).trans (rd_wr_pos (by decide)))⟩
  unfold State.on
  rw [cleared]
  rfl

/-! ### HOLD and NAP, their wake and the exits -/

/-- A request that needs a compute domain in HOLD or NAP starts the exit (R569). -/
theorem computeRequestWake_exits {s : State} (rung : s.rd pgPwr R.rung = 1 ∨ s.rd pgPwr R.rung = 2) (settled : rungSettled s = true) :
    exec .computeRequestWake s = .next (turnedBack { s with pw := { s.pw with idle := 0 } }) :=
  congrArg Host.Outcome.next (if_pos ⟨rung, settled⟩)

section
variable {s : State} (exiting : s.on pgPwr R.exiting = true)
include exiting

/-- The exit of a settled rung goes on by the rung. -/
theorem exec_rungExitDone {r : Nat} (rung : s.rd pgPwr R.rung = r) : exec .rungExitDone s = .next (
    if r = 1 ∨ r = 2 then (s.wr pgPwr R.exiting 0).wr pgPwr R.rung 0
    else if r = 5 then (if s.time < s.pw.since + usTicks (s.rd pgPwr R.railWait) then s else exitRest s true)
    else if r = 4 then exitRest s false
    else exitDoze s) := by
  subst rung
  show execRungExitDone s = _
  simp only [execRungExitDone, exiting, Bool.true_eq_false, if_false]

end

/-! ### Temperature -/

/-- All eight sensors have delivered v (R583). -/
def evenRead (s : State) (v : Int) : State :=
  takeReadings { s with pw := { s.pw with upd := s.time + 1 } } [some v, some v, some v, some v, some v, some v, some v, some v]

theorem evenRead_shows (s : State) (v : Int) : (evenRead s v).regs = s.regs ∧ (evenRead s v).pw.age = [0, 0, 0, 0, 0, 0, 0, 0] ∧
    (evenRead s v).pw.last = [v, v, v, v, v, v, v, v] := ⟨rfl, rfl, rfl⟩

section
variable {u : State} {v : Int}

theorem sensorFailed_none (sound : u.rd pgPwr R.sensFail = 0) (k : Nat) : sensorFailed u k = false := by
  unfold sensorFailed
  rw [sound, bitOf, Nat.zero_div]
  rfl

theorem last_even (last : u.pw.last = [v, v, v, v, v, v, v, v]) {k : Nat} (hk : k ∈ sensors) : (u.pw.last[k]?).getD 0 = v := by
  have eight : ∀ k ∈ sensors, ([v, v, v, v, v, v, v, v][k]?).getD 0 = v := by simp [sensors]
  rw [last]
  exact eight k hk

theorem failsFirst_none (age : u.pw.age = [0, 0, 0, 0, 0, 0, 0, 0]) (last : u.pw.last = [v, v, v, v, v, v, v, v])
    (low : -400 ≤ v) (high : v ≤ 1200) {k : Nat} (hk : k ∈ sensors) : failsFirst u k = false := by
  have young : ∀ k ∈ sensors, (([0, 0, 0, 0, 0, 0, 0, 0] : List Nat)[k]?).getD 0 = 0 := by decide
  unfold failsFirst
  rw [age, young k hk, last_even last hk]
  simp only [Bool.or_eq_false_iff, decide_eq_false_iff_not]
  omega

theorem goodReadings_even (sound : u.rd pgPwr R.sensFail = 0) (last : u.pw.last = [v, v, v, v, v, v, v, v]) :
    goodReadings u = [v, v, v, v, v, v, v, v] := by
  unfold goodReadings
  simp only [sensorFailed_none sound, last]
  rfl

theorem insertInt_least (a : Int) (l : List Int) (least : ∀ b ∈ l, a ≤ b) : insertInt a l = a :: l := by
  cases l with
  | nil => rfl
  | cons b t => exact if_pos (least b List.mem_cons_self)

theorem sortInt_replicate (v : Int) (n : Nat) : sortInt (List.replicate n v) = List.replicate n v := by
  induction n with
  | zero => rfl
  | succ n ih =>
    have sorted : sortInt (List.replicate (n + 1) v) = insertInt v (sortInt (List.replicate n v)) := rfl
    rw [sorted, ih, insertInt_least v _ fun b hb => (List.eq_of_mem_replicate hb).ge]
    rfl

theorem median2_even (v : Int) : median2 [v, v, v, v, v, v, v, v] = v + v := by
  have sorted : sortInt [v, v, v, v, v, v, v, v] = [v, v, v, v, v, v, v, v] := sortInt_replicate v 8
  simp only [median2, sorted, List.length_cons, List.length_nil]
  rfl

theorem hottest_even (v : Int) : hottest [v, v, v, v, v, v, v, v] = some v := by
  simp only [hottest, List.foldl_cons, List.foldl_nil, max_self]

/-- The throttle level with every sensor sound (R584). -/
def evenLevel (l : Nat) (v : Int) : Nat := if 840 < v then 7 else if 760 < v then min 7 (l + 1) else if 744 < v then l else l - 1

theorem evenLevel_lt {l : Nat} (hl : l < 8) (v : Int) : evenLevel l v < 8 := by
  unfold evenLevel
  split_ifs <;> omega

theorem nextLevel_even (sound : u.rd pgPwr R.sensFail = 0) (v : Int) : nextLevel u (some v) = evenLevel (u.rd pgPwr R.thermLevel) v := by
  have none : sensorFailed u = fun _ => false := funext (sensorFailed_none sound)
  simp only [nextLevel, none]
  rfl

end

/-- Every sensor's temperature is shown (R583). -/
def tempsWritten (s : State) (v : Int) : State := sensors.foldl (fun u k => u.wr pgPwr R.temp (unsgn 12 v) k) s

theorem unsgn_lt (w : Nat) (x : Int) : unsgn w x < 2 ^ w := by
  have below : x % (2 ^ w : Nat) < (2 ^ w : Nat) := Int.emod_lt_of_pos _ (by positivity)
  unfold unsgn
  omega

theorem tempsWritten_temp (s : State) (v : Int) : (tempsWritten s v).rd pgPwr R.temp = unsgn 12 v := by
  have others : ∀ k ∈ [1, 2, 3, 4, 5, 6, 7], fldPos R.temp 0 ≠ fldPos R.temp k := by decide
  have later := foldl_leaves_on (fun u : State => u.rd pgPwr R.temp) (f := fun u k => u.wr pgPwr R.temp (unsgn 12 v) k)
    [1, 2, 3, 4, 5, 6, 7] (fun k hk _ => rd_wr_pos (others k hk)) (s.wr pgPwr R.temp (unsgn 12 v) 0)
  refine later.trans ((State.rd_wr_same ..).trans ?_)
  exact Nat.mod_eq_of_lt (unsgn_lt 12 v)

theorem tempsWritten_rd (s : State) (v : Int) {f : Fld} (apart : ∀ k ∈ sensors, fldPos f 0 ≠ fldPos R.temp k) :
    (tempsWritten s v).rd pgPwr f = s.rd pgPwr f :=
  foldl_leaves_on (fun u : State => u.rd pgPwr f) sensors (fun k hk _ => rd_wr_pos (apart k hk)) s

/-- The level and THERM_HOT of an update (R584). -/
def levelWritten (s : State) (l : Nat) (v : Int) : State := (s.wr pgPwr R.thermLevel l).wr pgPwr R.thermHot (b2n (decide (760 < v)))

/-- The flag and the peak of an update (R584, R589). -/
def peakWritten (s : State) (v : Int) : State :=
  let s := if 840 < v then s.raise pgPwr 9 else s
  if sgn 12 (s.rd pgPwr R.tPeak) < v then s.wr pgPwr R.tPeak (unsgn 12 v) else s

/-- The peak and the throttled time of an update (R584, R589). -/
def levelShown (s : State) (v : Int) : State :=
  let s := peakWritten s v
  if s.rd pgPwr R.thermLevel = 0 then s else s.bump pgPwr R.throttleMs

/-- The other fields of the page stand after the peak and the throttled time. -/
theorem levelShown_rd {s : State} {v : Int} {f : Fld} (mark : markPos (fldPos f 0) = false) (room : fldPos f 0 < 1048576)
    (peak : fldPos f 0 ≠ fldPos R.tPeak 0) (time : fldPos f 0 ≠ fldPos R.throttleMs 0) :
    (levelShown s v).rd pgPwr f = s.rd pgPwr f := by
  unfold levelShown peakWritten
  extract_lets a b
  have raised : a.rd pgPwr f = s.rd pgPwr f := by
    unfold a
    split
    · exact (flags_raise s pgPwr 9).rd mark room
    · rfl
  have peaked : b.rd pgPwr f = a.rd pgPwr f := by
    unfold b
    split
    · exact rd_wr_pos peak
    · rfl
  split
  · exact peaked.trans raised
  · exact (rd_wr_pos time).trans (peaked.trans raised)

theorem levelWritten_shows {s : State} {l : Nat} (hl : l < 8) (v : Int) : (levelWritten s l v).rd pgPwr R.thermLevel = l ∧
    (levelWritten s l v).on pgPwr R.thermHot = decide (760 < v) ∧ (levelWritten s l v).rd pgPwr R.temp = s.rd pgPwr R.temp ∧
    (levelWritten s l v).rd pgPwr R.sensFail = s.rd pgPwr R.sensFail := by
  refine ⟨?_, ?_, ?_, ?_⟩
  · refine (rd_wr_pos (by decide)).trans ((State.rd_wr_same ..).trans ?_)
    exact Nat.mod_eq_of_lt hl
  · unfold levelWritten State.on
    rw [State.rd_wr_same]
    cases decide (760 < v) <;> rfl
  · exact (rd_wr_pos (by decide)).trans (rd_wr_pos (by decide))
  · exact (rd_wr_pos (by decide)).trans (rd_wr_pos (by decide))

section
variable {u : State} {v : Int} (sound : u.rd pgPwr R.sensFail = 0) (last : u.pw.last = [v, v, v, v, v, v, v, v])
include sound last

omit sound in
theorem failsFirst_filter (age : u.pw.age = [0, 0, 0, 0, 0, 0, 0, 0]) (low : -400 ≤ v) (high : v ≤ 1200) :
    (sensors.filter fun k => !sensorFailed u k && failsFirst u k) = [] := by
  refine List.filter_eq_nil_iff.mpr fun k hk => ?_
  rw [failsFirst_none age last low high hk, Bool.and_false]
  exact Bool.false_ne_true

/-- No reading is far from the median of equal readings. -/
theorem failsSecond_filter :
    (sensors.filter fun k => !sensorFailed u k && decide (480 < (2 * (u.pw.last[k]?).getD 0 - median2 (goodReadings u)).natAbs)) = [] := by
  refine List.filter_eq_nil_iff.mpr fun k hk => ?_
  have near : ¬ 480 < (2 * v - (v + v)).natAbs := by omega
  rw [last_even last hk, goodReadings_even sound last, median2_even, decide_eq_false near, Bool.and_false]
  exact Bool.false_ne_true

/-- The temperatures that the sound sensors show. -/
theorem tempsWritten_eq : ((sensors.filter fun k => !sensorFailed u k).foldl
    (fun w k => w.wr pgPwr R.temp (unsgn 12 ((w.pw.last[k]?).getD 0)) k) u) = tempsWritten u v := by
  have all : (sensors.filter fun k => !sensorFailed u k) = sensors :=
    List.filter_eq_self.mpr fun k _ => by rw [sensorFailed_none sound]; rfl
  have each (l : List Nat) (sub : ∀ k ∈ l, k ∈ sensors) (w : State) (same : w.pw = u.pw) :
      (l.foldl (fun w k => w.wr pgPwr R.temp (unsgn 12 ((w.pw.last[k]?).getD 0)) k) w) =
        l.foldl (fun w k => w.wr pgPwr R.temp (unsgn 12 v) k) w := by
    induction l generalizing w with
    | nil => rfl
    | cons k l ih =>
      have here : (w.pw.last[k]?).getD 0 = v := by rw [same, last_even last (sub k List.mem_cons_self)]
      rw [List.foldl_cons, List.foldl_cons, here]
      exact ih (fun j hj => sub j (List.mem_cons_of_mem k hj)) _ same
  rw [all]
  exact each sensors (fun _ h => h) u rfl

end

theorem tempsWritten_pw (s : State) (v : Int) : (tempsWritten s v).pw = s.pw := foldl_leaves State.pw (f := fun u k => u.wr pgPwr R.temp (unsgn 12 v) k) (fun _ _ => rfl) sensors s

/-- An update with eight sound sensors that read the same value (R583 to R586). -/
theorem tempUpdate_even {s : State} {v : Int} (low : -400 ≤ v) (high : v ≤ 1200) (sound : s.rd pgPwr R.sensFail = 0) :
    tempUpdate s [some v, some v, some v, some v, some v, some v, some v, some v] =
      levelShown (levelWritten (tempsWritten (evenRead s v) v) (evenLevel (s.rd pgPwr R.thermLevel) v) v) v := by
  obtain ⟨regs, age, last⟩ := evenRead_shows s v
  have sound' : (evenRead s v).rd pgPwr R.sensFail = 0 := (rd_of_regs regs).trans sound
  have soundAfter : (tempsWritten (evenRead s v) v).rd pgPwr R.sensFail = 0 := (tempsWritten_rd _ v (by decide)).trans sound'
  have level : (tempsWritten (evenRead s v) v).rd pgPwr R.thermLevel = s.rd pgPwr R.thermLevel :=
    (tempsWritten_rd _ v (by decide)).trans (rd_of_regs regs)
  have lastAfter : (tempsWritten (evenRead s v) v).pw.last = [v, v, v, v, v, v, v, v] := by
    rw [tempsWritten_pw]
    exact last
  have hot : hottest (goodReadings (tempsWritten (evenRead s v) v)) = some v := by
    rw [goodReadings_even soundAfter lastAfter, hottest_even]
  unfold tempUpdate
  extract_lets _ u first w m second x y hotter z1 z2 z3
  have none1 : first = [] := failsFirst_filter last age low high
  have here : w = evenRead s v := by unfold w; rw [none1]; rfl
  have none2 : second = [] := by unfold second m; rw [here]; exact failsSecond_filter sound' last
  have still : x = evenRead s v := by unfold x; rw [none2, here]; rfl
  have temps : y = tempsWritten (evenRead s v) v := by unfold y; rw [still]; exact tempsWritten_eq sound' last
  have hots : hotter = some v := by unfold hotter; rw [temps]; exact hot
  have shown : z2 = levelWritten (tempsWritten (evenRead s v) v) (evenLevel (s.rd pgPwr R.thermLevel) v) v := by
    unfold z2 z1
    rw [hots, temps, nextLevel_even soundAfter, level]
    rfl
  have peak : z3 = peakWritten z2 v := by unfold z3; rw [hots]; rfl
  rw [peak, shown]
  rfl

/-- What such an update shows. -/
theorem tempUpdate_even_shows {s : State} {v : Int} (low : -400 ≤ v) (high : v ≤ 1200) (sound : s.rd pgPwr R.sensFail = 0)
    (level : s.rd pgPwr R.thermLevel < 8) {t : State}
    (at_ : t = tempUpdate s [some v, some v, some v, some v, some v, some v, some v, some v]) :
    t.rd pgPwr R.thermLevel = evenLevel (s.rd pgPwr R.thermLevel) v ∧ t.on pgPwr R.thermHot = decide (760 < v) ∧
      t.rd pgPwr R.temp 0 = unsgn 12 v ∧ t.rd pgPwr R.sensFail = 0 := by
  obtain ⟨level', hot, temp, fails⟩ := levelWritten_shows (s := tempsWritten (evenRead s v) v) (evenLevel_lt level v) v
  have kept (f : Fld) (hf : f ∈ [R.thermLevel, R.thermHot, R.temp, R.sensFail]) :
      t.rd pgPwr f = (levelWritten (tempsWritten (evenRead s v) v) (evenLevel (s.rd pgPwr R.thermLevel) v) v).rd pgPwr f := by
    have places : ∀ f ∈ [R.thermLevel, R.thermHot, R.temp, R.sensFail], markPos (fldPos f 0) = false ∧ fldPos f 0 < 1048576 ∧
        fldPos f 0 ≠ fldPos R.tPeak 0 ∧ fldPos f 0 ≠ fldPos R.throttleMs 0 := by decide
    obtain ⟨mark, room, peak, time⟩ := places f hf
    rw [at_, tempUpdate_even low high sound]
    exact levelShown_rd mark room peak time
  have sound' : (tempsWritten (evenRead s v) v).rd pgPwr R.sensFail = 0 :=
    (tempsWritten_rd _ v (by decide)).trans ((rd_of_regs (evenRead_shows s v).1).trans sound)
  refine ⟨(kept _ (by decide)).trans level', ?_, (kept _ (by decide)).trans (temp.trans (tempsWritten_temp _ v)),
    (kept _ (by decide)).trans (fails.trans sound')⟩
  unfold State.on at hot ⊢
  rw [kept _ (by decide)]
  exact hot

/-! ### The statement -/

theorem tempUpdate_acts {s : State} {temps : List (Option Int)} (due : s.time % 100000 = 0 ∧ s.pw.upd ≠ s.time + 1 ∧ s.rst.ph < 3 ∧
    s.rd pgPwr R.rung ≤ 3) : exec (.tempUpdate temps) s = .next (tempUpdate s temps) := by
  obtain ⟨hour, fresh, ph, rung⟩ := due
  refine congrArg Host.Outcome.next (if_neg ?_)
  rintro (h | h | h | h)
  · exact h hour
  · exact fresh h
  · omega
  · omega

/-- Settles O59: each entry, wake and exit of a rung by its guard, SLEEP_GO by its refusal, and an update of eight equal sensors. -/
theorem powerLadder : Obligations.PowerLadder := by
  unfold Obligations.PowerLadder
  refine ⟨?_, ?_, ?_, ?_, ?_, ?_, ?_, ?_, ?_, ?_, ?_, ?_, ?_, ?_, ?_⟩
  · rintro s ⟨floor, rung, settled, ph, rest, idle⟩
    refine congrArg Host.Outcome.next (if_neg ?_)
    rintro (h | h | h | h | h | h)
    · exact floor h
    · exact h rung
    · exact Bool.false_ne_true (h.symm.trans settled)
    · omega
    · exact Bool.false_ne_true (h.symm.trans rest)
    · omega
  · rintro s ⟨floor, rung, settled, rest, idle⟩
    refine congrArg Host.Outcome.next (if_neg ?_)
    rintro (h | h | h | h | h)
    · exact h floor
    · exact h rung
    · exact Bool.false_ne_true (h.symm.trans settled)
    · exact Bool.false_ne_true (h.symm.trans rest)
    · omega
  · rintro s ⟨rung, settled⟩
    exact ⟨_, computeRequestWake_exits rung settled, (turnedBack_shows _).2.1, rfl, rfl, rfl⟩
  · rintro s rung
    refine congrArg Host.Outcome.next (if_neg ?_)
    rintro ⟨deep, -⟩
    omega
  · intro ini r hr
    refine ⟨?_, fun c hc => ?_, ?_, ?_⟩
    · exact writes_of (fun _ => rfl) fun u ⟨own, free⟩ => (sleepGo_effect hr own).trans (sleepAnswer_accepted free)
    · exact writes_of (fun _ => rfl) fun u ⟨own, cause⟩ => (sleepGo_effect hr own).trans (sleepAnswer_refused cause hc)
    · refine writeBrings_by (f := fun u => enterSleep (u.wr pgPwr R.sleepReq r) r) (fun _ => rfl)
        (fun u ⟨own, free, _⟩ => (sleepGo_effect hr own).trans (sleepAnswer_accepted free)) ?_
      rintro u ⟨-, free, empty⟩
      obtain ⟨least, most⟩ := sleepRefusal_rung free
      exact ⟨least, most, enterSleep_shows (s := u.wr pgPwr R.sleepReq r) empty⟩
    · exact pops_of (fun _ => rfl) fun _ _ => rfl
  · exact fun s settled => congrArg Host.Outcome.next (if_pos settled)
  · rintro s ⟨entering, stays, target⟩
    exact ⟨_, exec_rungEntryDone_doze entering stays target, dozeEntered_shows s⟩
  · rintro s ⟨entering, back⟩
    exact ⟨_, exec_rungEntryDone_back entering back, enteredBack_shows s⟩
  · intro src
    refine ⟨fun s acts => congrArg Host.Outcome.next (if_pos acts), fun s not => congrArg Host.Outcome.next (if_neg ?_)⟩
    rw [not]
    exact Bool.false_ne_true
  · exact fun s settled => congrArg Host.Outcome.next (if_pos settled)
  · rintro s ⟨exiting, rung⟩
    rw [exec_rungExitDone exiting rfl, if_pos rung]
  · rintro s ⟨exiting, rung⟩
    rw [exec_rungExitDone exiting rung, if_neg (by decide), if_neg (by decide), if_neg (by decide)]
  · rintro s ⟨exiting, rung⟩
    rw [exec_rungExitDone exiting rung, if_neg (by decide), if_neg (by decide), if_pos rfl]
  · rintro s ⟨exiting, rung, rails⟩
    rw [exec_rungExitDone exiting rung, if_neg (by decide), if_pos rfl, if_neg rails.not_gt]
  · rintro v low high s ⟨hour, fresh, ph, rung, sound, level⟩
    exact ⟨_, tempUpdate_acts ⟨hour, fresh, ph, rung⟩, tempUpdate_even_shows low high sound level rfl⟩

end Sys2Proof.Machine
end

section
/-! PROOFS. Resets and the boot (R530, R591, R594 to R609). -/
namespace Sys2Proof.Machine
set_option Elab.async false
open Sys2Proof

/-! ### The request of a warm reset -/

/-- The controllers' states are on their own pages. -/
theorem foldl_lpcState_rd {next : State → Nat → Nat} {cond : State → Nat → Prop} [∀ u i, Decidable (cond u i)] {p i : Nat} {f : Fld}
    (apart : ∀ n, p ≠ pgLpc n) (hf : fldPos f i < 1048576) (s : State) :
    (lpcs.foldl (fun u n => if cond u n then u.wr (pgLpc n) R.lpcState (next u n) else u) s).rd p f i = s.rd p f i := by
  refine foldl_leaves (fun u => u.rd p f i) (fun u n => ?_) lpcs s
  split
  · exact rd_wr_page (apart n) hf (by decide)
  · rfl

theorem foldl_lpcState_part {α : Type} {next : State → Nat → Nat} {cond : State → Nat → Prop} [∀ u i, Decidable (cond u i)] (g : State → α)
    (regs : ∀ (u : State) r, g { u with regs := r } = g u) (s : State) :
    g (lpcs.foldl (fun u n => if cond u n then u.wr (pgLpc n) R.lpcState (next u n) else u) s) = g s := by
  refine foldl_leaves g (fun u n => ?_) lpcs s
  split
  · exact regs _ _
  · rfl

/-- The registers at the request of a warm reset from RUN, HOLD, NAP or DOZE (R594). -/
def warmAsked (s : State) : State :=
  let deep := s.rd pgPwr R.rung
  let s := (s.wr pgRst R.starting 1).wr pgSaf R.devOk 0
  let s := ((s.wr pgPwr R.entering 0).wr pgPwr R.exiting 0).wr pgPwr R.rung 0
  (s.wr pgPwr R.preq 7).wr pgClk R.pllLock (if deep < 3 then s.rd pgClk R.pllLock else 0)

/-- READY controllers enter self-refresh at the request. -/
def warmHeld (s : State) : State :=
  lpcs.foldl (fun s i => if s.lpc i = lpReady then s.wr (pgLpc i) R.lpcState lpSelfRefresh else s) s

/-- The request stands. -/
def warmStands (s : State) (cause : Nat) (ready : List Bool) : State :=
  { s with txns := [], rst := { s.rst with ph := 1, reqAt := s.time, cause := cause, ready := ready } }

theorem requestWarm_shallow {s : State} {cause : Nat} (ph : s.rst.ph = 0) (rung : s.rd pgPwr R.rung < 4) :
    requestWarm s cause = warmStands (warmHeld (warmAsked s)) cause (lpcs.map fun i => s.lpc i == lpReady) := by
  have busy : ¬ s.rst.ph ≠ 0 := fun h => h ph
  unfold requestWarm
  rw [if_neg busy]
  simp only [if_neg rung.not_ge]
  rfl

theorem warmAsked_shows (s : State) : (warmAsked s).rd pgRst R.starting = 1 ∧ (warmAsked s).rd pgSaf R.devOk = 0 ∧
    (warmAsked s).rd pgPwr R.rung = 0 ∧ (warmAsked s).mem = s.mem ∧ (warmAsked s).time = s.time := by
  refine ⟨?_, ?_, ?_, rfl, rfl⟩
  · unfold warmAsked
    rw [rd_wr_page (by decide) (by decide) (by decide), rd_wr_page (by decide) (by decide) (by decide),
      rd_wr_page (by decide) (by decide) (by decide), rd_wr_page (by decide) (by decide) (by decide),
      rd_wr_page (by decide) (by decide) (by decide), rd_wr_page (by decide) (by decide) (by decide), State.rd_wr_same]
    rfl
  · unfold warmAsked
    rw [rd_wr_page (by decide) (by decide) (by decide), rd_wr_page (by decide) (by decide) (by decide),
      rd_wr_page (by decide) (by decide) (by decide), rd_wr_page (by decide) (by decide) (by decide),
      rd_wr_page (by decide) (by decide) (by decide), State.rd_wr_same]
    rfl
  · unfold warmAsked
    rw [rd_wr_page (by decide) (by decide) (by decide), rd_wr_pos (by decide), State.rd_wr_same]
    rfl

theorem warmHeld_shows (s : State) : (warmHeld s).rd pgRst R.starting = s.rd pgRst R.starting ∧
    (warmHeld s).rd pgSaf R.devOk = s.rd pgSaf R.devOk ∧ (warmHeld s).rd pgPwr R.rung = s.rd pgPwr R.rung ∧
    (warmHeld s).mem = s.mem ∧ (warmHeld s).time = s.time := by
  refine ⟨foldl_lpcState_rd ?_ (by decide) s, foldl_lpcState_rd ?_ (by decide) s, foldl_lpcState_rd ?_ (by decide) s,
    foldl_lpcState_part State.mem (fun _ _ => rfl) s, foldl_lpcState_part State.time (fun _ _ => rfl) s⟩
  · unfold pgRst pgLpc; omega
  · unfold pgSaf pgLpc; omega
  · unfold pgPwr pgLpc; omega

theorem warmStands_shows (s : State) (cause : Nat) (ready : List Bool) : (warmStands s cause ready).rst.ph = 1 ∧
    (warmStands s cause ready).rst.cause = cause ∧ (warmStands s cause ready).rst.reqAt = s.time ∧
    (warmStands s cause ready).regs = s.regs ∧ (warmStands s cause ready).mem = s.mem := ⟨rfl, rfl, rfl, rfl, rfl⟩

theorem requestWarm_shows {s : State} {cause : Nat} (ph : s.rst.ph = 0) (rung : s.rd pgPwr R.rung < 4) {t : State} (at_ : t = requestWarm s cause) :
    t.rst.ph = 1 ∧ t.rst.cause = cause ∧ t.rst.reqAt = s.time ∧ t.on pgRst R.starting = true ∧
      t.on pgSaf R.devOk = false ∧ t.rd pgPwr R.rung = 0 ∧ t.mem = s.mem := by
  obtain ⟨starting, dev, deep, mem, time⟩ := warmAsked_shows s
  obtain ⟨starting', dev', deep', mem', time'⟩ := warmHeld_shows (warmAsked s)
  obtain ⟨ph', cause', req, regs, mem''⟩ := warmStands_shows (warmHeld (warmAsked s)) cause (lpcs.map fun i => s.lpc i == lpReady)
  rw [at_, requestWarm_shallow ph rung]
  refine ⟨ph', cause', req.trans (time'.trans time), ?_, ?_, (rd_of_regs regs).trans (deep'.trans deep), mem''.trans (mem'.trans mem)⟩
  · unfold State.on
    rw [rd_of_regs regs, starting', starting]
    rfl
  · unfold State.on
    rw [rd_of_regs regs, dev', dev]
    rfl

/-! ### The warm reset itself -/

theorem sfind_mapped {α β : Type} (g : α → β) (l : List (Nat × α)) (k : Nat) : sfind (l.map fun x => (x.1, g x.2)) k = (sfind l k).map g := by
  induction l with
  | nil => rfl
  | cons x l ih =>
    obtain ⟨a, v⟩ := x
    rw [List.map_cons, sfind, sfind]
    split
    · rfl
    · exact ih

theorem onlyRegs_warmRegions (o s : State) : OnlyRegs s (warmRegions o s) :=
  OnlyRegs.foldl (fun u _ => (OnlyRegs.refl u).wr.wr.wr.wr.wr.wr) _ s

/-- The registers a warm reset sets anew, before the controllers'. -/
theorem onlyRegs_warmCounted (o s : State) (cause inh : Nat) :
    OnlyRegs s ((((warmRegions o s).wr pgRst R.rstCause cause).bump pgRst R.warmCnt).wr pgSvm R.bankInh inh) := by
  unfold State.bump
  exact (onlyRegs_warmRegions o s).wr.wr.wr

/-- The registers a warm reset sets anew leave the rest of its state. -/
theorem warmState_shows (s : State) : (warmState s).vt = (s.vt.map fun x => (x.1, warmEntry x.2)) ∧ (warmState s).rst.ph = 3 ∧
    (warmState s).fuses = s.fuses ∧ (warmState s).time = s.time := by
  unfold warmState
  extract_lets cause _ base counted inhibited
  have vt : base.vt = s.vt.map fun x => (x.1, warmEntry x.2) := rfl
  have ph : base.rst.ph = 3 := rfl
  have fuses : base.fuses = s.fuses := rfl
  have time : base.time = s.time := rfl
  clear_value cause base
  have cleared : OnlyRegs base inhibited := onlyRegs_warmCounted ..
  have only : OnlyRegs base (lpcs.foldl (fun t i =>
      if (s.rst.ready[i]?).getD false then
        (t.wr (pgLpc i) R.lpcState lpSelfRefresh).wr (pgLpc i) R.poisonUsed ((t.poisoned.filter fun x => lpcOf x.1 == i).length)
      else t.wr (pgLpc i) R.poisonUsed 0) inhibited) := by
    refine cleared.trans (OnlyRegs.foldl (fun u i => ?_) lpcs inhibited)
    split
    · exact (OnlyRegs.refl u).wr.wr
    · exact (OnlyRegs.refl u).wr
  exact ⟨(only.part State.vt).trans vt, (only.part fun u => u.rst.ph).trans ph, (only.part State.fuses).trans fuses,
    (only.part State.time).trans time⟩

/-- An open or FINAL entry at a warm reset becomes FALLBACK with DOUBT (R606). -/
theorem warmEntry_open {e : Entry} (opened : e.st = vAnnounced ∨ e.st = vPending ∨ e.st = vFinal) :
    (warmEntry e).st = vFallback ∧ (warmEntry e).lane = 0xFF ∧ (warmEntry e).dim = 0xF ∧ bitOf (warmEntry e).flags fDoubt = true ∧
      (warmEntry e).seq = (e.seq + 1) % 16 := by
  unfold warmEntry
  dsimp only
  rw [if_pos opened]
  refine ⟨rfl, rfl, rfl, ?_, rfl⟩
  simp [bitOf_setBit]

theorem warmEntry_closed {e : Entry} (closed : ¬ (e.st = vAnnounced ∨ e.st = vPending ∨ e.st = vFinal)) :
    (warmEntry e).st = e.st ∧ (warmEntry e).lane = e.lane ∧ (warmEntry e).dim = e.dim ∧ (warmEntry e).flags = e.flags ∧
      (warmEntry e).seq = e.seq := by
  unfold warmEntry
  dsimp only
  rw [if_neg closed]
  exact ⟨rfl, rfl, rfl, rfl, rfl⟩

/-- Every listed entry becomes what R606 says; one that is not listed is EMPTY and stays so. -/
theorem entry_warm {s t : State} (vt : t.vt = s.vt.map fun x => (x.1, warmEntry x.2)) (id : Nat) :
    t.entry id = warmEntry (s.entry id) := by
  have empty : warmEntry {} = {} := rfl
  unfold State.entry sget
  rw [vt, sfind_mapped]
  cases sfind s.vt id with
  | none => exact empty.symm
  | some e => rfl

/-! ### Its end -/

/-- READY controllers are READY again (R607). -/
def extReleased (s : State) : State :=
  lpcs.foldl (fun s i => if s.lpc i = lpSelfRefresh then s.wr (pgLpc i) R.lpcState lpReady else s) s

theorem lpc_wr_same (s : State) (l v : Nat) (hv : v < 8) : (s.wr (pgLpc l) R.lpcState v).lpc l = v := by
  unfold State.lpc
  rw [State.rd_wr_same]
  exact Nat.mod_eq_of_lt hv

theorem lpc_wr_ne {s : State} {l n v : Nat} (other : n ≠ l) : (s.wr (pgLpc n) R.lpcState v).lpc l = s.lpc l :=
  rd_wr_page (by unfold pgLpc; omega) (by decide) (by decide)

theorem extReleased_lpc {s : State} {l : Nat} (hl : l < 4) (held : s.lpc l = lpSelfRefresh) : (extReleased s).lpc l = lpReady := by
  have member : l ∈ lpcs := by
    have all : ∀ l < 4, l ∈ lpcs := by decide
    exact all l hl
  have ready : lpReady ≠ lpSelfRefresh := by decide
  refine foldl_establishes (fun u => u.lpc l = lpSelfRefresh ∨ u.lpc l = lpReady) (fun u => u.lpc l = lpReady) lpcs member ?_ ?_ ?_ (Or.inl held)
  · intro u n _ either
    split
    · by_cases same : n = l
      · exact Or.inr (same ▸ lpc_wr_same u n lpReady (by decide))
      · rw [lpc_wr_ne same]
        exact either
    · exact either
  · rintro u (held | done)
    · rw [if_pos held]
      exact lpc_wr_same u l lpReady (by decide)
    · rw [if_neg (by rw [done]; exact ready)]
      exact done
  · intro u n _ done
    split
    · by_cases same : n = l
      · exact same ▸ lpc_wr_same u n lpReady (by decide)
      · rw [lpc_wr_ne same]
        exact done
    · exact done

/-- No reset is under way. -/
def resetOver (s : State) : State := { s with rst := {} }

theorem resetOver_shows (s : State) : (resetOver s).rst = {} ∧ (∀ l, (resetOver s).lpc l = s.lpc l) ∧ (resetOver s).mem = s.mem :=
  ⟨rfl, fun _ => rfl, rfl⟩

theorem extReleased_mem (s : State) : (extReleased s).mem = s.mem := foldl_lpcState_part State.mem (fun _ _ => rfl) s

theorem exec_resetRelease {s : State} (ph : s.rst.ph = 3) : exec .resetRelease s = .next (resetOver (extReleased s)) :=
  congrArg Host.Outcome.next (if_neg fun h => h ph)

/-! ### The boot ROM -/

theorem romRead_flash {s : State} (mode : s.rd pgRst R.bootMode ≠ 2) (flash : Cells) (off n : Nat) :
    romRead s flash off n = (some ((List.range n).map fun i => flashByte flash (off + i)), s) := if_neg mode

/-- An empty flash reads erased. -/
theorem romRead_erased {s : State} (mode : s.rd pgRst R.bootMode ≠ 2) (off n : Nat) :
    romRead s [] off n = (some (List.replicate n 0xFF), s) := by
  rw [romRead_flash mode]
  have erased : ((List.range n).map fun i => flashByte [] (off + i)) = (List.range n).map fun _ => (0xFF : Byte) := rfl
  rw [erased, List.map_const', List.length_range]

/-- Erased bytes are no directory: the magic fails. -/
theorem dirForm_erased : dirForm (List.replicate 256 0xFF) = false := by
  have magic : wordAt (List.replicate 256 0xFF) 0 ≠ 0xDA0DD100 := by decide
  unfold dirForm
  rw [beq_false_of_ne magic]
  rfl

theorem romDirectory_erased {s : State} (mode : s.rd pgRst R.bootMode ≠ 2) : romDirectory s [] = (.error bsNoDir, s) := by
  unfold romDirectory
  simp only [romRead_erased mode, Option.getD_some, dirForm_erased, Bool.false_and, Bool.false_eq_true, if_false, Bool.or_self]

theorem romRun_erased {s : State} (mode : s.rd pgRst R.bootMode ≠ 2) : romRun s [] = bootFailed (s.wr pgRst R.bootStep 3) bsNoDir := by
  have still : (s.wr pgRst R.bootStep 3).rd pgRst R.bootMode ≠ 2 := by
    rw [rd_wr_pos (by decide)]
    exact mode
  unfold romRun
  simp only [romDirectory_erased still]

theorem bootFailed_shows (s : State) : (bootFailed s bsNoDir).on pgRst R.bootFail = true ∧ (bootFailed s bsNoDir).rd pgRst R.bootStatus = bsNoDir := by
  have regs : (bootFailed s bsNoDir).regs = ((s.wr pgRst R.bootStatus bsNoDir).wr pgRst R.bootFail 1).regs := rfl
  refine ⟨?_, (rd_of_regs regs).trans ((rd_wr_pos (by decide)).trans (State.rd_wr_same ..))⟩
  unfold State.on
  rw [rd_of_regs regs, State.rd_wr_same]
  rfl

/-- The self-initialisation leaves the straps. -/
theorem romInit_mode (s : State) : (romInit s).rd pgRst R.bootMode = s.rd pgRst R.bootMode := by
  unfold romInit
  extract_lets a b
  have cleared : b.rd pgRst R.bootMode = a.rd pgRst R.bootMode := by
    unfold b
    split
    · exact (flags_raise a pgFus 9).rd (by decide) (by decide)
    · rfl
  rw [rd_wr_pos (by decide), rd_wr_pos (by decide), cleared]
  unfold a
  rw [rd_wr_page (by decide) (by decide) (by decide), rd_wr_page (by decide) (by decide) (by decide),
    rd_wr_page (by decide) (by decide) (by decide)]

section
variable {s : State} (ready : romReady s = true)
include ready

/-- The ROM goes on by the boot mode (R598, R599, R604). -/
theorem exec_bootRom {mode : Nat} (strap : s.rd pgRst R.bootMode = mode) (fresh : ¬ (mode = 2 ∧ s.rd pgRst R.bootStep = 3))
    (flash : Cells) (found quad : Bool) : exec (.bootRom flash found quad) s = .next (
      if mode = 3 then bootFailed (romInit s) bsNoDir
      else if mode = 2 then romRecover (romInit s)
      else if found = false then bootFailed (romInit s) bsNoFlash
      else romRun ((romInit s).wr pgRst R.bootQuad (b2n (quad && mode == 0))) flash) := by
  subst strap
  show execBootRom flash found quad s = _
  simp only [execBootRom, ready, Bool.true_eq_false, if_false, if_neg fresh]

/-- From the flash in mode 0. -/
theorem exec_bootRom_flash (strap : s.rd pgRst R.bootMode = 0) (flash : Cells) (quad : Bool) :
    exec (.bootRom flash true quad) s = .next (romRun ((romInit s).wr pgRst R.bootQuad (b2n quad)) flash) := by
  rw [exec_bootRom ready strap (by omega), if_neg (by decide), if_neg (by decide), if_neg (by decide), beq_self_eq_true, Bool.and_true]

end

/-! ### The statement -/

theorem startingEnd_acts {s : State} (due : s.on pgRst R.starting = true ∧ s.on pgRst R.romDone = true ∧ s.isl.kicked = true ∧ s.rst.ph = 0 ∧
      (s.isl.rotSince = true ∨ s.on pgChk R.rotEn = false) ∧ ∀ l, l < 4 → s.lpc l ≠ lpTraining ∧ s.lpc l ≠ lpFilling) :
    exec .startingEnd s = .next (clearSleep (mayBeOk ((s.wr pgRst R.starting 0).wr pgRst R.startedTime s.time))) := by
  obtain ⟨starting, rom, kicked, ph, rot, ext⟩ := due
  refine congrArg Host.Outcome.next (if_neg ?_)
  rintro (h | h | h | h | ⟨h, rotEn⟩ | h)
  · exact Bool.false_ne_true (h.symm.trans starting)
  · exact Bool.false_ne_true (h.symm.trans rom)
  · exact Bool.false_ne_true (h.symm.trans kicked)
  · exact h ph
  · rcases rot with rot | rot
    · exact Bool.false_ne_true (h.symm.trans rot)
    · exact Bool.false_ne_true (rot.symm.trans rotEn)
  · obtain ⟨l, hl, busy⟩ := List.any_eq_true.mp h
    have small : ∀ l ∈ lpcs, l < 4 := by decide
    obtain ⟨training, filling⟩ := ext l (small l hl)
    rw [beq_false_of_ne training, beq_false_of_ne filling] at busy
    exact Bool.false_ne_true busy

/-- Settles O60: each reset and boot step by its guard, the entries through `warmEntry`, and an erased flash through its magic. -/
theorem resetsAndBoot : Obligations.ResetsAndBoot := by
  unfold Obligations.ResetsAndBoot
  refine ⟨?_, ?_, ?_, ?_, ?_, ?_, ?_, ?_, ?_, ?_, ?_, ?_⟩
  · exact fun s _ => rfl
  · exact fun mode s ph => congrArg Host.Outcome.next (if_neg fun h => h ph)
  · intro ini key
    refine ⟨?_, ?_, ?_, ?_, ?_⟩
    · exact writes_of (fun _ => rfl) fun u right => if_pos right
    · exact writes_of (fun _ => rfl) fun u wrong => if_neg wrong
    · exact writes_of (fun _ => rfl) fun u right => if_pos right
    · exact writes_of (fun _ => rfl) fun u wrong => if_neg wrong
    · exact writes_of (fun _ => rfl) fun u waits => if_pos waits
  · rintro s ⟨ph, rung⟩
    exact ⟨_, rfl, requestWarm_shows ph rung rfl⟩
  · exact fun s busy => congrArg Host.Outcome.next (if_pos busy)
  · rintro s ⟨ph, late⟩
    refine congrArg Host.Outcome.next (if_neg ?_)
    rintro (h | h)
    · exact h ph
    · omega
  · rintro s ⟨ph, late⟩
    have step : exec .warmResetEntry s = .next (warmState s) := by
      refine congrArg Host.Outcome.next (if_neg ?_)
      rintro (h | h)
      · exact h ph
      · omega
    obtain ⟨vt, ph', fuses, time⟩ := warmState_shows s
    refine ⟨_, step, ph', fuses, time, fun id => ?_⟩
    rw [entry_warm vt id]
    split
    next opened => exact warmEntry_open opened
    next closed => exact warmEntry_closed closed
  · intro s ph
    obtain ⟨cleared, lpc, mem⟩ := resetOver_shows (extReleased s)
    exact ⟨_, exec_resetRelease ph, cleared, fun l hl held => (lpc l).trans (extReleased_lpc hl held), mem.trans (extReleased_mem s)⟩
  · rintro s ⟨ph, booted, done, fail⟩
    refine congrArg Host.Outcome.next (if_neg ?_)
    rw [booted, done, fail]
    rintro (h | h | h | h)
    · exact h ph
    · exact Bool.false_ne_true h.symm
    · exact Bool.false_ne_true h
    · exact Bool.false_ne_true h
  · exact fun s due => startingEnd_acts due
  · exact fun on s _ => rfl
  · intro flash found quad
    refine ⟨?_, ?_, ?_, ?_, ?_, ?_⟩
    · exact fun s busy => congrArg Host.Outcome.next (if_pos busy)
    · rintro s ⟨ready, strap⟩
      exact exec_bootRom_flash ready strap flash quad
    · rintro s ⟨ready, strap⟩
      rw [exec_bootRom ready strap (by omega), if_neg (by decide), if_neg (by decide), if_pos rfl]
    · rintro s ⟨ready, strap⟩
      rw [exec_bootRom ready strap (by omega), if_pos rfl]
    · rintro s ⟨ready, strap, fresh⟩
      rw [exec_bootRom ready strap fun h => fresh h.2, if_neg (by decide), if_pos rfl]
    · rintro s ⟨ready, strap⟩
      have mode : ((romInit s).wr pgRst R.bootQuad (b2n quad)).rd pgRst R.bootMode ≠ 2 := by
        rw [rd_wr_pos (by decide), romInit_mode, strap]
        decide
      refine ⟨_, exec_bootRom_flash ready strap [] quad, ?_⟩
      beta_reduce
      rw [romRun_erased mode]
      exact bootFailed_shows _

end Sys2Proof.Machine
end

section
/-! PROOFS. The Fawn pipeline (R17, R498 to R502); before it, what the island's reads and writes of memory leave alone. -/
namespace Sys2Proof.Machine
set_option Elab.async false
open Sys2Proof

/-! ### Fabric accesses of the island -/

/-- The verdict entries, the parcels, memory, the time and the results' indices are as before. -/
structure Aloof (s t : State) : Prop where
  vt : t.vt = s.vt
  parcels : t.parcels = s.parcels
  mem : t.mem = s.mem
  time : t.time = s.time
  idx : ∀ l < 4, t.rd pgSaf R.fResIdx l = s.rd pgSaf R.fResIdx l

theorem fResIdx_place : ∀ l < 4, markPos (fldPos R.fResIdx l) = false ∧ fldPos R.fResIdx l < 1048576 := by decide

namespace Aloof

theorem refl (s : State) : Aloof s s := ⟨rfl, rfl, rfl, rfl, fun _ _ => rfl⟩

theorem trans {s t u : State} (h : Aloof s t) (k : Aloof t u) : Aloof s u :=
  ⟨k.vt.trans h.vt, k.parcels.trans h.parcels, k.mem.trans h.mem, k.time.trans h.time, fun l hl => (k.idx l hl).trans (h.idx l hl)⟩

theorem ite {q : Prop} [Decidable q] {s t u : State} (h : Aloof s t) (k : Aloof s u) : Aloof s (if q then t else u) := by
  split
  · exact h
  · exact k

/-- An update of other parts of the state. -/
theorem same {s t : State} (hr : t.regs = s.regs := by rfl) (hv : t.vt = s.vt := by rfl) (hp : t.parcels = s.parcels := by rfl)
    (hm : t.mem = s.mem := by rfl) (ht : t.time = s.time := by rfl) : Aloof s t := ⟨hv, hp, hm, ht, fun _ _ => rd_of_regs hr⟩

/-- A write of another page. -/
theorem wr (s : State) {q j : Nat} {g : Fld} (v : Nat) (hq : pgSaf ≠ q := by decide) (hg : fldPos g j < 1048576 := by decide) :
    Aloof s (s.wr q g v j) := ⟨rfl, rfl, rfl, rfl, fun l hl => rd_wr_page hq (fResIdx_place l hl).2 hg⟩

/-- Marks of a page: flags, counters and injections. -/
theorem flags {s t : State} (h : Flags s t) : Aloof s t :=
  ⟨h.part State.vt, h.part State.parcels, h.part State.mem, h.part State.time, fun l hl => h.rd (fResIdx_place l hl).1 (fResIdx_place l hl).2⟩

theorem logI (s : State) (inc : Nat) (r : LogRec) : Aloof s (s.logI inc r).2 := by
  unfold State.logI
  split
  · have number : Aloof s s.newInc.2 := .wr s _
    exact number.trans .same
  · exact .same

end Aloof

section
variable {s : State} {t : Tag} {op a n inc : Nat}

theorem aloof_denialI (s : State) (t : Tag) (op kind fw a inc : Nat) : Aloof s (denialI s t op kind fw a inc).2 := by
  have counted : Aloof s ((s.bump pgFab R.fwEvtCnt).raise pgFab 8) := (Aloof.wr s _).trans (.flags (flags_raise ..))
  unfold denialI
  extract_lets u v w key
  have last : Aloof s w := by
    have fields : Aloof u v := ((((((Aloof.wr u _).trans (.wr _ _)).trans (.wr _ _)).trans (.wr _ _)).trans (.wr _ _)).trans (.wr _ _)).trans (.wr _ _)
    exact (counted.trans fields).trans (.wr _ _)
  split
  · split
    · exact last.trans .same
    · dsimp only
      have counted (k : Nat) : Aloof w (w.bump pgFab R.logSuppressed k) := .wr w _
      exact last.trans (((counted _).trans (.logI ..)).trans .same)
  · dsimp only
    exact last.trans ((Aloof.logI ..).trans .same)

theorem aloof_refuse (s : State) (t : Tag) (op a : Nat) (v : Verdict) (inc : Nat) : Aloof s (refuse s t op a v inc).2 := by
  have lpc : pgSaf ≠ pgLpc (lpcOf a) := by unfold pgSaf pgLpc; omega
  cases v with
  | pass => exact .refl s
  | noBme => exact .refl s
  | reserved => exact aloof_denialI ..
  | deny f => exact aloof_denialI ..
  | notReady => exact ((Aloof.wr s _ lpc).trans (.flags (flags_raise ..))).trans (aloof_denialI ..)

/-- The firewall without a clash of its copies (R357, R358). -/
theorem aloof_passes (s : State) (t : Tag) (op a n inc : Nat) : Aloof s (passes s t op a n false inc).2.2 := by
  have injected (u : State) : Aloof u (disagree u t op a inc true).2 :=
    (aloof_denialI ..).trans ((Aloof.flags (flags_raiseI ..)).trans .same)
  unfold passes State.hit
  split
  · exact aloof_refuse ..
  · cases injectNow s pgFab 12 with
    | true => exact (Aloof.flags (flags_injectTake ..)).trans (injected _)
    | false =>
      simp only [Bool.false_eq_true, if_false]
      split
      · exact .refl s
      · exact aloof_refuse ..

theorem eccDoubt_island (s : State) (inc : Nat) : eccDoubt s tagIsland inc = s := by
  unfold eccDoubt
  rw [if_pos (by decide)]

/-- An uncorrectable word that the island meets is counted and logged (R390). -/
theorem aloof_svmUncorr (s : State) (a : Nat) (vt : Bool) (inc : Nat) : Aloof s (svmUncorr s tagIsland a vt inc).2 := by
  have place : ∀ b : Bool, fldPos (if b then R.vtUncorrCnt else R.svmUncorrCnt) 0 < 1048576 := by decide
  unfold svmUncorr
  extract_lets u v
  have counted : Aloof s (s.bump pgSvm (if vt then R.vtUncorrCnt else R.svmUncorrCnt)) := .wr s _ (by decide) (place vt)
  have raised : Aloof s u := counted.trans (.flags (flags_raise ..))
  have first : Aloof s v := raised.trans (.ite (.flags (flags_raise ..)) (.refl u))
  dsimp only
  rw [eccDoubt_island]
  refine first.trans (Aloof.trans ?_ (.logI ..))
  exact ((((Aloof.same (s := v) (t := (v.free 8).2)).trans (.wr _ _)).trans (.wr _ _)).trans (.wr _ _)).trans (.wr _ _)

/-- A poisoned line that the island reads is counted and logged (R391). -/
theorem aloof_extListed (s : State) (a : Nat) (q : Poison) (inc : Nat) : Aloof s (extListed s tagIsland a q inc).2 := by
  have lpc : pgSaf ≠ pgLpc (lpcOf a) := by unfold pgSaf pgLpc; omega
  have counted : Aloof s (((s.bump (pgLpc (lpcOf a)) R.lpcUncorrCnt).raise (pgLpc (lpcOf a)) eEccUncorr).wr (pgLpc (lpcOf a)) R.lpcLastErr a) :=
    ((Aloof.wr s _ lpc).trans (.flags (flags_raise ..))).trans (.wr _ _ lpc)
  unfold extListed
  extract_lets p line u recent
  split
  · rw [eccDoubt_island]
    exact counted.trans .same
  · dsimp only
    rw [eccDoubt_island]
    exact counted.trans ((Aloof.logI ..).trans .same)

theorem aloof_serveRead (s : State) (a n inc : Nat) : Aloof s (serveRead s tagIsland a n .ok [] inc).2 := by
  unfold serveRead
  split
  case h_1 =>
    split
    · dsimp only
      exact (aloof_svmUncorr ..).trans (.ite (.refl _) .same)
    · exact .refl s
  case h_2 =>
    split
    next bad =>
      have poisoned : (vtIds a n).any (fun id => (s.entry id).poisoned) = true := bad.resolve_left (by decide)
      have met := aloof_svmUncorr s a true inc
      have still : (vtIds a n).any (fun id => ((svmUncorr s tagIsland a true inc).2.entry id).poisoned) = true := by
        simp only [entry_of_vt met.vt]
        exact poisoned
      simp only [still, if_true]
      exact met
    · exact .refl s
  case h_3 =>
    split
    · exact aloof_extListed ..
    · exact .refl s
  case h_4 => exact .refl s
  case h_5 => exact .refl s

theorem respAt_noSpot (a : Nat) : respAt noSpot a = .ok := ite_self _

theorem aloof_tryRead (s : State) (a n : Nat) : Aloof s (tryRead s tagIsland a n .ok []).2 := by
  unfold tryRead
  split
  · exact .refl s
  · rw [if_neg (by decide)]
    have passed := aloof_passes s tagIsland opRead a n (txnInc s tagIsland.init a 0)
    unfold fabRead
    split
    next through => rw [show decide (Resp.ok = Resp.clash) = false from rfl] at through; rw [through] at passed; exact passed.trans (aloof_serveRead ..)
    next refused => rw [show decide (Resp.ok = Resp.clash) = false from rfl] at refused; rw [refused] at passed; exact passed

/-- What the island reads of memory (R484). -/
theorem aloof_readOnce (s : State) (a n : Nat) : Aloof s (readOnce s tagIsland pgSaf a n).2.2 := by
  unfold readOnce
  refine List.foldlRecOn (motive := fun x : List Byte × Bool × State => Aloof s x.2.2) _ _ (.refl s) ?_
  rintro ⟨acc, bad, u⟩ kept ⟨y, m⟩ -
  have read := kept.trans (aloof_tryRead u y m)
  have counted (v : State) (ok : Bool) : Aloof v (perfRd v pgSaf ok) :=
    (Aloof.flags (flags_perf ..)).trans (.ite (.flags (flags_perf ..)) (.refl _))
  dsimp only
  rw [respAt_noSpot]
  split
  case h_1 bs v got =>
    rw [got] at read
    exact read.trans (counted v true)
  case h_2 v _ got =>
    rw [got] at read
    exact read.trans ((Aloof.same (s := v) (t := (v.freeBytes m).2)).trans (counted _ false))

end

/-- The verdict entries, the parcels and the results' indices are as before. -/
structure Beside (s t : State) : Prop where
  vt : t.vt = s.vt
  parcels : t.parcels = s.parcels
  idx : ∀ l < 4, t.rd pgSaf R.fResIdx l = s.rd pgSaf R.fResIdx l

theorem Beside.trans {s t u : State} (h : Beside s t) (k : Beside t u) : Beside s u :=
  ⟨k.vt.trans h.vt, k.parcels.trans h.parcels, fun l hl => (k.idx l hl).trans (h.idx l hl)⟩

theorem Aloof.beside {s t : State} (h : Aloof s t) : Beside s t := ⟨h.vt, h.parcels, h.idx⟩

theorem beside_svmStore (s : State) (a : Nat) (bs : List Byte) : Beside s (svmStore s a bs) := ⟨rfl, rfl, fun _ _ => rfl⟩

theorem svmReadPart_ok (s : State) (t : Tag) (a n : Nat) : svmReadPart s t a n .ok = s := by
  unfold svmReadPart
  split
  · rfl
  · rfl

theorem beside_serveWrite {s : State} {a : Nat} (svm : targetOf a = .svm) (bs : List Byte) (inc : Nat) :
    Beside s (serveWrite s tagIsland a bs .ok inc).2 := by
  simp only [serveWrite, svm, svmReadPart_ok]
  split
  · exact (beside_svmStore s a bs).trans (aloof_svmUncorr ..).beside
  · exact beside_svmStore s a bs

/-- One write of the island in Shared Vision Memory (R357, R502). -/
theorem beside_tryWrite {s : State} {a : Nat} (svm : targetOf a = .svm) (bs : List Byte) : Beside s (tryWrite s tagIsland a bs .ok).2 := by
  have island : tagIsland.init ≠ 0xE8 := by decide
  unfold tryWrite
  split
  · exact (Aloof.refl s).beside
  · have passed := (aloof_passes s tagIsland opWrite a bs.length (txnInc s tagIsland.init a 0)).beside
    simp only [fabWrite, if_neg island, respEcc, reduceCtorEq, decide_false, false_and, if_false]
    generalize passes s tagIsland opWrite a bs.length false (txnInc s tagIsland.init a 0) = x at passed
    obtain ⟨ok, i, u⟩ := x
    cases ok with
    | true =>
      have served := passed.trans (beside_serveWrite (s := u) svm bs (txnInc s tagIsland.init a 0))
      dsimp only
      split
      case h_1 got => rw [got] at served; exact served
      case h_2 got => rw [got] at served; exact served
    | false => exact passed

/-- A line of Shared Vision Memory that the island writes. -/
theorem beside_writeOnce {s : State} {a : Nat} {bs : List Byte} (svm : targetOf a = .svm) (line : linePieces a bs.length = [(a, bs.length)]) :
    Beside s (writeOnce s tagIsland pgSaf a bs).2 := by
  have counted (u : State) : Beside u (perfWr u pgSaf) := ((Aloof.flags (flags_perf ..)).trans (.flags (flags_perf ..))).beside
  have stored := beside_tryWrite (s := s) svm ((bs.drop (a - a)).take bs.length)
  unfold writeOnce
  rw [line, List.foldl_cons, List.foldl_nil]
  dsimp only
  rw [respAt_noSpot]
  split
  next got => rw [got] at stored; exact stored.trans (counted _)
  next got => rw [got] at stored; exact stored.trans (counted _)

/-! ### Evaluation -/

/-- ENC_SCALE is read, and nothing else is touched (R147). -/
theorem aloof_fawnScale (s : State) (l : Nat) : Aloof s (fawnScale s l).2 := by
  unfold fawnScale
  split
  · exact .refl s
  · exact aloof_readOnce ..

section
variable {s : State} {line : Nat} {q : Parcel} {bad : Bool} (hl : line < 4) (runs : islandRuns s = true) (sound : s.on pgSaf R.fault = false)
include hl runs sound

theorem exec_fawnEvaluation (due : parcelOf s line (fun q => q.cls.isNone && q.trail.isSome &&
      decide (q.tpos + (s.rd pgSaf R.fExit line : Nat) ≤ linePos s line)) = some q) :
    exec (.fawnEvaluation line bad) s = .next (
      if s.on pgSaf R.fawnEn line = false then sweepParcels (modParcel s q fun q => { q with done := true })
      else fawnEvaluate s line q (q.trail.getD q.c) bad) := by
  have awake : ¬ (4 ≤ line ∨ islandRuns s = false ∨ s.on pgSaf R.fault = true) := by
    rw [runs, sound]
    simp only [Bool.true_eq_false, Bool.false_eq_true, or_false]
    omega
  show execFawnEvaluation line bad s = _
  simp only [execFawnEvaluation, if_neg awake, due]

end

/-- A parcel without a grid fails its evaluation (R501). -/
theorem fawnEvaluate_gridless {s : State} {l t : Nat} {q : Parcel} (none : q.grid = none) :
    fawnEvaluate s l q t false = (modParcel (fawnScale s l).2 q fun q =>
      { q with cls := some 15, hf := 0, lf := 0, wf := 0, covFail := true, evalTime := (fawnScale s l).2.time }).raise pgSaf 9 := by
  unfold fawnEvaluate
  rw [none]
  simp

/-- A parcel's grid is read and every pair saw it: its class (R500). -/
theorem fawnEvaluate_class {s s1 s2 : State} {l t scale g : Nat} {q : Parcel} {v : Span}
    (scaled : fawnScale s l = (some scale, s1)) (grid : q.grid = some g) (begun : q.begun = true)
    (span : gridSpan s1 l (cdiv ((diff32 t q.c).toNat * scale) 4096) g = (some v, false, s2))
    (fits : ((cdiv ((diff32 t q.c).toNat * scale) 4096 : Nat) : Int) + 2 * (s1.rd pgSaf R.fGuard l : Nat) ≤ 2560)
    (seen : ∀ p, p < 8 → bitOf (s2.rd pgSaf R.fawnPairs l) p = true → pairGap s2 l p q (diff32 t q.c) = false ∧ stillSeen s2 l p q = false)
    {hf lf wf : Nat} (h : hf = v.hmax.toNat + (v.hmax.toNat * s2.rd pgSaf R.fMhRel l + 255) / 256 + 16 * s2.rd pgSaf R.fMhAbs l)
    (hlf : lf = 10 * (v.x1 - v.x0 + 1) + 2 * s2.rd pgSaf R.fMb l) (hwf : wf = 10 * (v.y1 - v.y0 + 1) + 2 * s2.rd pgSaf R.fMb l) :
    fawnEvaluate s l q t false = modParcel s2 q fun q =>
        { q with cls := some (fawnClass s2 lf wf (cdiv hf 16)), hf := cdiv hf 16, lf := lf, wf := wf, covFail := false,
                 evalTime := s2.time } := by
  subst h hlf hwf
  have covered : (((List.range 8).filter fun p => bitOf (s2.rd pgSaf R.fawnPairs l) p).any
      fun p => pairGap s2 l p q (diff32 t q.c) || stillSeen s2 l p q) = false := by
    refine List.any_eq_false.mpr fun p hp => ?_
    obtain ⟨low, paired⟩ := List.mem_filter.mp hp
    obtain ⟨gap, gone⟩ := seen p (List.mem_range.mp low) paired
    rw [gap, gone]
    exact Bool.false_ne_true
  have short : ¬ ((cdiv ((diff32 t q.c).toNat * scale) 4096 : Nat) : Int) > 2560 - 2 * (s1.rd pgSaf R.fGuard l : Nat) := by omega
  unfold fawnEvaluate
  simp only [scaled, Option.getD_some, grid, begun, if_true, span, Option.isNone_some, Option.isSome_some, decide_eq_false short, covered,
    Bool.or_self, Bool.false_eq_true, if_false, false_and]

/-! ### Staging of a class -/

/-- The parcel leaves the list when its record is written (R502). -/
def parcelStaged (s : State) (q : Parcel) : State := sweepParcels (modParcel s q fun q => { q with done := true, grid := none })

theorem parcelStaged_shows (s : State) (q : Parcel) : (parcelStaged s q).vt = s.vt ∧ (parcelStaged s q).regs = s.regs := ⟨rfl, rfl⟩

theorem parcelStaged_parcels {s t : State} (same : t.parcels = s.parcels) (q : Parcel) :
    (parcelStaged t q).parcels = (parcelStaged s q).parcels := by
  unfold parcelStaged sweepParcels modParcel
  dsimp only
  rw [same]

/-- The results record is written, counted, and the parcel is done (R502). -/
def recordStaged (s : State) (line : Nat) (q : Parcel) (id flags : Nat) : State :=
  parcelStaged ((writeOnce s tagIsland pgSaf (s.rd pgSaf R.fResBase line + 64 * (s.rd pgSaf R.fResIdx line % 256))
    (fawnRecord s q id flags)).2.bump pgSaf R.fResIdx (i := line)) q

theorem fawnRecord_length (s : State) (q : Parcel) (id flags : Nat) : (fawnRecord s q id flags).length = 64 := by
  simp only [fawnRecord, List.length_append, leBytes_length]

/-- The record at a slot of the results ring in Shared Vision Memory. -/
theorem recordStaged_shows {s : State} {line : Nat} (hl : line < 4) {q : Parcel} {id flags : Nat}
    (aligned : s.rd pgSaf R.fResBase line % 64 = 0)
    (svm : targetOf (s.rd pgSaf R.fResBase line + 64 * (s.rd pgSaf R.fResIdx line % 256)) = .svm) :
    (recordStaged s line q id flags).vt = s.vt ∧
      (recordStaged s line q id flags).rd pgSaf R.fResIdx line = (s.rd pgSaf R.fResIdx line + 1) % 2 ^ R.fResIdx.w ∧
      (recordStaged s line q id flags).parcels = (parcelStaged s q).parcels := by
  have whole (a : Nat) (ha : a % 64 = 0) : linePieces a (fawnRecord s q id flags).length = [(a, (fawnRecord s q id flags).length)] := by
    rw [fawnRecord_length]
    exact linePieces_line (by omega) (by omega)
  have written := beside_writeOnce (s := s) svm (whole _ (by omega))
  unfold recordStaged
  generalize (writeOnce s tagIsland pgSaf (s.rd pgSaf R.fResBase line + 64 * (s.rd pgSaf R.fResIdx line % 256)) (fawnRecord s q id flags)).2 = u
    at written
  obtain ⟨vt, regs⟩ := parcelStaged_shows (u.bump pgSaf R.fResIdx (i := line)) q
  refine ⟨vt.trans written.vt, (rd_of_regs regs).trans ((State.rd_wr_same ..).trans ?_), ?_⟩
  · rw [written.idx line hl]
  · exact parcelStaged_parcels (s := s) written.parcels q

/-- The island's PENDING word of a class (R17, R443). -/
theorem pendingWord_reads {c : Nat} (hc : c < 16) : bitsOf (stageWord vPending 0xFF c 0) 11 9 = vPending ∧
    bitsOf (stageWord vPending 0xFF c 0) 15 12 = c := by
  simp only [bitsOf, stageWord, vPending]
  omega

/-- The entry with the island's PENDING word merged in. -/
def pendingEntry (e : Entry) (c : Nat) : Entry :=
  { e with
    st := vPending
    lane := 0xFF
    dim := c
    fawn := some c
    flags := setBit (mergeFlags e.flags (bitsOf (stageWord vPending 0xFF c 0) 8 0)) fFawn }

theorem islandStage_pending {s : State} {id c : Nat} (hid : id < 65536) (hc : c < 16) (sound : s.on pgSaf R.fault = false)
    (good : (s.entry id).poisoned = false) (quiet : injectNow s pgFab 12 = false) (waits : (s.entry id).st = vAnnounced)
    (granted : judge s tagIsland opWrite (vtBase + 4 * id) 4 = .pass) :
    islandStage s id (stageWord vPending 0xFF c 0) = s.chgEntry id (pendingEntry (s.entry id) c) := by
  obtain ⟨asks, dim⟩ := pendingWord_reads hc
  have mapped : targetOf (vtBase + 4 * id) ≠ .none := by rw [targetOf_vt hid]; decide
  have free : ¬ (s.on pgSaf R.fault = true ∨ (s.entry id).poisoned = true) := by simp [sound, good]
  unfold islandStage
  rw [if_neg free, passes_granted mapped quiet granted]
  refine (stage_pending rfl rfl waits asks).trans ?_
  rw [dim]
  rfl

section
variable {s : State} {line : Nat} {q : Parcel} (hl : line < 4) (runs : islandRuns s = true) (sound : s.on pgSaf R.fault = false)
  (due : parcelOf s line (fun q => q.cls.isSome) = some q) (idle : s.fawnRun = none)
include hl runs sound due idle

/-- FAWN_STAGING of a parcel whose entry is still its own. -/
theorem exec_fawnStaging_entry {id : Nat} (entry : parcelEntry s q = some id) : ∃ flags own, exec (.fawnStaging line) s = .next
    (recordStaged (islandStage s id (stageWord vPending 0xFF (q.cls.getD 15) 0)) line q own flags) := by
  have awake : ¬ (4 ≤ line ∨ islandRuns s = false ∨ s.on pgSaf R.fault = true) := by
    rw [runs, sound]
    simp only [Bool.true_eq_false, Bool.false_eq_true, or_false]
    omega
  generalize staged : islandStage s id (stageWord vPending 0xFF (q.cls.getD 15) 0) = u
  refine ⟨b2n q.covFail + 2 * b2n ((s.entry id).st == vAnnounced && (u.entry id).st == vPending) + 4 * b2n (parcelEntry u q).isNone,
    (parcelEntry u q).getD 0, ?_⟩
  show execFawnStaging line s = _
  simp only [execFawnStaging, if_neg awake, due, idle, Option.any_none, Bool.false_eq_true, if_false, entry, staged]
  rfl

/-- FAWN_STAGING of a parcel without an entry (R502): the record says so. -/
theorem exec_fawnStaging_none (entry : parcelEntry s q = none) :
    exec (.fawnStaging line) s = .next (recordStaged s line q 0 (b2n q.covFail + 4)) := by
  have awake : ¬ (4 ≤ line ∨ islandRuns s = false ∨ s.on pgSaf R.fault = true) := by
    rw [runs, sound]
    simp only [Bool.true_eq_false, Bool.false_eq_true, or_false]
    omega
  show execFawnStaging line s = _
  simp only [execFawnStaging, if_neg awake, due, idle, Option.any_none, Bool.false_eq_true, if_false, entry]
  rfl

end

/-- A parcel's class becomes PENDING in its entry, and its record is counted (R17, R502). -/
theorem fawnStaging_shows {s : State} {line id c : Nat} {q : Parcel} (hl : line < 4) (hid : id < 65536) (hc : c < 16)
    (runs : islandRuns s = true) (sound : s.on pgSaf R.fault = false) (due : parcelOf s line (fun q => q.cls.isSome) = some q)
    (idle : s.fawnRun = none) (cls : q.cls = some c) (entry : parcelEntry s q = some id) (waits : (s.entry id).st = vAnnounced)
    (good : (s.entry id).poisoned = false) (quiet : injectNow s pgFab 12 = false)
    (granted : judge s tagIsland opWrite (vtBase + 4 * id) 4 = .pass) (aligned : s.rd pgSaf R.fResBase line % 64 = 0)
    (svm : targetOf (s.rd pgSaf R.fResBase line + 64 * (s.rd pgSaf R.fResIdx line % 256)) = .svm) :
    ∃ t, exec (.fawnStaging line) s = .next t ∧ (t.entry id).st = vPending ∧ (t.entry id).dim = c ∧ (t.entry id).fawn = some c ∧
      (t.entry id).lane = 0xFF ∧ (t.entry id).seq = ((s.entry id).seq + 1) % 16 ∧ (∀ k, k ≠ id → t.entry k = s.entry k) ∧
      t.rd pgSaf R.fResIdx line = (s.rd pgSaf R.fResIdx line + 1) % 2 ^ R.fResIdx.w ∧
      t.parcels = (parcelStaged s q).parcels := by
  obtain ⟨flags, own, step⟩ := exec_fawnStaging_entry hl runs sound due idle entry
  have other : (s.entry id).st ≠ (pendingEntry (s.entry id) c).st := by rw [waits]; exact (show vAnnounced ≠ vPending by decide)
  rw [cls, Option.getD_some, islandStage_pending hid hc sound good quiet waits granted] at step
  have here := entry_chgEntry_st other
  have elsewhere (k : Nat) (hk : k ≠ id) : (s.chgEntry id (pendingEntry (s.entry id) c)).entry k = s.entry k := entry_chgEntry_ne hk
  have regs : (s.chgEntry id (pendingEntry (s.entry id) c)).regs = s.regs := chgEntry_part State.regs fun _ => rfl
  have parcels : (s.chgEntry id (pendingEntry (s.entry id) c)).parcels = s.parcels := chgEntry_part State.parcels fun _ => rfl
  generalize s.chgEntry id (pendingEntry (s.entry id) c) = u at *
  have rd (f : Fld) (i : Nat) : u.rd pgSaf f i = s.rd pgSaf f i := rd_of_regs regs
  obtain ⟨vt, idx, done⟩ := recordStaged_shows (s := u) hl (q := q) (id := own) (flags := flags) (by rw [rd]; exact aligned)
    (by rw [rd, rd]; exact svm)
  have mine := (entry_of_vt vt id).trans here
  refine ⟨_, step, congrArg Entry.st mine, congrArg Entry.dim mine, congrArg Entry.fawn mine, congrArg Entry.lane mine,
    congrArg Entry.seq mine, fun k hk => (entry_of_vt vt k).trans (elsewhere k hk), ?_, done.trans (parcelStaged_parcels parcels q)⟩
  rw [idx, rd]

/-! ### Frame pairs -/

theorem fawnSte_slot : nSlots pgSte1 - 1 = 3 := by decide

/-- A Fawn job waits in the reserved slot (R125, R499). -/
theorem fawnEnqueue_shows (s : State) (ptr : Nat) : (fawnEnqueue s pgSte1 ptr).slotSt pgSte1 (nSlots pgSte1 - 1) = slQueued ∧
    (fawnEnqueue s pgSte1 ptr).job pgSte1 (nSlots pgSte1 - 1) = some { ptr := ptr, part := 0, sc := 3, order := s.jobSeq } ∧
    (fawnEnqueue s pgSte1 ptr).fawnEnds = s.fawnEnds ∧ (fawnEnqueue s pgSte1 ptr).mem = s.mem := by
  have place := slotState_pos pgSte1 (nSlots pgSte1 - 1)
  unfold fawnEnqueue enqueue
  extract_lets n u v
  have kept {α : Type} (g : State → α) (hg : ∀ (w : State) r, g { w with regs := r } = g w) :
      g ((v.setSlot pgSte1 n slQueued).settle pgSte1 true) = g v :=
    ((onlyRegs_settle ..).part g (hg _ _)).trans (hg _ _)
  refine ⟨?_, ?_, kept State.fawnEnds fun _ _ => rfl, kept State.mem fun _ _ => rfl⟩
  · refine (settle_rd (by rw [place]; decide)).trans ((State.rd_wr_same ..).trans ?_)
    rw [slotF_w]
    rfl
  · exact (kept (fun w => w.job pgSte1 n) fun _ _ => rfl).trans (sfind_sput_same ..)

/-- The island remembers the pair (R499). -/
def pairKept (s : State) (r : FawnRun) : State := { s with fawnRun := some r }

theorem pairKept_shows (s : State) (r : FawnRun) : (pairKept s r).regs = s.regs ∧ (pairKept s r).jobs = s.jobs ∧
    (pairKept s r).fawnEnds = s.fawnEnds ∧ (pairKept s r).mem = s.mem ∧ (pairKept s r).fawnRun = some r := ⟨rfl, rfl, rfl, rfl, rfl⟩

/-- How the page's latest Fawn job ended is forgotten. -/
def endForgotten (s : State) : State := { s with fawnEnds := serase s.fawnEnds pgSte1 }

theorem endForgotten_shows (s : State) : (endForgotten s).fawnEnds = serase s.fawnEnds pgSte1 ∧ (endForgotten s).mem = s.mem ∧
    (endForgotten s).jobSeq = s.jobSeq := ⟨rfl, rfl, rfl⟩

/-- The job of a pair that is taken, and what the island remembers of it (R499). -/
def pairTaken (s : State) (ptr : Nat) (r : FawnRun) : State := pairKept (fawnEnqueue (endForgotten s) pgSte1 ptr) r

theorem pairTaken_shows (s : State) (ptr : Nat) (r : FawnRun) : (pairTaken s ptr r).slotSt pgSte1 (nSlots pgSte1 - 1) = slQueued ∧
    (pairTaken s ptr r).job pgSte1 (nSlots pgSte1 - 1) = some { ptr := ptr, part := 0, sc := 3, order := s.jobSeq } ∧
    sfind (pairTaken s ptr r).fawnEnds pgSte1 = none ∧ (pairTaken s ptr r).mem = s.mem ∧ (pairTaken s ptr r).fawnRun = some r := by
  obtain ⟨forgotten, mem, seq⟩ := endForgotten_shows s
  obtain ⟨slot, job, ends, mem'⟩ := fawnEnqueue_shows (endForgotten s) ptr
  obtain ⟨regs, jobs, ends', mem'', run⟩ := pairKept_shows (fawnEnqueue (endForgotten s) pgSte1 ptr) r
  refine ⟨(rd_of_regs regs).trans slot, (congrArg (sfind · (jobKey pgSte1 (nSlots pgSte1 - 1))) jobs).trans (seq ▸ job), ?_,
    mem''.trans (mem'.trans mem), run⟩
  rw [show (pairTaken s ptr r).fawnEnds = serase s.fawnEnds pgSte1 from ends'.trans (ends.trans forgotten)]
  exact sfind_serase_same ..

section
variable {s : State} {line pair left right : Nat} (runs : islandRuns s = true) (sound : s.on pgSaf R.fault = false)
include runs sound

theorem fawnFramePair_awake : ¬ (islandRuns s = false ∨ s.on pgSaf R.fault = true) := by
  rw [runs, sound]
  decide

/-- FAWN_FRAME_PAIR with no pair in progress takes one of an enabled line (R499). -/
theorem exec_fawnFramePair_start (idle : s.fawnRun = none) (hl : line < 4) (hp : pair < 8) (enabled : s.on pgSaf R.fawnEn line = true)
    (paired : bitOf (s.rd pgSaf R.fawnPairs line) pair = true) (free : fawnFree s pgSte1 = true) :
    exec (.fawnFramePair line pair left right) s = .next (fawnStart s line pair left right) := by
  have takes : ¬ (4 ≤ line ∨ s.on pgSaf R.fawnEn line = false ∨ bitOf (s.rd pgSaf R.fawnPairs line) pair = false ∨
      8 ≤ pair ∨ fawnFree s pgSte1 = false) := by
    rw [enabled, paired, free]
    simp only [Bool.true_eq_false, false_or, or_false]
    omega
  show execFawnFramePair line pair left right s = _
  simp only [execFawnFramePair, if_neg (fawnFramePair_awake runs sound), idle, if_neg takes]

section
variable {r : FawnRun} (busy : s.fawnRun = some r) (same : r.line = line) (same' : r.pair = pair)
include busy same same'

/-- FAWN_FRAME_PAIR of the pair in progress, whose depth job has ended (R499). -/
theorem exec_fawnFramePair_match {st : Nat} (fresh : r.st = 0) (ended : sfind s.fawnEnds pgSte1 = some st) :
    exec (.fawnFramePair line pair left right) s = .next (fawnMatch s r st) := by
  have here : ¬ (r.line ≠ line ∨ r.pair ≠ pair) := by simp [same, same']
  show execFawnFramePair line pair left right s = _
  simp only [execFawnFramePair, if_neg (fawnFramePair_awake runs sound), busy, if_neg here, fresh, if_true, ended]

/-- FAWN_FRAME_PAIR of a matched pair goes on to its next map job (R499). -/
theorem exec_fawnFramePair_merge (going : r.st ≠ 0) (free : fawnFree s pgHmp0 = true) :
    exec (.fawnFramePair line pair left right) s = .next (fawnMerge s r) := by
  have here : ¬ (r.line ≠ line ∨ r.pair ≠ pair) := by simp [same, same']
  show execFawnFramePair line pair left right s = _
  simp only [execFawnFramePair, if_neg (fawnFramePair_awake runs sound), busy, if_neg here, if_neg going, if_pos free]

end

end

/-- Two frames whose headers are read in time start their depth job (R499). -/
theorem fawnStart_taken {s s1 s2 s3 : State} {line pair left right kl kr : Nat} {hl hr : List Byte}
    (streamL : pairStream s line pair false = some kl) (streamR : pairStream s line pair true = some kr)
    (readL : readOnce s tagIsland pgSaf (fawnSlot s kl left) 64 = (hl, false, s1))
    (readR : readOnce s1 tagIsland pgSaf (fawnSlot s kr right) 64 = (hr, false, s2))
    (near : max (quadAt hl 8) (quadAt hr 8) - min (quadAt hl 8) (quadAt hr 8) ≤ 100000)
    (fits : fawnPitch (cdiv (wordAt hl 0x24 % 65536) 2) * cdiv (wordAt hl 0x24 / 65536) 2 ≤ 0x7F0000)
    (wrote : writeOnce s2 tagIsland pgSaf (fawnSteDesc s2 line) (fawnSteBytes s2 line kl (fawnSlot s kl left) (fawnSlot s kr right)
      (wordAt hl 0x24 % 65536) (wordAt hl 0x24 / 65536)) = (false, s3)) :
    fawnStart s line pair left right = pairTaken s3 (fawnSteDesc s2 line)
      { line := line, pair := pair, left := fawnSlot s kl left, right := fawnSlot s kr right,
        cntL := wordAt hl 0, cntR := wordAt hr 0, enc := wordAt hl 0x18,
        w := cdiv (wordAt hl 0x24 % 65536) 2, h := cdiv (wordAt hl 0x24 / 65536) 2 } := by
  have taken : ¬ (100000 < max (quadAt hl 8) (quadAt hr 8) - min (quadAt hl 8) (quadAt hr 8) ∨
      0x7F0000 < fawnPitch (cdiv (wordAt hl 0x24 % 65536) 2) * cdiv (wordAt hl 0x24 / 65536) 2) := by omega
  unfold fawnStart
  simp only [streamL, streamR, fawnHeader, readL, readR, Bool.false_eq_true, if_false, if_neg taken, fawnJob, wrote, if_true]
  rfl

/-! ### The statement -/

/-- Settles O55: a pair through its headers and its job's end, an evaluation through its grid, and a staging through its word and its record. -/
theorem fawnPipeline : Obligations.FawnPipeline := by
  unfold Obligations.FawnPipeline
  refine ⟨fun line pair left right r st => ⟨?_, ?_, ?_⟩, fun line bad q hl => ⟨?_, ?_, ?_, ?_, ?_, ?_⟩⟩
  · intro s s1 s2 s3 kl kr hl hr runs sound idle hline hp enabled paired free streamL streamR readL readR near fits wrote
    have step := exec_fawnFramePair_start (left := left) (right := right) runs sound idle hline hp enabled paired free
    rw [fawnStart_taken streamL streamR readL readR near fits wrote] at step
    exact ⟨_, step, pairTaken_shows ..⟩
  · rintro s ⟨runs, sound, busy, same, same', fresh, ended⟩
    exact exec_fawnFramePair_match runs sound busy same same' fresh ended
  · rintro s ⟨runs, sound, busy, same, same', going, free⟩
    exact exec_fawnFramePair_merge runs sound busy same same' going free
  · rintro s ⟨runs, sound, enabled, due⟩
    rw [exec_fawnEvaluation hl runs sound due, if_neg (by rw [enabled]; decide)]
  · rintro s ⟨runs, sound, enabled, none, due⟩
    have step := exec_fawnEvaluation (bad := false) hl runs sound due
    rw [if_neg (by rw [enabled]; decide), fawnEvaluate_gridless none] at step
    have read := aloof_fawnScale s line
    refine ⟨_, step, bitOf_pageErr_raise _ _ (by decide), ?_, ?_, ?_⟩
    · exact ((flags_raise ..).part State.mem).trans read.mem
    · exact ((flags_raise ..).part State.vt).trans read.vt
    · refine ((flags_raise ..).part State.parcels).trans ?_
      unfold modParcel
      dsimp only
      rw [read.parcels, read.time]
  · intro s s1 s2 scale g v lp lpmm hf lf wf runs sound enabled due scaled grid begun span fits seen
    rw [exec_fawnEvaluation hl runs sound due, if_neg (by rw [enabled]; decide),
      fawnEvaluate_class scaled grid begun span fits seen rfl rfl rfl]
  · rintro s ⟨runs, sound, disabled, due⟩
    rw [exec_fawnEvaluation hl runs sound due, if_pos disabled]
  · rintro id c hc hid s ⟨runs, sound, due, idle, cls, entry, waits, good, quiet, granted, aligned, svm⟩
    exact fawnStaging_shows hl hid hc runs sound due idle cls entry waits good quiet granted aligned svm
  · rintro s ⟨runs, sound, due, idle, entry⟩
    exact exec_fawnStaging_none hl runs sound due idle entry

end Sys2Proof.Machine
end

section
/-! PROOFS. What an access to memory leaves of the pipes' runs: rules that go along the text of an operation, as those of `Keeps`. -/
namespace Sys2Proof.Machine
set_option Elab.async false
open Sys2Proof

/-- The runs of the image pipes are as before. -/
def SameRuns (s t : State) : Prop := t.ispRuns = s.ispRuns

variable {s u : State}

protected theorem SameRuns.rfl : SameRuns s s := Eq.refl _

theorem SameRuns.ite {c : Prop} [Decidable c] {t : State} (h : SameRuns s u) (k : SameRuns s t) : SameRuns s (if c then u else t) := by
  split
  · exact h
  · exact k

/-- An update of other fields of the state: the runs are written out, so that a goal `SameRuns s {u with …}` matches. -/
theorem SameRuns.upd (h : SameRuns s u)
    {pending time regs mem freeCtr snaps holds logQ logSeq lostRecs doubtQ conts notice denials reports sems semOwner fns outs
    reply vt parcels txns dedups seqs eccBad poisoned injections faultTime fbCauseTime fbSleep fbAllRaised confE
    encHist jobs toRuns intakes graphs cores tcm tcmBad ispCtxs tones jobSeq served current lbs elig mons
    planes pushes transits chans smvServed pqs prgs invals semIfs wds qps rereads tears linkInc pins encPos tgs
    pwms uarts i3cs vpLast disp dp fawnEnds isl fawnRun unfence attests load fuses rotpk blowTo tap trace pw rst fencedReset
    filled} :
    SameRuns s
      ⟨pending, time, regs, mem, freeCtr, snaps, holds, logQ, logSeq, lostRecs, doubtQ, conts, notice, denials, reports, sems,
      semOwner, fns, outs, reply, vt, parcels, txns, dedups, seqs, eccBad, poisoned, injections, faultTime, fbCauseTime, fbSleep,
      fbAllRaised, confE, encHist, jobs, toRuns, intakes, graphs, cores, tcm, tcmBad, ispCtxs, u.ispRuns, tones, jobSeq, served,
      current, lbs, elig, mons, planes, pushes, transits, chans, smvServed, pqs, prgs, invals, semIfs, wds, qps, rereads, tears,
      linkInc, pins, encPos, tgs, pwms, uarts, i3cs, vpLast, disp, dp, fawnEnds, isl, fawnRun, unfence, attests, load, fuses,
      rotpk, blowTo, tap, trace, pw, rst, fencedReset, filled⟩ := h

/-- The state in an answer that a case split has taken apart. -/
theorem SameRuns.got {α : Type} {x : α × State} {a : α} {t : State} (h : SameRuns s x.2) (e : x = (a, t) := by assumption) :
    SameRuns s t := by
  subst e; exact h

theorem SameRuns.got₂ {α β : Type} {x : α × β × State} {a : α} {b : β} {t : State} (h : SameRuns s x.2.2)
    (e : x = (a, b, t) := by assumption) : SameRuns s t := by
  subst e; exact h

theorem SameRuns.folded {α : Type} {f : State → α → State} {l : List α} (h : SameRuns s u)
    (hf : ∀ v a, SameRuns s v → SameRuns s (f v a)) : SameRuns s (l.foldl f u) :=
  foldl_keeps (SameRuns s) l (fun v a _ => hf v a) h

/-! ### The shared operations -/

section
variable (h : SameRuns s u)
include h

theorem SameRuns.flags {t : State} (k : Flags u t) : SameRuns s t := (k.part State.ispRuns).trans h
theorem SameRuns.marks {t : State} (k : Marks u t) : SameRuns s t := (k.part State.ispRuns).trans h
protected theorem SameRuns.wr {p : Nat} {f : Fld} {v i : Nat} : SameRuns s (u.wr p f v i) := h
protected theorem SameRuns.wrBit {p : Nat} {f : Fld} {b : Nat} {v : Bool} {i : Nat} : SameRuns s (u.wrBit p f b v i) := h
protected theorem SameRuns.free {w : Nat} : SameRuns s (u.free w).2 := h
protected theorem SameRuns.doubt {sc : Scope} {inc : Nat} {cont : Bool} : SameRuns s (u.doubt sc inc cont) := h
protected theorem SameRuns.doubtInj {p b : Nat} : SameRuns s (u.doubtInj p b) := h
protected theorem SameRuns.putEntry {id : Nat} {e : Entry} : SameRuns s (u.putEntry id e) := h
protected theorem SameRuns.putTxn {init tid : Nat} {x : Txn} : SameRuns s (u.putTxn init tid x) := h
protected theorem SameRuns.freeBytes {n : Nat} : SameRuns s (u.freeBytes n).2 := h
protected theorem SameRuns.store {a : Nat} {bs : List Byte} : SameRuns s (u.store a bs) := h
protected theorem SameRuns.bump {p : Nat} {f : Fld} {n i : Nat} : SameRuns s (u.bump p f n i) := h
protected theorem SameRuns.perf {p code n : Nat} : SameRuns s (u.perf p code n) := h.flags (flags_perf ..)
protected theorem SameRuns.raise {p b : Nat} : SameRuns s (u.raise p b) := h.flags (flags_raise ..)
protected theorem SameRuns.raiseI {p b : Nat} {inj : Bool} : SameRuns s (u.raiseI p b inj) := h.flags (flags_raiseI ..)
protected theorem SameRuns.hit {p b : Nat} {real : Bool} : SameRuns s (u.hit p b real).2.2 := h.flags (flags_hit ..)
protected theorem SameRuns.logI {inc : Nat} {r : LogRec} : SameRuns s (u.logI inc r).2 := h.marks (marks_logI ..)
protected theorem SameRuns.log {r : LogRec} {inc : Nat} : SameRuns s (u.log r inc) := h.logI
protected theorem SameRuns.noticeOn {p : Nat} : SameRuns s (u.noticeOn p) :=
  (noticeOn_part State.ispRuns u p (fun _ _ => rfl) fun _ => rfl).trans h
protected theorem SameRuns.debugTouch : SameRuns s (debugTouch u) := ((onlyRegs_debugTouch u).part State.ispRuns).trans h

/-! ### The firewall -/

protected theorem SameRuns.denialI {t : Tag} {op kind fw a inc : Nat} : SameRuns s (denialI u t op kind fw a inc).2 := by
  unfold denialI
  extract_lets v w x key
  have shown : SameRuns s x := h.bump.raise.wr.wr.wr.wr.wr.wr.wr.wr
  split
  · split
    · exact shown.upd
    · exact shown.bump.logI.upd
  · exact shown.logI.upd

protected theorem SameRuns.refuse {t : Tag} {op a : Nat} {v : Verdict} {inc : Nat} : SameRuns s (refuse u t op a v inc).2 := by
  cases v with
  | pass => exact h
  | noBme => exact h
  | reserved => exact h.denialI
  | deny f => exact h.denialI
  | notReady => exact h.bump.raise.denialI

protected theorem SameRuns.raiseFault {cause inc : Nat} {inj : Bool} : SameRuns s (raiseFault u cause inc inj) :=
  h.log.ite h.log.wr.wr.wr.upd

protected theorem SameRuns.disagree {t : Tag} {op a inc : Nat} {inj : Bool} : SameRuns s (disagree u t op a inc inj).2 :=
  h.denialI.raiseI.doubtInj.ite h.denialI.raiseI.raiseFault

protected theorem SameRuns.passes {t : Tag} {op a n : Nat} {clash : Bool} {inc : Nat} : SameRuns s (passes u t op a n clash inc).2.2 := by
  unfold passes
  split
  · exact h.refuse
  · rcases found : u.hit pgFab 12 clash with ⟨bad, inj, t'⟩
    have here : SameRuns s t' := h.hit.got₂ found
    dsimp only
    split
    · exact here.disagree
    · split
      · exact here
      · exact here.refuse

/-! ### The verdict table -/

protected theorem SameRuns.chgEntry {id : Nat} {e : Entry} : SameRuns s (u.chgEntry id e) :=
  (chgEntry_part State.ispRuns fun _ => rfl).trans h

protected theorem SameRuns.acceptFinal {id : Nat} {e : Entry} {lane dim flags : Nat} : SameRuns s (acceptFinal u id e lane dim flags) :=
  h.chgEntry.ite (h.chgEntry.ite h.bump.putEntry)

protected theorem SameRuns.stage {t : Tag} {id word : Nat} : SameRuns s (stage u t id word) :=
  h.chgEntry.ite (h.acceptFinal.ite (h.chgEntry.ite h.bump))

protected theorem SameRuns.islandFallback {id : Nat} : SameRuns s (islandFallback u id) :=
  h.ite (h.passes.stage.ite h.passes.raiseFault)

protected theorem SameRuns.moveOpen {l : Nat} {finals : Bool} : SameRuns s (moveOpen u l finals) :=
  .folded h fun _ _ k => k.islandFallback

protected theorem SameRuns.raiseFallbackAll {finals : Bool} : SameRuns s (raiseFallbackAll u finals) :=
  .folded h.upd.wr fun _ _ k => k.moveOpen

protected theorem SameRuns.raiseFallback {ls : List Nat} {finals : Bool} : SameRuns s (raiseFallback u ls finals) :=
  .ite h.raiseFallbackAll (.folded h.upd fun _ _ k => k.wrBit.moveOpen)

/-! ### Fencing -/

protected theorem SameRuns.fenceJobs {p : Nat} : SameRuns s (fenceJobs u p) := by
  unfold fenceJobs
  refine .folded h fun v n k => ?_
  split
  · exact k.wr.upd.ite k
  · exact k

protected theorem SameRuns.noPipes : SameRuns s (noPipes u) := .folded h fun _ _ k => k.raise.ite k

protected theorem SameRuns.fenceEffects {p inc : Nat} {finals : Bool} : SameRuns s (fenceEffects u p inc finals) := by
  unfold fenceEffects
  split
  case h_1 => exact h.raiseFault
  case h_2 => exact h.raiseFault
  case h_3 => exact h.raiseFallbackAll
  case h_4 => exact h.raiseFault.ite h.raiseFallback
  case h_5 => exact h.raiseFault.ite h.raiseFallback
  case h_16 => exact h
  all_goals exact h.raiseFallback

protected theorem SameRuns.fencePage {p inc : Nat} {checker : Bool} : SameRuns s (fencePage u p inc checker) :=
  h.ite h.log.wr.fenceJobs.noPipes.fenceEffects

/-! ### Memory -/

protected theorem SameRuns.eccDoubt {t : Tag} {inc : Nat} : SameRuns s (eccDoubt u t inc) := h.ite (h.doubt.ite h.doubt)

protected theorem SameRuns.svmCorr {t : Tag} {a : Nat} {vt : Bool} : SameRuns s (svmCorr u t a vt) := by
  unfold svmCorr
  dsimp only
  exact (h.bump.raise.raise.ite h.bump.raise).free.wr.wr.wr.wr.noticeOn

protected theorem SameRuns.svmUncorr {t : Tag} {a : Nat} {vt : Bool} {inc : Nat} : SameRuns s (svmUncorr u t a vt inc).2 := by
  unfold svmUncorr
  exact (h.bump.raise.raise.ite h.bump.raise).free.wr.wr.wr.wr.logI.eccDoubt

protected theorem SameRuns.extTransient {t : Tag} {a inc : Nat} : SameRuns s (extTransient u t a inc) := h.bump.wr.log.noticeOn

protected theorem SameRuns.extCorr {t : Tag} {a : Nat} : SameRuns s (extCorr u t a) := h.bump.raise.wr.noticeOn

protected theorem SameRuns.extPoison {t : Tag} {a inc : Nat} : SameRuns s (extPoison u t a inc).2 :=
  h.bump.raise.wr.logI.eccDoubt.ite (h.bump.raise.wr.logI.eccDoubt.upd.wr.ite h.bump.raise.wr.logI.eccDoubt.raise.log.fencePage)

protected theorem SameRuns.extListed {t : Tag} {a : Nat} {q : Poison} {inc : Nat} : SameRuns s (extListed u t a q inc).2 := by
  unfold extListed
  extract_lets p line v recent
  have counted : SameRuns s v := h.bump.raise
  cases recent
  · exact counted.logI.upd.eccDoubt
  · exact counted.upd.eccDoubt

protected theorem SameRuns.serveRead {t : Tag} {a n : Nat} {e : Ecc} {host : Cells} {inc : Nat} :
    SameRuns s (serveRead u t a n e host inc).2 := by
  unfold serveRead
  split
  · split
    · exact h.svmUncorr.ite h.svmUncorr.upd
    · exact h.ite h.svmCorr
  · split
    · exact h.svmUncorr.ite h.svmUncorr.putEntry
    · exact h.ite h.svmCorr
  · split
    · exact h.extListed
    · split
      · exact h
      · exact h.extCorr
      · exact h.extTransient
      · exact h.extTransient
      · exact h.extPoison
  · exact h
  · exact h

protected theorem SameRuns.svmStore {a : Nat} {bs : List Byte} : SameRuns s (svmStore u a bs) := h

protected theorem SameRuns.svmReadPart {t : Tag} {a n : Nat} {e : Ecc} : SameRuns s (svmReadPart u t a n e) := by
  unfold svmReadPart
  split
  · exact h
  · exact h.ite (h.upd.ite h.svmCorr)

protected theorem SameRuns.vtReadPart {t : Tag} {a n : Nat} {e : Ecc} : SameRuns s (vtReadPart u t a n e) := by
  unfold vtReadPart
  split
  · exact h
  · exact h.ite (h.putEntry.ite h.svmCorr)

protected theorem SameRuns.extLine {t : Tag} {a : Nat} {bs : List Byte} {e : Ecc} {inc : Nat} :
    SameRuns s (extLine u t a bs e inc).2 := by
  unfold extLine
  dsimp only
  split
  · exact h.store.upd.wr
  · split
    · exact h.extListed
    · exact h.extPoison
    · exact h.extCorr.store
    · exact h.extTransient.store
    · exact h.extTransient.store
    · exact h.store

protected theorem SameRuns.extWrite {t : Tag} {a : Nat} {bs : List Byte} {e : Ecc} {inc : Nat} :
    SameRuns s (extWrite u t a bs e inc).2 := by
  unfold extWrite
  refine List.foldlRecOn (motive := fun x : FabResp × State => SameRuns s x.2) _ _ h ?_
  rintro ⟨r, v⟩ k ⟨x, i⟩ -
  dsimp only
  split
  · exact k.extLine.got
  · exact k.extLine.got

protected theorem SameRuns.serveWrite {t : Tag} {a : Nat} {bs : List Byte} {e : Ecc} {inc : Nat} :
    SameRuns s (serveWrite u t a bs e inc).2 := by
  unfold serveWrite
  dsimp only
  split
  · split
    · exact h.svmReadPart.svmStore.svmUncorr
    · exact h.svmReadPart.svmStore
  · split
    · exact .svmUncorr (.folded h.vtReadPart fun _ _ k => k.stage)
    · exact .folded h.vtReadPart fun _ _ k => k.stage
  · exact h.extWrite
  · exact h.store
  · exact h

protected theorem SameRuns.fabRead {t : Tag} {a n : Nat} {e : Ecc} {host : Cells} {clash : Bool} {inc : Nat} :
    SameRuns s (fabRead u t a n e host clash inc).2 := by
  unfold fabRead
  split
  · exact h.passes.got₂.serveRead
  · exact h.passes.got₂

protected theorem SameRuns.fabWrite {t : Tag} {a : Nat} {bs : List Byte} {e : Ecc} {clash : Bool} {inc : Nat} :
    SameRuns s (fabWrite u t a bs e clash inc).2 := by
  unfold fabWrite
  split
  · exact (h.debugTouch.ite h).passes.got₂.serveWrite
  · exact (h.debugTouch.ite h).passes.got₂

/-! ### Transactions -/

protected theorem SameRuns.portHeld {init inc : Nat} : SameRuns s (portHeld u init inc) := by
  unfold portHeld
  split
  · split
    · exact h.fencePage
    · exact h
  · exact h

protected theorem SameRuns.expire {init tid : Nat} {x : Txn} : SameRuns s (expire u init tid x).2 :=
  (h.logI.bump.bump.raise.upd.ite h.logI.bump).putTxn.raise.portHeld.ite
    (h.logI.bump.bump.raise.upd.ite h.logI.bump).putTxn

protected theorem SameRuns.tryRead {t : Tag} {a n : Nat} {r : Resp} {host : Cells} {inc : Nat} :
    SameRuns s (tryRead u t a n r host inc).2 := by
  unfold tryRead
  split
  · exact h
  · split
    · split
      · exact h.passes.got₂.expire
      · exact h.passes.got₂
    · exact h.fabRead

protected theorem SameRuns.tryWrite {t : Tag} {a : Nat} {bs : List Byte} {r : Resp} {inc : Nat} :
    SameRuns s (tryWrite u t a bs r inc).2 := by
  unfold tryWrite
  split
  · exact h
  · split
    · exact h.fabWrite.got
    · split
      · exact h.fabWrite.got.expire
      · exact h.fabWrite.got

protected theorem SameRuns.perfRd {page : Nat} {ok : Bool} : SameRuns s (perfRd u page ok) := h.perf.perf.ite h.perf

protected theorem SameRuns.writeOnce {t : Tag} {page a : Nat} {bs : List Byte} {x : Spot} :
    SameRuns s (writeOnce u t page a bs x).2 := by
  unfold writeOnce
  refine List.foldlRecOn (motive := fun y : Bool × State => SameRuns s y.2) _ _ h ?_
  rintro ⟨bad, v⟩ k ⟨y, n⟩ -
  dsimp only
  split
  · exact k.tryWrite.got.perf.perf
  · exact k.tryWrite.got.perf.perf

protected theorem SameRuns.readOnce {t : Tag} {page a n : Nat} {x : Spot} : SameRuns s (readOnce u t page a n x).2.2 := by
  unfold readOnce
  refine List.foldlRecOn (motive := fun y : List Byte × Bool × State => SameRuns s y.2.2) _ _ h ?_
  rintro ⟨acc, bad, v⟩ k ⟨y, m⟩ -
  dsimp only
  split
  · dsimp only
    exact k.tryRead.got.perfRd
  · dsimp only
    exact k.tryRead.got.freeBytes.perfRd

end

end Sys2Proof.Machine
end

section
/-! PROOFS. Image pipes and contexts (R94, R99, R111 to R113, R118 to R120). -/
namespace Sys2Proof.Machine
set_option Elab.async false
open Sys2Proof

/-! ### A run while its frame is processed -/

/-- Each run stays in its pipe, with its stream and its slot. -/
def RunStays (s t : State) : Prop := ∀ pipe r, sfind s.ispRuns pipe = some r →
  ∃ r', sfind t.ispRuns pipe = some r' ∧ r'.stream = r.stream ∧ r'.slot = r.slot

section
variable {s u t : State}

theorem RunStays.refl (s : State) : RunStays s s := fun _ r found => ⟨r, found, rfl, rfl⟩

theorem RunStays.trans (h : RunStays s u) (k : RunStays u t) : RunStays s t := fun pipe r found => by
  obtain ⟨r1, found1, stream1, slot1⟩ := h pipe r found
  obtain ⟨r2, found2, stream2, slot2⟩ := k pipe r1 found1
  exact ⟨r2, found2, stream2.trans stream1, slot2.trans slot1⟩

theorem RunStays.same (h : RunStays s u) (k : SameRuns u t) : RunStays s t :=
  h.trans fun pipe r found => ⟨r, by rw [show t.ispRuns = u.ispRuns from k]; exact found, rfl, rfl⟩

/-- A map that keeps the keys changes the value found. -/
theorem sfind_map_keys {α : Type} {g : Nat × α → Nat × α} (keys : ∀ x, (g x).1 = x.1) (l : List (Nat × α)) (k : Nat) :
    sfind (l.map g) k = (sfind l k).map fun v => (g (k, v)).2 := by
  induction l with
  | nil => rfl
  | cons x l ih =>
    obtain ⟨a, v⟩ := x
    have head : g (a, v) = (a, (g (a, v)).2) := Prod.ext (keys (a, v)) rfl
    rw [List.map_cons, head, sfind, sfind]
    split
    next same => rw [same]; rfl
    next => exact ih

/-- Damage marks a frame's runs (R358). -/
theorem runStays_frameErr (s : State) (k : Nat) (bad : Bool) : RunStays s (frameErr s k bad) := by
  unfold frameErr
  split
  · refine RunStays.same (u := { s with ispRuns := s.ispRuns.map fun r =>
      if r.2.stream = k then (r.1, { r.2 with damaged := true }) else r }) (fun pipe r found => ?_) (SameRuns.rfl.raise)
    refine ⟨_, (sfind_map_keys (fun x => ?_) s.ispRuns pipe).trans (by rw [found]; rfl), ?_⟩
    · split
      · rfl
      · rfl
    · dsimp only
      split
      · exact ⟨rfl, rfl⟩
      · exact ⟨rfl, rfl⟩
  · exact .refl s

theorem RunStays.frameErr (h : RunStays s u) {k : Nat} {bad : Bool} : RunStays s (frameErr u k bad) := h.trans (runStays_frameErr u k bad)

theorem RunStays.readOnce (h : RunStays s u) {t : Tag} {page a n : Nat} {x : Spot} : RunStays s (readOnce u t page a n x).2.2 :=
  h.same SameRuns.rfl.readOnce

theorem RunStays.writeOnce (h : RunStays s u) {t : Tag} {page a : Nat} {bs : List Byte} {x : Spot} :
    RunStays s (writeOnce u t page a bs x).2 :=
  h.same SameRuns.rfl.writeOnce

theorem RunStays.writePlane (h : RunStays s u) {t : Tag} {pipe k : Nat} {sp : Spot} {z : Cells} {a pitch : Nat} {lines : List (List Byte)} :
    RunStays s (writePlane u t pipe k sp z a pitch lines).2 := by
  unfold Machine.writePlane
  refine List.foldlRecOn (motive := fun y : List Byte × State => RunStays s y.2) _ _ h ?_
  rintro ⟨acc, v⟩ kept ⟨l, y⟩ -
  exact kept.writeOnce.frameErr

theorem RunStays.readRows (h : RunStays s u) {t : Tag} {pipe k : Nat} {sp : Spot} {base stride w hgt lines : Nat} :
    RunStays s (readRows u t pipe k sp base stride w hgt lines).2 := by
  unfold Machine.readRows
  refine List.foldlRecOn (motive := fun y : Array Byte × State => RunStays s y.2) _ _ h ?_
  rintro ⟨acc, v⟩ kept y -
  dsimp only
  split
  · exact kept
  · exact kept.readOnce.frameErr

theorem RunStays.writeOutput (h : RunStays s u) {t : Tag} {pipe k : Nat} {sp : Spot} {z : Cells} {st : Stages} {o : Nat} :
    RunStays s (writeOutput u t pipe k sp z st o) := by
  unfold Machine.writeOutput
  refine List.foldlRecOn (motive := RunStays s) _ _ h ?_
  rintro v kept ⟨pl, i⟩ -
  exact kept.writePlane

theorem RunStays.writeTestOutput (h : RunStays s u) {t : Tag} {pipe k : Nat} {sp : Spot} {z : Cells} {st : Stages} {o : Nat} :
    RunStays s (writeTestOutput u t pipe k sp z st o).2 := by
  unfold Machine.writeTestOutput
  refine List.foldlRecOn (motive := fun y : List Byte × State => RunStays s y.2) _ _ h ?_
  rintro ⟨acc, v⟩ kept ⟨pl, i⟩ -
  exact kept.writePlane

theorem RunStays.got {α : Type} {x : α × State} {a : α} (h : RunStays s x.2) (e : x = (a, t) := by assumption) : RunStays s t := by
  subst e; exact h

theorem RunStays.got₂ {α β : Type} {x : α × β × State} {a : α} {b : β} (h : RunStays s x.2.2) (e : x = (a, b, t) := by assumption) :
    RunStays s t := by
  subst e; exact h

/-- Processing a frame leaves every run in its pipe. -/
theorem runStays_ispProcess (s : State) (pipe : Nat) (r : IspRun) (m : IspFind) (z : Cells) : RunStays s (ispProcess s pipe r m z).2.2 := by
  unfold ispProcess
  extract_lets k p t w hgt stride e g tone lines
  split
  next rows u _ =>
    have read : RunStays s u := (RunStays.refl s).readRows.got
    extract_lets st miss v
    have written : RunStays s v := List.foldlRecOn (motive := RunStays s) _ _ read fun _ kept _ _ => kept.writeOutput
    split
    · split
      next area bad x _ =>
        have tested : RunStays s x := written.readOnce.got₂
        extract_lets y st'
        split
        next sigs z' folded =>
          refine RunStays.got (a := sigs) ?_ folded
          refine List.foldlRecOn (motive := fun y : List (Nat × Nat) × State => RunStays s y.2) _ _ tested.frameErr ?_
          rintro ⟨acc, v'⟩ kept o -
          exact kept.writeTestOutput
    · exact written

end

/-! ### A pipe's frame -/

/-- A residue miss that the hit finds, real as it is (R110). -/
theorem hit_real (s : State) (p b : Nat) : (s.hit p b true).1 = true := by
  unfold State.hit
  split
  · rfl
  · rfl

/-- The second attempt is under way in the pipe (R111). -/
theorem retryRun_shows {s t : State} {pipe : Nat} {r : IspRun} (kept : RunStays s t) (found : sfind s.ispRuns pipe = some r) (inj : Bool) :
    ∃ r', sfind (retryRun t pipe inj).ispRuns pipe = some r' ∧ r'.second = true ∧ r'.stream = r.stream ∧ r'.slot = r.slot := by
  obtain ⟨r1, found1, stream, slot⟩ := kept pipe r found
  refine ⟨{ r1 with second := true, inj := inj }, ?_, rfl, stream, slot⟩
  refine (sfind_map_keys (fun x => ?_) t.ispRuns pipe).trans ?_
  · split
    · rfl
    · rfl
  · rw [found1]
    simp

section
variable {s : State} {pipe : Nat} {find : IspFind} {noise : Cells} {r : IspRun} (found : sfind s.ispRuns pipe = some r)
include found

/-- ISP_FRAME_DONE of a first attempt with a miss (R111). -/
theorem ispFrameDone_retries (first : r.second = false) (miss : (ispProcess s pipe r find noise).2.1 = true) :
    ∃ t, exec (.ispFrameDone pipe find noise) s = .next t ∧
      ∃ r', sfind t.ispRuns pipe = some r' ∧ r'.second = true ∧ r'.stream = r.stream ∧ r'.slot = r.slot := by
  have stays := runStays_ispProcess s pipe r find noise
  rcases processed : ispProcess s pipe r find noise with ⟨sigs, m, u⟩
  rw [processed] at miss stays
  obtain rfl : m = true := miss
  rcases hit : u.hit (pgIsp pipe) eResidue true with ⟨bad, inj, v⟩
  obtain rfl : bad = true := by
    have real := hit_real u (pgIsp pipe) eResidue
    rw [hit] at real
    exact real
  have after : SameRuns u v := SameRuns.rfl.hit.got₂ hit
  have step : exec (.ispFrameDone pipe find noise) s = .next (retryRun (((((((v.perf (pgIsp pipe) 0x04).raiseI (pgIsp pipe) eResidue inj).bump
      (pgIsp pipe) R.pipeResMiss).bump (pgIsp pipe) R.pipeRetry).perf (pgIsp pipe) 0x05).perf (pgIsp pipe) 0x0C)) pipe inj) := by
    show execIspFrameDone pipe find noise s = _
    simp only [execIspFrameDone, found, first, Bool.false_eq_true, if_false, processed, hit, if_true]
  exact ⟨_, step, retryRun_shows (stays.same after.perf.raiseI.bump.bump.perf.perf) found inj⟩

section
variable (miss : (ispProcess s pipe r find noise).2.1 = false)
  (quiet : injectNow (ispProcess s pipe r find noise).2.2 (pgIsp pipe) eResidue = false)
include miss quiet

/-- ISP_FRAME_DONE of a first attempt without a miss (R113). -/
theorem exec_ispFrameDone_publish (first : r.second = false) : exec (.ispFrameDone pipe find noise) s = .next (ispPublish
    ((ispProcess s pipe r find noise).2.2.perf (pgIsp pipe) 0x04) pipe r find.spot (ispProcess s pipe r find noise).1 false false) := by
  rcases processed : ispProcess s pipe r find noise with ⟨sigs, m, u⟩
  rw [processed] at miss quiet
  obtain rfl : m = false := miss
  have calm := hit_calm (real := false) quiet
  show execIspFrameDone pipe find noise s = _
  simp only [execIspFrameDone, found, first, Bool.false_eq_true, if_false, processed, calm]

/-- SECOND_ATTEMPT_DONE without a miss (R111). -/
theorem exec_secondAttemptDone_publish (second : r.second = true) : exec (.secondAttemptDone pipe find noise) s = .next (ispPublish
    (ispResidueRec ((ispProcess s pipe r find noise).2.2.perf (pgIsp pipe) 0x04) pipe r 1 r.inj).2 pipe r find.spot
    (ispProcess s pipe r find noise).1 false true) := by
  rcases processed : ispProcess s pipe r find noise with ⟨sigs, m, u⟩
  rw [processed] at miss quiet
  obtain rfl : m = false := miss
  have calm := hit_calm (real := false) quiet
  show execSecondAttemptDone pipe find noise s = _
  simp only [execSecondAttemptDone, found, second, Bool.true_eq_false, Bool.false_eq_true, if_false, processed, calm]

end

end

/-! ### Contexts -/

section
variable {ini : Ini} {k : Nat} (hk : k < 48)
include hk

theorem exec_commit (s : State) : exec (.commit ini k) s = .next (regRow s ini (pgCtx k) 0x100 fun u =>
    if cfaBad u k then u.prog (pgCtx k) else u.wr (pgCtx k) R.ctxCommit 1) :=
  congrArg Host.Outcome.next (if_neg (not_not.mpr hk))

theorem exec_toneWindowWrite {off v : Nat} (aligned : off % 4 = 0) (low : 0x400 ≤ off) (high : off < 0xA40) (s : State) :
    exec (.toneWindowWrite ini k off v) s = .next (regRow s ini (pgCtx k) off fun u =>
      if (toneAt off).isNone then u.raise (pgCtx k) eAccess
      else if u.rd (pgCtx k) R.toneWrBank = ispPar u k R.toneBank 0 then u.prog (pgCtx k)
      else toneStore (toneStore u k (u.rd (pgCtx k) R.toneWrBank) off v) k (u.rd (pgCtx k) R.toneWrBank) (off + 2) (v / 65536)) :=
  congrArg Host.Outcome.next (if_neg (by omega))

theorem exec_ctxEn {on : Bool} (s : State) : exec (.ctxEn ini k on) s = .next (regRow s ini (pgCtx k) 0x100 fun u =>
    if on then
      (if u.on (pgCtx k) R.ctxEn then u.putIspCtx k { u.ispCtx k with pendOff := false }
       else if (outsOf u k).all fun o => outRulesOk u k o then noPipes (u.wr (pgCtx k) R.ctxEn 1)
       else u.prog (pgCtx k))
    else if ctxServed u k then u.putIspCtx k { u.ispCtx k with pendOff := true }
    else u.wr (pgCtx k) R.ctxEn 0) :=
  congrArg Host.Outcome.next (if_neg (not_not.mpr hk))

end

/-! ### The statement -/

/-- Settles O14: a frame's end by its residue check, with each run kept in its pipe while its frame is processed; the contexts' writes by their rules. -/
theorem imagePipes : Obligations.ImagePipes := by
  refine ⟨fun pipe k find noise r hp => ⟨?_, ?_, ?_, ?_⟩, fun ini k off v hk => ⟨?_, ?_, fun aligned low high => ⟨?_, ?_⟩, ?_, ?_, ?_⟩⟩
  · rintro s ⟨working, idle, chosen⟩
    have free : ¬ (¬ pipe < 4 ∨ s.working (pgIsp pipe) = false ∨ (sfind s.ispRuns pipe).isSome = true) := by
      rw [working, idle]
      simp [hp]
    show execIspDispatch pipe s = _
    simp only [execIspDispatch, if_neg free, chosen]
  · rintro s ⟨found, first, miss, quiet⟩
    exact exec_ispFrameDone_publish found miss quiet first
  · rintro s ⟨found, first, miss⟩
    exact ispFrameDone_retries found first miss
  · rintro s ⟨found, second, miss, quiet⟩
    exact exec_secondAttemptDone_publish found miss quiet second
  · exact writes_of (exec_commit hk) fun u good => if_neg (by rw [good]; decide)
  · exact writes_of (exec_commit hk) fun u bad => if_pos bad
  · refine writes_of (exec_toneWindowWrite hk aligned low high) fun u ⟨known, other⟩ => ?_
    rw [if_neg (by rw [Option.isNone_eq_false_iff.mpr known]; decide), if_neg other]
  · refine writes_of (exec_toneWindowWrite hk aligned low high) fun u ⟨known, shown⟩ => ?_
    rw [if_neg (by rw [Option.isNone_eq_false_iff.mpr known]; decide), if_pos shown]
  · refine writes_of (exec_ctxEn hk) fun u ⟨off, rules⟩ => ?_
    rw [if_pos rfl, if_neg (by rw [off]; decide), if_pos rules]
  · refine writes_of (exec_ctxEn hk) fun u idle => ?_
    rw [if_neg (by decide), if_neg (by rw [idle]; decide)]
  · refine writes_of (exec_ctxEn hk) fun u busy => ?_
    rw [if_neg (by decide), if_pos busy]

end Sys2Proof.Machine
end
